-- ==== Sys2Proof/Word.lean ====
section
/-! DEFINITION. The word types of the FZ-960 and the sparse tables that the state is made of.

A `Tab α` is a list of key and value pairs in one canonical form: keys strictly rising and no entry
equal to the value an unlisted key reads as. Memories, register files and the tables of cores and dies
are all tables, so equal contents are equal lists. -/

namespace Sys2Proof

/-- A byte of any store. -/
abbrev Byte := BitVec 8
/-- A lane or uniform register word (R59). -/
abbrev W32 := BitVec 32
/-- A 64-bit value: a pair, a link, an address (R59). -/
abbrev W64 := BitVec 64
/-- A register number field of an instruction word (R101). -/
abbrev Reg := BitVec 7
/-- One bit per lane of a course (R12): bit j is lane j. -/
abbrev LaneMask := BitVec 32

/-- A sparse table: see the header. -/
abbrev Tab (α : Type) := List (Nat × α)

namespace Tab

/-- The entry at key `k`, if the table lists one. -/
def find {α : Type} : Tab α → Nat → Option α
  | [], _ => none
  | (a, v) :: r, k => if k = a then some v else find r k

/-- Put `v` at key `k`, keeping keys rising; an entry there is replaced. -/
def put {α : Type} : Tab α → Nat → α → Tab α
  | [], k, v => [(k, v)]
  | (a, w) :: r, k, v =>
    if k = a then (k, v) :: r
    else if k < a then (k, v) :: (a, w) :: r
    else (a, w) :: put r k v

/-- Remove the entry at key `k`. -/
def erase {α : Type} : Tab α → Nat → Tab α
  | [], _ => []
  | (a, w) :: r, k => if k = a then erase r k else (a, w) :: erase r k

/-- What key `k` holds; `d` is what an unlisted key reads as. -/
def get {α : Type} (d : α) (t : Tab α) (k : Nat) : α := (find t k).getD d

/-- Put `v` at key `k`; putting `d` removes the entry. -/
def set {α : Type} [DecidableEq α] (d : α) (t : Tab α) (k : Nat) (v : α) : Tab α :=
  if v = d then erase t k else put t k v

/-- Every key is above `lo`, keys rise strictly, and no entry holds `d`. -/
def wfFrom {α : Type} [DecidableEq α] (d : α) : Option Nat → Tab α → Bool
  | _, [] => true
  | lo, (a, v) :: r =>
    (match lo with
      | none => true
      | some l => decide (l < a)) && decide (v ≠ d) && wfFrom d (some a) r

/-- The canonical form. -/
def wf {α : Type} [DecidableEq α] (d : α) (t : Tab α) : Bool := wfFrom d none t

end Tab

/-- The lanes whose bit is set, ascending. -/
def lanesOf (m : LaneMask) : List Nat := (List.range 32).filter fun j => m.getLsbD j

/-- The lowest lane of a mask; 32 when it is empty. -/
def lowestLane (m : LaneMask) : Nat := (lanesOf m).headD 32

/-- How many lanes a mask holds. -/
def laneCount (m : LaneMask) : Nat := (lanesOf m).length

/-- The mask of one lane. -/
def laneBit (j : Nat) : LaneMask := BitVec.ofNat 32 (2 ^ j)

end Sys2Proof
end

