-- ==== Sys2Proof/Config.lean ====
section
/-! DEFINITION. What the specification fixes for every FZ-960 (plain numbers) and what it leaves open
(constants with no body: free values, log entry 2).

A free value is an opaque function applied to the state's counter `State.freeCtr`, or to the operands it
depends on. No proof can see a value of one. -/

namespace Sys2Proof.Config

/-- H of R42: the pause horizon in cycles. -/
def horizon : Nat := 32
/-- Cycles from the clearing of the last cause to the restart (R44). -/
def resumeCycles : Nat := 24
/-- Cores per die (R1): 4 quadrants of 84. -/
def coresPerDie : Nat := 336
/-- Cores per quadrant (R1). -/
def coresPerQuad : Nat := 84
/-- Bytes of DRAM per die: 96 GiB (R1). -/
def dieDram : Nat := 96 * 2 ^ 30
/-- Key distance between the DRAMs of two dies in the model's `dram` table. -/
def dramSpan : Nat := 2 ^ 37
/-- Key distances between two cores in the `ts`, `acc` and `trn` tables (R1). -/
def tsSpan : Nat := 2 ^ 19
def accSpan : Nat := 2 ^ 20
def trnSpan : Nat := 2 ^ 22
/-- Key distance between two modules' host links in the `hostMem` table. -/
def hostSpan : Nat := 2 ^ 64
/-- The feature word every FZ-960 offers (R362). -/
def fOffer : W32 := 0x3FF
/-- Cycles of a scheduling round (R297). -/
def roundCycles : Nat := 9400
/-- The drift unit's first RATE (R341). -/
def firstRate : W32 := 0x00029F17
/-- The largest RATE (R343). -/
def maxRate : W32 := 0x00080000
/-- Landing buffer bytes per core (R48). -/
def landingBytes : Nat := 65536
/-- Records of a core's fault queue (R324). -/
def faultQueue : Nat := 16
/-- Accesses a core may have outstanding (R331). -/
def operandLog : Nat := 65536
/-- Entries of the monitor table of a die (R1, R205). -/
def monitorTable : Nat := 256
/-- L1 TLB and memory-side TLB entries (R314, R315). -/
def l1Tlb : Nat := 128
def memTlb : Nat := 16384
/-- Bytes of a core's operand log (R330, R331). -/
def logBytes : Nat := 48 * operandLog
/-- Staging area of a block in bytes (R256). -/
def stagingBytes : Nat := 65536
/-- Outbound messages the firmware holds (R364). -/
def outboundMax : Nat := 256
/-- What the host finds when it enumerates the device, and the limits of its link's packets in bytes (R359). -/
def deviceId : Nat := 0x0960
def classCode : Nat := 0x120000
def maxPayload : Nat := 512
def maxReadRequest : Nat := 4096

/-- Real cycles that an action takes whose duration the specification leaves open (free value). -/
opaque realDelay : Nat → Nat
/-- What a byte holds whose contents the specification calls undefined (free value). -/
opaque freeByte : Nat → Byte
/-- The partial sum an undervolted slice delivers for the true sum given, in place `n` of the run
(R88; free value, the combiner of R86 still bounds it). -/
opaque railValue : Nat → Nat → Nat
/-- The victim a full TLB replaces (R314; free value). -/
opaque tlbVictim : Nat → Nat
/-- Which directory entries a die's walkers keep (R315; free value). -/
opaque dirChoice : Nat → Nat
/-- Where a management core puts a block's context area, in 4 KiB units (R334; free value). -/
opaque ctxPlace : Nat → Nat
/-- First byte of the DRAM that a die's management cores keep for themselves, in GiB (R331, R334; free value): operand logs,
and the tables and frames of context areas. -/
opaque reserve : Nat → Nat
/-- A sampling draw (R384; free value). -/
opaque sampleDraw : Nat → Nat
/-- Energy of an island in a microsecond, in microjoules, as far as the power limit leaves room (R352, R356; free value):
place in the run, island. -/
opaque islandEnergy : Nat → Nat → Nat
/-- Ballast energy of a microsecond that the columns of a die which fall idle begin with, in microjoules (R357; free value). -/
opaque ballastEnergy : Nat → Nat
/-- Energy in microjoules by which a microsecond's ballast falls in the next one at 150 A per microsecond: the supply's voltage is not
stated (R357; free value). -/
opaque ballastSlope : Nat
/-- Power limit in W that the cold-plate temperature requires (R356; free value). -/
opaque plateLimit : Nat → Nat
/-- Weight of a block's activity in an island's energy, by kind of activity (R352; free value): 0 to 4 lane-executions of a
column, 5 tile bytes, 6 engine bytes, 7 landed bytes, 8 to 13 array cycles of a pairing. -/
opaque activityWeight : Nat → Nat
/-- The power controller's choice of BUD or HOLD (R356; free value). -/
opaque powerChoice : Nat → Nat
/-- Part below one cycle of what a port measures between an arrival and its own clock, in 1/256 cycle (R344; free value). -/
opaque phaseError : Nat → Int
/-- One-way flit latency a port measures at formation, in 1/256 cycle (R341; free value): module, port. -/
opaque portLatency : Nat → Nat → Nat
/-- The module and port at the other end of a port's cable, when there is one (R341; free value). -/
opaque portPeer : Nat → Nat → Option (Nat × Nat)
/-- The device serial number (R360; free value). -/
opaque serial : Nat → W64
/-- Whether an image's signature checks against the fused hash of the image key (R370; free value). -/
opaque imageSigOk : List Byte → Bool
/-- MAGIC, header, stage 1 and stage 2 of a firmware image, whose layout the specification does not give (R370;
free values). -/
opaque imageMagic : List Byte → Nat
opaque imageHeader : List Byte → List Byte
opaque imageStage1 : List Byte → List Byte
opaque imageStage2 : List Byte → List Byte
/-- Place of a partition's kernel mailbox, which its lead core chooses, in units of 128 bytes (R368; free value): module,
partition. -/
opaque kernelMailbox : Nat → Nat → Nat
/-- Die offset of the root RCB's launch-parameter page, in units of 16 KiB (R368; free value): module, partition. -/
opaque paramPage : Nat → Nat → Nat
/-- How a management core that answers page requests answers one: not at all, or with a verdict, which may be to fail (R317,
R363; free value). -/
opaque pageService : Nat → Option Bool
/-- ECDSA signature bytes, r then s, of a quote (R369; free value). -/
opaque quoteSig : Nat → List Byte → List Byte
/-- The certificate chain (R366; free value). -/
opaque certificate : Nat → List Byte
/-- Whether the host link refuses an access (R186, R359; free value). -/
opaque hostRefuses : Nat → Bool

end Sys2Proof.Config
end

