-- ==== Sys2Proof/Syntax.lean ====
section
/-! DEFINITION. The abstract syntax: one constructor of `Instr` per row of spec/opcode_table.json.

The first 227 constructors are the instructions, with their operand fields as R101 and the family rules
name them. The last 88 are the table's event rows: they have no encoding, and their arguments are the
references of the event (core, record number, lane, host data). -/

namespace Sys2Proof

/-- Width field of the integer families (R123). -/
inductive IntW where
  | w32 | w64 | w16 | w8
  deriving DecidableEq, Repr

/-- Access size of a load or store (R183). -/
inductive Size where
  | b32 | b64 | b16 | b8
  deriving DecidableEq, Repr

/-- Rounding modes of the vector arithmetic (R67, R111). -/
inductive Round where
  | rne | rz | rd | ru
  deriving DecidableEq, Repr

/-- Rounding modes of a conversion (R136): the four modes and stochastic. -/
inductive CvtRound where
  | det (r : Round)
  | sr
  deriving DecidableEq, Repr

/-- Condition codes of `setp` (R126). -/
inductive CondI where
  | eq | ne | lts | les | gts | ges | ltz | lez | gtz | gez
  deriving DecidableEq, Repr

/-- Condition codes of `fsetp` and `dsetp` (R132). -/
inductive CondF where
  | eq | ne | lt | le | gt | ge | num | nan | equ | neu | ltu | leu | gtu | geu
  deriving DecidableEq, Repr

/-- Source types of a conversion (R136); FMT 0x0 to 0xD of R191 numbers them alike. -/
inductive SType where
  | s32 | z32 | s64 | z64 | f32 | f64 | f16 | bf16 | e4m3 | e5m2 | s16 | z16 | s8 | z8
  deriving DecidableEq, Repr

/-- Destination types of a conversion to integer (R136). -/
inductive DType where
  | s32 | z32 | s64 | z64 | s16 | z16 | s8 | z8
  deriving DecidableEq, Repr

/-- Signedness of the operands of a dot product (R146): A then B. -/
inductive DotSign where
  | ss | zz | sz | zs
  deriving DecidableEq, Repr

/-- Levels of a tile handle (R191). -/
inductive Level where
  | ts | acc | trn
  deriving DecidableEq, Repr

/-- Scopes (R111, R213). -/
inductive Scope where
  | crs | blk | die | mod | grp
  deriving DecidableEq, Repr

/-- Pairings of a matrix command (R230). -/
inductive MxPair where
  | f64 | f32 | bf16 | f16 | fp8 | qn4
  deriving DecidableEq, Repr

/-- The instructions and events of the machine: see the header. -/
inductive Instr where
  /-- `ADD` (R124). -/
  | add (d a b : Reg) (ub : Bool) (w : IntW)
  /-- `SUB` (R124). -/
  | sub (d a b : Reg) (ub : Bool) (w : IntW)
  /-- `ADD_SAT` (R124). -/
  | addSat (d a b : Reg) (ub : Bool) (uns wide : Bool)
  /-- `SUB_SAT` (R124). -/
  | subSat (d a b : Reg) (ub : Bool) (uns wide : Bool)
  /-- `MUL` (R124). -/
  | mul (d a b : Reg) (ub : Bool) (w : IntW)
  /-- `MULHI` (R124). -/
  | mulhi (d a b : Reg) (ub : Bool) (uns wide : Bool)
  /-- `MAD` (R124, R117). -/
  | mad (d a b : Reg) (ub : Bool) (w : IntW)
  /-- `MIN` (R124). -/
  | min (d a b : Reg) (ub : Bool) (uns : Bool)
  /-- `MAX` (R124). -/
  | max (d a b : Reg) (ub : Bool) (uns : Bool)
  /-- `AND` (R125). -/
  | and (d a b : Reg) (ub : Bool)
  /-- `OR` (R125). -/
  | or (d a b : Reg) (ub : Bool)
  /-- `XOR` (R125). -/
  | xor (d a b : Reg) (ub : Bool)
  /-- `ANDN` (R125). -/
  | andn (d a b : Reg) (ub : Bool)
  /-- `SHL` (R125). -/
  | shl (d a b : Reg) (ub : Bool)
  /-- `SHR_Z` (R125). -/
  | shrZ (d a b : Reg) (ub : Bool)
  /-- `SHR_S` (R125). -/
  | shrS (d a b : Reg) (ub : Bool)
  /-- `ROL` (R125). -/
  | rol (d a b : Reg) (ub : Bool)
  /-- `SETP` (R126). -/
  | setp (cc : CondI) (p : BitVec 3) (a b : Reg) (ub : Bool) (w : IntW)
  /-- `POPC` (R125). -/
  | popc (d a : Reg)
  /-- `CLZ` (R125). -/
  | clz (d a : Reg)
  /-- `BREV` (R125). -/
  | brev (d a : Reg)
  /-- `NEG` (R125). -/
  | neg (d a : Reg)
  /-- `DIV` (R127). -/
  | div (d a b : Reg) (ub : Bool) (uns : Bool)
  /-- `REM` (R127). -/
  | rem (d a b : Reg) (ub : Bool) (uns : Bool)
  /-- `ADD_IMM` (R124). -/
  | addImm (d a : Reg) (imm : BitVec 10)
  /-- `MOVI` (R128). -/
  | movi (d : Reg) (imm : BitVec 17)
  /-- `MOVH` (R128). -/
  | movh (d : Reg) (imm : BitVec 17)
  /-- `UADD` (R118, R124). -/
  | uadd (d a b : Reg) (w : IntW)
  /-- `USUB` (R118, R124). -/
  | usub (d a b : Reg) (w : IntW)
  /-- `UADD_SAT` (R118, R124). -/
  | uaddSat (d a b : Reg) (uns wide : Bool)
  /-- `USUB_SAT` (R118, R124). -/
  | usubSat (d a b : Reg) (uns wide : Bool)
  /-- `UMUL` (R118, R124). -/
  | umul (d a b : Reg) (w : IntW)
  /-- `UMULHI` (R118, R124). -/
  | umulhi (d a b : Reg) (uns wide : Bool)
  /-- `UMAD` (R118, R124). -/
  | umad (d a b : Reg) (w : IntW)
  /-- `UMIN` (R118, R124). -/
  | umin (d a b : Reg) (uns : Bool)
  /-- `UMAX` (R118, R124). -/
  | umax (d a b : Reg) (uns : Bool)
  /-- `UAND` (R118, R125). -/
  | uand (d a b : Reg)
  /-- `UOR` (R118, R125). -/
  | uor (d a b : Reg)
  /-- `UXOR` (R118, R125). -/
  | uxor (d a b : Reg)
  /-- `UANDN` (R118, R125). -/
  | uandn (d a b : Reg)
  /-- `USHL` (R118, R125). -/
  | ushl (d a b : Reg)
  /-- `USHR_Z` (R118, R125). -/
  | ushrZ (d a b : Reg)
  /-- `USHR_S` (R118, R125). -/
  | ushrS (d a b : Reg)
  /-- `UROL` (R118, R125). -/
  | urol (d a b : Reg)
  /-- `USETP` (R118, R126). -/
  | usetp (cc : CondI) (p : BitVec 3) (a b : Reg) (w : IntW)
  /-- `UPOPC` (R118, R125). -/
  | upopc (d a : Reg)
  /-- `UCLZ` (R118, R125). -/
  | uclz (d a : Reg)
  /-- `UBREV` (R118, R125). -/
  | ubrev (d a : Reg)
  /-- `UNEG` (R118, R125). -/
  | uneg (d a : Reg)
  /-- `UDIV` (R118, R127). -/
  | udiv (d a b : Reg) (uns : Bool)
  /-- `UREM` (R118, R127). -/
  | urem (d a b : Reg) (uns : Bool)
  /-- `UADD_IMM` (R118, R124). -/
  | uaddImm (d a : Reg) (imm : BitVec 10)
  /-- `UMOVI` (R118, R128). -/
  | umovi (d : Reg) (imm : BitVec 17)
  /-- `UMOVH` (R118, R128). -/
  | umovh (d : Reg) (imm : BitVec 17)
  /-- `FADD` (R130). -/
  | fadd (d a b : Reg) (ub : Bool) (rm : Round)
  /-- `FSUB` (R130). -/
  | fsub (d a b : Reg) (ub : Bool) (rm : Round)
  /-- `FMUL` (R130). -/
  | fmul (d a b : Reg) (ub : Bool) (rm : Round)
  /-- `FFMA` (R130). -/
  | ffma (d a b : Reg) (ub : Bool) (rm : Round)
  /-- `FMIN` (R131). -/
  | fmin (d a b : Reg) (ub : Bool)
  /-- `FMAX` (R131). -/
  | fmax (d a b : Reg) (ub : Bool)
  /-- `FSETP` (R132). -/
  | fsetp (cc : CondF) (p : BitVec 3) (a b : Reg) (ub : Bool)
  /-- `FABS` (R133). -/
  | fabs (d a : Reg)
  /-- `FNEG` (R133). -/
  | fneg (d a : Reg)
  /-- `FCPSGN` (R133). -/
  | fcpsgn (d a b : Reg) (ub : Bool)
  /-- `FCLASS` (R134). -/
  | fclass (d a : Reg)
  /-- `DADD` (R130). -/
  | dadd (d a b : Reg) (ub : Bool) (rm : Round)
  /-- `DSUB` (R130). -/
  | dsub (d a b : Reg) (ub : Bool) (rm : Round)
  /-- `DMUL` (R130). -/
  | dmul (d a b : Reg) (ub : Bool) (rm : Round)
  /-- `DFMA` (R130). -/
  | dfma (d a b : Reg) (ub : Bool) (rm : Round)
  /-- `DMIN` (R131). -/
  | dmin (d a b : Reg) (ub : Bool)
  /-- `DMAX` (R131). -/
  | dmax (d a b : Reg) (ub : Bool)
  /-- `DSETP` (R132). -/
  | dsetp (cc : CondF) (p : BitVec 3) (a b : Reg) (ub : Bool)
  /-- `DABS` (R133). -/
  | dabs (d a : Reg)
  /-- `DNEG` (R133). -/
  | dneg (d a : Reg)
  /-- `DCPSGN` (R133). -/
  | dcpsgn (d a b : Reg) (ub : Bool)
  /-- `DCLASS` (R134). -/
  | dclass (d a : Reg)
  /-- `HADD_F16` (R130). -/
  | haddF16 (d a b : Reg) (ub : Bool) (rm : Round)
  /-- `HMUL_F16` (R130). -/
  | hmulF16 (d a b : Reg) (ub : Bool) (rm : Round)
  /-- `HFMA_F16` (R130). -/
  | hfmaF16 (d a b : Reg) (ub : Bool) (rm : Round)
  /-- `HMIN_F16` (R131). -/
  | hminF16 (d a b : Reg) (ub : Bool)
  /-- `HMAX_F16` (R131). -/
  | hmaxF16 (d a b : Reg) (ub : Bool)
  /-- `HADD_BF16` (R130). -/
  | haddBf16 (d a b : Reg) (ub : Bool) (rm : Round)
  /-- `HMUL_BF16` (R130). -/
  | hmulBf16 (d a b : Reg) (ub : Bool) (rm : Round)
  /-- `HFMA_BF16` (R130). -/
  | hfmaBf16 (d a b : Reg) (ub : Bool) (rm : Round)
  /-- `HMIN_BF16` (R131). -/
  | hminBf16 (d a b : Reg) (ub : Bool)
  /-- `HMAX_BF16` (R131). -/
  | hmaxBf16 (d a b : Reg) (ub : Bool)
  /-- `CVT_TO_F32` (R136 to R138). -/
  | cvtToF32 (d a : Reg) (sel : BitVec 2) (st : SType) (rm : CvtRound)
  /-- `CVT_TO_F64` (R136 to R138). -/
  | cvtToF64 (d a : Reg) (sel : BitVec 2) (st : SType) (rm : CvtRound)
  /-- `CVT_TO_F16` (R136 to R138). -/
  | cvtToF16 (d a : Reg) (sel : BitVec 2) (st : SType) (rm : CvtRound)
  /-- `CVT_TO_BF16` (R136 to R138). -/
  | cvtToBf16 (d a : Reg) (sel : BitVec 2) (st : SType) (rm : CvtRound)
  /-- `CVT_TO_E4M3` (R136 to R138). -/
  | cvtToE4m3 (d a : Reg) (sel : BitVec 2) (st : SType) (rm : CvtRound)
  /-- `CVT_TO_E5M2` (R136 to R138). -/
  | cvtToE5m2 (d a : Reg) (sel : BitVec 2) (st : SType) (rm : CvtRound)
  /-- `CVT_QN4_F32` (R140). -/
  | cvtQn4F32 (d a b : Reg) (rm : CvtRound)
  /-- `CVT_F32_QN4` (R141). -/
  | cvtF32Qn4 (d a b : Reg) (ub : Bool) (rm : Round)
  /-- `CVT_TO_INTEGER` (R139). -/
  | cvtToInteger (d a : Reg) (dt : DType) (f64 : Bool) (rm : Round)
  /-- `RCP` (R142, R143). -/
  | rcp (d a : Reg)
  /-- `RSQ` (R142, R143). -/
  | rsq (d a : Reg)
  /-- `SQRT` (R142, R143). -/
  | sqrt (d a : Reg)
  /-- `EXP2` (R142, R143). -/
  | exp2 (d a : Reg)
  /-- `LOG2` (R142, R143). -/
  | log2 (d a : Reg)
  /-- `SIN` (R142, R143). -/
  | sin (d a : Reg)
  /-- `COS` (R142, R143). -/
  | cos (d a : Reg)
  /-- `BSEL` (R145). -/
  | bsel (d a b : Reg) (ub : Bool)
  /-- `DP4` (R146). -/
  | dp4 (d a b : Reg) (ub : Bool) (sg : DotSign)
  /-- `DP2` (R146). -/
  | dp2 (d a b : Reg) (ub : Bool) (sg : DotSign)
  /-- `HDP2` (R147). -/
  | hdp2 (d a b : Reg) (ub : Bool) (bf : Bool)
  /-- `BRA` (R151). -/
  | bra (off : BitVec 24)
  /-- `BRX` (R151). -/
  | brx (a : Reg) (uni : Bool)
  /-- `CALL` (R151). -/
  | call (off : BitVec 24)
  /-- `RET` (R151, R152). -/
  | ret (a : Reg) (uni : Bool)
  /-- `LOOP` (R154). -/
  | loop (d : Reg) (off : BitVec 17)
  /-- `EXIT` (R155). -/
  | exit
  /-- `JTOK` (R156). -/
  | jtok (off : BitVec 24)
  /-- `JOIN` (R157). -/
  | join
  /-- `WBASE` (R159). -/
  | wbase (n : BitVec 10)
  /-- `PART` (R160). -/
  | part (e : BitVec 10)
  /-- `MFS` (R161). -/
  | mfs (d sr : Reg) (uni : Bool)
  /-- `MTS` (R162). -/
  | mts (sr a : Reg) (uni : Bool)
  /-- `LPICK_AT` (R164). -/
  | lpickAt (d a b : Reg) (ub : Bool)
  /-- `LPICK_BACK` (R164). -/
  | lpickBack (d a b : Reg) (ub : Bool)
  /-- `LPICK_FWD` (R164). -/
  | lpickFwd (d a b : Reg) (ub : Bool)
  /-- `LPICK_XOR` (R164). -/
  | lpickXor (d a b : Reg) (ub : Bool)
  /-- `LPOLL_ANY` (R165). -/
  | lpollAny (p q : BitVec 3)
  /-- `LPOLL_ALL` (R165). -/
  | lpollAll (p q : BitVec 3)
  /-- `LPOLL_MAP` (R165). -/
  | lpollMap (d : Reg) (q : BitVec 3)
  /-- `RED_ADD` (R166). -/
  | redAdd (d a : Reg) (uns : Bool)
  /-- `RED_MIN` (R166). -/
  | redMin (d a : Reg) (uns : Bool)
  /-- `RED_MAX` (R166). -/
  | redMax (d a : Reg) (uns : Bool)
  /-- `FIRST` (R167). -/
  | first (d a : Reg) (idx : Bool)
  /-- `CADD_S32` (R168, R169). -/
  | caddS32 (d a : Reg) (seg br : Bool)
  /-- `CADD_S64` (R168, R169). -/
  | caddS64 (d a : Reg) (seg br : Bool)
  /-- `CADD_F32` (R168, R169). -/
  | caddF32 (d a : Reg) (seg br : Bool)
  /-- `CADD_F64` (R168, R169). -/
  | caddF64 (d a : Reg) (seg br : Bool)
  /-- `CMIN_S32` (R168, R169). -/
  | cminS32 (d a : Reg) (seg br : Bool)
  /-- `CMIN_F32` (R168, R169). -/
  | cminF32 (d a : Reg) (seg br : Bool)
  /-- `CMAX_S32` (R168, R169). -/
  | cmaxS32 (d a : Reg) (seg br : Bool)
  /-- `CMAX_F32` (R168, R169). -/
  | cmaxF32 (d a : Reg) (seg br : Bool)
  /-- `CMUL_F32` (R168, R169). -/
  | cmulF32 (d a : Reg) (seg br : Bool)
  /-- `CFMA_F32` (R168, R169). -/
  | cfmaF32 (d a b : Reg) (ub seg br : Bool)
  /-- `CFMA_F64` (R168, R169). -/
  | cfmaF64 (d a b : Reg) (ub seg br : Bool)
  /-- `CXOR_B32` (R168, R169). -/
  | cxorB32 (d a : Reg) (seg br : Bool)
  /-- `CPASS_B64` (R168 to R170). -/
  | cpassB64 (d a : Reg) (seg br : Bool)
  /-- `TRAP` (R173). -/
  | trap (c : BitVec 10)
  /-- `BRK` (R173). -/
  | brk (c : BitVec 10)
  /-- `TRET` (R175). -/
  | tret
  /-- `LD_LN` (R183, R184). -/
  | ldLn (d a : Reg) (off : BitVec 7) (ord : Bool) (sz : Size)
  /-- `ST_LN` (R183, R184). -/
  | stLn (d a : Reg) (off : BitVec 7) (ord : Bool) (sz : Size)
  /-- `LD_TS` (R189, R190). -/
  | ldTs (d : Reg) (h : BitVec 8) (b : Reg) (w : Size)
  /-- `ST_TS` (R189, R190). -/
  | stTs (d : Reg) (h : BitVec 8) (b : Reg) (w : Size)
  /-- `LD_ACC` (R189, R190). -/
  | ldAcc (d : Reg) (h : BitVec 8) (b : Reg) (w : Size)
  /-- `ST_ACC` (R189, R190). -/
  | stAcc (d : Reg) (h : BitVec 8) (b : Reg) (w : Size)
  /-- `LD_DIE` (R183, R184). -/
  | ldDie (d a : Reg) (off : BitVec 7) (ord : Bool) (sz : Size)
  /-- `ST_DIE` (R183, R184). -/
  | stDie (d a : Reg) (off : BitVec 7) (ord : Bool) (sz : Size)
  /-- `LD_FAB` (R183, R184). -/
  | ldFab (d a : Reg) (off : BitVec 7) (ord : Bool) (sz : Size)
  /-- `ST_FAB` (R183, R184). -/
  | stFab (d a : Reg) (off : BitVec 7) (ord : Bool) (sz : Size)
  /-- `LD_HOST` (R186). -/
  | ldHost (d a : Reg) (tag : BitVec 6) (sz : Size)
  /-- `ST_HOST` (R186). -/
  | stHost (d a : Reg) (tag : BitVec 6) (sz : Size)
  /-- `ST_MC` (R187). -/
  | stMc (d a : Reg) (mask : BitVec 4) (ord : Bool) (sz : Size)
  /-- `ATOM_ADD` (R201, R202). -/
  | atomAdd (d a b : Reg) (w64 ord : Bool)
  /-- `ATOM_MIN` (R201, R202). -/
  | atomMin (d a b : Reg) (w64 uns ord : Bool)
  /-- `ATOM_MAX` (R201, R202). -/
  | atomMax (d a b : Reg) (w64 uns ord : Bool)
  /-- `ATOM_AND` (R201, R202). -/
  | atomAnd (d a b : Reg) (w64 ord : Bool)
  /-- `ATOM_OR` (R201, R202). -/
  | atomOr (d a b : Reg) (w64 ord : Bool)
  /-- `ATOM_XOR` (R201, R202). -/
  | atomXor (d a b : Reg) (w64 ord : Bool)
  /-- `ATOM_EXCH` (R201, R202). -/
  | atomExch (d a b : Reg) (w64 ord : Bool)
  /-- `ATOM_CAS` (R201, R202). -/
  | atomCas (d a b : Reg) (w64 ord : Bool)
  /-- `FATOM_ADD` (R201, R202). -/
  | fatomAdd (d a b : Reg) (w64 ord : Bool)
  /-- `FATOM_MIN` (R201, R202). -/
  | fatomMin (d a b : Reg) (w64 uns ord : Bool)
  /-- `FATOM_MAX` (R201, R202). -/
  | fatomMax (d a b : Reg) (w64 uns ord : Bool)
  /-- `FATOM_AND` (R201, R202). -/
  | fatomAnd (d a b : Reg) (w64 ord : Bool)
  /-- `FATOM_OR` (R201, R202). -/
  | fatomOr (d a b : Reg) (w64 ord : Bool)
  /-- `FATOM_XOR` (R201, R202). -/
  | fatomXor (d a b : Reg) (w64 ord : Bool)
  /-- `FATOM_EXCH` (R201, R202). -/
  | fatomExch (d a b : Reg) (w64 ord : Bool)
  /-- `FATOM_CAS` (R201, R202). -/
  | fatomCas (d a b : Reg) (w64 ord : Bool)
  /-- `TALLOC` (R192, R193). -/
  | talloc (fmt : BitVec 4) (p : BitVec 3) (h : BitVec 8) (b : Reg) (lv : Level)
  /-- `TFREE` (R194). -/
  | tfree (h : BitVec 8)
  /-- `TDESC` (R195). -/
  | tdesc (d : Reg) (h : BitVec 8) (uni : Bool)
  /-- `RLW_SET` (R196). -/
  | rlwSet (a b : Reg)
  /-- `RLW_NEXT` (R197). -/
  | rlwNext (d : Reg) (p : BitVec 3)
  /-- `TATOM_ADD` (R198, R199). -/
  | tatomAdd (d : Reg) (h : BitVec 8) (b : Reg)
  /-- `TATOM_MIN` (R198, R199). -/
  | tatomMin (d : Reg) (h : BitVec 8) (b : Reg)
  /-- `TATOM_MAX` (R198, R199). -/
  | tatomMax (d : Reg) (h : BitVec 8) (b : Reg)
  /-- `TATOM_EXCH` (R198, R199). -/
  | tatomExch (d : Reg) (h : BitVec 8) (b : Reg)
  /-- `TATOM_CAS` (R198, R199). -/
  | tatomCas (d : Reg) (h : BitVec 8) (b : Reg)
  /-- `PH_REG` (R208, R209). -/
  | phReg (n : BitVec 4) (role : BitVec 2)
  /-- `PH_ARRIVE` (R208, R209). -/
  | phArrive (n : BitVec 4)
  /-- `PH_WAIT` (R208, R209). -/
  | phWait (n : BitVec 4)
  /-- `PH_EXPECT` (R208, R209). -/
  | phExpect (n : BitVec 4) (b : Reg)
  /-- `KEY_TAKE` (R210). -/
  | keyTake
  /-- `KEY_PASS` (R210). -/
  | keyPass
  /-- `RB_GIVE` (R211). -/
  | rbGive (c : BitVec 4)
  /-- `RB_CLAIM` (R211). -/
  | rbClaim (c : BitVec 4)
  /-- `MON_ARM` (R205). -/
  | monArm (p : BitVec 3) (a : Reg) (fab uni : Bool)
  /-- `MON_WAIT` (R206). -/
  | monWait (p : BitVec 3) (b : Reg)
  /-- `MON_DISARM` (R207). -/
  | monDisarm (a : Reg) (fab uni : Bool)
  /-- `FENCE` (R204). -/
  | fence (sc : Scope)
  /-- `CP_FILL` (R214, R220). -/
  | cpFill (d a b : Reg)
  /-- `CP_DRAIN` (R214, R220). -/
  | cpDrain (d a b : Reg)
  /-- `CP_TT` (R214, R225). -/
  | cpTt (d a b : Reg)
  /-- `CP_HOST` (R214, R186). -/
  | cpHost (d a b : Reg) (fromHandle : Bool)
  /-- `CP_FAB` (R214, R220). -/
  | cpFab (d a b : Reg) (fromHandle : Bool)
  /-- `CP_GTH` (R226). -/
  | cpGth (d a b : Reg) (fab : Bool)
  /-- `CP_TRN` (R227). -/
  | cpTrn (d a b : Reg) (fromTs : Bool)
  /-- `CP_ACC` (R228). -/
  | cpAcc (d a b : Reg) (rm : CvtRound)
  /-- `MX` (R230, R231). -/
  | mx (d a b : Reg) (pair : MxPair)
  /-- `TSEND` (R232). -/
  | tsend (d a b : Reg)
  /-- `TLAND` (R233). -/
  | tland (d a b : Reg)
  /-- `TWANY` (R235). -/
  | twany (a : Reg)
  /-- `TWALL` (R235). -/
  | twall (a : Reg)
  /-- `TWFIRST` (R235). -/
  | twfirst (d a : Reg)
  /-- `NOP` (R111). -/
  | nop
  /-- `LAUNCH` (R238). -/
  | launch (d a b : Reg)
  /-- `DRIFT_SET` (R346). -/
  | driftSet (a b : Reg)
  /-- `DRIFT_STEP` (R346). -/
  | driftStep (a b : Reg)
  /-- `DBG_BP_CLR` (R376, R377). -/
  | dbgBpClr (e : BitVec 3) (b : Reg)
  /-- `DBG_BP_SET` (R376, R377). -/
  | dbgBpSet (e : BitVec 3) (a b : Reg)
  /-- `DBG_BP_CLAIM` (R376, R377). -/
  | dbgBpClaim (b : Reg)
  /-- `DBG_BP_FREE` (R376, R377). -/
  | dbgBpFree (b : Reg)
  /-- `DBG_HOLD` (R376, R378). -/
  | dbgHold (b : Reg) (crs : Bool)
  /-- `DBG_STEP` (R376, R379). -/
  | dbgStep (b : Reg)
  /-- `DBG_STEP_TRAP` (R376, R379). -/
  | dbgStepTrap (b : Reg)
  /-- `DBG_RUN` (R376, R379). -/
  | dbgRun (b : Reg) (crs : Bool)
  /-- `DBG_WATCH` (R376, R381). -/
  | dbgWatch (d a b : Reg)
  /-- `DBG_MBOX` (R383). -/
  | dbgMbox (a b : Reg)
  /-- `DBG_MBOX_BASE` (R373). -/
  | dbgMboxBase (a b : Reg)
  /-- `DBG_MBOX_SAMP` (R384). -/
  | dbgMboxSamp (a b : Reg)
  /-- `DBG_MBOX_REC` (R386). -/
  | dbgMboxRec (a b : Reg)
  /-- `CLAUSE_FETCH` (R96). -/
  | clauseFetch (c owner cr slot : Nat)
  /-- `LANE_EXECUTE` (R16). -/
  | laneExecute (c seq lane : Nat)
  /-- `CHAIN_STEP` (R19). -/
  | chainStep (c seq lane : Nat)
  /-- `BRO_WRITE` (R19). -/
  | broWrite (c seq : Nat)
  /-- `RESULT_READY` (R9, R16). -/
  | resultReady (c rid : Nat)
  /-- `MEMORY_ACCESS_APPLY` (R179). -/
  | memoryAccessApply (c aid : Nat)
  /-- `TATOM_WRITE_HALF` (R199). -/
  | tatomWriteHalf (c aid : Nat)
  /-- `PAUSE_HORIZON_CHECK` (R42). -/
  | pauseHorizonCheck (c aid : Nat)
  /-- `PAUSE_STOP` (R43). -/
  | pauseStop (sash : Nat)
  /-- `SASH_RESUME` (R44). -/
  | sashResume (sash : Nat)
  /-- `WAIT_WAKE` (R33). -/
  | waitWake (c owner cr slot : Nat)
  /-- `MON_WAIT_TIMEOUT` (R206). -/
  | monWaitTimeout (c owner cr slot : Nat)
  /-- `PATH_FILL_COMPLETE` (R25). -/
  | pathFillComplete (c owner cr slot : Nat)
  /-- `ASYNC_TRAP_TAKE` (R176). -/
  | asyncTrapTake (c owner cr slot : Nat)
  /-- `BUDGET_FAULT` (R32). -/
  | budgetFault (c owner : Nat)
  /-- `COMMAND_START` (R217). -/
  | commandStart (c cid : Nat)
  /-- `COPY_BEAT` (R219). -/
  | copyBeat (c queue : Nat)
  /-- `BEAT_SOURCE_READ` (R221). -/
  | beatSourceRead (c bid : Nat)
  /-- `BEAT_DEST_WRITE` (R221). -/
  | beatDestWrite (c bid : Nat)
  /-- `MATRIX_ARRAY_START` (R231). -/
  | matrixArrayStart (c cid : Nat)
  /-- `MATRIX_WRITE` (R231). -/
  | matrixWrite (c cid : Nat)
  /-- `TSEND_DEPART` (R232). -/
  | tsendDepart (c cid : Nat)
  /-- `CREDIT_CHECK` (R50). -/
  | creditCheck (c cid : Nat)
  /-- `CREDIT_ARRIVE` (R233). -/
  | creditArrive (c xid : Nat)
  /-- `MESSAGE_ARRIVE` (R48). -/
  | messageArrive (c xid : Nat)
  /-- `LANDING_CHECK` (R49). -/
  | landingCheck (c arm : Nat)
  /-- `LANDING_COMMIT` (R48). -/
  | landingCommit (c arm : Nat)
  /-- `CANCEL_RELEASE` (R53). -/
  | cancelRelease (c arm : Nat)
  /-- `BLOCK_START` (R302). -/
  | blockStart (c owner : Nat)
  /-- `TIMED_BLOCK_START` (R302, R303). -/
  | timedBlockStart (c owner : Nat)
  /-- `BLOCK_END` (R256). -/
  | blockEnd (c owner : Nat)
  /-- `TICKET_RELEASE` (R258). -/
  | ticketRelease (c owner : Nat)
  /-- `CAUSAL_APPLY` (R251). -/
  | causalApply (die wid : Nat)
  /-- `SCHEDULING_ROUND` (R297). -/
  | schedulingRound (m part : Nat)
  /-- `DEVICE_LAUNCH_COMPLETE` (R238). -/
  | deviceLaunchComplete (c cid : Nat)
  /-- `CONTAINMENT_WALK` (R327). -/
  | containmentWalk (c : Nat)
  /-- `PREEMPT_CUT` (R337). -/
  | preemptCut (c owner : Nat)
  /-- `PREEMPT_SAVE` (R337). -/
  | preemptSave (c owner : Nat)
  /-- `RESTORE` (R338). -/
  | restore (m idx : Nat)
  /-- `TIMED_PREEMPT` (R339). -/
  | timedPreempt (m lid : Nat)
  /-- `PAGE_WALK` (R312). -/
  | pageWalk (die wid : Nat)
  /-- `TRANSLATION_COMPLETE` (R316). -/
  | translationComplete (die wid : Nat)
  /-- `PAGE_VERDICT_RETRY` (R317). -/
  | pageVerdictRetry (die slot : Nat)
  /-- `PAGE_VERDICT_FAIL` (R317). -/
  | pageVerdictFail (die slot : Nat)
  /-- `SHOOTDOWN_SMALL` (R321). -/
  | shootdownSmall (die : Nat) (page : BitVec 32)
  /-- `SHOOTDOWN_LARGE` (R321). -/
  | shootdownLarge (die : Nat) (page : BitVec 32)
  /-- `SHOOTDOWN_BOTH` (R321). -/
  | shootdownBoth (die : Nat) (page : BitVec 32)
  /-- `SHOOTDOWN_ALL` (R321). -/
  | shootdownAll (die : Nat)
  /-- `SHOOTDOWN_COMPLETE` (R321). -/
  | shootdownComplete (die : Nat)
  /-- `UNCORRECTABLE_ERROR` (R332). -/
  | uncorrectableError (store granule : Nat)
  /-- `SCRUB` (R332). -/
  | scrub (die : Nat)
  /-- `HOST_ACCESS_COMPLETE` (R186). -/
  | hostAccessComplete (c aid : Nat) (refused : Bool)
  /-- `DRIFT_HOLD_CYCLE` (R343). -/
  | driftHoldCycle (m : Nat)
  /-- `DRIFT_SET_APPLY` (R346). -/
  | driftSetApply (m : Nat)
  /-- `DRIFT_STEP_APPLY` (R346). -/
  | driftStepApply (m : Nat)
  /-- `TIMING_FLIT` (R344). -/
  | timingFlit (m port : Nat)
  /-- `DRIFT_REPORT` (R344). -/
  | driftReport (m : Nat)
  /-- `PORT_LINK_LOSS` (R342). -/
  | portLinkLoss (m port : Nat)
  /-- `PORT_RETRAINED` (R342). -/
  | portRetrained (m port : Nat)
  /-- `ENERGY_SAMPLE` (R352). -/
  | energySample (m : Nat)
  /-- `BYTE_BUDGET_INTERVAL` (R355). -/
  | byteBudgetInterval (die quad : Nat)
  /-- `POWER_WINDOW` (R356). -/
  | powerWindow (m : Nat)
  /-- `THROTTLE_HOLD` (R356). -/
  | throttleHold (sash : Nat)
  /-- `RAIL_LEVEL_REACHED` (R351). -/
  | railLevelReached (die quad : Nat)
  /-- `SHUTTER_CHANGE` (R358). -/
  | shutterChange (c owner : Nat)
  /-- `DEBUG_COMMAND_ARRIVE` (R371). -/
  | debugCommandArrive (c did : Nat)
  /-- `BREAKPOINT_MATCH` (R377). -/
  | breakpointMatch (c owner cr slot : Nat)
  /-- `DEBUG_HOLD_TAKE` (R378). -/
  | debugHoldTake (c owner cr slot : Nat)
  /-- `SAMPLE_RECORD` (R385). -/
  | sampleRecord (c str : Nat)
  /-- `CHUNK_COMMIT` (R387). -/
  | chunkCommit (c : Nat)
  /-- `QUOTE_REQUEST` (R369). -/
  | quoteRequest (m : Nat) (msg : List W32)
  /-- `PARTITION_MAP` (R368). -/
  | partitionMap (m : Nat) (msg : List W32)
  /-- `TIME_GROUP` (R341). -/
  | timeGroup (m : Nat) (msg : List W32)
  /-- `ROOT_RCB` (R366). -/
  | rootRcb (m : Nat) (msg : List W32)
  /-- `EXTEND` (R369). -/
  | extend (m : Nat) (msg : List W32)
  /-- `CERTIFICATE_REQUEST` (R366). -/
  | certificateRequest (m : Nat) (msg : List W32)
  /-- `UNKNOWN_MESSAGE` (R365). -/
  | unknownMessage (m : Nat) (msg : List W32)
  /-- `D2H_ACK` (R364). -/
  | d2hAck (m : Nat)
  /-- `KERNEL_QUOTE_SERVE` (R368). -/
  | kernelQuoteServe (m part slot : Nat)
  /-- `FACCEPT_WRITE` (R363). -/
  | facceptWrite (m : Nat) (v : W64)
  /-- `DBELL` (R367). -/
  | dbell (m : Nat) (v : W64)
  /-- `IMAGE_LOAD` (R370). -/
  | imageLoad (m : Nat) (v : W64)
  /-- `STAGE2_START` (R370). -/
  | stage2Start (m : Nat)
  /-- `ROM_START` (R370). -/
  | romStart (m : Nat)
  /-- `MODULE_RESTART` (R359). -/
  | moduleRestart (m : Nat)
  /-- `REGISTER_WRITE` (R360). -/
  | registerWrite (m off : Nat) (v : W64)
  /-- `HOST_DRAM_WINDOW_WRITE` (R359). -/
  | hostDramWindowWrite (m off : Nat) (bytes : List Byte)
  /-- `DRAM_REFRESH` (R42). -/
  | dramRefresh (sash at_ dur : Nat)
  deriving DecidableEq, Repr

end Sys2Proof
end

