-- ==== Sys2Proof/WellFormed.lean ====
section
/-! DEFINITION. Which terms of `Instr` are instructions: the register and selector conditions of R101,
R105, R113 (subcodes 4 and 7) and of each family. Event rows have no encoding and are well formed. -/

namespace Sys2Proof

/-- An even register, the first of a pair (R105). -/
def regEven (r : Reg) : Bool := decide (r.toNat % 2 = 0)
/-- A register number that is a multiple of 4 (R101, R195). -/
def regQuad (r : Reg) : Bool := decide (r.toNat % 4 = 0)
/-- A register followed by another: not 127 (R105, R117, R189). -/
def okThird (b : Reg) : Bool := decide (b.toNat < 127)
/-- Pairs wherever the operation is 64 bits wide. -/
def okWide (wide : Bool) (d a b : Reg) : Bool := !wide || (regEven d && regEven a && regEven b)
/-- Operands of the integer families at a width (R123, R105). -/
def okInt (d a b : Reg) (w : IntW) : Bool := okWide (w == .w64) d a b
/-- Operands of `mad` with its third operand (R117). -/
def okMad (d a b : Reg) (w : IntW) : Bool :=
  if w == .w64 then okWide true d a b && decide (b.toNat < 126) else okThird b
/-- Operands of `setp` (R126). -/
def okCmp (a b : Reg) (w : IntW) : Bool := okWide (w == .w64) 0 a b
/-- Operands of `dfma` with its third operand (R105, R117). -/
def okDfma (d a b : Reg) : Bool := okWide true d a b && decide (b.toNat < 126)
/-- Elements of a packed type (R137); 1 where the type is not packed. -/
def elems : SType → Nat
  | .f16 => 2
  | .bf16 => 2
  | .s16 => 2
  | .z16 => 2
  | .e4m3 => 4
  | .e5m2 => 4
  | .s8 => 4
  | .z8 => 4
  | _ => 1
/-- Types that occupy a pair (R136). -/
def isPair : SType → Bool
  | .s64 => true
  | .z64 => true
  | .f64 => true
  | _ => false
/-- Conversions for which stochastic rounding exists (R67). -/
def okSr (dst st : SType) : Bool :=
  match st, dst with
  | .f64, .f32 => true
  | .f64, .f16 => true
  | .f64, .bf16 => true
  | .f32, .f16 => true
  | .f32, .bf16 => true
  | .f32, .e4m3 => true
  | .f32, .e5m2 => true
  | _, _ => false
/-- SEL lies within every packed side; with no packed side it is 0 (R137). -/
def okSel (dst st : SType) (sel : BitVec 2) : Bool :=
  if elems dst = 1 && elems st = 1 then sel == 0
  else (elems dst = 1 || decide (sel.toNat < elems dst)) && (elems st = 1 || decide (sel.toNat < elems st))
/-- Selector values of a conversion to floating point (R136, R137). -/
def okCvt (dst st : SType) (sel : BitVec 2) (rm : CvtRound) : Bool :=
  (st != dst) && okSel dst st sel && (rm != .sr || okSr dst st)
/-- Register fields of a conversion to floating point (R137). -/
def okCvtRegs (dst st : SType) (d a : Reg) : Bool :=
  (!isPair dst || regEven d) && (!isPair st || regEven a)
/-- Register fields of a conversion to integer (R139). -/
def okToInt (dt : DType) (f64 : Bool) (d a : Reg) : Bool :=
  (!(dt == .s64 || dt == .z64) || regEven d) && (!f64 || regEven a)
/-- `part` takes 1 to 5 (R160). -/
def okPart (e : BitVec 10) : Bool := decide (1 ≤ e.toNat) && decide (e.toNat ≤ 5)
/-- Width of a special register (R106): true for 64 bits. -/
def srWide (n : Nat) : Bool := decide (n = 4 ∨ n = 5 ∨ (8 ≤ n ∧ n ≤ 13) ∨ n = 18)
/-- `mfs` names a special register of R106, and a pair where it is 64 bits wide (R161). -/
def okMfs (d sr : Reg) : Bool := decide (sr.toNat ≤ 0x13) && (!srWide sr.toNat || regEven d)
/-- `mts` names one of the four writable special registers (R162). -/
def okMts (sr a : Reg) : Bool :=
  (sr == 0x0A || sr == 0x0D || sr == 0x11 || sr == 0x12) && (!srWide sr.toNat || regEven a)
/-- The data register of an access of a size (R183). -/
def okData (sz : Size) (d : Reg) : Bool := sz != .b64 || regEven d
/-- Registers of an atomic (R201). -/
def okAtom (w64 : Bool) (d a b : Reg) : Bool := regEven a && (!w64 || (regEven d && regEven b))
/-- Registers of a compare and swap (R201). -/
def okCas (w64 : Bool) (d a b : Reg) : Bool :=
  okAtom w64 d a b && (if w64 then decide (b.toNat < 126) else decide (b.toNat < 127))
/-- `talloc` reads three uniform registers (R192). -/
def okTalloc (b : Reg) : Bool := decide (b.toNat ≤ 125)
/-- Register fields of a C-format instruction (R101, R212). -/
def okCmd (d a b : Reg) : Bool := regQuad d && regEven a && regEven b

/-- The condition on each constructor's operands. -/
def Instr.wf : Instr → Bool
  | .add d a b _ w => okInt d a b w
  | .sub d a b _ w => okInt d a b w
  | .addSat d a b _ _ wide => okWide wide d a b
  | .subSat d a b _ _ wide => okWide wide d a b
  | .mul d a b _ w => okInt d a b w
  | .mulhi d a b _ _ wide => okWide wide d a b
  | .mad d a b _ w => okMad d a b w
  | .min _ _ _ _ _ => true
  | .max _ _ _ _ _ => true
  | .and _ _ _ _ => true
  | .or _ _ _ _ => true
  | .xor _ _ _ _ => true
  | .andn _ _ _ _ => true
  | .shl _ _ _ _ => true
  | .shrZ _ _ _ _ => true
  | .shrS _ _ _ _ => true
  | .rol _ _ _ _ => true
  | .setp _ _ a b _ w => okCmp a b w
  | .popc _ _ => true
  | .clz _ _ => true
  | .brev _ _ => true
  | .neg _ _ => true
  | .div _ _ _ _ _ => true
  | .rem _ _ _ _ _ => true
  | .addImm _ _ _ => true
  | .movi _ _ => true
  | .movh _ _ => true
  | .uadd d a b w => okInt d a b w
  | .usub d a b w => okInt d a b w
  | .uaddSat d a b _ wide => okWide wide d a b
  | .usubSat d a b _ wide => okWide wide d a b
  | .umul d a b w => okInt d a b w
  | .umulhi d a b _ wide => okWide wide d a b
  | .umad d a b w => okMad d a b w
  | .umin _ _ _ _ => true
  | .umax _ _ _ _ => true
  | .uand _ _ _ => true
  | .uor _ _ _ => true
  | .uxor _ _ _ => true
  | .uandn _ _ _ => true
  | .ushl _ _ _ => true
  | .ushrZ _ _ _ => true
  | .ushrS _ _ _ => true
  | .urol _ _ _ => true
  | .usetp _ _ a b w => okCmp a b w
  | .upopc _ _ => true
  | .uclz _ _ => true
  | .ubrev _ _ => true
  | .uneg _ _ => true
  | .udiv _ _ _ _ => true
  | .urem _ _ _ _ => true
  | .uaddImm _ _ _ => true
  | .umovi _ _ => true
  | .umovh _ _ => true
  | .fadd _ _ _ _ _ => true
  | .fsub _ _ _ _ _ => true
  | .fmul _ _ _ _ _ => true
  | .ffma _ _ b _ _ => okThird b
  | .fmin _ _ _ _ => true
  | .fmax _ _ _ _ => true
  | .fsetp _ _ _ _ _ => true
  | .fabs _ _ => true
  | .fneg _ _ => true
  | .fcpsgn _ _ _ _ => true
  | .fclass _ _ => true
  | .dadd d a b _ _ => okWide true d a b
  | .dsub d a b _ _ => okWide true d a b
  | .dmul d a b _ _ => okWide true d a b
  | .dfma d a b _ _ => okDfma d a b
  | .dmin d a b _ => okWide true d a b
  | .dmax d a b _ => okWide true d a b
  | .dsetp _ _ a b _ => okWide true 0 a b
  | .dabs d a => okWide true d a 0
  | .dneg d a => okWide true d a 0
  | .dcpsgn d a b _ => okWide true d a b
  | .dclass _ a => regEven a
  | .haddF16 _ _ _ _ _ => true
  | .hmulF16 _ _ _ _ _ => true
  | .hfmaF16 _ _ b _ _ => okThird b
  | .hminF16 _ _ _ _ => true
  | .hmaxF16 _ _ _ _ => true
  | .haddBf16 _ _ _ _ _ => true
  | .hmulBf16 _ _ _ _ _ => true
  | .hfmaBf16 _ _ b _ _ => okThird b
  | .hminBf16 _ _ _ _ => true
  | .hmaxBf16 _ _ _ _ => true
  | .cvtToF32 d a sel st rm => okCvt .f32 st sel rm && okCvtRegs .f32 st d a
  | .cvtToF64 d a sel st rm => okCvt .f64 st sel rm && okCvtRegs .f64 st d a
  | .cvtToF16 d a sel st rm => okCvt .f16 st sel rm && okCvtRegs .f16 st d a
  | .cvtToBf16 d a sel st rm => okCvt .bf16 st sel rm && okCvtRegs .bf16 st d a
  | .cvtToE4m3 d a sel st rm => okCvt .e4m3 st sel rm && okCvtRegs .e4m3 st d a
  | .cvtToE5m2 d a sel st rm => okCvt .e5m2 st sel rm && okCvtRegs .e5m2 st d a
  | .cvtQn4F32 _ _ _ _ => true
  | .cvtF32Qn4 _ _ _ _ _ => true
  | .cvtToInteger d a dt f64 _ => okToInt dt f64 d a
  | .rcp _ _ => true
  | .rsq _ _ => true
  | .sqrt _ _ => true
  | .exp2 _ _ => true
  | .log2 _ _ => true
  | .sin _ _ => true
  | .cos _ _ => true
  | .bsel _ _ b _ => okThird b
  | .dp4 _ _ b _ _ => okThird b
  | .dp2 _ _ b _ _ => okThird b
  | .hdp2 _ _ b _ _ => okThird b
  | .bra _ => true
  | .brx a _ => regEven a
  | .call _ => true
  | .ret a _ => regEven a
  | .loop _ _ => true
  | .exit => true
  | .jtok _ => true
  | .join => true
  | .wbase _ => true
  | .part e => okPart e
  | .mfs d sr _ => okMfs d sr
  | .mts sr a _ => okMts sr a
  | .lpickAt _ _ _ _ => true
  | .lpickBack _ _ _ _ => true
  | .lpickFwd _ _ _ _ => true
  | .lpickXor _ _ _ _ => true
  | .lpollAny _ _ => true
  | .lpollAll _ _ => true
  | .lpollMap _ _ => true
  | .redAdd _ _ _ => true
  | .redMin _ _ _ => true
  | .redMax _ _ _ => true
  | .first _ _ _ => true
  | .caddS32 _ _ _ _ => true
  | .caddS64 d a _ _ => okWide true d a 0
  | .caddF32 _ _ _ _ => true
  | .caddF64 d a _ _ => okWide true d a 0
  | .cminS32 _ _ _ _ => true
  | .cminF32 _ _ _ _ => true
  | .cmaxS32 _ _ _ _ => true
  | .cmaxF32 _ _ _ _ => true
  | .cmulF32 _ _ _ _ => true
  | .cfmaF32 _ _ _ _ _ _ => true
  | .cfmaF64 d a b _ _ _ => okWide true d a b
  | .cxorB32 _ _ _ _ => true
  | .cpassB64 d _ _ _ => regEven d
  | .trap _ => true
  | .brk _ => true
  | .tret => true
  | .ldLn d _ _ _ sz => okData sz d
  | .stLn d _ _ _ sz => okData sz d
  | .ldTs d _ b w => okThird b && okData w d
  | .stTs d _ b w => okThird b && okData w d
  | .ldAcc d _ _ w => okData w d
  | .stAcc d _ _ w => okData w d
  | .ldDie d a _ _ sz => regEven a && okData sz d
  | .stDie d a _ _ sz => regEven a && okData sz d
  | .ldFab d a _ _ sz => regEven a && okData sz d
  | .stFab d a _ _ sz => regEven a && okData sz d
  | .ldHost d a _ sz => regEven a && okData sz d
  | .stHost d a _ sz => regEven a && okData sz d
  | .stMc d a mask _ sz => mask != 0 && (regEven a && okData sz d)
  | .atomAdd d a b w64 _ => okAtom w64 d a b
  | .atomMin d a b w64 _ _ => okAtom w64 d a b
  | .atomMax d a b w64 _ _ => okAtom w64 d a b
  | .atomAnd d a b w64 _ => okAtom w64 d a b
  | .atomOr d a b w64 _ => okAtom w64 d a b
  | .atomXor d a b w64 _ => okAtom w64 d a b
  | .atomExch d a b w64 _ => okAtom w64 d a b
  | .atomCas d a b w64 _ => okCas w64 d a b
  | .fatomAdd d a b w64 _ => okAtom w64 d a b
  | .fatomMin d a b w64 _ _ => okAtom w64 d a b
  | .fatomMax d a b w64 _ _ => okAtom w64 d a b
  | .fatomAnd d a b w64 _ => okAtom w64 d a b
  | .fatomOr d a b w64 _ => okAtom w64 d a b
  | .fatomXor d a b w64 _ => okAtom w64 d a b
  | .fatomExch d a b w64 _ => okAtom w64 d a b
  | .fatomCas d a b w64 _ => okCas w64 d a b
  | .talloc _ _ _ b _ => okTalloc b
  | .tfree _ => true
  | .tdesc d _ _ => regQuad d
  | .rlwSet a _ => okThird a
  | .rlwNext d p => p != 6 && okThird d
  | .tatomAdd _ _ b => okThird b
  | .tatomMin _ _ b => okThird b
  | .tatomMax _ _ b => okThird b
  | .tatomExch _ _ b => okThird b
  | .tatomCas d _ b => okThird b && okThird d
  | .phReg _ _ => true
  | .phArrive _ => true
  | .phWait _ => true
  | .phExpect _ _ => true
  | .keyTake => true
  | .keyPass => true
  | .rbGive c => c != 0
  | .rbClaim c => c != 0
  | .monArm _ a _ _ => regEven a
  | .monWait _ _ => true
  | .monDisarm a _ _ => regEven a
  | .fence _ => true
  | .cpFill d a b => okCmd d a b
  | .cpDrain d a b => okCmd d a b
  | .cpTt d a b => okCmd d a b
  | .cpHost d a b _ => okCmd d a b
  | .cpFab d a b _ => okCmd d a b
  | .cpGth d a b _ => okCmd d a b
  | .cpTrn d a b _ => okCmd d a b
  | .cpAcc d a b _ => okCmd d a b
  | .mx d a b _ => okCmd d a b
  | .tsend d a b => okCmd d a b
  | .tland d a b => okCmd d a b
  | .twany a => regEven a
  | .twall a => regEven a
  | .twfirst _ a => regEven a
  | .nop => true
  | .launch d a b => okCmd d a b
  | .driftSet _ _ => true
  | .driftStep _ _ => true
  | .dbgBpClr _ _ => true
  | .dbgBpSet _ a _ => regEven a
  | .dbgBpClaim _ => true
  | .dbgBpFree _ => true
  | .dbgHold _ _ => true
  | .dbgStep _ => true
  | .dbgStepTrap _ => true
  | .dbgRun _ _ => true
  | .dbgWatch d a b => okCmd d a b
  | .dbgMbox a _ => regEven a
  | .dbgMboxBase a _ => regEven a
  | .dbgMboxSamp _ _ => true
  | .dbgMboxRec a _ => regEven a
  | .clauseFetch _ _ _ _ => true
  | .laneExecute _ _ _ => true
  | .chainStep _ _ _ => true
  | .broWrite _ _ => true
  | .resultReady _ _ => true
  | .memoryAccessApply _ _ => true
  | .tatomWriteHalf _ _ => true
  | .pauseHorizonCheck _ _ => true
  | .pauseStop _ => true
  | .sashResume _ => true
  | .waitWake _ _ _ _ => true
  | .monWaitTimeout _ _ _ _ => true
  | .pathFillComplete _ _ _ _ => true
  | .asyncTrapTake _ _ _ _ => true
  | .budgetFault _ _ => true
  | .commandStart _ _ => true
  | .copyBeat _ _ => true
  | .beatSourceRead _ _ => true
  | .beatDestWrite _ _ => true
  | .matrixArrayStart _ _ => true
  | .matrixWrite _ _ => true
  | .tsendDepart _ _ => true
  | .creditCheck _ _ => true
  | .creditArrive _ _ => true
  | .messageArrive _ _ => true
  | .landingCheck _ _ => true
  | .landingCommit _ _ => true
  | .cancelRelease _ _ => true
  | .blockStart _ _ => true
  | .timedBlockStart _ _ => true
  | .blockEnd _ _ => true
  | .ticketRelease _ _ => true
  | .causalApply _ _ => true
  | .schedulingRound _ _ => true
  | .deviceLaunchComplete _ _ => true
  | .containmentWalk _ => true
  | .preemptCut _ _ => true
  | .preemptSave _ _ => true
  | .restore _ _ => true
  | .timedPreempt _ _ => true
  | .pageWalk _ _ => true
  | .translationComplete _ _ => true
  | .pageVerdictRetry _ _ => true
  | .pageVerdictFail _ _ => true
  | .shootdownSmall _ _ => true
  | .shootdownLarge _ _ => true
  | .shootdownBoth _ _ => true
  | .shootdownAll _ => true
  | .shootdownComplete _ => true
  | .uncorrectableError _ _ => true
  | .scrub _ => true
  | .hostAccessComplete _ _ _ => true
  | .driftHoldCycle _ => true
  | .driftSetApply _ => true
  | .driftStepApply _ => true
  | .timingFlit _ _ => true
  | .driftReport _ => true
  | .portLinkLoss _ _ => true
  | .portRetrained _ _ => true
  | .energySample _ => true
  | .byteBudgetInterval _ _ => true
  | .powerWindow _ => true
  | .throttleHold _ => true
  | .railLevelReached _ _ => true
  | .shutterChange _ _ => true
  | .debugCommandArrive _ _ => true
  | .breakpointMatch _ _ _ _ => true
  | .debugHoldTake _ _ _ _ => true
  | .sampleRecord _ _ => true
  | .chunkCommit _ => true
  | .quoteRequest _ _ => true
  | .partitionMap _ _ => true
  | .timeGroup _ _ => true
  | .rootRcb _ _ => true
  | .extend _ _ => true
  | .certificateRequest _ _ => true
  | .unknownMessage _ _ => true
  | .d2hAck _ => true
  | .kernelQuoteServe _ _ _ => true
  | .facceptWrite _ _ => true
  | .dbell _ _ => true
  | .imageLoad _ _ => true
  | .stage2Start _ => true
  | .romStart _ => true
  | .moduleRestart _ => true
  | .registerWrite _ _ _ => true
  | .hostDramWindowWrite _ _ _ => true
  | .dramRefresh _ _ _ => true

end Sys2Proof
end

