-- ==== Sys2Proof/Decode.lean ====
section
/-! DEFINITION. The decoder of 32-bit instruction words, total on every word and rejecting by name in the
order of R115, and the encoder written from the same tables.

The checks that need the issuing course (clause kind, reserved issue-control bit, privilege, allotment and
transfer targets) are made where the slot issues (Machine/Issue.lean). -/

namespace Sys2Proof

/-- Why a word is no instruction: the conditions 3 to 7 of R115. -/
inductive Bad where
  | unassigned | feature | modifier | reserved | register
  deriving DecidableEq, Repr

/-- The UNDEF subcode of a rejection (R113). -/
def Bad.sub : Bad → Nat
  | .unassigned => 3
  | .feature => 6
  | .modifier => 4
  | .reserved => 5
  | .register => 7

/-- What the decoder answers. -/
abbrev Dec := Except Bad Instr

/-- Go on with `k` when the check holds, else reject for the reason `e`. -/
def chk (c : Bool) (e : Bad) (k : Dec) : Dec := if c then k else .error e

/-! ## Fields (R101) -/

/-- `n` bits of a word from bit `lo` up. -/
def field (w : W32) (lo n : Nat) : BitVec n := BitVec.ofNat n (w.toNat / 2 ^ lo)
/-- D of the formats R, I, U, M, H and C. -/
def fD (w : W32) : Reg := field w 25 7
/-- A of the formats R, I, M and C. -/
def fA (w : W32) : Reg := field w 18 7
/-- B of the formats R, M and C. -/
def fB (w : W32) : Reg := field w 11 7
/-- M of the formats R, M and C. -/
def fM (w : W32) : Nat := w.toNat / 2 ^ 8 % 8
/-- The upper bit of M, UB of R103. -/
def fM2 (w : W32) : Bool := decide (w.toNat / 2 ^ 10 % 2 = 1)
/-- M[1:0]. -/
def fM10 (w : W32) : Nat := w.toNat / 2 ^ 8 % 4
/-- M[1]. -/
def fM1 (w : W32) : Bool := decide (w.toNat / 2 ^ 9 % 2 = 1)
/-- M[0]. -/
def fM0 (w : W32) : Bool := decide (w.toNat / 2 ^ 8 % 2 = 1)
/-- The opcode. -/
def fOp (w : W32) : Nat := w.toNat % 256
/-- IMM10 of format I. -/
def fImm10 (w : W32) : BitVec 10 := field w 8 10
/-- IMM17 of format U. -/
def fImm17 (w : W32) : BitVec 17 := field w 8 17
/-- OFFSET of format J. -/
def fOff (w : W32) : BitVec 24 := field w 8 24
/-- HANDLE of format H. -/
def fH (w : W32) : BitVec 8 := field w 17 8
/-- B of format H. -/
def fHB (w : W32) : Reg := field w 10 7

/-! ## Selector values -/

/-- Width field (R123). -/
def intW : Nat → IntW
  | 0 => .w32
  | 1 => .w64
  | 2 => .w16
  | _ => .w8
/-- Access size (R183). -/
def sizeOf_ : Nat → Size
  | 0 => .b32
  | 1 => .b64
  | 2 => .b16
  | _ => .b8
/-- Rounding field (R111). -/
def roundOf : Nat → Round
  | 0 => .rne
  | 1 => .rz
  | 2 => .rd
  | _ => .ru
/-- Rounding field of a conversion (R136); 5 to 7 are reserved. -/
def cvtRoundOf : Nat → Option CvtRound
  | 0 => some (.det .rne)
  | 1 => some (.det .rz)
  | 2 => some (.det .rd)
  | 3 => some (.det .ru)
  | 4 => some .sr
  | _ => none
/-- Condition codes of R126. -/
def condI : Nat → Option CondI
  | 0 => some .eq
  | 1 => some .ne
  | 2 => some .lts
  | 3 => some .les
  | 4 => some .gts
  | 5 => some .ges
  | 6 => some .ltz
  | 7 => some .lez
  | 8 => some .gtz
  | 9 => some .gez
  | _ => none
/-- Condition codes of R132. -/
def condF : Nat → Option CondF
  | 0 => some .eq
  | 1 => some .ne
  | 2 => some .lt
  | 3 => some .le
  | 4 => some .gt
  | 5 => some .ge
  | 6 => some .num
  | 7 => some .nan
  | 8 => some .equ
  | 9 => some .neu
  | 10 => some .ltu
  | 11 => some .leu
  | 12 => some .gtu
  | 13 => some .geu
  | _ => none
/-- STYPE of R136. -/
def sType : Nat → Option SType
  | 0 => some .s32
  | 1 => some .z32
  | 2 => some .s64
  | 3 => some .z64
  | 4 => some .f32
  | 5 => some .f64
  | 6 => some .f16
  | 7 => some .bf16
  | 8 => some .e4m3
  | 9 => some .e5m2
  | 10 => some .s16
  | 11 => some .z16
  | 12 => some .s8
  | 13 => some .z8
  | _ => none
/-- DTYPE of R136. -/
def dType : Nat → DType
  | 0 => .s32
  | 1 => .z32
  | 2 => .s64
  | 3 => .z64
  | 4 => .s16
  | 5 => .z16
  | 6 => .s8
  | _ => .z8
/-- Element types of a dot product (R146). -/
def dotSign : Nat → DotSign
  | 0 => .ss
  | 1 => .zz
  | 2 => .sz
  | _ => .zs
/-- Handle levels (R191); 3 is reserved. -/
def levelOf : Nat → Option Level
  | 0 => some .ts
  | 1 => some .acc
  | 2 => some .trn
  | _ => none
/-- Fence scopes (R111). -/
def scopeOf : Nat → Option Scope
  | 0 => some .crs
  | 1 => some .blk
  | 2 => some .die
  | 3 => some .mod
  | 4 => some .grp
  | _ => none
/-- Pairings of `mx` (R230). -/
def pairOf : Nat → Option MxPair
  | 0 => some .f64
  | 1 => some .f32
  | 2 => some .bf16
  | 3 => some .f16
  | 4 => some .fp8
  | 5 => some .qn4
  | _ => none

/-- The feature bit an opcode belongs to (R362). -/
def featureOf (op : Nat) : Option Nat :=
  if op = 0x88 ∨ op = 0x89 ∨ op = 0x8C ∨ (0x98 ≤ op ∧ op ≤ 0x9F) ∨ op = 0xC4 then some 0
  else if op = 0xC9 ∨ op = 0xCA then some 1
  else if op = 0xC5 then some 2
  else if op = 0x8A ∨ op = 0x8B ∨ op = 0xC3 then some 3
  else if op = 0xE1 then some 4
  else if 0xB2 ≤ op ∧ op ≤ 0xB4 then some 5
  else if 0xE8 ≤ op ∧ op ≤ 0xED then some 6
  else none

/-- Opcodes that R111 assigns. -/
def assigned (op : Nat) : Bool :=
  op ≤ 0x37 || (0x40 ≤ op && op ≤ 0x53) || (0x60 ≤ op && op ≤ 0x8C) || (0x90 ≤ op && op ≤ 0xB5)
    || (0xC0 ≤ op && op ≤ 0xCD) || (0xE0 ≤ op && op ≤ 0xE2) || (0xE8 ≤ op && op ≤ 0xED)

/-- Even registers where the width asks for pairs (R105). -/
def evenIf (c : Bool) (r : Reg) : Bool := !c || regEven r

/-! ## The decoder, class by class

`op` is OP[4:0]; the class is OP[7:5]. The checks stand in the order of R115: modifier and selector values,
reserved fields, register fields. -/

/-- Class 000: integer and logic, lane and uniform forms (R122 to R128). -/
def decode0 (w : W32) : Nat → Dec
  | 0 => chk (okInt (fD w) (fA w) (fB w) (intW (fM10 w))) .register <| .ok (.add (fD w) (fA w) (fB w) (fM2 w) (intW (fM10 w)))
  | 1 => chk (okInt (fD w) (fA w) (fB w) (intW (fM10 w))) .register <| .ok (.sub (fD w) (fA w) (fB w) (fM2 w) (intW (fM10 w)))
  | 4 => chk (okInt (fD w) (fA w) (fB w) (intW (fM10 w))) .register <| .ok (.mul (fD w) (fA w) (fB w) (fM2 w) (intW (fM10 w)))
  | 2 => chk (okWide (fM0 w) (fD w) (fA w) (fB w)) .register <| .ok (.addSat (fD w) (fA w) (fB w) (fM2 w) (fM1 w) (fM0 w))
  | 3 => chk (okWide (fM0 w) (fD w) (fA w) (fB w)) .register <| .ok (.subSat (fD w) (fA w) (fB w) (fM2 w) (fM1 w) (fM0 w))
  | 5 => chk (okWide (fM0 w) (fD w) (fA w) (fB w)) .register <| .ok (.mulhi (fD w) (fA w) (fB w) (fM2 w) (fM1 w) (fM0 w))
  | 6 => chk (okMad (fD w) (fA w) (fB w) (intW (fM10 w))) .register <| .ok (.mad (fD w) (fA w) (fB w) (fM2 w) (intW (fM10 w)))
  | 7 => .ok (if fM1 w then .max (fD w) (fA w) (fB w) (fM2 w) (fM0 w) else .min (fD w) (fA w) (fB w) (fM2 w) (fM0 w))
  | 8 => .ok (match fM10 w with
      | 0 => .and (fD w) (fA w) (fB w) (fM2 w)
      | 1 => .or (fD w) (fA w) (fB w) (fM2 w)
      | 2 => .xor (fD w) (fA w) (fB w) (fM2 w)
      | _ => .andn (fD w) (fA w) (fB w) (fM2 w))
  | 9 => .ok (match fM10 w with
      | 0 => .shl (fD w) (fA w) (fB w) (fM2 w)
      | 1 => .shrZ (fD w) (fA w) (fB w) (fM2 w)
      | 2 => .shrS (fD w) (fA w) (fB w) (fM2 w)
      | _ => .rol (fD w) (fA w) (fB w) (fM2 w))
  | 10 => match condI (w.toNat / 2 ^ 28) with
    | some cc => chk (okCmp (fA w) (fB w) (intW (fM10 w))) .register <| .ok (.setp cc (field w 25 3) (fA w) (fB w) (fM2 w) (intW (fM10 w)))
    | none => .error .modifier
  | 11 => chk (!fM2 w) .modifier <| chk (fB w = 0) .reserved <| .ok (match fM10 w with
      | 0 => .popc (fD w) (fA w)
      | 1 => .clz (fD w) (fA w)
      | 2 => .brev (fD w) (fA w)
      | _ => .neg (fD w) (fA w))
  | 12 => .ok (if fM1 w then .rem (fD w) (fA w) (fB w) (fM2 w) (fM0 w) else .div (fD w) (fA w) (fB w) (fM2 w) (fM0 w))
  | 13 => .ok (.addImm (fD w) (fA w) (fImm10 w))
  | 14 => .ok (.movi (fD w) (fImm17 w))
  | 15 => .ok (.movh (fD w) (fImm17 w))
  | _ => .error .unassigned

/-- The uniform half of class 000 (R118, R122). -/
def decode0u (w : W32) : Nat → Dec
  | 16 => chk (!fM2 w) .modifier <| chk (okInt (fD w) (fA w) (fB w) (intW (fM10 w))) .register <| .ok (.uadd (fD w) (fA w) (fB w) (intW (fM10 w)))
  | 17 => chk (!fM2 w) .modifier <| chk (okInt (fD w) (fA w) (fB w) (intW (fM10 w))) .register <| .ok (.usub (fD w) (fA w) (fB w) (intW (fM10 w)))
  | 20 => chk (!fM2 w) .modifier <| chk (okInt (fD w) (fA w) (fB w) (intW (fM10 w))) .register <| .ok (.umul (fD w) (fA w) (fB w) (intW (fM10 w)))
  | 18 => chk (!fM2 w) .modifier <| chk (okWide (fM0 w) (fD w) (fA w) (fB w)) .register <| .ok (.uaddSat (fD w) (fA w) (fB w) (fM1 w) (fM0 w))
  | 19 => chk (!fM2 w) .modifier <| chk (okWide (fM0 w) (fD w) (fA w) (fB w)) .register <| .ok (.usubSat (fD w) (fA w) (fB w) (fM1 w) (fM0 w))
  | 21 => chk (!fM2 w) .modifier <| chk (okWide (fM0 w) (fD w) (fA w) (fB w)) .register <| .ok (.umulhi (fD w) (fA w) (fB w) (fM1 w) (fM0 w))
  | 22 => chk (!fM2 w) .modifier <| chk (okMad (fD w) (fA w) (fB w) (intW (fM10 w))) .register <| .ok (.umad (fD w) (fA w) (fB w) (intW (fM10 w)))
  | 23 => chk (!fM2 w) .modifier <| .ok (if fM1 w then .umax (fD w) (fA w) (fB w) (fM0 w) else .umin (fD w) (fA w) (fB w) (fM0 w))
  | 24 => chk (!fM2 w) .modifier <| .ok (match fM10 w with
      | 0 => .uand (fD w) (fA w) (fB w)
      | 1 => .uor (fD w) (fA w) (fB w)
      | 2 => .uxor (fD w) (fA w) (fB w)
      | _ => .uandn (fD w) (fA w) (fB w))
  | 25 => chk (!fM2 w) .modifier <| .ok (match fM10 w with
      | 0 => .ushl (fD w) (fA w) (fB w)
      | 1 => .ushrZ (fD w) (fA w) (fB w)
      | 2 => .ushrS (fD w) (fA w) (fB w)
      | _ => .urol (fD w) (fA w) (fB w))
  | 26 => chk (!fM2 w) .modifier <| match condI (w.toNat / 2 ^ 28) with
    | some cc => chk (okCmp (fA w) (fB w) (intW (fM10 w))) .register <| .ok (.usetp cc (field w 25 3) (fA w) (fB w) (intW (fM10 w)))
    | none => .error .modifier
  | 27 => chk (!fM2 w) .modifier <| chk (fB w = 0) .reserved <| .ok (match fM10 w with
      | 0 => .upopc (fD w) (fA w)
      | 1 => .uclz (fD w) (fA w)
      | 2 => .ubrev (fD w) (fA w)
      | _ => .uneg (fD w) (fA w))
  | 28 => chk (!fM2 w) .modifier <| .ok (if fM1 w then .urem (fD w) (fA w) (fB w) (fM0 w) else .udiv (fD w) (fA w) (fB w) (fM0 w))
  | 29 => .ok (.uaddImm (fD w) (fA w) (fImm10 w))
  | 30 => .ok (.umovi (fD w) (fImm17 w))
  | 31 => .ok (.umovh (fD w) (fImm17 w))
  | _ => .error .unassigned

/-- Class 001: floating point (R129 to R134). -/
def decode1 (w : W32) : Nat → Dec
  | 0 => .ok (.fadd (fD w) (fA w) (fB w) (fM2 w) (roundOf (fM10 w)))
  | 1 => .ok (.fsub (fD w) (fA w) (fB w) (fM2 w) (roundOf (fM10 w)))
  | 2 => .ok (.fmul (fD w) (fA w) (fB w) (fM2 w) (roundOf (fM10 w)))
  | 3 => chk (okThird (fB w)) .register <| .ok (.ffma (fD w) (fA w) (fB w) (fM2 w) (roundOf (fM10 w)))
  | 4 => chk (!fM1 w) .modifier <| .ok (if fM0 w then .fmax (fD w) (fA w) (fB w) (fM2 w) else .fmin (fD w) (fA w) (fB w) (fM2 w))
  | 5 => chk (fM10 w = 0) .modifier <| match condF (w.toNat / 2 ^ 28) with
    | some cc => .ok (.fsetp cc (field w 25 3) (fA w) (fB w) (fM2 w))
    | none => .error .modifier
  | 6 => match fM10 w with
    | 0 => chk (!fM2 w) .modifier <| chk (fB w = 0) .reserved <| .ok (.fabs (fD w) (fA w))
    | 1 => chk (!fM2 w) .modifier <| chk (fB w = 0) .reserved <| .ok (.fneg (fD w) (fA w))
    | 2 => .ok (.fcpsgn (fD w) (fA w) (fB w) (fM2 w))
    | _ => .error .modifier
  | 7 => chk (fM w = 0) .modifier <| chk (fB w = 0) .reserved <| .ok (.fclass (fD w) (fA w))
  | 8 => chk (okWide true (fD w) (fA w) (fB w)) .register <| .ok (.dadd (fD w) (fA w) (fB w) (fM2 w) (roundOf (fM10 w)))
  | 9 => chk (okWide true (fD w) (fA w) (fB w)) .register <| .ok (.dsub (fD w) (fA w) (fB w) (fM2 w) (roundOf (fM10 w)))
  | 10 => chk (okWide true (fD w) (fA w) (fB w)) .register <| .ok (.dmul (fD w) (fA w) (fB w) (fM2 w) (roundOf (fM10 w)))
  | 11 => chk (okDfma (fD w) (fA w) (fB w)) .register <| .ok (.dfma (fD w) (fA w) (fB w) (fM2 w) (roundOf (fM10 w)))
  | 12 => chk (!fM1 w) .modifier <| chk (okWide true (fD w) (fA w) (fB w)) .register <| .ok (if fM0 w then .dmax (fD w) (fA w) (fB w) (fM2 w) else .dmin (fD w) (fA w) (fB w) (fM2 w))
  | 13 => chk (fM10 w = 0) .modifier <| match condF (w.toNat / 2 ^ 28) with
    | some cc => chk (okWide true 0 (fA w) (fB w)) .register <| .ok (.dsetp cc (field w 25 3) (fA w) (fB w) (fM2 w))
    | none => .error .modifier
  | 14 => match fM10 w with
    | 0 => chk (!fM2 w) .modifier <| chk (fB w = 0) .reserved <| chk (okWide true (fD w) (fA w) 0) .register <| .ok (.dabs (fD w) (fA w))
    | 1 => chk (!fM2 w) .modifier <| chk (fB w = 0) .reserved <| chk (okWide true (fD w) (fA w) 0) .register <| .ok (.dneg (fD w) (fA w))
    | 2 => chk (okWide true (fD w) (fA w) (fB w)) .register <| .ok (.dcpsgn (fD w) (fA w) (fB w) (fM2 w))
    | _ => .error .modifier
  | 15 => chk (fM w = 0) .modifier <| chk (fB w = 0) .reserved <| chk (regEven (fA w)) .register <| .ok (.dclass (fD w) (fA w))
  | 16 => .ok (.haddF16 (fD w) (fA w) (fB w) (fM2 w) (roundOf (fM10 w)))
  | 17 => .ok (.hmulF16 (fD w) (fA w) (fB w) (fM2 w) (roundOf (fM10 w)))
  | 18 => chk (okThird (fB w)) .register <| .ok (.hfmaF16 (fD w) (fA w) (fB w) (fM2 w) (roundOf (fM10 w)))
  | 19 => chk (!fM1 w) .modifier <| .ok (if fM0 w then .hmaxF16 (fD w) (fA w) (fB w) (fM2 w) else .hminF16 (fD w) (fA w) (fB w) (fM2 w))
  | 20 => .ok (.haddBf16 (fD w) (fA w) (fB w) (fM2 w) (roundOf (fM10 w)))
  | 21 => .ok (.hmulBf16 (fD w) (fA w) (fB w) (fM2 w) (roundOf (fM10 w)))
  | 22 => chk (okThird (fB w)) .register <| .ok (.hfmaBf16 (fD w) (fA w) (fB w) (fM2 w) (roundOf (fM10 w)))
  | 23 => chk (!fM1 w) .modifier <| .ok (if fM0 w then .hmaxBf16 (fD w) (fA w) (fB w) (fM2 w) else .hminBf16 (fD w) (fA w) (fB w) (fM2 w))
  | _ => .error .unassigned

/-- A conversion to a floating-point format (R136, R137): the selector checks, then the instruction. -/
def decodeCvt (w : W32) (dst : SType) (k : SType → CvtRound → Instr) : Dec :=
  match sType (w.toNat / 2 ^ 11 % 16), cvtRoundOf (fM w) with
  | some st, some rm =>
    chk (okCvt dst st (field w 16 2) rm) .modifier <|
    chk (w.toNat / 2 ^ 15 % 2 = 0) .reserved <|
    chk (okCvtRegs dst st (fD w) (fA w)) .register <| .ok (k st rm)
  | _, _ => .error .modifier

/-- Class 010: conversions, special functions, byte permute and dot products (R136 to R147). -/
def decode2 (w : W32) : Nat → Dec
  | 0 => decodeCvt w .f32 fun st rm => .cvtToF32 (fD w) (fA w) (field w 16 2) st rm
  | 1 => decodeCvt w .f64 fun st rm => .cvtToF64 (fD w) (fA w) (field w 16 2) st rm
  | 2 => decodeCvt w .f16 fun st rm => .cvtToF16 (fD w) (fA w) (field w 16 2) st rm
  | 3 => decodeCvt w .bf16 fun st rm => .cvtToBf16 (fD w) (fA w) (field w 16 2) st rm
  | 4 => decodeCvt w .e4m3 fun st rm => .cvtToE4m3 (fD w) (fA w) (field w 16 2) st rm
  | 5 => decodeCvt w .e5m2 fun st rm => .cvtToE5m2 (fD w) (fA w) (field w 16 2) st rm
  | 6 => match cvtRoundOf (fM w) with
    | some rm => .ok (.cvtQn4F32 (fD w) (fA w) (fB w) rm)
    | none => .error .modifier
  | 7 => .ok (.cvtF32Qn4 (fD w) (fA w) (fB w) (fM2 w) (roundOf (fM10 w)))
  | 8 => chk (w.toNat / 2 ^ 11 % 16 = 4 || w.toNat / 2 ^ 11 % 16 = 5) .modifier <| chk (!fM2 w) .modifier <|
    chk (okToInt (dType (w.toNat / 2 ^ 15 % 8)) (w.toNat / 2 ^ 11 % 16 = 5) (fD w) (fA w)) .register <|
    .ok (.cvtToInteger (fD w) (fA w) (dType (w.toNat / 2 ^ 15 % 8)) (w.toNat / 2 ^ 11 % 16 = 5) (roundOf (fM10 w)))
  | 9 => chk (fM w = 0) .modifier <| chk (fB w = 0) .reserved <| .ok (.rcp (fD w) (fA w))
  | 10 => chk (fM w = 0) .modifier <| chk (fB w = 0) .reserved <| .ok (.rsq (fD w) (fA w))
  | 11 => chk (fM w = 0) .modifier <| chk (fB w = 0) .reserved <| .ok (.sqrt (fD w) (fA w))
  | 12 => chk (fM w = 0) .modifier <| chk (fB w = 0) .reserved <| .ok (.exp2 (fD w) (fA w))
  | 13 => chk (fM w = 0) .modifier <| chk (fB w = 0) .reserved <| .ok (.log2 (fD w) (fA w))
  | 14 => chk (fM w = 0) .modifier <| chk (fB w = 0) .reserved <| .ok (.sin (fD w) (fA w))
  | 15 => chk (fM w = 0) .modifier <| chk (fB w = 0) .reserved <| .ok (.cos (fD w) (fA w))
  | 16 => chk (fM10 w = 0) .modifier <| chk (okThird (fB w)) .register <| .ok (.bsel (fD w) (fA w) (fB w) (fM2 w))
  | 17 => chk (okThird (fB w)) .register <| .ok (.dp4 (fD w) (fA w) (fB w) (fM2 w) (dotSign (fM10 w)))
  | 18 => chk (okThird (fB w)) .register <| .ok (.dp2 (fD w) (fA w) (fB w) (fM2 w) (dotSign (fM10 w)))
  | 19 => chk (!fM1 w) .modifier <| chk (okThird (fB w)) .register <| .ok (.hdp2 (fD w) (fA w) (fB w) (fM2 w) (fM0 w))
  | _ => .error .unassigned

/-- Class 011: control, cross-lane, chains and traps (R150 to R172). -/
def decode3 (w : W32) : Nat → Dec
  | 0 => .ok (.bra (fOff w))
  | 1 => chk (!fM2 w && !fM1 w) .modifier <| chk (fD w = 0 && fB w = 0) .reserved <| chk (regEven (fA w)) .register <| .ok (.brx (fA w) (fM0 w))
  | 3 => chk (!fM2 w && !fM1 w) .modifier <| chk (fD w = 0 && fB w = 0) .reserved <| chk (regEven (fA w)) .register <| .ok (.ret (fA w) (fM0 w))
  | 2 => .ok (.call (fOff w))
  | 4 => .ok (.loop (fD w) (fImm17 w))
  | 5 => chk (fM w = 0) .modifier <| chk (fD w = 0 && fA w = 0 && fB w = 0) .reserved <| .ok .exit
  | 6 => .ok (.jtok (fOff w))
  | 7 => chk (fM w = 0) .modifier <| chk (fD w = 0 && fA w = 0 && fB w = 0) .reserved <| .ok .join
  | 8 => chk (fD w = 0 && fA w = 0) .reserved <| .ok (.wbase (fImm10 w))
  | 9 => chk (okPart (fImm10 w)) .modifier <| chk (fD w = 0 && fA w = 0) .reserved <| .ok (.part (fImm10 w))
  | 10 => chk (!fM2 w && !fM1 w) .modifier <| chk (fB w = 0) .reserved <| chk (okMfs (fD w) (fA w)) .register <| .ok (.mfs (fD w) (fA w) (fM0 w))
  | 11 => chk (!fM2 w && !fM1 w) .modifier <| chk (fB w = 0) .reserved <| chk (okMts (fD w) (fA w)) .register <| .ok (.mts (fD w) (fA w) (fM0 w))
  | 12 => .ok (match fM10 w with
      | 0 => .lpickAt (fD w) (fA w) (fB w) (fM2 w)
      | 1 => .lpickBack (fD w) (fA w) (fB w) (fM2 w)
      | 2 => .lpickFwd (fD w) (fA w) (fB w) (fM2 w)
      | _ => .lpickXor (fD w) (fA w) (fB w) (fM2 w))
  | 13 => match fM w with
    | 0 => chk (w.toNat / 2 ^ 28 = 0 && w.toNat / 2 ^ 21 % 16 = 0 && fB w = 0) .reserved <| .ok (.lpollAny (field w 25 3) (field w 18 3))
    | 1 => chk (w.toNat / 2 ^ 28 = 0 && w.toNat / 2 ^ 21 % 16 = 0 && fB w = 0) .reserved <| .ok (.lpollAll (field w 25 3) (field w 18 3))
    | 2 => chk (w.toNat / 2 ^ 21 % 16 = 0 && fB w = 0) .reserved <| .ok (.lpollMap (fD w) (field w 18 3))
    | _ => .error .modifier
  | 14 => match fM10 w with
    | 0 => chk (fB w = 0) .reserved <| .ok (.redAdd (fD w) (fA w) (fM2 w))
    | 1 => chk (fB w = 0) .reserved <| .ok (.redMin (fD w) (fA w) (fM2 w))
    | 2 => chk (fB w = 0) .reserved <| .ok (.redMax (fD w) (fA w) (fM2 w))
    | _ => .error .modifier
  | 15 => chk (!fM2 w && !fM1 w) .modifier <| chk (fB w = 0) .reserved <| .ok (.first (fD w) (fA w) (fM0 w))
  | 16 => chk (!fM2 w) .modifier <| chk (fB w = 0) .reserved <| .ok (.caddS32 (fD w) (fA w) (fM1 w) (fM0 w))
  | 17 => chk (!fM2 w) .modifier <| chk (fB w = 0) .reserved <| chk (okWide true (fD w) (fA w) 0) .register <| .ok (.caddS64 (fD w) (fA w) (fM1 w) (fM0 w))
  | 18 => chk (!fM2 w) .modifier <| chk (fB w = 0) .reserved <| .ok (.caddF32 (fD w) (fA w) (fM1 w) (fM0 w))
  | 19 => chk (!fM2 w) .modifier <| chk (fB w = 0) .reserved <| chk (okWide true (fD w) (fA w) 0) .register <| .ok (.caddF64 (fD w) (fA w) (fM1 w) (fM0 w))
  | 20 => chk (!fM2 w) .modifier <| chk (fB w = 0) .reserved <| .ok (.cminS32 (fD w) (fA w) (fM1 w) (fM0 w))
  | 21 => chk (!fM2 w) .modifier <| chk (fB w = 0) .reserved <| .ok (.cminF32 (fD w) (fA w) (fM1 w) (fM0 w))
  | 22 => chk (!fM2 w) .modifier <| chk (fB w = 0) .reserved <| .ok (.cmaxS32 (fD w) (fA w) (fM1 w) (fM0 w))
  | 23 => chk (!fM2 w) .modifier <| chk (fB w = 0) .reserved <| .ok (.cmaxF32 (fD w) (fA w) (fM1 w) (fM0 w))
  | 24 => chk (!fM2 w) .modifier <| chk (fB w = 0) .reserved <| .ok (.cmulF32 (fD w) (fA w) (fM1 w) (fM0 w))
  | 25 => .ok (.cfmaF32 (fD w) (fA w) (fB w) (fM2 w) (fM1 w) (fM0 w))
  | 26 => chk (okWide true (fD w) (fA w) (fB w)) .register <| .ok (.cfmaF64 (fD w) (fA w) (fB w) (fM2 w) (fM1 w) (fM0 w))
  | 27 => chk (!fM2 w) .modifier <| chk (fB w = 0) .reserved <| .ok (.cxorB32 (fD w) (fA w) (fM1 w) (fM0 w))
  | 28 => chk (!fM2 w) .modifier <| chk (fB w = 0) .reserved <| chk (regEven (fD w)) .register <| .ok (.cpassB64 (fD w) (fA w) (fM1 w) (fM0 w))
  | 29 => chk (fD w = 0 && fA w = 0) .reserved <| .ok (.trap (fImm10 w))
  | 30 => chk (fD w = 0 && fA w = 0) .reserved <| .ok (.brk (fImm10 w))
  | 31 => chk (fM w = 0) .modifier <| chk (fD w = 0 && fA w = 0 && fB w = 0) .reserved <| .ok .tret
  | _ => .error .unassigned

/-- Class 100: loads, stores and atomics (R183 to R190, R201). -/
def decode4 (w : W32) : Nat → Dec
  | 0 => chk (okData (sizeOf_ (fM10 w)) (fD w)) .register <| .ok (.ldLn (fD w) (fA w) (fB w) (fM2 w) (sizeOf_ (fM10 w)))
  | 1 => chk (okData (sizeOf_ (fM10 w)) (fD w)) .register <| .ok (.stLn (fD w) (fA w) (fB w) (fM2 w) (sizeOf_ (fM10 w)))
  | 2 => chk (okThird (fHB w) && okData (sizeOf_ (fM10 w)) (fD w)) .register <| .ok (.ldTs (fD w) (fH w) (fHB w) (sizeOf_ (fM10 w)))
  | 3 => chk (okThird (fHB w) && okData (sizeOf_ (fM10 w)) (fD w)) .register <| .ok (.stTs (fD w) (fH w) (fHB w) (sizeOf_ (fM10 w)))
  | 4 => chk (okData (sizeOf_ (fM10 w)) (fD w)) .register <| .ok (.ldAcc (fD w) (fH w) (fHB w) (sizeOf_ (fM10 w)))
  | 5 => chk (okData (sizeOf_ (fM10 w)) (fD w)) .register <| .ok (.stAcc (fD w) (fH w) (fHB w) (sizeOf_ (fM10 w)))
  | 6 => chk (regEven (fA w) && okData (sizeOf_ (fM10 w)) (fD w)) .register <| .ok (.ldDie (fD w) (fA w) (fB w) (fM2 w) (sizeOf_ (fM10 w)))
  | 7 => chk (regEven (fA w) && okData (sizeOf_ (fM10 w)) (fD w)) .register <| .ok (.stDie (fD w) (fA w) (fB w) (fM2 w) (sizeOf_ (fM10 w)))
  | 8 => chk (regEven (fA w) && okData (sizeOf_ (fM10 w)) (fD w)) .register <| .ok (.ldFab (fD w) (fA w) (fB w) (fM2 w) (sizeOf_ (fM10 w)))
  | 9 => chk (regEven (fA w) && okData (sizeOf_ (fM10 w)) (fD w)) .register <| .ok (.stFab (fD w) (fA w) (fB w) (fM2 w) (sizeOf_ (fM10 w)))
  | 10 => chk (!fM2 w) .modifier <| chk (w.toNat / 2 ^ 17 % 2 = 0) .reserved <| chk (regEven (fA w) && okData (sizeOf_ (fM10 w)) (fD w)) .register <| .ok (.ldHost (fD w) (fA w) (field w 11 6) (sizeOf_ (fM10 w)))
  | 11 => chk (!fM2 w) .modifier <| chk (w.toNat / 2 ^ 17 % 2 = 0) .reserved <| chk (regEven (fA w) && okData (sizeOf_ (fM10 w)) (fD w)) .register <| .ok (.stHost (fD w) (fA w) (field w 11 6) (sizeOf_ (fM10 w)))
  | 12 => chk (field w 11 4 ≠ 0) .modifier <| chk (w.toNat / 2 ^ 15 % 8 = 0) .reserved <| chk (regEven (fA w) && okData (sizeOf_ (fM10 w)) (fD w)) .register <| .ok (.stMc (fD w) (fA w) (field w 11 4) (fM2 w) (sizeOf_ (fM10 w)))
  | 16 => chk (!fM1 w) .modifier <| chk (okAtom (fM0 w) (fD w) (fA w) (fB w)) .register <| .ok (.atomAdd (fD w) (fA w) (fB w) (fM0 w) (fM2 w))
  | 17 => chk (okAtom (fM0 w) (fD w) (fA w) (fB w)) .register <| .ok (.atomMin (fD w) (fA w) (fB w) (fM0 w) (fM1 w) (fM2 w))
  | 18 => chk (okAtom (fM0 w) (fD w) (fA w) (fB w)) .register <| .ok (.atomMax (fD w) (fA w) (fB w) (fM0 w) (fM1 w) (fM2 w))
  | 19 => chk (!fM1 w) .modifier <| chk (okAtom (fM0 w) (fD w) (fA w) (fB w)) .register <| .ok (.atomAnd (fD w) (fA w) (fB w) (fM0 w) (fM2 w))
  | 20 => chk (!fM1 w) .modifier <| chk (okAtom (fM0 w) (fD w) (fA w) (fB w)) .register <| .ok (.atomOr (fD w) (fA w) (fB w) (fM0 w) (fM2 w))
  | 21 => chk (!fM1 w) .modifier <| chk (okAtom (fM0 w) (fD w) (fA w) (fB w)) .register <| .ok (.atomXor (fD w) (fA w) (fB w) (fM0 w) (fM2 w))
  | 22 => chk (!fM1 w) .modifier <| chk (okAtom (fM0 w) (fD w) (fA w) (fB w)) .register <| .ok (.atomExch (fD w) (fA w) (fB w) (fM0 w) (fM2 w))
  | 23 => chk (!fM1 w) .modifier <| chk (okCas (fM0 w) (fD w) (fA w) (fB w)) .register <| .ok (.atomCas (fD w) (fA w) (fB w) (fM0 w) (fM2 w))
  | 24 => chk (!fM1 w) .modifier <| chk (okAtom (fM0 w) (fD w) (fA w) (fB w)) .register <| .ok (.fatomAdd (fD w) (fA w) (fB w) (fM0 w) (fM2 w))
  | 25 => chk (okAtom (fM0 w) (fD w) (fA w) (fB w)) .register <| .ok (.fatomMin (fD w) (fA w) (fB w) (fM0 w) (fM1 w) (fM2 w))
  | 26 => chk (okAtom (fM0 w) (fD w) (fA w) (fB w)) .register <| .ok (.fatomMax (fD w) (fA w) (fB w) (fM0 w) (fM1 w) (fM2 w))
  | 27 => chk (!fM1 w) .modifier <| chk (okAtom (fM0 w) (fD w) (fA w) (fB w)) .register <| .ok (.fatomAnd (fD w) (fA w) (fB w) (fM0 w) (fM2 w))
  | 28 => chk (!fM1 w) .modifier <| chk (okAtom (fM0 w) (fD w) (fA w) (fB w)) .register <| .ok (.fatomOr (fD w) (fA w) (fB w) (fM0 w) (fM2 w))
  | 29 => chk (!fM1 w) .modifier <| chk (okAtom (fM0 w) (fD w) (fA w) (fB w)) .register <| .ok (.fatomXor (fD w) (fA w) (fB w) (fM0 w) (fM2 w))
  | 30 => chk (!fM1 w) .modifier <| chk (okAtom (fM0 w) (fD w) (fA w) (fB w)) .register <| .ok (.fatomExch (fD w) (fA w) (fB w) (fM0 w) (fM2 w))
  | 31 => chk (!fM1 w) .modifier <| chk (okCas (fM0 w) (fD w) (fA w) (fB w)) .register <| .ok (.fatomCas (fD w) (fA w) (fB w) (fM0 w) (fM2 w))
  | _ => .error .unassigned

/-- Class 101: tiles, walker, phasers, key, register blocks, monitors, fence (R191 to R211). -/
def decode5 (w : W32) : Nat → Dec
  | 0 => match levelOf (fM10 w) with
    | some lv => chk (okTalloc (fHB w)) .register <| .ok (.talloc (field w 28 4) (field w 25 3) (fH w) (fHB w) lv)
    | none => .error .modifier
  | 1 => chk (fM10 w = 0) .modifier <| chk (fD w = 0 && fHB w = 0) .reserved <| .ok (.tfree (fH w))
  | 2 => chk (!fM1 w) .modifier <| chk (fHB w = 0) .reserved <| chk (regQuad (fD w)) .register <| .ok (.tdesc (fD w) (fH w) (fM0 w))
  | 3 => chk (fM w = 0) .modifier <| chk (fD w = 0) .reserved <| chk (okThird (fA w)) .register <| .ok (.rlwSet (fA w) (fB w))
  | 4 => chk (fM w = 0 && field w 11 3 ≠ 6) .modifier <| chk (fA w = 0 && w.toNat / 2 ^ 14 % 16 = 0) .reserved <|
    chk (okThird (fD w)) .register <| .ok (.rlwNext (fD w) (field w 11 3))
  | 5 => chk (fM10 w = 0) .modifier <| chk (okThird (fHB w)) .register <| .ok (.tatomAdd (fD w) (fH w) (fHB w))
  | 6 => chk (fM10 w = 0) .modifier <| chk (okThird (fHB w)) .register <| .ok (.tatomMin (fD w) (fH w) (fHB w))
  | 7 => chk (fM10 w = 0) .modifier <| chk (okThird (fHB w)) .register <| .ok (.tatomMax (fD w) (fH w) (fHB w))
  | 8 => chk (fM10 w = 0) .modifier <| chk (okThird (fHB w)) .register <| .ok (.tatomExch (fD w) (fH w) (fHB w))
  | 9 => chk (fM10 w = 0) .modifier <| chk (okThird (fHB w) && okThird (fD w)) .register <| .ok (.tatomCas (fD w) (fH w) (fHB w))
  | 10 => chk (!fM2 w) .modifier <| chk (w.toNat / 2 ^ 29 = 0 && fA w = 0 && fB w = 0) .reserved <| .ok (.phReg (field w 25 4) (field w 8 2))
  | 11 => chk (fM w = 0) .modifier <| chk (w.toNat / 2 ^ 29 = 0 && fA w = 0 && fB w = 0) .reserved <| .ok (.phArrive (field w 25 4))
  | 12 => chk (fM w = 0) .modifier <| chk (w.toNat / 2 ^ 29 = 0 && fA w = 0 && fB w = 0) .reserved <| .ok (.phWait (field w 25 4))
  | 13 => chk (fM w = 0) .modifier <| chk (w.toNat / 2 ^ 29 = 0 && fA w = 0) .reserved <| .ok (.phExpect (field w 25 4) (fB w))
  | 14 => chk (fM w = 0) .modifier <| chk (fD w = 0 && fA w = 0 && fB w = 0) .reserved <| .ok .keyTake
  | 15 => chk (fM w = 0) .modifier <| chk (fD w = 0 && fA w = 0 && fB w = 0) .reserved <| .ok .keyPass
  | 16 => chk (fM w = 0 && field w 11 4 ≠ 0) .modifier <| chk (fD w = 0 && fA w = 0 && w.toNat / 2 ^ 15 % 8 = 0) .reserved <| .ok (.rbGive (field w 11 4))
  | 17 => chk (fM w = 0 && field w 11 4 ≠ 0) .modifier <| chk (fD w = 0 && fA w = 0 && w.toNat / 2 ^ 15 % 8 = 0) .reserved <| .ok (.rbClaim (field w 11 4))
  | 18 => chk (!fM2 w) .modifier <| chk (w.toNat / 2 ^ 28 = 0 && fB w = 0) .reserved <| chk (regEven (fA w)) .register <| .ok (.monArm (field w 25 3) (fA w) (fM0 w) (fM1 w))
  | 19 => chk (fM w = 0) .modifier <| chk (w.toNat / 2 ^ 28 = 0 && fA w = 0) .reserved <| .ok (.monWait (field w 25 3) (fB w))
  | 20 => chk (!fM2 w) .modifier <| chk (fD w = 0 && fB w = 0) .reserved <| chk (regEven (fA w)) .register <| .ok (.monDisarm (fA w) (fM0 w) (fM1 w))
  | 21 => match scopeOf (fM w) with
    | some sc => chk (fD w = 0 && fA w = 0 && fB w = 0) .reserved <| .ok (.fence sc)
    | none => .error .modifier
  | _ => .error .unassigned

/-- Class 110: engine commands and tag waits (R212 to R235). -/
def decode6 (w : W32) : Nat → Dec
  | 0 => chk (fM w = 0) .modifier <| chk (okCmd (fD w) (fA w) (fB w)) .register <| .ok (.cpFill (fD w) (fA w) (fB w))
  | 1 => chk (fM w = 0) .modifier <| chk (okCmd (fD w) (fA w) (fB w)) .register <| .ok (.cpDrain (fD w) (fA w) (fB w))
  | 2 => chk (fM w = 0) .modifier <| chk (okCmd (fD w) (fA w) (fB w)) .register <| .ok (.cpTt (fD w) (fA w) (fB w))
  | 3 => chk (!fM2 w && !fM1 w) .modifier <| chk (okCmd (fD w) (fA w) (fB w)) .register <| .ok (.cpHost (fD w) (fA w) (fB w) (fM0 w))
  | 4 => chk (!fM2 w && !fM1 w) .modifier <| chk (okCmd (fD w) (fA w) (fB w)) .register <| .ok (.cpFab (fD w) (fA w) (fB w) (fM0 w))
  | 5 => chk (!fM2 w && !fM1 w) .modifier <| chk (okCmd (fD w) (fA w) (fB w)) .register <| .ok (.cpGth (fD w) (fA w) (fB w) (fM0 w))
  | 6 => chk (!fM2 w && !fM1 w) .modifier <| chk (okCmd (fD w) (fA w) (fB w)) .register <| .ok (.cpTrn (fD w) (fA w) (fB w) (fM0 w))
  | 7 => match cvtRoundOf (fM w) with
    | some rm => chk (okCmd (fD w) (fA w) (fB w)) .register <| .ok (.cpAcc (fD w) (fA w) (fB w) rm)
    | none => .error .modifier
  | 8 => match pairOf (fM w) with
    | some p => chk (okCmd (fD w) (fA w) (fB w)) .register <| .ok (.mx (fD w) (fA w) (fB w) p)
    | none => .error .modifier
  | 9 => chk (fM w = 0) .modifier <| chk (okCmd (fD w) (fA w) (fB w)) .register <| .ok (.tsend (fD w) (fA w) (fB w))
  | 10 => chk (fM w = 0) .modifier <| chk (okCmd (fD w) (fA w) (fB w)) .register <| .ok (.tland (fD w) (fA w) (fB w))
  | 11 => chk (fM w = 0) .modifier <| chk (fD w = 0 && fB w = 0) .reserved <| chk (regEven (fA w)) .register <| .ok (.twany (fA w))
  | 12 => chk (fM w = 0) .modifier <| chk (fD w = 0 && fB w = 0) .reserved <| chk (regEven (fA w)) .register <| .ok (.twall (fA w))
  | 13 => chk (fM w = 0) .modifier <| chk (fB w = 0) .reserved <| chk (regEven (fA w)) .register <| .ok (.twfirst (fD w) (fA w))
  | _ => .error .unassigned

/-- Class 111: nop, launch, drift and debug (R238, R346, R376). -/
def decode7 (w : W32) : Nat → Dec
  | 0 => chk (fM w = 0) .modifier <| chk (fD w = 0 && fA w = 0 && fB w = 0) .reserved <| .ok .nop
  | 1 => chk (fM w = 0) .modifier <| chk (okCmd (fD w) (fA w) (fB w)) .register <| .ok (.launch (fD w) (fA w) (fB w))
  | 2 => match fM w with
    | 0 => chk (fD w = 0) .reserved <| .ok (.driftSet (fA w) (fB w))
    | 1 => chk (fD w = 0) .reserved <| .ok (.driftStep (fA w) (fB w))
    | _ => .error .modifier
  | 8 => match fM w with
    | 0 => chk (w.toNat / 2 ^ 28 = 0 && fA w = 0) .reserved <| .ok (.dbgBpClr (field w 25 3) (fB w))
    | 1 => chk (w.toNat / 2 ^ 28 = 0) .reserved <| chk (regEven (fA w)) .register <| .ok (.dbgBpSet (field w 25 3) (fA w) (fB w))
    | 2 => chk (fD w = 0 && fA w = 0) .reserved <| .ok (.dbgBpClaim (fB w))
    | 3 => chk (fD w = 0 && fA w = 0) .reserved <| .ok (.dbgBpFree (fB w))
    | _ => .error .modifier
  | 9 => chk (!fM2 w && !fM1 w) .modifier <| chk (fD w = 0 && fA w = 0) .reserved <| .ok (.dbgHold (fB w) (fM0 w))
  | 10 => chk (!fM2 w && !fM1 w) .modifier <| chk (fD w = 0 && fA w = 0) .reserved <| .ok (if fM0 w then .dbgStepTrap (fB w) else .dbgStep (fB w))
  | 11 => chk (!fM2 w && !fM1 w) .modifier <| chk (fD w = 0 && fA w = 0) .reserved <| .ok (.dbgRun (fB w) (fM0 w))
  | 12 => chk (fM w = 0) .modifier <| chk (okCmd (fD w) (fA w) (fB w)) .register <| .ok (.dbgWatch (fD w) (fA w) (fB w))
  | 13 => match fM w with
    | 0 => chk (fD w = 0) .reserved <| chk (regEven (fA w)) .register <| .ok (.dbgMbox (fA w) (fB w))
    | 1 => chk (fD w = 0) .reserved <| chk (regEven (fA w)) .register <| .ok (.dbgMboxBase (fA w) (fB w))
    | 2 => chk (fD w = 0) .reserved <| .ok (.dbgMboxSamp (fA w) (fB w))
    | 3 => chk (fD w = 0) .reserved <| chk (regEven (fA w)) .register <| .ok (.dbgMboxRec (fA w) (fB w))
    | _ => .error .modifier
  | _ => .error .unassigned

/-- Decode by class; the opcode is assigned and its feature accepted. -/
def decodeClass (w : W32) : Nat → Nat → Dec
  | 0, op => if op < 16 then decode0 w op else decode0u w op
  | 1, op => decode1 w op
  | 2, op => decode2 w op
  | 3, op => decode3 w op
  | 4, op => decode4 w op
  | 5, op => decode5 w op
  | 6, op => decode6 w op
  | _, op => decode7 w op

/-- The instruction a word holds under the accepted feature word (R101, R111 to R115). -/
def decodeWord (accept : W32) (w : W32) : Dec :=
  chk (assigned (fOp w)) .unassigned <|
  chk (match featureOf (fOp w) with | some k => accept.getLsbD k | none => true) .feature <|
  decodeClass w (fOp w / 32) (fOp w % 32)

/-- The word of four bytes, the lowest address first (R5). -/
def wordOfBytes : List Byte → Option W32
  | b0 :: b1 :: b2 :: b3 :: _ =>
    some (BitVec.ofNat 32 (b0.toNat + 2 ^ 8 * b1.toNat + 2 ^ 16 * b2.toNat + 2 ^ 24 * b3.toNat))
  | _ => none

/-- Decode bytes as the hardware stores them; fewer than four are no instruction. -/
def decodeBytes (accept : W32) (bs : List Byte) : Dec :=
  match wordOfBytes bs with
  | some w => decodeWord accept w
  | none => .error .unassigned

/-- The four bytes of a word, the lowest address first (R5). -/
def bytesOfWord (w : W32) : List Byte :=
  [BitVec.ofNat 8 w.toNat, BitVec.ofNat 8 (w.toNat / 2 ^ 8), BitVec.ofNat 8 (w.toNat / 2 ^ 16), BitVec.ofNat 8 (w.toNat / 2 ^ 24)]

/-- The instruction the decoder reads from a word of the opcode table's numbering, every feature accepted. -/
def decodeTableWord (_nbits w : Nat) : Option Instr :=
  match decodeBytes Config.fOffer (bytesOfWord (BitVec.ofNat 32 w)) with
  | .ok i => some i
  | .error _ => none

/-! ## The encoder (R101 and the family tables) -/

/-- A bit as a number. -/
def bit (b : Bool) : Nat := if b then 1 else 0
/-- M[2] set where the flag is (UB of R103, ORD of R182). -/
def ubBit (b : Bool) : Nat := if b then 4 else 0
/-- A word of the formats R, M and C. -/
def mkR (d a b : Reg) (m op : Nat) : W32 :=
  BitVec.ofNat 32 ((((d.toNat * 128 + a.toNat) * 128 + b.toNat) * 8 + m) * 256 + op)
/-- A word of format I. -/
def mkI (d a : Reg) (imm : BitVec 10) (op : Nat) : W32 :=
  BitVec.ofNat 32 (((d.toNat * 128 + a.toNat) * 1024 + imm.toNat) * 256 + op)
/-- A word of format U. -/
def mkU (d : Reg) (imm : BitVec 17) (op : Nat) : W32 :=
  BitVec.ofNat 32 ((d.toNat * 131072 + imm.toNat) * 256 + op)
/-- A word of format J. -/
def mkJ (off : BitVec 24) (op : Nat) : W32 := BitVec.ofNat 32 (off.toNat * 256 + op)
/-- A word of format H. -/
def mkH (d : Reg) (h : BitVec 8) (b : Reg) (m op : Nat) : W32 :=
  BitVec.ofNat 32 ((((d.toNat * 256 + h.toNat) * 128 + b.toNat) * 4 + m) * 256 + op)
/-- A D field of a code in [6:3] and a predicate in [2:0]. -/
def ccP (cc : Nat) (p : BitVec 3) : Reg := BitVec.ofNat 7 (cc * 8 + p.toNat)
def intWBits : IntW → Nat
  | .w32 => 0
  | .w64 => 1
  | .w16 => 2
  | .w8 => 3
def sizeBits : Size → Nat
  | .b32 => 0
  | .b64 => 1
  | .b16 => 2
  | .b8 => 3
def roundBits : Round → Nat
  | .rne => 0
  | .rz => 1
  | .rd => 2
  | .ru => 3
def cvtRoundBits : CvtRound → Nat
  | .det r => roundBits r
  | .sr => 4
def condIBits : CondI → Nat
  | .eq => 0
  | .ne => 1
  | .lts => 2
  | .les => 3
  | .gts => 4
  | .ges => 5
  | .ltz => 6
  | .lez => 7
  | .gtz => 8
  | .gez => 9
def condFBits : CondF → Nat
  | .eq => 0
  | .ne => 1
  | .lt => 2
  | .le => 3
  | .gt => 4
  | .ge => 5
  | .num => 6
  | .nan => 7
  | .equ => 8
  | .neu => 9
  | .ltu => 10
  | .leu => 11
  | .gtu => 12
  | .geu => 13
def sTypeBits : SType → Nat
  | .s32 => 0
  | .z32 => 1
  | .s64 => 2
  | .z64 => 3
  | .f32 => 4
  | .f64 => 5
  | .f16 => 6
  | .bf16 => 7
  | .e4m3 => 8
  | .e5m2 => 9
  | .s16 => 10
  | .z16 => 11
  | .s8 => 12
  | .z8 => 13
def dTypeBits : DType → Nat
  | .s32 => 0
  | .z32 => 1
  | .s64 => 2
  | .z64 => 3
  | .s16 => 4
  | .z16 => 5
  | .s8 => 6
  | .z8 => 7
def dotSignBits : DotSign → Nat
  | .ss => 0
  | .zz => 1
  | .sz => 2
  | .zs => 3
def levelBits : Level → Nat
  | .ts => 0
  | .acc => 1
  | .trn => 2
def scopeBits : Scope → Nat
  | .crs => 0
  | .blk => 1
  | .die => 2
  | .mod => 3
  | .grp => 4
def pairBits : MxPair → Nat
  | .f64 => 0
  | .f32 => 1
  | .bf16 => 2
  | .f16 => 3
  | .fp8 => 4
  | .qn4 => 5
/-- The B field of a conversion to floating point: SEL and STYPE (R136). -/
def cvtSel (sel : BitVec 2) (st : SType) : Reg := BitVec.ofNat 7 (sel.toNat * 32 + sTypeBits st)
/-- The B field of a conversion to integer: DTYPE and STYPE (R136). -/
def toIntSel (dt : DType) (f64 : Bool) : Reg := BitVec.ofNat 7 (dTypeBits dt * 16 + (if f64 then 5 else 4))

/-- The word of an instruction; an event row has none. -/
def encode : Instr → Option W32
  | .add d a b ub w => some (mkR d a b (ubBit ub + intWBits w) 0x00)
  | .sub d a b ub w => some (mkR d a b (ubBit ub + intWBits w) 0x01)
  | .addSat d a b ub uns wide => some (mkR d a b (ubBit ub + 2 * bit uns + bit wide) 0x02)
  | .subSat d a b ub uns wide => some (mkR d a b (ubBit ub + 2 * bit uns + bit wide) 0x03)
  | .mul d a b ub w => some (mkR d a b (ubBit ub + intWBits w) 0x04)
  | .mulhi d a b ub uns wide => some (mkR d a b (ubBit ub + 2 * bit uns + bit wide) 0x05)
  | .mad d a b ub w => some (mkR d a b (ubBit ub + intWBits w) 0x06)
  | .min d a b ub uns => some (mkR d a b (ubBit ub + 0 + bit uns) 0x07)
  | .max d a b ub uns => some (mkR d a b (ubBit ub + 2 + bit uns) 0x07)
  | .and d a b ub => some (mkR d a b (ubBit ub + 0) 0x08)
  | .or d a b ub => some (mkR d a b (ubBit ub + 1) 0x08)
  | .xor d a b ub => some (mkR d a b (ubBit ub + 2) 0x08)
  | .andn d a b ub => some (mkR d a b (ubBit ub + 3) 0x08)
  | .shl d a b ub => some (mkR d a b (ubBit ub + 0) 0x09)
  | .shrZ d a b ub => some (mkR d a b (ubBit ub + 1) 0x09)
  | .shrS d a b ub => some (mkR d a b (ubBit ub + 2) 0x09)
  | .rol d a b ub => some (mkR d a b (ubBit ub + 3) 0x09)
  | .setp cc p a b ub w => some (mkR (ccP (condIBits cc) p) a b (ubBit ub + intWBits w) 0x0A)
  | .popc d a => some (mkR d a 0 0 0x0B)
  | .clz d a => some (mkR d a 0 1 0x0B)
  | .brev d a => some (mkR d a 0 2 0x0B)
  | .neg d a => some (mkR d a 0 3 0x0B)
  | .div d a b ub uns => some (mkR d a b (ubBit ub + 0 + bit uns) 0x0C)
  | .rem d a b ub uns => some (mkR d a b (ubBit ub + 2 + bit uns) 0x0C)
  | .addImm d a imm => some (mkI d a imm 0x0D)
  | .movi d imm => some (mkU d imm 0x0E)
  | .movh d imm => some (mkU d imm 0x0F)
  | .uadd d a b w => some (mkR d a b (intWBits w) 0x10)
  | .usub d a b w => some (mkR d a b (intWBits w) 0x11)
  | .uaddSat d a b uns wide => some (mkR d a b (2 * bit uns + bit wide) 0x12)
  | .usubSat d a b uns wide => some (mkR d a b (2 * bit uns + bit wide) 0x13)
  | .umul d a b w => some (mkR d a b (intWBits w) 0x14)
  | .umulhi d a b uns wide => some (mkR d a b (2 * bit uns + bit wide) 0x15)
  | .umad d a b w => some (mkR d a b (intWBits w) 0x16)
  | .umin d a b uns => some (mkR d a b (0 + bit uns) 0x17)
  | .umax d a b uns => some (mkR d a b (2 + bit uns) 0x17)
  | .uand d a b => some (mkR d a b 0 0x18)
  | .uor d a b => some (mkR d a b 1 0x18)
  | .uxor d a b => some (mkR d a b 2 0x18)
  | .uandn d a b => some (mkR d a b 3 0x18)
  | .ushl d a b => some (mkR d a b 0 0x19)
  | .ushrZ d a b => some (mkR d a b 1 0x19)
  | .ushrS d a b => some (mkR d a b 2 0x19)
  | .urol d a b => some (mkR d a b 3 0x19)
  | .usetp cc p a b w => some (mkR (ccP (condIBits cc) p) a b (intWBits w) 0x1A)
  | .upopc d a => some (mkR d a 0 0 0x1B)
  | .uclz d a => some (mkR d a 0 1 0x1B)
  | .ubrev d a => some (mkR d a 0 2 0x1B)
  | .uneg d a => some (mkR d a 0 3 0x1B)
  | .udiv d a b uns => some (mkR d a b (0 + bit uns) 0x1C)
  | .urem d a b uns => some (mkR d a b (2 + bit uns) 0x1C)
  | .uaddImm d a imm => some (mkI d a imm 0x1D)
  | .umovi d imm => some (mkU d imm 0x1E)
  | .umovh d imm => some (mkU d imm 0x1F)
  | .fadd d a b ub rm => some (mkR d a b (ubBit ub + roundBits rm) 0x20)
  | .fsub d a b ub rm => some (mkR d a b (ubBit ub + roundBits rm) 0x21)
  | .fmul d a b ub rm => some (mkR d a b (ubBit ub + roundBits rm) 0x22)
  | .ffma d a b ub rm => some (mkR d a b (ubBit ub + roundBits rm) 0x23)
  | .fmin d a b ub => some (mkR d a b (ubBit ub) 0x24)
  | .fmax d a b ub => some (mkR d a b (ubBit ub + 1) 0x24)
  | .fsetp cc p a b ub => some (mkR (ccP (condFBits cc) p) a b (ubBit ub) 0x25)
  | .fabs d a => some (mkR d a 0 0 0x26)
  | .fneg d a => some (mkR d a 0 1 0x26)
  | .fcpsgn d a b ub => some (mkR d a b (ubBit ub + 2) 0x26)
  | .fclass d a => some (mkR d a 0 0 0x27)
  | .dadd d a b ub rm => some (mkR d a b (ubBit ub + roundBits rm) 0x28)
  | .dsub d a b ub rm => some (mkR d a b (ubBit ub + roundBits rm) 0x29)
  | .dmul d a b ub rm => some (mkR d a b (ubBit ub + roundBits rm) 0x2A)
  | .dfma d a b ub rm => some (mkR d a b (ubBit ub + roundBits rm) 0x2B)
  | .dmin d a b ub => some (mkR d a b (ubBit ub) 0x2C)
  | .dmax d a b ub => some (mkR d a b (ubBit ub + 1) 0x2C)
  | .dsetp cc p a b ub => some (mkR (ccP (condFBits cc) p) a b (ubBit ub) 0x2D)
  | .dabs d a => some (mkR d a 0 0 0x2E)
  | .dneg d a => some (mkR d a 0 1 0x2E)
  | .dcpsgn d a b ub => some (mkR d a b (ubBit ub + 2) 0x2E)
  | .dclass d a => some (mkR d a 0 0 0x2F)
  | .haddF16 d a b ub rm => some (mkR d a b (ubBit ub + roundBits rm) 0x30)
  | .hmulF16 d a b ub rm => some (mkR d a b (ubBit ub + roundBits rm) 0x31)
  | .hfmaF16 d a b ub rm => some (mkR d a b (ubBit ub + roundBits rm) 0x32)
  | .hminF16 d a b ub => some (mkR d a b (ubBit ub) 0x33)
  | .hmaxF16 d a b ub => some (mkR d a b (ubBit ub + 1) 0x33)
  | .haddBf16 d a b ub rm => some (mkR d a b (ubBit ub + roundBits rm) 0x34)
  | .hmulBf16 d a b ub rm => some (mkR d a b (ubBit ub + roundBits rm) 0x35)
  | .hfmaBf16 d a b ub rm => some (mkR d a b (ubBit ub + roundBits rm) 0x36)
  | .hminBf16 d a b ub => some (mkR d a b (ubBit ub) 0x37)
  | .hmaxBf16 d a b ub => some (mkR d a b (ubBit ub + 1) 0x37)
  | .cvtToF32 d a sel st rm => some (mkR d a (cvtSel sel st) (cvtRoundBits rm) 0x40)
  | .cvtToF64 d a sel st rm => some (mkR d a (cvtSel sel st) (cvtRoundBits rm) 0x41)
  | .cvtToF16 d a sel st rm => some (mkR d a (cvtSel sel st) (cvtRoundBits rm) 0x42)
  | .cvtToBf16 d a sel st rm => some (mkR d a (cvtSel sel st) (cvtRoundBits rm) 0x43)
  | .cvtToE4m3 d a sel st rm => some (mkR d a (cvtSel sel st) (cvtRoundBits rm) 0x44)
  | .cvtToE5m2 d a sel st rm => some (mkR d a (cvtSel sel st) (cvtRoundBits rm) 0x45)
  | .cvtQn4F32 d a b rm => some (mkR d a b (cvtRoundBits rm) 0x46)
  | .cvtF32Qn4 d a b ub rm => some (mkR d a b (ubBit ub + roundBits rm) 0x47)
  | .cvtToInteger d a dt f64 rm => some (mkR d a (toIntSel dt f64) (roundBits rm) 0x48)
  | .rcp d a => some (mkR d a 0 0 0x49)
  | .rsq d a => some (mkR d a 0 0 0x4A)
  | .sqrt d a => some (mkR d a 0 0 0x4B)
  | .exp2 d a => some (mkR d a 0 0 0x4C)
  | .log2 d a => some (mkR d a 0 0 0x4D)
  | .sin d a => some (mkR d a 0 0 0x4E)
  | .cos d a => some (mkR d a 0 0 0x4F)
  | .bsel d a b ub => some (mkR d a b (ubBit ub) 0x50)
  | .dp4 d a b ub sg => some (mkR d a b (ubBit ub + dotSignBits sg) 0x51)
  | .dp2 d a b ub sg => some (mkR d a b (ubBit ub + dotSignBits sg) 0x52)
  | .hdp2 d a b ub bf => some (mkR d a b (ubBit ub + bit bf) 0x53)
  | .bra off => some (mkJ off 0x60)
  | .brx a uni => some (mkR 0 a 0 (bit uni) 0x61)
  | .call off => some (mkJ off 0x62)
  | .ret a uni => some (mkR 0 a 0 (bit uni) 0x63)
  | .loop d off => some (mkU d off 0x64)
  | .exit => some (mkR 0 0 0 0 0x65)
  | .jtok off => some (mkJ off 0x66)
  | .join => some (mkR 0 0 0 0 0x67)
  | .wbase n => some (mkI 0 0 n 0x68)
  | .part e => some (mkI 0 0 e 0x69)
  | .mfs d sr uni => some (mkR d sr 0 (bit uni) 0x6A)
  | .mts sr a uni => some (mkR sr a 0 (bit uni) 0x6B)
  | .lpickAt d a b ub => some (mkR d a b (ubBit ub + 0) 0x6C)
  | .lpickBack d a b ub => some (mkR d a b (ubBit ub + 1) 0x6C)
  | .lpickFwd d a b ub => some (mkR d a b (ubBit ub + 2) 0x6C)
  | .lpickXor d a b ub => some (mkR d a b (ubBit ub + 3) 0x6C)
  | .lpollAny p q => some (mkR (ccP 0 p) (ccP 0 q) 0 0 0x6D)
  | .lpollAll p q => some (mkR (ccP 0 p) (ccP 0 q) 0 1 0x6D)
  | .lpollMap d q => some (mkR d (ccP 0 q) 0 2 0x6D)
  | .redAdd d a uns => some (mkR d a 0 (ubBit uns + 0) 0x6E)
  | .redMin d a uns => some (mkR d a 0 (ubBit uns + 1) 0x6E)
  | .redMax d a uns => some (mkR d a 0 (ubBit uns + 2) 0x6E)
  | .first d a idx => some (mkR d a 0 (bit idx) 0x6F)
  | .caddS32 d a seg br => some (mkR d a 0 (2 * bit seg + bit br) 0x70)
  | .caddS64 d a seg br => some (mkR d a 0 (2 * bit seg + bit br) 0x71)
  | .caddF32 d a seg br => some (mkR d a 0 (2 * bit seg + bit br) 0x72)
  | .caddF64 d a seg br => some (mkR d a 0 (2 * bit seg + bit br) 0x73)
  | .cminS32 d a seg br => some (mkR d a 0 (2 * bit seg + bit br) 0x74)
  | .cminF32 d a seg br => some (mkR d a 0 (2 * bit seg + bit br) 0x75)
  | .cmaxS32 d a seg br => some (mkR d a 0 (2 * bit seg + bit br) 0x76)
  | .cmaxF32 d a seg br => some (mkR d a 0 (2 * bit seg + bit br) 0x77)
  | .cmulF32 d a seg br => some (mkR d a 0 (2 * bit seg + bit br) 0x78)
  | .cfmaF32 d a b ub seg br => some (mkR d a b (ubBit ub + 2 * bit seg + bit br) 0x79)
  | .cfmaF64 d a b ub seg br => some (mkR d a b (ubBit ub + 2 * bit seg + bit br) 0x7A)
  | .cxorB32 d a seg br => some (mkR d a 0 (2 * bit seg + bit br) 0x7B)
  | .cpassB64 d a seg br => some (mkR d a 0 (2 * bit seg + bit br) 0x7C)
  | .trap c => some (mkI 0 0 c 0x7D)
  | .brk c => some (mkI 0 0 c 0x7E)
  | .tret => some (mkR 0 0 0 0 0x7F)
  | .ldLn d a off ord sz => some (mkR d a off (ubBit ord + sizeBits sz) 0x80)
  | .stLn d a off ord sz => some (mkR d a off (ubBit ord + sizeBits sz) 0x81)
  | .ldTs d h b w => some (mkH d h b (sizeBits w) 0x82)
  | .stTs d h b w => some (mkH d h b (sizeBits w) 0x83)
  | .ldAcc d h b w => some (mkH d h b (sizeBits w) 0x84)
  | .stAcc d h b w => some (mkH d h b (sizeBits w) 0x85)
  | .ldDie d a off ord sz => some (mkR d a off (ubBit ord + sizeBits sz) 0x86)
  | .stDie d a off ord sz => some (mkR d a off (ubBit ord + sizeBits sz) 0x87)
  | .ldFab d a off ord sz => some (mkR d a off (ubBit ord + sizeBits sz) 0x88)
  | .stFab d a off ord sz => some (mkR d a off (ubBit ord + sizeBits sz) 0x89)
  | .ldHost d a tag sz => some (mkR d a (tag.zeroExtend 7) (sizeBits sz) 0x8A)
  | .stHost d a tag sz => some (mkR d a (tag.zeroExtend 7) (sizeBits sz) 0x8B)
  | .stMc d a mask ord sz => some (mkR d a (mask.zeroExtend 7) (ubBit ord + sizeBits sz) 0x8C)
  | .atomAdd d a b w64 ord => some (mkR d a b (ubBit ord + bit w64) 0x90)
  | .atomMin d a b w64 uns ord => some (mkR d a b (ubBit ord + 2 * bit uns + bit w64) 0x91)
  | .atomMax d a b w64 uns ord => some (mkR d a b (ubBit ord + 2 * bit uns + bit w64) 0x92)
  | .atomAnd d a b w64 ord => some (mkR d a b (ubBit ord + bit w64) 0x93)
  | .atomOr d a b w64 ord => some (mkR d a b (ubBit ord + bit w64) 0x94)
  | .atomXor d a b w64 ord => some (mkR d a b (ubBit ord + bit w64) 0x95)
  | .atomExch d a b w64 ord => some (mkR d a b (ubBit ord + bit w64) 0x96)
  | .atomCas d a b w64 ord => some (mkR d a b (ubBit ord + bit w64) 0x97)
  | .fatomAdd d a b w64 ord => some (mkR d a b (ubBit ord + bit w64) 0x98)
  | .fatomMin d a b w64 uns ord => some (mkR d a b (ubBit ord + 2 * bit uns + bit w64) 0x99)
  | .fatomMax d a b w64 uns ord => some (mkR d a b (ubBit ord + 2 * bit uns + bit w64) 0x9A)
  | .fatomAnd d a b w64 ord => some (mkR d a b (ubBit ord + bit w64) 0x9B)
  | .fatomOr d a b w64 ord => some (mkR d a b (ubBit ord + bit w64) 0x9C)
  | .fatomXor d a b w64 ord => some (mkR d a b (ubBit ord + bit w64) 0x9D)
  | .fatomExch d a b w64 ord => some (mkR d a b (ubBit ord + bit w64) 0x9E)
  | .fatomCas d a b w64 ord => some (mkR d a b (ubBit ord + bit w64) 0x9F)
  | .talloc fmt p h b lv => some (mkH (ccP fmt.toNat p) h b (levelBits lv) 0xA0)
  | .tfree h => some (mkH 0 h 0 0 0xA1)
  | .tdesc d h uni => some (mkH d h 0 (bit uni) 0xA2)
  | .rlwSet a b => some (mkR 0 a b 0 0xA3)
  | .rlwNext d p => some (mkR d 0 (p.zeroExtend 7) 0 0xA4)
  | .tatomAdd d h b => some (mkH d h b 0 0xA5)
  | .tatomMin d h b => some (mkH d h b 0 0xA6)
  | .tatomMax d h b => some (mkH d h b 0 0xA7)
  | .tatomExch d h b => some (mkH d h b 0 0xA8)
  | .tatomCas d h b => some (mkH d h b 0 0xA9)
  | .phReg n role => some (mkR (n.zeroExtend 7) 0 0 role.toNat 0xAA)
  | .phArrive n => some (mkR (n.zeroExtend 7) 0 0 0 0xAB)
  | .phWait n => some (mkR (n.zeroExtend 7) 0 0 0 0xAC)
  | .phExpect n b => some (mkR (n.zeroExtend 7) 0 b 0 0xAD)
  | .keyTake => some (mkR 0 0 0 0 0xAE)
  | .keyPass => some (mkR 0 0 0 0 0xAF)
  | .rbGive c => some (mkR 0 0 (c.zeroExtend 7) 0 0xB0)
  | .rbClaim c => some (mkR 0 0 (c.zeroExtend 7) 0 0xB1)
  | .monArm p a fab uni => some (mkR (ccP 0 p) a 0 (2 * bit uni + bit fab) 0xB2)
  | .monWait p b => some (mkR (ccP 0 p) 0 b 0 0xB3)
  | .monDisarm a fab uni => some (mkR 0 a 0 (2 * bit uni + bit fab) 0xB4)
  | .fence sc => some (mkR 0 0 0 (scopeBits sc) 0xB5)
  | .cpFill d a b => some (mkR d a b 0 0xC0)
  | .cpDrain d a b => some (mkR d a b 0 0xC1)
  | .cpTt d a b => some (mkR d a b 0 0xC2)
  | .cpHost d a b fromHandle => some (mkR d a b (bit fromHandle) 0xC3)
  | .cpFab d a b fromHandle => some (mkR d a b (bit fromHandle) 0xC4)
  | .cpGth d a b fab => some (mkR d a b (bit fab) 0xC5)
  | .cpTrn d a b fromTs => some (mkR d a b (bit fromTs) 0xC6)
  | .cpAcc d a b rm => some (mkR d a b (cvtRoundBits rm) 0xC7)
  | .mx d a b pair => some (mkR d a b (pairBits pair) 0xC8)
  | .tsend d a b => some (mkR d a b 0 0xC9)
  | .tland d a b => some (mkR d a b 0 0xCA)
  | .twany a => some (mkR 0 a 0 0 0xCB)
  | .twall a => some (mkR 0 a 0 0 0xCC)
  | .twfirst d a => some (mkR d a 0 0 0xCD)
  | .nop => some (mkR 0 0 0 0 0xE0)
  | .launch d a b => some (mkR d a b 0 0xE1)
  | .driftSet a b => some (mkR 0 a b 0 0xE2)
  | .driftStep a b => some (mkR 0 a b 1 0xE2)
  | .dbgBpClr e b => some (mkR (e.zeroExtend 7) 0 b 0 0xE8)
  | .dbgBpSet e a b => some (mkR (e.zeroExtend 7) a b 1 0xE8)
  | .dbgBpClaim b => some (mkR 0 0 b 2 0xE8)
  | .dbgBpFree b => some (mkR 0 0 b 3 0xE8)
  | .dbgHold b crs => some (mkR 0 0 b (bit crs) 0xE9)
  | .dbgStep b => some (mkR 0 0 b 0 0xEA)
  | .dbgStepTrap b => some (mkR 0 0 b 1 0xEA)
  | .dbgRun b crs => some (mkR 0 0 b (bit crs) 0xEB)
  | .dbgWatch d a b => some (mkR d a b 0 0xEC)
  | .dbgMbox a b => some (mkR 0 a b 0 0xED)
  | .dbgMboxBase a b => some (mkR 0 a b 1 0xED)
  | .dbgMboxSamp a b => some (mkR 0 a b 2 0xED)
  | .dbgMboxRec a b => some (mkR 0 a b 3 0xED)
  | .clauseFetch _ _ _ _ => none
  | .laneExecute _ _ _ => none
  | .chainStep _ _ _ => none
  | .broWrite _ _ => none
  | .resultReady _ _ => none
  | .memoryAccessApply _ _ => none
  | .tatomWriteHalf _ _ => none
  | .pauseHorizonCheck _ _ => none
  | .pauseStop _ => none
  | .sashResume _ => none
  | .waitWake _ _ _ _ => none
  | .monWaitTimeout _ _ _ _ => none
  | .pathFillComplete _ _ _ _ => none
  | .asyncTrapTake _ _ _ _ => none
  | .budgetFault _ _ => none
  | .commandStart _ _ => none
  | .copyBeat _ _ => none
  | .beatSourceRead _ _ => none
  | .beatDestWrite _ _ => none
  | .matrixArrayStart _ _ => none
  | .matrixWrite _ _ => none
  | .tsendDepart _ _ => none
  | .creditCheck _ _ => none
  | .creditArrive _ _ => none
  | .messageArrive _ _ => none
  | .landingCheck _ _ => none
  | .landingCommit _ _ => none
  | .cancelRelease _ _ => none
  | .blockStart _ _ => none
  | .timedBlockStart _ _ => none
  | .blockEnd _ _ => none
  | .ticketRelease _ _ => none
  | .causalApply _ _ => none
  | .schedulingRound _ _ => none
  | .deviceLaunchComplete _ _ => none
  | .containmentWalk _ => none
  | .preemptCut _ _ => none
  | .preemptSave _ _ => none
  | .restore _ _ => none
  | .timedPreempt _ _ => none
  | .pageWalk _ _ => none
  | .translationComplete _ _ => none
  | .pageVerdictRetry _ _ => none
  | .pageVerdictFail _ _ => none
  | .shootdownSmall _ _ => none
  | .shootdownLarge _ _ => none
  | .shootdownBoth _ _ => none
  | .shootdownAll _ => none
  | .shootdownComplete _ => none
  | .uncorrectableError _ _ => none
  | .scrub _ => none
  | .hostAccessComplete _ _ _ => none
  | .driftHoldCycle _ => none
  | .driftSetApply _ => none
  | .driftStepApply _ => none
  | .timingFlit _ _ => none
  | .driftReport _ => none
  | .portLinkLoss _ _ => none
  | .portRetrained _ _ => none
  | .energySample _ => none
  | .byteBudgetInterval _ _ => none
  | .powerWindow _ => none
  | .throttleHold _ => none
  | .railLevelReached _ _ => none
  | .shutterChange _ _ => none
  | .debugCommandArrive _ _ => none
  | .breakpointMatch _ _ _ _ => none
  | .debugHoldTake _ _ _ _ => none
  | .sampleRecord _ _ => none
  | .chunkCommit _ => none
  | .quoteRequest _ _ => none
  | .partitionMap _ _ => none
  | .timeGroup _ _ => none
  | .rootRcb _ _ => none
  | .extend _ _ => none
  | .certificateRequest _ _ => none
  | .unknownMessage _ _ => none
  | .d2hAck _ => none
  | .kernelQuoteServe _ _ _ => none
  | .facceptWrite _ _ => none
  | .dbell _ _ => none
  | .imageLoad _ _ => none
  | .stage2Start _ => none
  | .romStart _ => none
  | .moduleRestart _ => none
  | .registerWrite _ _ _ => none
  | .hostDramWindowWrite _ _ _ => none
  | .dramRefresh _ _ _ => none

end Sys2Proof
end

