-- ==== Sys2Proof/Machine/Event.lean ====
section
/-! DEFINITION. The events of the machine: the rows of the opcode table that no program word encodes, as values that the state
and the order of steps hold. Lean's runtime builds no constructor with a number above 244, and `Instr` has 315, so a list of
pending events cannot hold `Instr`s that also run; `Event.instr` (Machine/Perform.lean) says which row each event is. -/

namespace Sys2Proof.Machine

/-- An event of the machine. -/
inductive Event where
  /-- `CLAUSE_FETCH`. -/
  | clauseFetch (c : Nat) (owner : Nat) (cr : Nat) (slot : Nat)
  /-- `LANE_EXECUTE`. -/
  | laneExecute (c : Nat) (seq : Nat) (lane : Nat)
  /-- `CHAIN_STEP`. -/
  | chainStep (c : Nat) (seq : Nat) (lane : Nat)
  /-- `BRO_WRITE`. -/
  | broWrite (c : Nat) (seq : Nat)
  /-- `RESULT_READY`. -/
  | resultReady (c : Nat) (rid : Nat)
  /-- `MEMORY_ACCESS_APPLY`. -/
  | memoryAccessApply (c : Nat) (aid : Nat)
  /-- `TATOM_WRITE_HALF`. -/
  | tatomWriteHalf (c : Nat) (aid : Nat)
  /-- `PAUSE_HORIZON_CHECK`. -/
  | pauseHorizonCheck (c : Nat) (aid : Nat)
  /-- `PAUSE_STOP`. -/
  | pauseStop (sash : Nat)
  /-- `SASH_RESUME`. -/
  | sashResume (sash : Nat)
  /-- `WAIT_WAKE`. -/
  | waitWake (c : Nat) (owner : Nat) (cr : Nat) (slot : Nat)
  /-- `MON_WAIT_TIMEOUT`. -/
  | monWaitTimeout (c : Nat) (owner : Nat) (cr : Nat) (slot : Nat)
  /-- `PATH_FILL_COMPLETE`. -/
  | pathFillComplete (c : Nat) (owner : Nat) (cr : Nat) (slot : Nat)
  /-- `ASYNC_TRAP_TAKE`. -/
  | asyncTrapTake (c : Nat) (owner : Nat) (cr : Nat) (slot : Nat)
  /-- `BUDGET_FAULT`. -/
  | budgetFault (c : Nat) (owner : Nat)
  /-- `COMMAND_START`. -/
  | commandStart (c : Nat) (cid : Nat)
  /-- `COPY_BEAT`. -/
  | copyBeat (c : Nat) (queue : Nat)
  /-- `BEAT_SOURCE_READ`. -/
  | beatSourceRead (c : Nat) (bid : Nat)
  /-- `BEAT_DEST_WRITE`. -/
  | beatDestWrite (c : Nat) (bid : Nat)
  /-- `MATRIX_ARRAY_START`. -/
  | matrixArrayStart (c : Nat) (cid : Nat)
  /-- `MATRIX_WRITE`. -/
  | matrixWrite (c : Nat) (cid : Nat)
  /-- `TSEND_DEPART`. -/
  | tsendDepart (c : Nat) (cid : Nat)
  /-- `CREDIT_CHECK`. -/
  | creditCheck (c : Nat) (cid : Nat)
  /-- `CREDIT_ARRIVE`. -/
  | creditArrive (c : Nat) (xid : Nat)
  /-- `MESSAGE_ARRIVE`. -/
  | messageArrive (c : Nat) (xid : Nat)
  /-- `LANDING_CHECK`. -/
  | landingCheck (c : Nat) (arm : Nat)
  /-- `LANDING_COMMIT`. -/
  | landingCommit (c : Nat) (arm : Nat)
  /-- `CANCEL_RELEASE`. -/
  | cancelRelease (c : Nat) (arm : Nat)
  /-- `BLOCK_START`. -/
  | blockStart (c : Nat) (owner : Nat)
  /-- `TIMED_BLOCK_START`. -/
  | timedBlockStart (c : Nat) (owner : Nat)
  /-- `BLOCK_END`. -/
  | blockEnd (c : Nat) (owner : Nat)
  /-- `TICKET_RELEASE`. -/
  | ticketRelease (c : Nat) (owner : Nat)
  /-- `CAUSAL_APPLY`. -/
  | causalApply (die : Nat) (wid : Nat)
  /-- `SCHEDULING_ROUND`. -/
  | schedulingRound (m : Nat) (part : Nat)
  /-- `DEVICE_LAUNCH_COMPLETE`. -/
  | deviceLaunchComplete (c : Nat) (cid : Nat)
  /-- `CONTAINMENT_WALK`. -/
  | containmentWalk (c : Nat)
  /-- `PREEMPT_CUT`. -/
  | preemptCut (c : Nat) (owner : Nat)
  /-- `PREEMPT_SAVE`. -/
  | preemptSave (c : Nat) (owner : Nat)
  /-- `RESTORE`. -/
  | restore (m : Nat) (idx : Nat)
  /-- `TIMED_PREEMPT`. -/
  | timedPreempt (m : Nat) (lid : Nat)
  /-- `PAGE_WALK`. -/
  | pageWalk (die : Nat) (wid : Nat)
  /-- `TRANSLATION_COMPLETE`. -/
  | translationComplete (die : Nat) (wid : Nat)
  /-- `PAGE_VERDICT_RETRY`. -/
  | pageVerdictRetry (die : Nat) (slot : Nat)
  /-- `PAGE_VERDICT_FAIL`. -/
  | pageVerdictFail (die : Nat) (slot : Nat)
  /-- `SHOOTDOWN_SMALL`. -/
  | shootdownSmall (die : Nat) (page : BitVec 32)
  /-- `SHOOTDOWN_LARGE`. -/
  | shootdownLarge (die : Nat) (page : BitVec 32)
  /-- `SHOOTDOWN_BOTH`. -/
  | shootdownBoth (die : Nat) (page : BitVec 32)
  /-- `SHOOTDOWN_ALL`. -/
  | shootdownAll (die : Nat)
  /-- `SHOOTDOWN_COMPLETE`. -/
  | shootdownComplete (die : Nat)
  /-- `UNCORRECTABLE_ERROR`. -/
  | uncorrectableError (store : Nat) (granule : Nat)
  /-- `SCRUB`. -/
  | scrub (die : Nat)
  /-- `HOST_ACCESS_COMPLETE`. -/
  | hostAccessComplete (c : Nat) (aid : Nat) (refused : Bool)
  /-- `DRIFT_HOLD_CYCLE`. -/
  | driftHoldCycle (m : Nat)
  /-- `DRIFT_SET_APPLY`. -/
  | driftSetApply (m : Nat)
  /-- `DRIFT_STEP_APPLY`. -/
  | driftStepApply (m : Nat)
  /-- `TIMING_FLIT`. -/
  | timingFlit (m : Nat) (port : Nat)
  /-- `DRIFT_REPORT`. -/
  | driftReport (m : Nat)
  /-- `PORT_LINK_LOSS`. -/
  | portLinkLoss (m : Nat) (port : Nat)
  /-- `PORT_RETRAINED`. -/
  | portRetrained (m : Nat) (port : Nat)
  /-- `ENERGY_SAMPLE`. -/
  | energySample (m : Nat)
  /-- `BYTE_BUDGET_INTERVAL`. -/
  | byteBudgetInterval (die : Nat) (quad : Nat)
  /-- `POWER_WINDOW`. -/
  | powerWindow (m : Nat)
  /-- `THROTTLE_HOLD`. -/
  | throttleHold (sash : Nat)
  /-- `RAIL_LEVEL_REACHED`. -/
  | railLevelReached (die : Nat) (quad : Nat)
  /-- `SHUTTER_CHANGE`. -/
  | shutterChange (c : Nat) (owner : Nat)
  /-- `DEBUG_COMMAND_ARRIVE`. -/
  | debugCommandArrive (c : Nat) (did : Nat)
  /-- `BREAKPOINT_MATCH`. -/
  | breakpointMatch (c : Nat) (owner : Nat) (cr : Nat) (slot : Nat)
  /-- `DEBUG_HOLD_TAKE`. -/
  | debugHoldTake (c : Nat) (owner : Nat) (cr : Nat) (slot : Nat)
  /-- `SAMPLE_RECORD`. -/
  | sampleRecord (c : Nat) (str : Nat)
  /-- `CHUNK_COMMIT`. -/
  | chunkCommit (c : Nat)
  /-- `QUOTE_REQUEST`. -/
  | quoteRequest (m : Nat) (msg : List W32)
  /-- `PARTITION_MAP`. -/
  | partitionMap (m : Nat) (msg : List W32)
  /-- `TIME_GROUP`. -/
  | timeGroup (m : Nat) (msg : List W32)
  /-- `ROOT_RCB`. -/
  | rootRcb (m : Nat) (msg : List W32)
  /-- `EXTEND`. -/
  | extend (m : Nat) (msg : List W32)
  /-- `CERTIFICATE_REQUEST`. -/
  | certificateRequest (m : Nat) (msg : List W32)
  /-- `UNKNOWN_MESSAGE`. -/
  | unknownMessage (m : Nat) (msg : List W32)
  /-- `D2H_ACK`. -/
  | d2hAck (m : Nat)
  /-- `KERNEL_QUOTE_SERVE`. -/
  | kernelQuoteServe (m : Nat) (part : Nat) (slot : Nat)
  /-- `FACCEPT_WRITE`. -/
  | facceptWrite (m : Nat) (v : W64)
  /-- `DBELL`. -/
  | dbell (m : Nat) (v : W64)
  /-- `IMAGE_LOAD`. -/
  | imageLoad (m : Nat) (v : W64)
  /-- `STAGE2_START`. -/
  | stage2Start (m : Nat)
  /-- `ROM_START`. -/
  | romStart (m : Nat)
  /-- `MODULE_RESTART`. -/
  | moduleRestart (m : Nat)
  /-- `REGISTER_WRITE`. -/
  | registerWrite (m : Nat) (off : Nat) (v : W64)
  /-- `HOST_DRAM_WINDOW_WRITE`. -/
  | hostDramWindowWrite (m : Nat) (off : Nat) (bytes : List Byte)
  /-- `DRAM_REFRESH`. -/
  | dramRefresh (sash : Nat) (at_ : Nat) (dur : Nat)
  deriving DecidableEq, Repr

end Sys2Proof.Machine
end

