-- ==== Sys2Proof/Machine/Micro.lean ====
section
/-! DEFINITION. What an issued instruction carries to its lanes: the operation, with its operands resolved
at the issue cycle (R159: register fields resolve against the window base of the issue cycle).

An instruction's own meaning (Machine/IntArith.lean and its neighbours) builds a `Form`; the shared issue
operation turns it into a flight of the core, and LANE_EXECUTE or CHAIN_STEP evaluate it lane by lane. -/

namespace Sys2Proof.Machine

/-- Floating-point formats of R60. -/
inductive FFmt where
  | f64 | f32 | f16 | bf16 | e4m3 | e5m2
  deriving DecidableEq, Repr

/-- Special functions of R142. -/
inductive Sfu where
  | rcp | rsq | sqrt | exp2 | log2 | sin | cos
  deriving DecidableEq, Repr

/-- Register-to-register operations (R124 to R147): what one lane, or the uniform unit, computes. -/
inductive AluOp where
  | add (w : IntW) | sub (w : IntW) | mul (w : IntW) | mad (w : IntW)
  | addSat (uns wide : Bool) | subSat (uns wide : Bool) | mulhi (uns wide : Bool)
  | min (uns : Bool) | max (uns : Bool)
  | and | or | xor | andn | shl | shrZ | shrS | rol
  | setp (cc : CondI) (w : IntW)
  | popc | clz | brev | neg
  | div (uns : Bool) | rem (uns : Bool)
  | mov | movh
  | fadd (f : FFmt) (rm : Round) | fsub (f : FFmt) (rm : Round) | fmul (f : FFmt) (rm : Round) | ffma (f : FFmt) (rm : Round)
  | fmin (f : FFmt) | fmax (f : FFmt) | fsetp (f : FFmt) (cc : CondF)
  | fabs (f : FFmt) | fneg (f : FFmt) | fcpsgn (f : FFmt) | fclass (f : FFmt)
  | hadd (f : FFmt) (rm : Round) | hmul (f : FFmt) (rm : Round) | hfma (f : FFmt) (rm : Round) | hmin (f : FFmt) | hmax (f : FFmt)
  | cvtF (dst : FFmt) (sel : BitVec 2) (st : SType) (rm : CvtRound)
  | cvtI (dt : DType) (f64 : Bool) (rm : Round)
  | toQn4 (rm : CvtRound) | ofQn4 (rm : Round)
  | sfu (f : Sfu)
  | bsel | dp4 (sg : DotSign) | dp2 (sg : DotSign) | hdp2 (bf : Bool)
  deriving DecidableEq, Repr

/-- Cross-lane operations (R163 to R167). -/
inductive XOp where
  | pickAt | pickBack | pickFwd | pickXor
  | pollAny (q : BitVec 3) | pollAll (q : BitVec 3) | pollMap (q : BitVec 3)
  | redAdd | redMin (uns : Bool) | redMax (uns : Bool)
  | first (idx : Bool)
  deriving DecidableEq, Repr

/-- Chained operations (R169). -/
inductive ChainOp where
  | addS32 | addS64 | addF32 | addF64 | minS32 | maxS32 | minF32 | maxF32 | mulF32 | fmaF32 | fmaF64 | xorB32 | passB64
  deriving DecidableEq, Repr

/-- Read-modify-write operations (R198, R201). -/
inductive RmwOp where
  | add | min (uns : Bool) | max (uns : Bool) | and | or | xor | exch | cas
  deriving DecidableEq, Repr

/-- Memory spaces (R239). -/
inductive Space where
  | lane | die | fab | ts | acc | host
  deriving DecidableEq, Repr

/-- What the lanes of an issued instruction do. -/
inductive LaneOp where
  | alu (op : AluOp)
  | mfs (sr : Nat)
  | mts (sr : Nat)
  | xlane (op : XOp)
  | chain (op : ChainOp) (seg br : Bool)
  | load (sp : Space) (sz : Size) (off : Int)
  | store (sp : Space) (sz : Size) (off : Int)
  | mcast (mask : BitVec 4) (sz : Size)
  | tile (ld : Bool) (lv : Level) (h : Nat) (sz : Size)
  | host (ld : Bool) (tag : Nat) (sz : Size)
  | rmw (sp : Space) (op : RmwOp) (w64 : Bool)
  | tatom (op : RmwOp) (h : Nat)
  | tdesc (h : Nat)
  | rlwNext (x0 total : Nat) (starts : List (Nat × Nat)) (p : BitVec 3)
  deriving DecidableEq, Repr

/-- A source operand, resolved: words of the course's allotment, uniform registers or a constant. -/
inductive Src where
  | none
  | imm (v : W64)
  | reg (w : Nat)
  | pair (w : Nat)
  | uni (k : Nat)
  | uniPair (k : Nat)
  deriving DecidableEq, Repr

/-- A destination, resolved. `reg` takes the low word, `pair` both, `quad` is `tdesc`'s four words. -/
inductive Dst where
  | none
  | reg (w : Nat)
  | pair (w : Nat)
  | quad (w : Nat)
  | pred (p : BitVec 3)
  | uni (k : Nat)
  | uniPair (k : Nat)
  deriving DecidableEq, Repr

/-- Columns of a string that an instruction can find busy (R39, R120). -/
inductive Col where
  | none | fp | fp64 | sfu | chain
  deriving DecidableEq, Repr

/-- An instruction as its meaning hands it to the issue operation. Register numbers are still those of
the word: `reg` and `pair` count from the window base until `Form.resolve` adds it. -/
structure Form where
  op  : LaneOp
  dst : Dst := .none
  a   : Src := .none
  b   : Src := .none
  c   : Src := .none
  lat : Nat := 2
  col : Col := .none
  acq : Bool := false
  rel : Bool := false
  deriving DecidableEq, Repr

/-- Add the window base to every lane word of a source (R104). -/
def Src.resolve (wb : Nat) : Src → Src
  | .reg w => .reg (wb + w)
  | .pair w => .pair (wb + w)
  | s => s

/-- Add the window base to every lane word of a destination (R104). -/
def Dst.resolve (wb : Nat) : Dst → Dst
  | .reg w => .reg (wb + w)
  | .pair w => .pair (wb + w)
  | .quad w => .quad (wb + w)
  | d => d

/-- Resolve a form against the window base of the issue cycle (R159). -/
def Form.resolve (wb : Nat) (f : Form) : Form :=
  { f with dst := f.dst.resolve wb, a := f.a.resolve wb, b := f.b.resolve wb, c := f.c.resolve wb }

/-- The highest lane word a source names, plus one; 0 when it names none. -/
def Src.top : Src → Nat
  | .reg w => w + 1
  | .pair w => w + 2
  | _ => 0

/-- The highest lane word a destination names, plus one; 0 when it names none. -/
def Dst.top : Dst → Nat
  | .reg w => w + 1
  | .pair w => w + 2
  | .quad w => w + 4
  | _ => 0

/-- The highest lane word a form names, plus one: above the allotment it raises REGWIN (R12, R105). -/
def Form.top (f : Form) : Nat := max (max f.dst.top f.a.top) (max f.b.top f.c.top)

/-- Bytes of an access size (R184). -/
def sizeBytes : Size → Nat
  | .b32 => 4
  | .b64 => 8
  | .b16 => 2
  | .b8 => 1

end Sys2Proof.Machine
end

