-- ==== Sys2Proof/Machine/State.lean ====
section
/-! DEFINITION. The state of a time group of FZ-960 modules, as plain data, and its reset value.

Keys: a module is a number m (0 to 511), a die has the key 4m + d, a core the key 336 D + c, a block is
its binding index OWNER on its core, a course is 32 OWNER + `%cr` on its core. Cycles are `Nat`s; a
register that shows one shows it modulo 2^64. A fault of the machine is a NEXT state (R324): `Fault` and
`Refusal` below are the model's own stops. -/

namespace Sys2Proof.Machine

/-- Why `exec` stops with a fault of the model's own. -/
inductive Fault where
  /-- Raised by every instruction's meaning when the issue port holds no course: `exec` was called outside
  a step, or on a course that is not bound. Safe: `step` fills the port before it calls `exec`. -/
  | noIssuer
  deriving DecidableEq, Repr

/-- Why `exec` refuses. -/
inductive Refusal where
  /-- Raised by an arm of `exec` that has no meaning yet. Safe: nothing can be proved of the instruction. -/
  | notModelled (mnemonic : String)
  deriving DecidableEq, Repr

/-! ## Memory -/

/-- The byte stores: DRAM of every die, host memory, tile stores, accumulator stores, transoms (R1, R239). -/
inductive Store where
  | dram | host | ts | acc | trn
  deriving DecidableEq, Repr

/-- All bytes of the time group. A byte no entry lists reads as 0 (log entry 4). `poison` marks poisoned
64-bit granules (R332): key = granule index of the store + the store's number times 2^90. -/
structure Memory where
  dram   : Tab Byte := []
  host   : Tab Byte := []
  ts     : Tab Byte := []
  acc    : Tab Byte := []
  trn    : Tab Byte := []
  poison : Tab Bool := []
  deriving DecidableEq, Repr

/-- The canonical form of the memory: every table's keys rise strictly and no entry holds what an unlisted
key reads as. -/
def Memory.wf (m : Memory) : Bool :=
  Tab.wf 0 m.dram && Tab.wf 0 m.host && Tab.wf 0 m.ts && Tab.wf 0 m.acc && Tab.wf 0 m.trn
    && Tab.wf false m.poison

/-- One write of consecutive bytes to a store, a mark of poison on a granule, or the zeroing of a stretch. -/
inductive MemWrite where
  | bytes (st : Store) (a : Nat) (data : List Byte)
  | zero (st : Store) (a n : Nat)
  | mark (st : Store) (granule : Nat)
  deriving DecidableEq, Repr

/-! ## Ordering and waits -/

/-- A bound on the memory cycle of a path's later accesses (R182, R204, R244): they wait until the
accesses that the paths `ids` issued before issue number `seq` are performed at the scope, or until the
accesses of issue `seq` itself are applied. -/
inductive Mark where
  | performed (seq : Nat) (sc : Scope) (ids : List Nat)
  | applied (seq : Nat)
  deriving DecidableEq, Repr

/-- What a waiting path waits for (R33). -/
inductive Wait where
  | tagAny (mask : W64)
  | tagAll (mask : W64)
  | tagFirst (k : Nat) (mask : W64)
  | mon (p : BitVec 3) (deadline : Nat)
  | key
  | claim (c : Nat)
  | phArrive (n : Nat)
  | phWait (n : Nat)
  deriving DecidableEq, Repr

/-- State of a path (R28). -/
inductive PathSt where
  | ready | parked | waiting (w : Wait)
  deriving DecidableEq, Repr

/-- A fetched clause: its number, its four words and the cycle it was fetched at (R94, R385). -/
structure Clause where
  idx : Nat
  ctl : W32
  w1  : W32
  w2  : W32
  w3  : W32
  /-- Virtual cycle at which it came. -/
  got : Nat
  /-- The path's sash has a cause for its lateness at the cycle of the slot that needs it (R96). -/
  paid : Bool := false
  deriving DecidableEq, Repr

/-- A leaf translation (R311, R314): the offset it starts at, its size, the entry, the epoch it was read
under (R321). -/
structure Leaf where
  base  : Nat
  large : Bool
  pte   : W64
  epoch : Nat
  deriving DecidableEq, Repr

/-- Where the fetch of the clause of a path's next instruction stands (R96). -/
inductive Fetch where
  | idle
  | walk (d wid : Nat)
  | coming (l : Leaf) (due : Nat)
  | bad (code : Nat)
  deriving DecidableEq, Repr

/-- A path of a course (R22 to R28). -/
structure Path where
  /-- The model's own name of the path, and those of the paths it came from. -/
  id      : Nat
  anc     : List Nat := []
  /-- Names of the paths that a join united into this one (R26). -/
  merged  : List Nat := []
  mask    : LaneMask
  /-- Linear slot index of the next instruction (R95). -/
  pc      : Nat
  st      : PathSt := .ready
  /-- Usable turns since the last issue (R8). -/
  turns   : Nat := 0
  /-- The path has issued nothing and no transfer counts its first delay (R8). -/
  fresh   : Bool := false
  lastIssue : Nat := 0
  buf     : Option Clause := none
  fetch   : Fetch := .idle
  /-- Clauses fetched ahead or kept, and the one that is coming: its number, leaf and real cycle of arrival (R96; log entry 101). -/
  ahead   : List Clause := []
  coming  : Option (Nat × Leaf × Nat) := none
  marks   : List Mark := []
  /-- Held by a debugger (R378), a hold that is due at the next turn, one step allowed (R379), and the
  stop PC that does not match again (R377). -/
  held    : Bool := false
  holdReq : Bool := false
  stepping : Bool := false
  stepTrap : Bool := false
  /-- A path of a timed launch that a step has left: the sash pauses at its next issue cycle, and the record of the step is written
  there (R375, R380). -/
  stopNext : Bool := false
  /-- A stop of a timed path that takes effect at a cycle: the cycle, KIND and CODE of its record (R374, R380). -/
  stop    : Option (Nat × Nat × Nat) := none
  bpSkip  : Option Nat := none
  deriving DecidableEq, Repr

/-- A live join token (R156); its AGE is its place in the course's list, the newest last. -/
structure Token where
  jaddr  : Nat
  hold   : LaneMask
  parked : LaneMask
  deriving DecidableEq, Repr

/-- Where a result goes when it is ready: words of a lane, predicates of lanes, uniform words, a special
register (R119, R162). -/
inductive Write where
  | lane (lane w : Nat) (v : W32)
  | pred (p : BitVec 3) (mask vals : LaneMask)
  | uni (k : Nat) (v : W32)
  | sr (n : Nat) (v : W64)
  deriving DecidableEq, Repr

/-- A pending result (R9, R16). -/
structure Result where
  id    : Nat
  seq   : Nat
  owner : Nat
  cr    : Nat
  ready : Nat
  writes : List Write
  flags : BitVec 5 := 0
  /-- The instruction it comes from: slot index and word (R330). -/
  pc    : Nat := 0
  word  : W32 := 0
  deriving DecidableEq, Repr

/-- An issued instruction whose lanes still execute (R16, R19). `next` is the first lane that has not
executed, `cyc` the cycle of lane 0 and `stride` 1 or 4. -/
structure Flight where
  seq    : Nat
  owner  : Nat
  cr     : Nat
  path   : Nat
  pathIx : Nat
  pc     : Nat
  word   : W32
  mask   : LaneMask
  pred   : BitVec 3
  neg    : Bool
  issue  : Nat
  cyc    : Nat
  stride : Nat := 1
  next   : Nat := 0
  form   : Form
  part   : Nat
  seed   : W64
  dii    : W64
  link   : W64 := 0
  last   : W64 := 0
  any    : Bool := false
  /-- Cross-lane: lanes that were enabled, their source and index values, lane by lane (R163). -/
  coll   : List (Bool × W32 × W32) := []
  marks  : List Mark := []
  /-- The one lane whose work the containment policy lets run again at P (R328), or none. -/
  redo   : LaneMask := 0
  deriving DecidableEq, Repr

/-! ## Translation -/

/-- Where the translation of an access stands (R316, R317). -/
inductive Xlate where
  | need
  | wait (d wid : Nat)
  | ok (l : Leaf)
  /-- A host-backed page: the link completes at a real cycle once the sash stands for it (R318). -/
  | hostWait (l : Leaf) (due : Nat)
  | hostOk (l : Leaf)
  | bad (code : Nat)
  deriving DecidableEq, Repr

/-- What an access is for (R317). -/
inductive AccessUse where
  | read | write | fetch | engineRead | engineWrite | atomic
  deriving DecidableEq, Repr

/-- A walk on a die's walkers (R312), or the answer of the memory-side TLB on its way (R316). -/
structure Walk where
  wid    : Nat
  off    : Nat
  va     : Nat
  use    : AccessUse
  due    : Nat
  /-- The page-request slot the walk waits in (R317). -/
  slot   : Option Nat := none
  found  : Option Leaf := none
  code   : Nat := 0
  /-- The walk has met a middle entry that names a large page (R310, R317). -/
  large  : Bool := false
  deriving DecidableEq, Repr

/-- A page-request slot (R317). -/
structure PageReq where
  gcc   : W64
  use   : AccessUse
  level : Nat
  va    : Nat
  wid   : Nat
  /-- Where the partition delegates to it, the management core's answer: its real cycle, and whether it fails the walk (R317,
  R363). -/
  mc    : Option (Nat × Bool) := none
  deriving DecidableEq, Repr

/-! ## Accesses -/

/-- What an access does at its home (R179, R205). -/
inductive AccKind where
  | load | store
  | rmw (op : RmwOp) (w64 : Bool)
  | tread (op : RmwOp) (fmt : Nat)
  | arm (pmask : LaneMask) (p : BitVec 3)
  | disarm
  deriving DecidableEq, Repr

/-- A lane memory access from its execution until it is performed (R179, R247, R330). -/
structure Access where
  id    : Nat
  seq   : Nat
  owner : Nat
  cr    : Nat
  str   : Nat
  path  : Nat
  pathIx : Nat
  lane  : Nat
  pc    : Nat
  word  : W32
  kind  : AccKind
  space : Space
  addr  : Int
  size  : Nat
  data  : W64 := 0
  data2 : W64 := 0
  dst   : Dst := .none
  /-- Memory cycle and due cycle as the rules fix them, in the issuing sash's VCC. -/
  cyc   : Nat
  due   : Nat
  /-- Home die of a die, lane or fabric access; the core of a tile or accumulator access. -/
  home  : Nat
  /-- The route leaves the issuing die: a crossing access (R250). -/
  cross : Bool := false
  xl    : Xlate := .need
  pv    : Bool := false
  acq   : Bool := false
  rel   : Option Scope := none
  marks : List Mark := []
  /-- Held in the operand log (R330). -/
  logged : Bool := false
  /-- A pause cause is raised for it (R42). -/
  caused : Bool := false
  /-- A staged atomic: it waits for its block to become the head (R258). -/
  ticket : Bool := false
  /-- A crossing write or atomic that is counted in its sender's matrix and on its way to its home (R251). -/
  sent  : Bool := false
  /-- Real cycle at which the old value of a crossing atomic is at hand, where it comes late (R40, R251); 0 where it does not. -/
  back  : Nat := 0
  /-- Cycle at which it was applied, and how much later it is performed at `.die` and wider (R247). -/
  done  : Option Nat := none
  extra : Nat := 0
  /-- Handle and first element of a tile or accumulator access (R190, R382). -/
  handle : Nat := 0
  elem  : Nat := 0
  tag   : Nat := 0
  /-- Charged to the byte budget, or late until the next interval (R355). -/
  late  : Bool := false
  /-- Vector clock a crossing write carries, or the row a crossing load asks for (R251). -/
  clk   : List Nat := []
  /-- Bytes as they stood at the memory cycle, where the sash has written them since: a load that is held
  takes them (R243, R330). -/
  shadow : List (Store × Nat × Byte) := []
  deriving DecidableEq, Repr

/-- A bank reserved by a tile read-modify-write (R199). -/
structure Reserve where
  bank  : Nat
  cyc   : Nat
  str   : Nat
  lane  : Nat
  seq   : Nat
  deriving DecidableEq, Repr

/-! ## The engines -/

/-- The engine commands (R214, R238). -/
inductive CmdOp where
  | fill | drain | tt
  | host (out : Bool)
  | fab (out : Bool)
  | gth (fab : Bool)
  | trn (ts : Bool)
  | acc (rm : CvtRound)
  | mx (pair : MxPair)
  | tsend | tland | launch
  deriving DecidableEq, Repr

/-- Where a command stands: queued or waiting for its start; started; moved to the array, the port or the
host link; ended. -/
inductive CmdSt where
  | waiting | started | away | ended
  deriving DecidableEq, Repr

/-- An engine command with its descriptor (R213) and the course that issued it. -/
structure Cmd where
  id    : Nat
  seq   : Nat
  owner : Nat
  cr    : Nat
  str   : Nat
  path  : Nat
  pathIx : Nat
  mask  : LaneMask
  pc    : Nat
  word  : W32
  op    : CmdOp
  tag   : Nat
  tgv   : Bool
  acq   : Bool
  rel   : Bool
  sc    : Scope
  xp    : Nat
  phv   : Bool
  ph    : Nat
  in0   : Nat
  in0v  : Bool
  /-- W1 as it stands in the descriptor, and the start cycle it names (R41, R217). -/
  w1    : Nat
  start : Nat
  mxv   : Bool
  mxp   : Nat
  fv    : Bool
  fid   : Nat
  side  : Bool
  hz    : Nat
  hy    : Nat
  hx    : Nat
  nrows : Nat
  row0  : Nat
  addr  : Nat
  w6    : Nat
  w7    : Nat
  kd    : Nat
  pv    : Bool
  issue : Nat
  /-- Start cycle S, once it is known (R217). -/
  s     : Option Nat := none
  st    : CmdSt := .waiting
  /-- Beats performed and beats whose writes have landed (R219, R222). -/
  beats : Nat := 0
  landed : Nat := 0
  idx   : List Nat := []
  failed : Bool := false
  marks : List Mark := []
  seed  : W64 := 0
  dii   : W64 := 0
  /-- Cycle at which the copy completes once its writes are performed (R217, R222). -/
  endAt : Option Nat := none
  credit : Bool := false
  checked : Bool := false
  deriving DecidableEq, Repr

/-- A beat in flight (R221): its number in its command, its read and write cycles and the bytes it holds. -/
structure Beat where
  id    : Nat
  cmd   : Nat
  no    : Nat
  t     : Nat
  rd    : Nat
  wr    : Nat
  data  : Option (List Byte) := none
  /-- Bytes of the beat that were poisoned where they were read (R332). -/
  bad   : List Nat := []
  /-- Translations of the pages read and written: home die, offset, state. -/
  xr    : List (Nat × Nat × Xlate) := []
  xw    : List (Nat × Nat × Xlate) := []
  caused : Bool := false
  late  : Bool := false
  /-- Sent to its home and held there (R251), or the clock of a crossing read. -/
  sent  : Bool := false
  clk   : List Nat := []
  /-- The cycle at which its copy completes, once everything is written (R217, R222). -/
  fin   : Option Nat := none
  deriving DecidableEq, Repr

/-- A matrix command in the array (R231). -/
structure MxRun where
  cmd   : Nat
  /-- Start cycle by which the array orders it, and the array start S', once fixed. -/
  s     : Nat
  s'    : Option Nat := none
  e     : Nat := 0
  follow : Bool := false
  /-- Operand elements read at S': A, B, C and the scale bytes of A and B, as bytes. -/
  ops   : List (List Byte) := []
  /-- Rail levels from array cycles on (R91), and the stop for a rail at S'. -/
  levels : List (Nat × Nat) := []
  /-- Soft errors met in partial sums (R87): twice the chunk's number, plus 1 for S0, and what the register holds. -/
  soft  : List (Nat × Nat) := []
  caused : Bool := false
  deriving DecidableEq, Repr

/-- The matrix array of a core (R231): commands in start order, and the last array start with its run. -/
structure MxArray where
  runs  : List MxRun := []
  prevS : Nat := 0
  prevLen : Nat := 0
  deriving DecidableEq, Repr

/-- A landing arm (R48, R233). -/
structure Arm where
  id    : Nat
  cmd   : Nat
  owner : Nat
  hnum  : Nat
  sender : Nat
  stamp : Nat
  size  : Nat
  /-- Reserved in the landing buffer (a free arm may wait for room, R50). -/
  room  : Bool := true
  issue : Nat
  checked : Bool := false
  caused : Bool := false
  lid   : W32 := 0
  deriving DecidableEq, Repr

/-- A message or cancel (R47, R53), on its way or in the landing buffer. -/
structure Msg where
  id    : Nat
  sender : Nat
  hnum  : Nat
  stamp : Nat
  cancel : Bool
  data  : List Byte
  bad   : List Nat := []
  due   : Nat
  arrived : Option Nat := none
  lid   : W32 := 0
  deriving DecidableEq, Repr

/-- A landing credit (R233), on its way or held. -/
structure Credit where
  id    : Nat
  recv  : Nat
  hnum  : Nat
  stamp : Nat
  due   : Nat
  held  : Bool := false
  deriving DecidableEq, Repr

/-- Row-length walker of a string (R196). -/
structure Walker where
  valid : Bool := false
  owner : Nat := 0
  cr    : Nat := 0
  t     : Nat := 0
  nr    : Nat := 0
  pos   : Nat := 0
  ready : Nat := 0
  /-- Lengths in row order. -/
  lens  : List Nat := []
  deriving DecidableEq, Repr

/-- A string's columns (R39): first free cycle of the FP column for an FP32 and an FP64 instruction, of
the special-function column and of the chain column; the last issue and the sampler (R384). -/
structure Str where
  fp    : Nat := 0
  sfu   : Nat := 0
  chain : Nat := 0
  last  : Option Nat := none
  walker : Walker := {}
  /-- Issues until the next tagged instruction, 0 when none is due; the tagged issue number. -/
  draw  : Nat := 0
  tagged : Option Nat := none
  deriving DecidableEq, Repr

/-! ## Faults, traps, debug -/

/-- What a fault record is about, so that the containment walk can let it run again (R328). -/
inductive Work where
  | lanes (f : Flight)
  | access (aid : Nat)
  /-- An instruction executed once: whether it counted in `%dii`, and what it writes as zero (R328). -/
  | once (cr slot : Nat) (counted : Bool) (ready : Nat) (zero : List Write)
  | command (c : Cmd)
  | beat (bid : Nat)
  | hostCopy (cid : Nat)
  | follow (cid : Nat)
  | array (cid : Nat)
  | landing (arm : Nat)
  | none
  deriving DecidableEq, Repr

/-- A fault record (R325) with the work it stopped. -/
structure FaultRec where
  code  : Nat
  sub   : Nat := 0
  src   : Nat := 0
  owner : Nat
  cr    : Nat := 0
  path  : Nat := 0
  mask  : LaneMask := 0
  pc    : W64 := 0
  word  : W32 := 0
  tag   : Nat := 0
  tgv   : Bool := false
  vcc   : W64
  info  : W64 := 0
  bk    : W32 := 0
  lid   : W32 := 0
  work  : Work := .none
  /-- Real cycle at which the management core acts on it. -/
  due   : Nat := 0
  /-- Issue number of the instruction, and further accesses of it that fault in the same cycle (R324). -/
  seq   : Nat := 0
  also  : List Nat := []
  /-- The record was written at the cut before its cycle: its work has not been touched (R17, R324). -/
  cut   : Bool := false
  deriving DecidableEq, Repr

/-- The trap record of a core (R326). -/
structure TrapRec where
  cause : W32 := 0
  count : W32 := 0
  pc    : W64 := 0
  deriving DecidableEq, Repr

/-- A breakpoint entry (R377). -/
structure Breakpoint where
  pc    : W64
  owner : Nat
  deriving DecidableEq, Repr

/-- A watch entry (R381). -/
structure Watch where
  owner : Nat
  rd    : Bool
  wr    : Bool
  trap  : Bool
  die   : Bool
  handle : Nat
  lo    : Nat
  hi    : Nat
  deriving DecidableEq, Repr

/-- Operations of a debug command that travels to its target core (R376). -/
inductive DbgOp where
  | bpClr (e : Nat)
  | bpSet (e : Nat) (pc : W64)
  | claim | free
  | hold (crs : Bool)
  | step (trap : Bool)
  | run (crs : Bool)
  | watch (e : Nat) (on rd wr trap die : Bool) (handle lo hi : Nat)
  | samp (period : Nat)
  deriving DecidableEq, Repr

/-- A debug command on its way (R371). -/
structure DbgCmd where
  id    : Nat
  due   : Nat
  op    : DbgOp
  target : W32
  /-- The debug course: core, owner, course; its string orders ties. -/
  src   : Nat
  srcOwner : Nat
  srcCr : Nat
  str   : Nat
  deriving DecidableEq, Repr

/-- A tagged instruction's profile so far (R385). -/
structure Sample where
  str   : Nat
  seq   : Nat
  owner : Nat
  cr    : Nat
  path  : Nat
  /-- The model's name of the path, which tells its index at the record (R27). -/
  pid   : Nat := 0
  mask  : LaneMask
  pc    : Nat
  word  : W32
  issue : Nat
  fetch : Nat
  read  : Nat := 0
  exec  : Nat := 0
  wb    : Nat := 0
  level : Nat := 0
  caused : Bool := false
  gcc   : Nat := 0
  paused : Nat := 0
  deriving DecidableEq, Repr

/-- A recording core's open chunk (R387). -/
structure Chunk where
  start : Nat
  /-- Lowest issue number of an instruction or command whose access stands in the chunk. -/
  first : Option Nat := none
  /-- Buffered writes to die memory, by DRAM key, and the home of each. -/
  writes : Tab Byte := []
  /-- Copied granules: key, the die's commit count at the copy, and bytes. -/
  copies : List (Nat × Nat × List Byte) := []
  /-- Commit asked for: the real cycle of the request. -/
  asked : Option Nat := none
  deriving DecidableEq, Repr

/-- A record of a core's operand log (R330, R331): the access or beat that is held, its place, and its twelve words. -/
structure LogRec where
  beat  : Bool
  id    : Nat
  slot  : Nat
  words : List Nat
  deriving DecidableEq, Repr

/-! ## Blocks and cores -/

/-- A bind record (R301), field by field. -/
structure BindRec where
  priv  : Bool
  owner : Nat
  cr    : Nat
  last  : Nat
  allot : Nat
  rot   : Nat
  hb    : Nat
  tagb  : Nat
  gchan : Option Nat
  accb  : Nat
  tsbb  : Nat
  trnb  : Nat
  sash  : W32
  bk    : W32
  start : Nat
  hdr   : Nat
  param : Nat
  nparam : Nat
  lid   : W32
  rcb   : Nat
  ctx   : Nat
  bseed : W64
  deriving DecidableEq, Repr

/-- A kernel header (R108), field by field. -/
structure Hdr where
  magic : Nat
  version : Nat
  fid   : Nat
  traph : Bool
  compat : Bool
  determ : Bool
  timed : Bool
  allot : Nat
  rot   : Nat
  courses : Nat
  part  : Nat
  tsb   : Nat
  trn   : Nat
  acc   : Nat
  handles : Nat
  phasers : Nat
  tags  : Nat
  hoff  : Nat
  feat  : Nat
  gch   : Bool
  entry : Nat
  deriving DecidableEq, Repr

/-- A phaser (R209): PHASE, BAL, the SIG, WAIT and ARR masks over courses, and WPH per course. -/
structure Phaser where
  phase : W32 := 0
  bal   : W32 := 0
  sig   : LaneMask := 0
  wait  : LaneMask := 0
  arr   : LaneMask := 0
  wph   : Tab W32 := []
  deriving DecidableEq, Repr

/-- A release that waits for earlier accesses (R244): the key, or an arrival at a phaser. -/
structure Pend where
  key   : Bool
  ph    : Nat := 0
  cr    : Nat
  mark  : Mark
  anc   : List Nat
  deriving DecidableEq, Repr

/-- A staged write of a block that is not the head (R256). -/
structure Staged where
  cyc   : Nat
  str   : Nat
  lane  : Nat
  seq   : Nat
  home  : Nat
  /-- The location written, translated when it was staged. -/
  st    : Store
  key   : Nat
  data  : List Byte
  /-- Its offset on the home die, its pages and its privilege, with which it crosses the module when it is released. -/
  off   : Nat := 0
  pages : List (Nat × Nat × Xlate) := []
  pv    : Bool := false
  /-- Positions among the bytes that carry poison (R332). -/
  bad   : List Nat := []
  /-- A staged atomic: the access that waits for it (R203). -/
  atom  : Option Nat := none
  deriving DecidableEq, Repr

/-- How far the pre-emption of a block has come (R337). -/
inductive Preempt where
  | none
  | asked
  | cut (p : Nat)
  deriving DecidableEq, Repr

/-- A block bound on a core. -/
structure Block where
  bind  : BindRec
  hdr   : Hdr
  started : Bool := false
  /-- VCC of v+0 (R301). -/
  v0    : Nat := 0
  bseed : W64
  mxe1  : W32 := 0
  mxe0  : W32 := 0
  /-- Course that holds the matrix key (R11). -/
  key   : Nat := 0
  retries : Nat := 0
  phasers : Tab Phaser := []
  /-- Register-block pools in words, by string (R211). -/
  pools : Tab Nat := []
  pends : List Pend := []
  staged : List Staged := []
  preempt : Preempt := .none
  /-- `%bro` of courses whose slots are released (R340). -/
  bros  : Tab W64 := []
  shutter : Bool := false
  budgetRound : Option Nat := none
  ldisc : Nat := 0
  ending : Bool := false
  /-- The block has ended and its resources are released; accesses that it issued before are still on their way (R340). -/
  spent : Bool := false
  deriving DecidableEq, Repr

/-- A course of a block on its string. -/
structure Course where
  owner : Nat
  cr    : Nat
  str   : Nat
  rot   : Nat
  /-- D_rot. -/
  drot  : Nat
  /-- Allotment in words, window base in words (R12, R159). -/
  allot : Nat
  /-- Words that an `rb.claim` gave and that can be named from a cycle on (R211). -/
  grow  : Option (Nat × Nat) := none
  wb    : Nat := 0
  /-- Partition width (R18). -/
  part  : Nat
  /-- Lane registers: key word * 32 + lane. -/
  regs  : Tab W32 := []
  /-- Poisoned 64-bit granules of the register file (R332): key word / 2 * 32 + lane. -/
  poison : Tab Bool := []
  preds : Tab LaneMask := []
  k     : Tab W32 := []
  live  : LaneMask := 0xFFFFFFFF
  seed  : W64 := 0
  dii   : W64 := 0
  fpst  : W32 := 0
  tpc   : W64 := 0
  tcause : W32 := 0
  bro   : W64 := 0
  slot0 : Option Path := none
  slot1 : Option Path := none
  stack : List Path := []
  /-- First cycle at which each slot's turns are usable again (R24, R25). -/
  win0  : Nat := 0
  win1  : Nat := 0
  /-- Slots whose transfer, now under way, reads a record of the path stack (R25, R313). -/
  filling : List Nat := []
  /-- Cycle from which diverged turns are numbered (R23). -/
  div   : Option Nat := none
  tokens : List Token := []
  /-- Handler state (R174): the paths held by it. -/
  handler : Option (List Nat) := none
  shutter : Option Bool := none
  stepT  : Option Nat := none
  watchT : Option Nat := none
  /-- Next model name of a path. -/
  nextPath : Nat := 1
  deriving DecidableEq, Repr

/-- A tile-table entry (R191). `since` is the first cycle at which lane accesses see it (R193). -/
structure Desc where
  stamp : Nat := 0
  scale : Nat := 0
  owner : Nat := 0
  sblk  : Bool := false
  scv   : Bool := false
  base  : Nat := 0
  cols  : Nat := 0
  rows  : Nat := 0
  fmt   : Nat := 0
  level : Nat := 0
  save  : Bool := false
  watch : Bool := false
  land  : Bool := false
  valid : Bool := false
  since : Nat := 0
  deriving DecidableEq, Repr

/-- Activity of a block since the last energy sample (R352). -/
structure Activity where
  /-- Lane-executions by column, and array cycles by pairing. -/
  lanes : Tab Nat := []
  tile  : Nat := 0
  engine : Nat := 0
  array : Tab Nat := []
  landed : Nat := 0
  deriving DecidableEq, Repr

/-- What a write of this cycle replaced in a tile or accumulator store: the first key, the bytes, and the keys of the
granules that were poisoned (R47, R232). -/
structure Undo where
  st    : Store
  key   : Nat
  bytes : List Byte
  bad   : List Nat
  deriving DecidableEq, Repr

/-- The hardware's own access to a page of a block's context area that it finds absent (R313, R317): what it writes, and the
cycle from which its sash stands for it. -/
structure CtxAcc where
  id    : Nat
  owner : Nat
  off   : Nat
  write : Bool
  bytes : List Byte := []
  page  : Xlate
  /-- The cycle that it is named for; none for the management core's own access, for which no sash stands. -/
  at_   : Option Nat
  deriving DecidableEq, Repr

/-- A core. -/
structure Core where
  sash  : Option Nat := none
  slots : Tab BindRec := []
  blocks : Tab Block := []
  courses : Tab Course := []
  tiles : Tab Desc := []
  /-- Core copy tags (R216), and the commands counted in each since it was cleared. -/
  tags  : W64 := 0
  /-- Core tags whose last command was a host access or host copy (R386). -/
  hostTags : W64 := 0
  strs  : Tab Str := []
  flights : List Flight := []
  results : List Result := []
  accs  : List Access := []
  /-- The operand log (R331): records of the accesses and beats that are held. -/
  log   : List LogRec := []
  /-- Accesses to absent pages of context areas (R317). -/
  ctxs  : List CtxAcc := []
  resv  : List Reserve := []
  cmds  : List Cmd := []
  beats : List Beat := []
  /-- Copy-engine queue served last (R219). -/
  q     : Nat := 7
  beatAt : Option Nat := none
  arr   : MxArray := {}
  arms  : List Arm := []
  msgs  : List Msg := []
  credits : List Credit := []
  /-- Matched landings due for commit are found from `arms` and `msgs`; bytes reserved of 64 KiB. -/
  landUsed : Nat := 0
  ldisc : Nat := 0
  /-- THE MODEL'S OWN record of the senders of messages (R52, R53, R329): live launches of which a block has ended here,
  whether any block has, and whether containment ended one. -/
  past  : List W32 := []
  hadBlock : Bool := false
  killed : Bool := false
  /-- Writes of the cycle named, oldest first: a send reads its source as it stood before them (R47). -/
  undo  : Nat × List Undo := (0, [])
  /-- The fault queue, and records that wait for room in it (R324). -/
  faults : List FaultRec := []
  waiting : List FaultRec := []
  /-- Records of this cut that the ignore policy has handled, and those of them whose work has come up since (R328). -/
  pardons : List FaultRec := []
  passed : List FaultRec := []
  trap  : TrapRec := {}
  tlb   : List Leaf := []
  bps   : Tab Breakpoint := []
  watches : Tab Watch := []
  /-- Claims (R377): block to debug course (core, owner, course). -/
  claims : Tab (Nat × Nat × Nat) := []
  dbg   : List DbgCmd := []
  /-- Mailbox records of events of this real cycle: agent, mailbox, words (R375). -/
  recs  : List (Nat × Nat × List Nat) := []
  /-- Ends of timed steps that leave no path which can issue at a known cycle: the cycle of the stop, owner, course, path, PC (R379,
  R380). -/
  stepEnds : List (Nat × Nat × Nat × Nat × Nat) := []
  samp  : Nat := 0
  samples : List Sample := []
  chunk : Option Chunk := none
  acts  : Tab Activity := []
  /-- Activity of blocks that have ended since the last sample: die and RCB of the region (R352). -/
  endActs : List (Nat × Nat × Activity) := []
  /-- Issue order of the core (R119) and the next identity of a record. -/
  seq   : Nat := 0
  nextId : Nat := 1
  deriving DecidableEq, Repr

/-! ## Sashes, dies, modules -/

/-- Who raised a pause cause (R42). -/
inductive CauseBy where
  | access (c aid : Nat)
  | beat (c bid : Nat)
  | fetch (c owner cr path : Nat)
  | landing (c arm : Nat)
  | credit (c cid : Nat)
  | refresh (till : Nat)
  | throttle (till : Nat)
  | fault (c : Nat)
  | debug
  | rail (c cid : Nat)
  | ticket (c owner : Nat)
  | ctx (c id : Nat)
  | chunk (c : Nat)
  | preempt
  | replay (till : Nat)
  deriving DecidableEq, Repr

/-- A pause cause effective at cycle `P` (R42). -/
structure Cause where
  p   : Nat
  src : CauseBy
  /-- Raised by a check of a running sash that stops it at `p` whatever comes meanwhile: a landing, a credit or a clause that was
  not there 32 cycles before (R49, R50, R96). -/
  sure : Bool := false
  /-- What it waited for has come before `p`. -/
  met  : Bool := false
  deriving DecidableEq, Repr

/-- A sash (R31, R36, R42 to R45). Its Delta is GCC minus `vcc`. -/
structure Sash where
  num   : W32
  die   : Nat
  cores : List Nat
  vcc   : Nat
  timed : Option W32 := none
  causes : List Cause := []
  paused : Bool := false
  /-- GCC of the stop, and the real cycle of the restart once the last cause has cleared (R44). -/
  stopGcc : Nat := 0
  resume : Option Nat := none
  /-- GCC at which the sash last stood for a throttle hold or byte-budget lateness (R358). -/
  throttled : Option Nat := none
  nextHold : Nat := 0
  /-- THE MODEL'S OWN mark: the cycle whose work has been tried for faults (R17, R324). -/
  scanned : Option Nat := none
  deriving DecidableEq, Repr

/-- A monitor entry (R205). -/
structure Monitor where
  granule : Nat
  core  : Nat
  owner : Nat
  cr    : Nat
  fab   : Bool
  trig  : Bool := false
  deriving DecidableEq, Repr

/-- A timed launch's last writer of a granule (R249). -/
structure Stamp where
  lid   : W32
  granule : Nat
  stamp : Nat
  agent : Nat
  deriving DecidableEq, Repr

/-- Lowest block of a free-deterministic launch that staged or wrote a granule (R203). -/
structure Ticket where
  lid   : W32
  granule : Nat
  bk    : Nat
  deriving DecidableEq, Repr

/-- A crossing write on its way to its home or held there until its vector clock is met (R251): all that the home needs
to apply it. -/
structure HeldWrite where
  id    : Nat
  src   : Nat
  clk   : List Nat
  /-- The sender's whole matrix, which the home merges (log entry 100). -/
  mat   : List (List Nat)
  core  : Nat
  /-- Its block, the access or beat that made it, and its memory cycle. -/
  owner : Nat
  aid   : Nat
  cyc   : Nat
  /-- Real cycle of arrival. -/
  due   : Nat
  /-- Home offset, bytes and poisoned positions of each piece, and the translations of the pages they lie in. -/
  pieces : List (Nat × List Byte × List Nat)
  pages : List (Nat × Nat × Xlate)
  use   : AccessUse
  pv    : Bool
  deriving DecidableEq, Repr

/-- A charge to a byte budget: the memory cycle and agent by which charges are ordered, bytes, and the access or beat (R355). -/
structure Charge where
  cyc   : Nat
  agent : Nat
  bytes : Nat
  core  : Nat
  beat  : Bool
  id    : Nat
  deriving DecidableEq, Repr

/-- A quadrant: power register, rails (R91, R351, R354). -/
structure Quadrant where
  bud   : Nat := 2 ^ 24 - 1
  used  : Nat := 0
  hold  : Nat := 0
  /-- Charges of this real cycle (R355). -/
  dues  : List Charge := []
  /-- Level that the rails provide without a `.fid` raise (R92). -/
  level : Nat := 0
  /-- Level the rails provide now, and a raise on its way (level, real cycle of completion). -/
  rail  : Nat := 0
  raise : Option (Nat × Nat) := none
  /-- Main rail in retention: no course is bound (R350). -/
  sleep : Bool := true
  deriving DecidableEq, Repr

/-- A die. -/
structure Die where
  tbase : W64 := 0
  sdcmd : W64 := 0
  busy  : Option (W64 × Nat) := none
  doneN : Nat := 0
  epoch : Nat := 0
  tlb   : List Leaf := []
  walks : List Walk := []
  reqs  : Tab PageReq := []
  nextWalk : Nat := 1
  /-- Directory and middle entries that the walkers keep, by the offset they were read at (R315). -/
  dirs  : List (Nat × W64) := []
  /-- The causal matrix (R251): row d, column e. -/
  causal : List (List Nat) := []
  applied : List Nat := []
  heldW : List HeldWrite := []
  nextHeld : Nat := 1
  stamps : List Stamp := []
  tickets : List Ticket := []
  mons  : List Monitor := []
  gch   : List Nat := []
  mbox  : Option Nat := none
  recMode : Nat := 0
  recBase : Nat := 0
  /-- Next record of the log that a replay of free cores reads, and the input records it has used (R388). -/
  recPos : Nat := 0
  recUsed : List Nat := []
  commitOrder : Nat := 0
  /-- Committed granules of this recording: key and the commit's place (R387). -/
  commits : List (Nat × Nat) := []
  corr  : Nat := 0
  uncorr : Nat := 0
  resid : Nat := 0
  /-- L1 directory index under which the management cores map context areas (R185, R334). -/
  mcDir : Option Nat := none
  quads : Tab Quadrant := []
  /-- The ballast of the die's cores: energy of a microsecond where its ramp begins, microjoules; microseconds of the ramp so far;
  it is the ramp to zero of a module above PCAP (R357). -/
  balTop : Nat := 0
  balAge : Nat := 0
  balOver : Bool := false
  deriving DecidableEq, Repr

/-- A Chelauk port (R341, R344). -/
structure Port where
  trained : Bool := false
  lost   : Bool := false
  peer  : Nat := 0
  peerPort : Nat := 0
  lat   : Nat := 0
  cls   : Nat := 0
  pherr : Int := 0
  /-- Arrival GCC minus the neighbour's stamp, of the last flit that came, in 1/256 cycle (R344). -/
  pair  : Option Int := none
  /-- Timing flits on their way to this port: the real cycle of arrival and the stamp (R344). -/
  flits : List (Nat × Nat) := []
  deriving DecidableEq, Repr

/-- A pending drift command (R346). -/
structure DriftCmd where
  set   : Bool
  value : Nat
  /-- Module it comes from, and real cycle of arrival; over a lost port it waits (R342). -/
  src   : Nat := 0
  due   : Nat
  /-- It has arrived, at `due`, whatever a port loses now (R346). -/
  came  : Bool := false
  deriving DecidableEq, Repr

/-- A region's account as the management core keeps it (R292, R353). -/
structure Region where
  die   : Nat
  rcb   : Nat
  courses : Nat := 0
  tsb   : Nat := 0
  acc   : Nat := 0
  trn   : Nat := 0
  gch   : Nat := 0
  eused : Nat := 0
  wused : Nat := 0
  /-- Wall time charged in cycles, and the real cycle up to which it is while a block is bound (R292). -/
  wcyc  : Nat := 0
  since : Option Nat := none
  mxe1  : Nat := 0
  mxe0  : Nat := 0
  ldisc : Nat := 0
  faults : Nat := 0
  throt : Nat := 0
  throtRound : Bool := false
  ended : Bool := false
  deriving DecidableEq, Repr

/-- A root region (R366). -/
structure Root where
  rcb   : Nat
  priv  : Bool
  deriving DecidableEq, Repr

/-- A launch a management core has taken (R293 to R298). -/
structure Launch where
  lid   : W32
  /-- Die and die offset of the region's RCB, and of the launch record. -/
  die   : Nat
  rcb   : Nat
  recAt : Nat
  part  : Nat
  hdrAt : Nat
  hdr   : Hdr
  grid  : Nat
  nparam : Nat
  param : Nat
  start : Nat
  /-- GCC at the taking (R300). -/
  taken : Nat := 0
  preds : List W32
  /-- State in which each predecessor has ended; 0 while it is live (R303). -/
  predSt : List Nat := []
  place : Nat
  dv    : Option Nat
  bseed : W64
  state : Nat
  reason : Nat := 0
  fault : Nat := 0
  round : Nat
  waited : Nat := 0
  /-- Blocks bound so far, and the block indices that have ended. -/
  bound : Nat := 0
  ended : List Nat := []
  sashes : List Nat := []
  priv  : Bool := false
  deriving DecidableEq, Repr

/-- A launch that is live no more (R296, R303). -/
structure Retired where
  part  : Nat
  lid   : W32
  state : Nat
  deriving DecidableEq, Repr

/-- A pre-empted block (R334 to R338): the whole cut, with every cycle counted from P. -/
structure Saved where
  die   : Nat
  /-- The core it was cut on: with a course in handler state it goes back there and nowhere else (R305). -/
  core  : Nat
  lid   : W32
  block : Block
  courses : List Course
  flights : List Flight
  results : List Result
  accs  : List Access
  tiles : List (Nat × Desc)
  tags  : W64
  walkers : List (Nat × Walker)
  /-- The columns of its strings at the cut (R21, R39). -/
  cols  : List (Nat × Str) := []
  p     : Nat
  /-- Pages of its area that a restore has found absent (R317). -/
  pages : List (Nat × Nat × Xlate) := []
  /-- The management core has found room for it (R305): its restore is due. -/
  again : Bool := false
  deriving DecidableEq, Repr

/-- A device launch request on its way to the management core (R238, R306). -/
structure DevLaunch where
  core  : Nat
  cid   : Nat
  due   : Nat
  /-- Where the record stands in its list once it is copied, and the status word once it is known. -/
  recAt : Option (Nat × Nat) := none
  status : Option W32 := none
  deriving DecidableEq, Repr

/-- A module: drift unit, ports, host registers, firmware and management cores. -/
structure Module where
  gcc   : Nat := 0
  /-- Module number, master flag and REPORT offset; whether the group is formed (R341, R366). -/
  num   : Nat := 0
  master : Bool := false
  report : Nat := 0
  formed : Bool := false
  parent : Nat := 0
  /-- The stamp on its way from the master: the real cycle at which it is loaded, and the GCC that it makes (R341). -/
  loadAt : Option (Nat × Nat) := none
  rate  : W32 := Config.firstRate
  accm  : W32 := 0
  step  : Nat := 0
  sinceStep : Nat := 64
  /-- The next cycle is a drift hold cycle; this cycle is one (R343, R347). -/
  hold  : Bool := false
  frozen : Bool := false
  drifts : List DriftCmd := []
  /-- Drift reports that wait for a lost port: module of the master, die offset, bytes (R342, R344). -/
  reports : List (Nat × Nat × List Byte) := []
  ports : Tab Port := []
  maxabs : Nat := 0
  mean  : Int := 0
  alarm : Bool := false
  repSeq : W32 := 0
  faccept : W32 := 0
  facceptSet : Bool := false
  dwin  : Nat := 0
  imgLen : Nat := 0
  imgStat : Nat := 0
  /-- Real cycle at which the firmware reaches the next step of R370. -/
  bootDue : Option Nat := none
  pcap  : Nat := 3000
  h2d   : Tab W32 := []
  h2dBusy : Nat := 0
  rej   : Bool := false
  d2h   : List W32 := []
  full  : Bool := false
  lost  : Nat := 0
  outq  : List (List W32) := []
  /-- Replies to the message that the device still handles (R364). -/
  replies : List (List W32) := []
  /-- MSI-X vectors raised, counted (R359). -/
  msix  : List Nat := [0, 0, 0]
  mrs   : List (List Byte) := List.replicate 8 (List.replicate 48 0)
  parts : Option (List Nat) := none
  roots : Tab Root := []
  /-- Real cycle of the next scheduling round of each partition; 0 when rounds have not begun (R297). -/
  rounds : Tab Nat := []
  /-- Rounds run so far by partition, and the GCC of the last one. -/
  roundNo : Tab Nat := []
  roundAt : Tab Nat := []
  launches : List Launch := []
  retired : List Retired := []
  saved : List Saved := []
  regions : List Region := []
  nextSash : Nat := 1
  devs  : List DevLaunch := []
  /-- Quote requests waiting, in order of arrival (R368, R369): partition, slot and the real cycle of the answer; slot 16 is the
  host's request, whose message stands beside it. -/
  quotes : List (Nat × Nat × Nat) := []
  quoteAsk : List W32 := []
  /-- Power limit of the 1 ms window that runs, in W (R356); the energy of the last window above the limit, the energy used
  in this one and the ballast energy among it, in microjoules (R357). -/
  cap   : Nat := 3000
  excess : Nat := 0
  spent : Nat := 0
  ballast : Nat := 0
  /-- THE MODEL'S OWN bookkeeping: GCC at which each periodic event last took place, by event number. -/
  seen  : Tab Nat := []
  deriving DecidableEq, Repr

/-- A route between two modules (R38, R341): hops' total of 220 + c, and the ports it crosses. -/
structure Route where
  src   : Nat
  dst   : Nat
  sum   : Nat
  ports : List (Nat × Nat)
  deriving DecidableEq, Repr

/-- The course, path and slot that issues (R14, R98, R99). -/
structure Issuer where
  core  : Nat
  owner : Nat
  cr    : Nat
  /-- Path slot 0 or 1. -/
  slot  : Nat
  pc    : Nat
  word  : W32
  pred  : BitVec 3
  neg   : Bool
  cyc   : Nat
  deriving DecidableEq, Repr

/-- Everything but the bytes. -/
structure Mach where
  clock : Nat := 0
  /-- Outside inputs with the real cycle each arrives at, in order (R42, R332, R359). -/
  inputs : List (Nat × Event) := []
  cur   : Option Issuer := none
  /-- THE MODEL'S OWN counter of free values drawn (log entry 2). -/
  freeCtr : Nat := 0
  mods  : Tab Module := []
  dies  : Tab Die := []
  cores : Tab Core := []
  sashes : Tab Sash := []
  nextSash : Nat := 1
  routes : List Route := []
  deriving DecidableEq, Repr

/-- The whole machine. -/
structure State where
  mem  : Memory := {}
  mach : Mach := {}
  deriving DecidableEq, Repr

/-- The machine right after reset: no byte listed, no block bound, every module before its boot ROM starts
(R359, R370). -/
def State.reset : State := {}

end Sys2Proof.Machine
end

