-- ==== Sys2Proof/Machine/Ops.lean ====
section
/-! DEFINITION. The named operations over the state that every meaning is written with: bytes, registers,
paths, clocks and routes, pausing a sash, taking a fault, entering a user trap and returning from one.

A meaning works on a `World`: the machine, the bytes as they stand, and the list of byte writes it made.
`commit` applies exactly that list to the state's memory, so whatever a meaning does, the bytes change by
`Memory.apply` alone. -/

namespace Sys2Proof.Machine

/-! ## Lists -/

/-- Insert before the first element that does not precede `x`. -/
def insertBy {α : Type} (le : α → α → Bool) (x : α) : List α → List α
  | [] => [x]
  | y :: r => if le x y then x :: y :: r else y :: insertBy le x r

/-- Sort a list; equal elements keep their order. -/
def sortBy {α : Type} (le : α → α → Bool) (l : List α) : List α := l.foldr (insertBy le) []

/-! ## Bytes -/

/-- Little-endian value of bytes (R5). -/
def leNat : List Byte → Nat
  | [] => 0
  | b :: r => b.toNat + 256 * leNat r

/-- The low `n` bytes of a value, the lowest first (R5). -/
def leBytes (n v : Nat) : List Byte := (List.range n).map fun i => BitVec.ofNat 8 (v / 2 ^ (8 * i))

/-- The table of a store. -/
def Memory.tab (m : Memory) : Store → Tab Byte
  | .dram => m.dram
  | .host => m.host
  | .ts => m.ts
  | .acc => m.acc
  | .trn => m.trn

/-- Replace the table of a store. -/
def Memory.setTab (m : Memory) (st : Store) (t : Tab Byte) : Memory :=
  match st with
  | .dram => { m with dram := t }
  | .host => { m with host := t }
  | .ts => { m with ts := t }
  | .acc => { m with acc := t }
  | .trn => { m with trn := t }

/-- The byte at an address of a store; a byte nothing has written reads 0 (log entry 4). -/
def Memory.byte (m : Memory) (st : Store) (a : Nat) : Byte := Tab.get 0 (m.tab st) a

/-- Write one byte. -/
def Memory.putByte (m : Memory) (st : Store) (a : Nat) (v : Byte) : Memory :=
  m.setTab st (Tab.set 0 (m.tab st) a v)

/-- `n` bytes from an address up. -/
def Memory.bytes (m : Memory) (st : Store) (a n : Nat) : List Byte :=
  (List.range n).map fun i => m.byte st (a + i)

/-- Write consecutive bytes. -/
def Memory.putBytes (m : Memory) (st : Store) : Nat → List Byte → Memory
  | _, [] => m
  | a, b :: r => (m.putByte st a b).putBytes st (a + 1) r

/-- The number of a store in the keys of the poison table. -/
def storeNo : Store → Nat
  | .dram => 0
  | .host => 1
  | .ts => 2
  | .acc => 3
  | .trn => 4

/-- Key of a 64-bit granule in the poison table (R332). -/
def poisonKey (st : Store) (g : Nat) : Nat := storeNo st * 2 ^ 90 + g

/-- Clear the poison of `n` granules from `g` up. -/
def Memory.clean (m : Memory) (st : Store) (g : Nat) : Nat → Memory
  | 0 => m
  | n + 1 => ({ m with poison := Tab.set false m.poison (poisonKey st g) false }).clean st (g + 1) n

/-- Carry out one write. A write of all 64 bits of a granule clears its poison (R332). -/
def Memory.apply (m : Memory) : MemWrite → Memory
  | .bytes st a bs =>
    let g := (a + 7) / 8
    (m.putBytes st a bs).clean st g ((a + bs.length) / 8 - g)
  | .zero st a n =>
    let m := m.setTab st ((m.tab st).filter fun (x : Nat × Byte) => decide (x.1 < a) || decide (a + n ≤ x.1))
    { m with poison := m.poison.filter fun (x : Nat × Bool) =>
        decide (x.1 < poisonKey st ((a + 7) / 8)) || decide (poisonKey st ((a + n) / 8) ≤ x.1) }
  | .mark st g => { m with poison := Tab.set false m.poison (poisonKey st g) true }

/-- Carry out a list of writes in order. -/
def Memory.applyAll (m : Memory) : List MemWrite → Memory
  | [] => m
  | w :: r => (m.apply w).applyAll r

/-- Whether one of the granules of `n` bytes at `a` is poisoned (R332). -/
def Memory.poisoned (m : Memory) (st : Store) (a n : Nat) : Bool :=
  (List.range ((a + n + 7) / 8 - a / 8)).any fun i => Tab.get false m.poison (poisonKey st (a / 8 + i))

/-! ## The world of a meaning -/

/-- What a meaning reads and changes: see the header. -/
structure World where
  mem  : Memory
  mach : Mach
  out  : List MemWrite := []
  deriving DecidableEq, Repr

/-- Open a state. -/
def enter (s : State) : World := { mem := s.mem, mach := s.mach }

/-- Close a world over the state it was opened from. -/
def commit (s : State) (w : World) : State := { mem := s.mem.applyAll w.out, mach := w.mach }

namespace World

/-- Write bytes. -/
def write (w : World) (st : Store) (a : Nat) (bs : List Byte) : World :=
  { w with mem := w.mem.apply (.bytes st a bs), out := w.out ++ [.bytes st a bs] }

/-- Zero a stretch. -/
def zero (w : World) (st : Store) (a n : Nat) : World :=
  { w with mem := w.mem.apply (.zero st a n), out := w.out ++ [.zero st a n] }

/-- Poison a granule. -/
def poison (w : World) (st : Store) (g : Nat) : World :=
  { w with mem := w.mem.apply (.mark st g), out := w.out ++ [.mark st g] }

/-- The value of a core, a die, a module, a sash; one that is not listed has its reset value. -/
def core (w : World) (c : Nat) : Core := (w.mach.cores.find c).getD {}
def setCore (w : World) (c : Nat) (k : Core) : World := { w with mach := { w.mach with cores := w.mach.cores.put c k } }
def modCore (w : World) (c : Nat) (f : Core → Core) : World := w.setCore c (f (w.core c))
def die (w : World) (d : Nat) : Die := (w.mach.dies.find d).getD {}
def setDie (w : World) (d : Nat) (k : Die) : World := { w with mach := { w.mach with dies := w.mach.dies.put d k } }
def modDie (w : World) (d : Nat) (f : Die → Die) : World := w.setDie d (f (w.die d))
def module (w : World) (m : Nat) : Module := (w.mach.mods.find m).getD {}
def setModule (w : World) (m : Nat) (k : Module) : World := { w with mach := { w.mach with mods := w.mach.mods.put m k } }
def modModule (w : World) (m : Nat) (f : Module → Module) : World := w.setModule m (f (w.module m))
def sash? (w : World) (i : Nat) : Option Sash := w.mach.sashes.find i
def setSash (w : World) (i : Nat) (k : Sash) : World := { w with mach := { w.mach with sashes := w.mach.sashes.put i k } }
def dropSash (w : World) (i : Nat) : World := { w with mach := { w.mach with sashes := w.mach.sashes.erase i } }

/-- A place in the sequence of free values (log entry 2). -/
def free (w : World) : Nat := w.mach.freeCtr
def step (w : World) : World := { w with mach := { w.mach with freeCtr := w.mach.freeCtr + 1 } }

/-- The real cycle `d` cycles and a free delay from now. -/
def later (w : World) (d : Nat) : Nat := w.mach.clock + d + Config.realDelay w.free

/-- Blocks and courses of a core. A block that has ended stays listed while accesses of it are on their way. -/
def block? (w : World) (c o : Nat) : Option Block := (w.core c).blocks.find o
def setBlock (w : World) (c o : Nat) (b : Block) : World := w.modCore c fun k => { k with blocks := k.blocks.put o b }
def modBlock (w : World) (c o : Nat) (f : Block → Block) : World :=
  match w.block? c o with
  | some b => w.setBlock c o (f b)
  | none => w
def course? (w : World) (c o r : Nat) : Option Course := (w.core c).courses.find (32 * o + r)
def setCourse (w : World) (c o r : Nat) (k : Course) : World :=
  w.modCore c fun x => { x with courses := x.courses.put (32 * o + r) k }
def modCourse (w : World) (c o r : Nat) (f : Course → Course) : World :=
  match w.course? c o r with
  | some k => w.setCourse c o r (f k)
  | none => w

end World

/-- The blocks of a core that have not ended. -/
def Core.live (k : Core) : Tab Block := k.blocks.filter fun (b : Nat × Block) => !b.2.spent

/-! ## Places -/

/-- Die, module and quadrant of a core key; module and number of a die key (R1). -/
def dieOf (c : Nat) : Nat := c / Config.coresPerDie
def modOf (c : Nat) : Nat := dieOf c / 4
def quadOf (c : Nat) : Nat := c % Config.coresPerDie / Config.coresPerQuad
/-- Key of a byte of a die's DRAM in the `dram` store. -/
def dramKey (d off : Nat) : Nat := d * Config.dramSpan + off
/-- First byte of the DRAM that the management cores of a die keep for themselves, apart from what the partition's tables map:
1 GiB for the operand logs of its cores, then the tables and frames of context areas (R331, R334; free value, log entry 103). -/
def reserveAt (d : Nat) : Nat := 2 ^ 30 * (Config.reserve d % 62)
/-- First byte of a core's operand log in its die's DRAM (R331). -/
def logAt (c : Nat) : Nat := reserveAt (dieOf c) + Config.logBytes * (c % Config.coresPerDie)
/-- Key of a byte of host memory reached over a module's link. -/
def hostKey (m a : Nat) : Nat := m * Config.hostSpan + a
/-- The level's store, and the key of a byte of a core's part of it (R188). -/
def levelStore : Nat → Store
  | 0 => .ts
  | 1 => .acc
  | _ => .trn
def levelKey (lv c a : Nat) : Nat :=
  match lv with
  | 0 => c * Config.tsSpan + a
  | 1 => c * Config.accSpan + a
  | _ => c * Config.trnSpan + a
/-- Module numbers are given by the host (R341); the key of the module with a number. -/
def moduleByNum (mach : Mach) (n : Nat) : Option Nat :=
  (mach.mods.find? fun x => x.2.num = n && x.2.formed).map Prod.fst
/-- The core that a DCORE word of the group names (R215): module NUMBER, die and core. -/
def groupCore (mach : Mach) (v : Nat) : Option Nat :=
  match moduleByNum mach (v / 2 ^ 12 % 2 ^ 9) with
  | some m => if v % 2 ^ 9 < Config.coresPerDie then some ((4 * m + v / 2 ^ 10 % 4) * Config.coresPerDie + v % 2 ^ 9) else none
  | none => none
/-- Hops between two dies of one module, which form a ring (R38). -/
def dieHops (a b : Nat) : Nat :=
  if a % 4 = b % 4 then 0 else if (a % 4 + 1) % 4 = b % 4 ∨ (b % 4 + 1) % 4 = a % 4 then 1 else 2
/-- The sum of 220 + c over the route between two modules, when the group's table has one (R38, R341). -/
def routeSum (mach : Mach) (a b : Nat) : Option Nat :=
  (mach.routes.find? fun r => r.src = a && r.dst = b).map Route.sum
/-- Fabric load latency L between dies (R38). -/
def fabLat (mach : Mach) (a b : Nat) : Option Nat :=
  if a = b then some 460
  else if a / 4 = b / 4 then some (448 + 64 * dieHops a b)
  else (routeSum mach (a / 4) (b / 4)).map (448 + ·)
/-- Route latency lambda of a timed send or credit (R47). -/
def msgLat (mach : Mach) (a b : Nat) : Option Nat :=
  if a = b then some 12
  else if a / 4 = b / 4 then some (64 * dieHops a b)
  else routeSum mach (a / 4) (b / 4)
/-- Extra cycles after the memory cycle until a write is performed at `.die` and wider (R247). -/
def perfExtra (mach : Mach) (a b : Nat) : Nat :=
  if a = b then 8
  else if a / 4 = b / 4 then 8 + 64 * dieHops a b
  else 8 + (routeSum mach (a / 4) (b / 4)).getD 0

/-- Partition of a die, once the map is given (R368). -/
def partOf (w : World) (d : Nat) : Option Nat :=
  match (w.module (d / 4)).parts with
  | some l => l[d % 4]?
  | none => none

/-- A fabric address is open to a die: its owner lies in the time group and, on one module, in its
partition (R184, R368). -/
def fabOpen (w : World) (src dst : Nat) : Bool :=
  if src / 4 = dst / 4 then decide (partOf w src = partOf w dst)
  else (routeSum w.mach (src / 4) (dst / 4)).isSome

/-! ## Virtual time -/

/-- The sash of a core. -/
def sashOf (w : World) (c : Nat) : Option Sash := (w.core c).sash.bind w.sash?
/-- VCC of a core (R36); 0 when no sash is formed. -/
def vccOf (w : World) (c : Nat) : Nat := ((sashOf w c).map Sash.vcc).getD 0
/-- A running core: its sash is formed and does not stand paused (R43). -/
def running (w : World) (c : Nat) : Bool := ((sashOf w c).map fun s => !s.paused).getD false
/-- GCC of the module of a core. -/
def gccOf (w : World) (c : Nat) : Nat := (w.module (modOf c)).gcc

/-- Change the sash of a core. -/
def modSashOf (w : World) (c : Nat) (f : Sash → Sash) : World :=
  match (w.core c).sash with
  | some i => match w.sash? i with
    | some s => w.setSash i (f s)
    | none => w
  | none => w

/-- A sash with one more pause cause effective at `p`. A cause for a later cycle stays pending and does not touch the
restart of a sash that stands (R45). -/
def Sash.cause (s : Sash) (p : Nat) (src : CauseBy) : Sash :=
  { s with causes := s.causes ++ [{ p := p, src := src }], resume := if p ≤ s.vcc then none else s.resume }

/-- Raise a pause cause effective at `p` (R42, R45). -/
def addCause (w : World) (c p : Nat) (src : CauseBy) : World := modSashOf w c fun s => s.cause p src

/-- Raise a pause cause unless the sash has it already. -/
def ensureCause (w : World) (c p : Nat) (src : CauseBy) : World :=
  if ((sashOf w c).map fun s => s.causes.any fun x => decide (x.p = p) && decide (x.src = src)).getD true then w else addCause w c p src

/-- Raise the cause of a check that stops a running sash at `p` even where what it waits for comes before (R49, R50, R96). A
cause that a standing sash finds for a later cycle ends when it clears (R45). -/
def sureCause (w : World) (c p : Nat) (src : CauseBy) : World :=
  modSashOf w c fun s => { s with causes := s.causes ++ [{ p := p, src := src, sure := !s.paused }], resume := if p ≤ s.vcc then none else s.resume }

/-- Take back every cause that an agent raised. -/
def dropCause (w : World) (c : Nat) (src : CauseBy) : World :=
  modSashOf w c fun s => { s with causes := s.causes.filter fun x => x.src ≠ src }

/-- A cause whose agent has found what it waited for: one that is still to stop its sash keeps its place (R49, R50, R96). -/
def Cause.clear (s : Sash) (src : CauseBy) (x : Cause) : Option Cause :=
  if x.src ≠ src then some x
  else if x.sure && (!s.paused || decide (s.vcc < x.p)) then some { x with met := true }
  else none

/-- Clear every cause that an agent raised; the restart is found by SASH_RESUME (R44). -/
def clearCause (w : World) (c : Nat) (src : CauseBy) : World :=
  modSashOf w c fun s => { s with causes := s.causes.filterMap (Cause.clear s src) }

/-- Stop a sash at its present cycle (R43). -/
def Sash.stop (s : Sash) (gcc : Nat) : Sash :=
  if s.paused then s else { s with paused := true, stopGcc := gcc, resume := none }

/-- Stop the sash of a core at its present cycle, for a cause of the sash's own (R324, R380). -/
def pauseNow (w : World) (c : Nat) (src : CauseBy) : World :=
  let w := addCause w c (vccOf w c) src
  modSashOf w c fun s => s.stop (gccOf w c)

/-! ## Program counters (R95) -/

/-- The PC of a linear slot index. -/
def pcWord (n : Nat) : W64 := BitVec.ofNat 64 (n / 3 * 16 + (n % 3 + 1) * 4)
/-- The checks of R95 on a PC that a register supplies. -/
def pcGood (v : W64) : Bool :=
  v.toNat % 4 = 0 && v.toNat / 4 % 4 ≠ 0 && decide (v.toNat < 2 ^ 46)
/-- The linear slot index of a PC that passes the checks. -/
def pcIndex (v : W64) : Nat := 3 * (v.toNat / 16) + v.toNat / 4 % 4 - 1

/-! ## Registers (R9, R104, R105) -/

namespace Course

/-- Word `w` of the allotment in a lane. -/
def reg (k : Course) (w lane : Nat) : W32 := Tab.get 0 k.regs (w * 32 + lane)
def setReg (k : Course) (w lane : Nat) (v : W32) : Course := { k with regs := Tab.set 0 k.regs (w * 32 + lane) v }
/-- Uniform register. -/
def uni (k : Course) (n : Nat) : W32 := Tab.get 0 k.k n
def setUni (k : Course) (n : Nat) (v : W32) : Course := { k with k := Tab.set 0 k.k n v }
/-- Uniform pair. -/
def uniPair (k : Course) (n : Nat) : W64 := BitVec.ofNat 64 ((k.uni n).toNat + 2 ^ 32 * (k.uni (n + 1)).toNat)
/-- Predicate of every lane; p7 reads true (R12). -/
def pred (k : Course) (p : BitVec 3) : LaneMask := if p = 7 then 0xFFFFFFFF else Tab.get 0 k.preds p.toNat
/-- Write a predicate in the lanes of a mask; a write to p7 is discarded (R105). -/
def setPred (k : Course) (p : BitVec 3) (mask vals : LaneMask) : Course :=
  if p = 7 then k
  else { k with preds := Tab.set 0 k.preds p.toNat ((k.pred p &&& ~~~mask) ||| (vals &&& mask)) }

/-- The value of a source in a lane; a single register is zero-extended. -/
def src (k : Course) (lane : Nat) : Src → W64
  | .none => 0
  | .imm v => v
  | .reg w => (k.reg w lane).zeroExtend 64
  | .pair w => BitVec.ofNat 64 ((k.reg w lane).toNat + 2 ^ 32 * (k.reg (w + 1) lane).toNat)
  | .uni n => (k.uni n).zeroExtend 64
  | .uniPair n => k.uniPair n

/-- The lanes of a mask that PRED and NEG enable (R99). -/
def enabled (k : Course) (mask : LaneMask) (p : BitVec 3) (neg : Bool) : LaneMask :=
  mask &&& (if neg then ~~~(k.pred p) else k.pred p)

/-- The lowest-enabled-lane rule (R118): the lowest active lane is enabled. -/
def onceOk (k : Course) (mask : LaneMask) (p : BitVec 3) (neg : Bool) : Bool :=
  let j := lowestLane mask
  j < 32 && (k.enabled mask p neg).getLsbD j

/-- The allotment that an instruction issued at a cycle can name (R12, R211). -/
def allotAt (k : Course) (cyc : Nat) : Nat :=
  match k.grow with
  | some (at2, old) => if cyc < at2 then old else k.allot
  | none => k.allot

/-! ## Paths (R22 to R28) -/

/-- The path with a path-table index (R27). -/
def path? (k : Course) (ix : Nat) : Option Path :=
  match ix with
  | 0 => k.slot0
  | 1 => k.slot1
  | n + 2 => k.stack[n]?

/-- Put a path at a path-table index. -/
def setPath (k : Course) (ix : Nat) (p : Path) : Course :=
  match ix with
  | 0 => { k with slot0 := some p }
  | 1 => { k with slot1 := some p }
  | n + 2 => { k with stack := k.stack.set n p }

/-- Every path with its index, in order of index. -/
def paths (k : Course) : List (Nat × Path) :=
  (k.slot0.map fun p => (0, p)).toList ++ (k.slot1.map fun p => (1, p)).toList
    ++ k.stack.mapIdx fun n p => (n + 2, p)

/-- The index of the path with a name. -/
def indexOf (k : Course) (id : Nat) : Option Nat := ((k.paths.find? fun x => x.2.id = id)).map Prod.fst

/-- Change every path. -/
def mapPaths (k : Course) (f : Path → Path) : Course :=
  { k with slot0 := k.slot0.map f, slot1 := k.slot1.map f, stack := k.stack.map f }

/-- Diverged: two or more paths (R23). -/
def diverged (k : Course) : Bool := 2 ≤ k.paths.length

/-- A path that handler state holds (R174). -/
def heldByHandler (k : Course) (p : Path) : Bool :=
  match k.handler with
  | some l => l.contains p.id
  | none => false

end Course

/-- Change a path of a course. -/
def modPath (w : World) (c o r ix : Nat) (f : Path → Path) : World :=
  w.modCourse c o r fun k => match k.path? ix with
    | some p => k.setPath ix (f p)
    | none => k

/-! ## Taking a fault (R324, R325) -/

/-- A record joins the fault queue; while the queue is full it waits for room (R324). Cycles in which the management core
acts on a record are real time (free value). -/
def Core.pushFault (k : Core) (f : FaultRec) : Core :=
  if k.faults.length < Config.faultQueue then { k with faults := k.faults ++ [f] } else { k with waiting := k.waiting ++ [f] }

/-- The handled record leaves the queue, and the oldest that waited takes its room (R324). -/
def Core.popFault (k : Core) : Core :=
  { k with faults := k.faults.tail ++ k.waiting.take 1, waiting := k.waiting.drop 1 }

/-- The piece of work of a record, as a number: 0 for an instruction. -/
def Work.unit : Work → Nat
  | .command c => 2 * c.id + 1
  | .beat b => 2 * b + 2
  | .hostCopy c => 2 * c + 1
  | .follow c => 2 * c + 1
  | .array c => 2 * c + 1
  | .landing a => 2 * a + 2
  | _ => 0

/-- A fault is one that a record written at the cut already reports: same cycle, same instruction, command or beat, and
for lanes a lane of its MASK (R324). -/
def FaultRec.meets (v f : FaultRec) : Bool :=
  decide (v.vcc = f.vcc) && decide (v.owner = f.owner) && decide (v.cr = f.cr) && decide (v.seq = f.seq) && decide (v.pc = f.pc) &&
  decide (v.src = f.src) && decide (v.work.unit = f.work.unit) && (decide (v.src ≠ 0) || decide (f.mask &&& ~~~v.mask = 0))

/-- Take a fault at the present virtual cycle: a record in the core's fault queue, and a pause of the sash
at P that stands until the management core has handled it (R324). A fault that the ignore policy has passed over at this
cut already pauses nothing again: CONTAINMENT_WALK gives its work what R328 says. -/
def takeFault (w : World) (c : Nat) (f : FaultRec) : World :=
  let f := { f with vcc := BitVec.ofNat 64 (vccOf w c), due := w.later 0 }
  let w := w.step
  if (w.core c).pardons.any fun v => v.meets f then w.modCore c fun k => { k with passed := k.passed ++ [f] }
  else pauseNow (w.modCore c fun k => k.pushFault f) c (.fault c)

/-- The block's part of a record (R325). -/
def FaultRec.ofBlock (f : FaultRec) (b : Block) : FaultRec := { f with bk := b.bind.bk, lid := b.bind.lid }

/-! ## User traps (R173 to R177, R326) -/

/-- The value of `%tcause` (R177). -/
def tcauseWord (kind code path : Nat) : W32 := BitVec.ofNat 32 (kind * 2 ^ 28 + code % 2 ^ 10 * 2 ^ 16 + path % 2 ^ 5)

/-- Linear slot index of the handler's first instruction (R110). -/
def handlerEntry (b : Block) : Nat := 3 * ((b.bind.hdr + b.hdr.entry) / 16 + b.hdr.hoff)

/-- Enter the handler on a path: `%tpc` is the index to return to; every other path is held (R173, R174). -/
def Course.enterTrap (k : Course) (b : Block) (ix kind code ret : Nat) : Course :=
  match k.path? ix with
  | some p =>
    let others := (k.paths.map fun x => x.2.id).filter (· ≠ p.id)
    ({ k with tpc := pcWord ret, tcause := tcauseWord kind code ix, handler := some others }).setPath ix
      { p with pc := handlerEntry b }
  | none => k

/-- Write the trap record of the core (R326). -/
def Core.recordTrap (k : Core) (kind code path : Nat) (pc : W64) : Core :=
  { k with trap := { cause := tcauseWord kind code path, pc := pc,
                     count := if k.trap.count = 0xFFFFFFFF then k.trap.count else k.trap.count + 1 } }

/-- Return from the handler on a path (R175); `%tpc` has passed R95. -/
def Course.leaveTrap (k : Course) (ix : Nat) : Course :=
  match k.path? ix with
  | some p => ({ k with handler := none }).setPath ix { p with pc := pcIndex k.tpc }
  | none => k

/-! ## Tile table (R188, R191) -/

/-- Bits of an element of a format (R136, R191): 4 for QN4, 8 for E8M0. -/
def fmtBits : Nat → Nat
  | 0 => 32
  | 1 => 32
  | 2 => 64
  | 3 => 64
  | 4 => 32
  | 5 => 64
  | 6 => 16
  | 7 => 16
  | 8 => 8
  | 9 => 8
  | 10 => 16
  | 11 => 16
  | 12 => 8
  | 13 => 8
  | 14 => 4
  | _ => 8

/-- The descriptor of hN of a block on a core. -/
def descOf (k : Core) (b : Block) (n : Nat) : Desc := (k.tiles.find (b.bind.hb + n)).getD {}

/-- Byte address of element (r, c) of a handle in its level's store of the core (R188). -/
def Desc.addr (d : Desc) (r c : Nat) : Nat :=
  if d.fmt = 14 then 256 * d.base + 32 * (r / 8 * (d.cols / 8) + c / 8) + 4 * (r % 8) + c % 8 / 2
  else 256 * d.base + (r * d.cols + c) * fmtBits d.fmt / 8

/-- Bytes of a row as copies count rows (R220). -/
def Desc.rowBytes (d : Desc) : Nat := if d.fmt = 14 then d.cols / 8 * 32 else d.cols * fmtBits d.fmt / 8
/-- Rows as copies count them: block rows for QN4 (R220). -/
def Desc.copyRows (d : Desc) : Nat := if d.fmt = 14 then (d.rows + 7) / 8 else d.rows
/-- Bytes of the elements of a handle (R193). -/
def Desc.bytes (d : Desc) : Nat := (d.rows * d.cols * fmtBits d.fmt + 7) / 8
/-- Bytes a handle takes of its level (R193). -/
def Desc.area (d : Desc) : Nat :=
  if d.level = 2 then 128 * (((d.rows * fmtBits d.fmt + 7) / 8 + 255) / 256 * 256)
  else (d.bytes + 255) / 256 * 256

/-- The 128 bits of a descriptor (R191). -/
def Desc.bits (d : Desc) : Nat :=
  (if d.valid then 1 else 0) + 2 ^ 7 * (if d.land then 1 else 0) + 2 ^ 8 * (if d.watch then 1 else 0)
    + 2 ^ 9 * (if d.save then 1 else 0) + 2 ^ 10 * d.level + 2 ^ 12 * d.fmt + 2 ^ 16 * (d.rows % 2 ^ 16)
    + 2 ^ 32 * (d.cols % 2 ^ 16) + 2 ^ 48 * (d.base % 2 ^ 16) + 2 ^ 64 * (if d.scv then 1 else 0)
    + 2 ^ 65 * (if d.sblk then 1 else 0) + 2 ^ 66 * (d.owner % 2 ^ 6) + 2 ^ 72 * (d.scale % 2 ^ 8)
    + 2 ^ 80 * (d.stamp % 2 ^ 48)

/-! ## Tags (R216) -/

/-- Bits of the block's tags, tag N at bit N; bits at or above TAGS read zero. -/
def blockTags (k : Core) (b : Block) : W64 :=
  BitVec.ofNat 64 (k.tags.toNat / 2 ^ b.bind.tagb % 2 ^ b.hdr.tags)
/-- Set or clear core tag `n`. -/
def Core.setTag (k : Core) (n : Nat) (v : Bool) : Core :=
  let bitv := BitVec.ofNat 64 (2 ^ n)
  { k with tags := if v then k.tags ||| bitv else k.tags &&& ~~~bitv }

/-! ## Columns (R39) -/

/-- The string of a core. -/
def Core.str (k : Core) (s : Nat) : Str := (k.strs.find s).getD {}
def Core.setStr (k : Core) (s : Nat) (x : Str) : Core := { k with strs := k.strs.put s x }

/-- Cycle at which an instruction issued at `i` takes its column, and the column's next free cycle. -/
def Str.take (x : Str) (col : Col) (i : Nat) : Nat × Str :=
  match col with
  | .none => (i, x)
  | .fp => (max i x.fp, { x with fp := max i x.fp + 1 })
  | .fp64 => (max i x.fp, { x with fp := max i x.fp + 2 })
  | .sfu => (max i x.sfu, { x with sfu := max i x.sfu + 4 })
  | .chain => (max i x.chain, { x with chain := max i x.chain + 128 })

end Sys2Proof.Machine
end

