-- ==== Sys2Proof/Machine/Flags.lean ====
section
/-! DEFINITION. The sticky floating-point flags (R73) and how a course takes them. -/

namespace Sys2Proof.Machine

/-- Flags as bits [4:0] of `%fpst`: NV, DZ, OF, UF, NX. -/
abbrev FpFlags := BitVec 5

def flagNV : FpFlags := 16
def flagDZ : FpFlags := 8
def flagOF : FpFlags := 4
def flagUF : FpFlags := 2
def flagNX : FpFlags := 1

/-- A flag raised on a condition. -/
def flagIf (c : Bool) (f : FpFlags) : FpFlags := if c then f else 0

/-- Raise flags in the course's `%fpst`; bits are only ever set (R73). -/
def Course.raise (k : Course) (f : FpFlags) : Course :=
  { k with fpst := k.fpst ||| f.zeroExtend 32 }

end Sys2Proof.Machine
end

