-- ==== Sys2Proof/Machine/Float.lean ====
section
/-! DEFINITION. The floating-point formats, exact dyadic arithmetic and rounding (R60 to R72, R130 to R134).

A finite value is kept exactly as (-1)^s * m * 2^e; every operation computes exactly and rounds once. -/

namespace Sys2Proof.Machine

/-- Fraction width of a format (R60). -/
def fracBits : FFmt → Nat
  | .f64 => 52
  | .f32 => 23
  | .f16 => 10
  | .bf16 => 7
  | .e4m3 => 3
  | .e5m2 => 2
/-- Exponent width of a format (R60). -/
def expBits : FFmt → Nat
  | .f64 => 11
  | .f32 => 8
  | .f16 => 5
  | .bf16 => 8
  | .e4m3 => 4
  | .e5m2 => 5
/-- Bias of a format (R60). -/
def expBias : FFmt → Nat
  | .f64 => 1023
  | .f32 => 127
  | .f16 => 15
  | .bf16 => 127
  | .e4m3 => 7
  | .e5m2 => 15
/-- Width of a format in bits. -/
def fmtWidth (f : FFmt) : Nat := 1 + expBits f + fracBits f

/-- The value of a pattern: NaN (signalling or not), infinity, or (-1)^s * m * 2^e (R61). -/
inductive FVal where
  | nan (sig : Bool)
  | inf (s : Bool)
  | num (s : Bool) (m : Nat) (e : Int)
  deriving DecidableEq, Repr

/-- Read a pattern (R61). -/
def unpackF (f : FFmt) (v : Nat) : FVal :=
  let fb := fracBits f
  let s := v / 2 ^ (fmtWidth f - 1) % 2 = 1
  let ex := v / 2 ^ fb % 2 ^ expBits f
  let fr := v % 2 ^ fb
  if f = .e4m3 then
    if ex = 15 ∧ fr = 7 then .nan false
    else if ex = 0 then .num s fr (1 - 7 - 3)
    else .num s (2 ^ fb + fr) ((ex : Int) - 7 - 3)
  else if ex = 2 ^ expBits f - 1 then
    if fr = 0 then .inf s else .nan (fr / 2 ^ (fb - 1) = 0)
  else if ex = 0 then .num s fr (1 - (expBias f : Int) - fb)
  else .num s (2 ^ fb + fr) ((ex : Int) - expBias f - fb)

/-- The sign bit of a format's pattern. -/
def signOf (f : FFmt) (s : Bool) : Nat := if s then 2 ^ (fmtWidth f - 1) else 0
/-- The canonical NaN (R65). -/
def canonNan : FFmt → Nat
  | .f64 => 0x7FF8000000000000
  | .f32 => 0x7FC00000
  | .f16 => 0x7E00
  | .bf16 => 0x7FC0
  | .e4m3 => 0x7F
  | .e5m2 => 0x7E
/-- Infinity; E4M3 has none and takes its largest finite value (R68). -/
def infBits (f : FFmt) (s : Bool) : Nat :=
  signOf f s + (if f = .e4m3 then 0x7E else (2 ^ expBits f - 1) * 2 ^ fracBits f)
/-- Largest finite value of a format (R60). -/
def maxBits (f : FFmt) (s : Bool) : Nat :=
  signOf f s + (if f = .e4m3 then 0x7E else (2 ^ expBits f - 1) * 2 ^ fracBits f - 1)
/-- The result of an overflow in a mode (R68). -/
def overflowBits (f : FFmt) (rm : Round) (s : Bool) : Nat :=
  match rm with
  | .rne => infBits f s
  | .rz => maxBits f s
  | .rd => if s then infBits f s else maxBits f s
  | .ru => if s then maxBits f s else infBits f s

/-- Floor of the base-2 logarithm; 0 of 0. -/
def log2Nat (n : Nat) : Nat := Nat.log2 n

/-- Whether rounding a magnitude up is right in a mode: `odd` the kept last bit, `rem` of `2^k` dropped. -/
def roundUp (rm : Round) (s odd : Bool) (rem k : Nat) : Bool :=
  match rm with
  | .rne => decide (2 ^ k < 2 * rem) || (decide (2 ^ k = 2 * rem) && odd)
  | .rz => false
  | .rd => s && decide (rem ≠ 0)
  | .ru => !s && decide (rem ≠ 0)

/-- Round `m * 2^e` to a multiple of `2^q`: the multiple and whether it is exact. -/
def roundAt (rm : Round) (s : Bool) (m : Nat) (e q : Int) : Nat × Bool :=
  if q ≤ e then (m * 2 ^ (e - q).toNat, true)
  else
    let k := (q - e).toNat
    let r := m % 2 ^ k
    (m / 2 ^ k + (if roundUp rm s (m / 2 ^ k % 2 = 1) r k then 1 else 0), r = 0)

/-- The exponent of the smallest normal number. -/
def eMin (f : FFmt) : Int := 1 - (expBias f : Int)

/-- Whether `m * 2^q` exceeds the largest finite value of a format (R68). -/
def exceeds (f : FFmt) (m : Nat) (q : Int) : Bool :=
  if f = .e4m3 then
    (if q ≤ 6 then decide (7 * 2 ^ (6 - q).toNat < m) else decide (7 < m * 2 ^ (q - 6).toNat))
  else decide ((2 ^ expBits f - 1 - expBias f : Int) ≤ log2Nat m + q) && decide (m ≠ 0)

/-- Pattern of `m * 2^q`, which the format holds exactly and whose `q` is the format's unit there. -/
def packExact (f : FFmt) (s : Bool) (m : Nat) (q : Int) : Nat :=
  let fb := fracBits f
  if m < 2 ^ fb then signOf f s + m
  else
    let (m, q) := if 2 ^ (fb + 1) ≤ m then (m / 2, q + 1) else (m, q)
    signOf f s + (q + fb + expBias f).toNat * 2 ^ fb + (m - 2 ^ fb)

/-- Round the exact value (-1)^s * m * 2^e, m not 0, once to a format (R67, R68, R69). -/
def roundF (f : FFmt) (rm : Round) (s : Bool) (m : Nat) (e : Int) : Nat × FpFlags :=
  let fb := fracBits f
  let top : Int := log2Nat m + e
  let q := max (top - fb) (eMin f - fb)
  let (n, exact) := roundAt rm s m e q
  if exceeds f n q then (overflowBits f rm s, flagOF ||| flagNX)
  else
    let (n2, _) := roundAt rm s m e (top - fb)
    let tiny := decide (top < eMin f) && !(decide (top = eMin f - 1) && decide (n2 = 2 ^ (fb + 1)))
    (packExact f s n q, flagIf (!exact) flagNX ||| flagIf (!exact && tiny) flagUF)

/-- The multiple of `2^q` below or above `m * 2^e` that a draw `u` picks (R71). -/
def pickSr (u : Nat) (s : Bool) (m : Nat) (e q : Int) : Nat :=
  if q ≤ e then m * 2 ^ (e - q).toNat
  else
    let k := (q - e).toNat
    let r := m % 2 ^ k
    let up := if s then !decide (u < (2 ^ k - r) * 2 ^ 24 / 2 ^ k) else decide (u < r * 2 ^ 24 / 2 ^ k)
    m / 2 ^ k + (if decide (r ≠ 0) && up then 1 else 0)

/-- Round under `.sr` with the 24-bit draw `u` (R71). Whether a result is tiny is judged as in `roundF`, on the value
that the same draw gives with the exponent unbounded: R69 does not say how it applies to `.sr` (log entry 7). -/
def roundSr (f : FFmt) (u : Nat) (s : Bool) (m : Nat) (e : Int) : Nat × FpFlags :=
  let fb := fracBits f
  let top : Int := log2Nat m + e
  let q := max (top - fb) (eMin f - fb)
  if q ≤ e then roundF f .rne s m e
  else
    let k := (q - e).toNat
    let r := m % 2 ^ k
    let n := m / 2 ^ k
    if exceeds f n q || (r ≠ 0 && exceeds f n q) || (decide (r ≠ 0) && packExact f false n q = maxBits f false) then
      roundF f .rne s m e
    else if r = 0 then roundF f .rne s m e
    else
      let tiny := decide (top < eMin f) && !(decide (top = eMin f - 1) && decide (pickSr u s m e (top - fb) = 2 ^ (fb + 1)))
      (packExact f s (pickSr u s m e q) q, flagNX ||| flagIf tiny flagUF)

/-- Round in any mode of a conversion. -/
def roundC (f : FFmt) (rm : CvtRound) (u : Nat) (s : Bool) (m : Nat) (e : Int) : Nat × FpFlags :=
  match rm with
  | .det r => roundF f r s m e
  | .sr => roundSr f u s m e

/-- The bits of R72 for a seed, a count and a lane number; the draw u of R71 is bits [63:40]. -/
def srHash (seed dii lane : Nat) : Nat :=
  let x := seed ^^^ (dii * 0x9E3779B97F4A7C15 % 2 ^ 64) ^^^ (lane * 0xD6E8FEB86659FD93 % 2 ^ 64)
  let x := x ^^^ (x / 2 ^ 32)
  let x := x * 0xB3C16F259A4ED78B % 2 ^ 64
  let x := x ^^^ (x / 2 ^ 29)
  let x := x * 0xC2D749A3E15F0B67 % 2 ^ 64
  x ^^^ (x / 2 ^ 32)
def srDraw (seed dii lane : Nat) : Nat := srHash seed dii lane / 2 ^ 40

/-- A signed exact value: the integer `v` times 2^e. -/
def signedVal (s : Bool) (m : Nat) : Int := if s then -(m : Int) else m

/-- Exact sum of two finite values at their common unit. -/
def addExact (s1 : Bool) (m1 : Nat) (e1 : Int) (s2 : Bool) (m2 : Nat) (e2 : Int) : Int × Int :=
  let e := min e1 e2
  (signedVal s1 m1 * 2 ^ (e1 - e).toNat + signedVal s2 m2 * 2 ^ (e2 - e).toNat, e)

/-- Round a signed exact value; an exact zero takes the sign given (R66). -/
def roundInt (f : FFmt) (rm : Round) (zs : Bool) (v e : Int) : Nat × FpFlags :=
  if v = 0 then (signOf f zs, 0) else roundF f rm (decide (v < 0)) v.natAbs e

/-- Sign of an exact zero sum (R66): the common sign of the addends, else by mode. -/
def zeroSign (rm : Round) (s1 s2 : Bool) : Bool := if s1 = s2 then s1 else decide (rm = .rd)

def isSnan : FVal → Bool
  | .nan s => s
  | _ => false
def isNan : FVal → Bool
  | .nan _ => true
  | _ => false
def isInf : FVal → Bool
  | .inf _ => true
  | _ => false
def isZero : FVal → Bool
  | .num _ m _ => decide (m = 0)
  | _ => false
def signBit : FVal → Bool
  | .inf s => s
  | .num s _ _ => s
  | .nan _ => false
def negate : FVal → FVal
  | .inf s => .inf (!s)
  | .num s m e => .num (!s) m e
  | v => v

/-- Sum of values, rounded once (R130). -/
def addF (f : FFmt) (rm : Round) (a b : FVal) : Nat × FpFlags :=
  let sn := flagIf (isSnan a || isSnan b) flagNV
  match a, b with
  | .nan _, _ => (canonNan f, sn)
  | _, .nan _ => (canonNan f, sn)
  | .inf s, .inf t => if s = t then (infBits f s, 0) else (canonNan f, flagNV)
  | .inf s, .num _ _ _ => (infBits f s, 0)
  | .num _ _ _, .inf s => (infBits f s, 0)
  | .num s1 m1 e1, .num s2 m2 e2 =>
    let (v, e) := addExact s1 m1 e1 s2 m2 e2
    roundInt f rm (zeroSign rm s1 s2) v e

/-- Product of values, rounded once (R130). -/
def mulF (f : FFmt) (rm : Round) (a b : FVal) : Nat × FpFlags :=
  let sn := flagIf (isSnan a || isSnan b) flagNV
  if isNan a || isNan b then (canonNan f, sn)
  else if (isInf a && isZero b) || (isZero a && isInf b) then (canonNan f, flagNV)
  else
    let s := signBit a != signBit b
    match a, b with
    | .num _ m1 e1, .num _ m2 e2 => if m1 * m2 = 0 then (signOf f s, 0) else roundF f rm s (m1 * m2) (e1 + e2)
    | _, _ => (infBits f s, 0)

/-- Fused multiply-add, rounded once (R130): 0 times infinity raises NV whatever the addend. -/
def fmaF (f : FFmt) (rm : Round) (a b c : FVal) : Nat × FpFlags :=
  let sn := flagIf (isSnan a || isSnan b || isSnan c) flagNV
  if (isInf a && isZero b) || (isZero a && isInf b) then (canonNan f, flagNV)
  else if isNan a || isNan b || isNan c then (canonNan f, sn)
  else
    let s := signBit a != signBit b
    match a, b, c with
    | .num _ m1 e1, .num _ m2 e2, .num s3 m3 e3 =>
      let (v, e) := addExact s (m1 * m2) (e1 + e2) s3 m3 e3
      roundInt f rm (zeroSign rm s s3) v e
    | .num _ _ _, .num _ _ _, .inf t => (infBits f t, 0)
    | _, _, .inf t => if s = t then (infBits f s, 0) else (canonNan f, flagNV)
    | _, _, _ => (infBits f s, 0)

/-- Whether a is less than b; -0 and +0 are equal. No NaN. -/
def ltVal (a b : FVal) : Bool :=
  match a, b with
  | .inf s, .inf t => s && !t
  | .inf s, _ => s
  | _, .inf t => !t
  | .num s1 m1 e1, .num s2 m2 e2 =>
    let e := min e1 e2
    decide (signedVal s1 m1 * 2 ^ (e1 - e).toNat < signedVal s2 m2 * 2 ^ (e2 - e).toNat)
  | _, _ => false

/-- Equality of values; -0 equals +0. No NaN. -/
def eqVal (a b : FVal) : Bool := !ltVal a b && !ltVal b a && !isNan a && !isNan b

/-- `fmin` and `fmax` (R131) on patterns: the operand of lesser or greater value, -0 below +0. -/
def minmaxF (f : FFmt) (mx : Bool) (x y : Nat) : Nat × FpFlags :=
  let a := unpackF f x
  let b := unpackF f y
  let fl := flagIf (isSnan a || isSnan b) flagNV
  if isNan a && isNan b then (canonNan f, fl)
  else if isNan a then (y, fl)
  else if isNan b then (x, fl)
  else
    let less := ltVal a b || (eqVal a b && signBit a && !signBit b)
    (if less != mx then x else y, fl)

/-- `fsetp` and `dsetp` (R132). -/
def cmpF (f : FFmt) (cc : CondF) (x y : Nat) : Bool × FpFlags :=
  let a := unpackF f x
  let b := unpackF f y
  let un := isNan a || isNan b
  let lt := !un && ltVal a b
  let gt := !un && ltVal b a
  let eq := !un && !lt && !gt
  (match cc with
    | .eq => eq
    | .ne => !un && !eq
    | .lt => lt
    | .le => lt || eq
    | .gt => gt
    | .ge => gt || eq
    | .num => !un
    | .nan => un
    | .equ => un || eq
    | .neu => un || !eq
    | .ltu => un || lt
    | .leu => un || lt || eq
    | .gtu => un || gt
    | .geu => un || gt || eq,
   flagIf (isSnan a || isSnan b) flagNV)

/-- `fclass` and `dclass` (R134). -/
def classF (f : FFmt) (x : Nat) : Nat :=
  match unpackF f x with
  | .nan true => 2 ^ 8
  | .nan false => 2 ^ 9
  | .inf true => 1
  | .inf false => 2 ^ 7
  | .num s m _ =>
    if m = 0 then (if s then 2 ^ 3 else 2 ^ 4)
    else if m < 2 ^ fracBits f then (if s then 2 ^ 2 else 2 ^ 5)
    else (if s then 2 ^ 1 else 2 ^ 6)

/-- The floating-point format of a source or destination type (R136). -/
def fmtOfType : SType → Option FFmt
  | .f32 => some .f32
  | .f64 => some .f64
  | .f16 => some .f16
  | .bf16 => some .bf16
  | .e4m3 => some .e4m3
  | .e5m2 => some .e5m2
  | _ => none

/-- An integer type's width and signedness (R58). -/
def intOfType : SType → Nat × Bool
  | .s32 => (32, true)
  | .z32 => (32, false)
  | .s64 => (64, true)
  | .z64 => (64, false)
  | .s16 => (16, true)
  | .z16 => (16, false)
  | .s8 => (8, true)
  | _ => (8, false)

/-- A bit pattern read as a two's complement integer of `w` bits. -/
def toSigned (w v : Nat) : Int := if v % 2 ^ w < 2 ^ (w - 1) then (v % 2 ^ w : Nat) else (v % 2 ^ w : Nat) - (2 ^ w : Int)

/-- The value of a source of a conversion (R138). -/
def srcVal (st : SType) (v : Nat) : FVal :=
  match fmtOfType st with
  | some f => unpackF f v
  | none =>
    let (w, sg) := intOfType st
    let n : Int := if sg then toSigned w v else (v % 2 ^ w : Nat)
    .num (decide (n < 0)) n.natAbs 0

/-- Conversion of a value to a floating-point format (R138). -/
def cvtF (dst : FFmt) (rm : CvtRound) (u : Nat) (a : FVal) : Nat × FpFlags :=
  match a with
  | .nan s => (canonNan dst, flagIf s flagNV)
  | .inf s => (infBits dst s, if dst = .e4m3 then flagOF ||| flagNX else 0)
  | .num s m e => if m = 0 then (signOf dst s, 0) else roundC dst rm u s m e

/-- Conversion to an integer type (R139). -/
def cvtToInt (w : Nat) (sg : Bool) (rm : Round) (a : FVal) : Int × FpFlags :=
  let lo : Int := if sg then -(2 ^ (w - 1) : Int) else 0
  let hi : Int := if sg then 2 ^ (w - 1) - 1 else 2 ^ w - 1
  match a with
  | .nan _ => (0, flagNV)
  | .inf s => (if s then lo else hi, flagNV)
  | .num s m e =>
    let (n, exact) := roundAt rm s m e 0
    let v := signedVal s n
    if v < lo then (lo, flagNV) else if hi < v then (hi, flagNV) else (v, flagIf (!exact) flagNX)

/-- `hdp2` (R147): the exact sum of two products and an addend, rounded once to FP32. -/
def hdp2F (f : FFmt) (a0 b0 a1 b1 c : Nat) : Nat × FpFlags :=
  let vs := [unpackF f a0, unpackF f b0, unpackF f a1, unpackF f b1]
  let cv := unpackF .f32 c
  let sn := flagIf ((cv :: vs).any isSnan) flagNV
  match vs with
  | [x0, y0, x1, y1] =>
    let bad0 := (isInf x0 && isZero y0) || (isZero x0 && isInf y0)
    let bad1 := (isInf x1 && isZero y1) || (isZero x1 && isInf y1)
    let term := fun (x y : FVal) =>
      match x, y with
      | .num s m e, .num t n g => FVal.num (s != t) (m * n) (e + g)
      | _, _ => FVal.inf (signBit x != signBit y)
    let prod := fun (x y : FVal) => if isNan x then x else if isNan y then y else term x y
    let ts := [prod x0 y0, prod x1 y1, cv]
    let pos := ts.any fun t => isInf t && !signBit t
    let neg := ts.any fun t => isInf t && signBit t
    if bad0 || bad1 || (pos && neg) then (canonNan .f32, flagNV)
    else if (cv :: vs).any isNan then (canonNan .f32, sn)
    else
      if pos || neg then (infBits .f32 neg, 0)
      else
        match ts with
        | [.num s0 m0 e0, .num s1 m1 e1, .num s2 m2 e2] =>
          let (v, e) := addExact s0 m0 e0 s1 m1 e1
          let (v, e) := addExact (decide (v < 0)) v.natAbs e s2 m2 e2
          roundInt .f32 .rne (s0 && s1 && s2) v e
        | _ => (canonNan .f32, flagNV)
  | _ => (canonNan .f32, flagNV)

end Sys2Proof.Machine
end

