-- ==== Sys2Proof/Machine/Special.lean ====
section
/-! DEFINITION. The special functions of R142 and R143: the exact value rounded once to FP32 with RNE.

`rcp`, `rsq` and `sqrt` are computed exactly with a sticky bit. `exp2`, `log2`, `sin` and `cos` are
computed in fixed point with at least 200 correct bits and a sticky bit; outside their exact cases the
values are irrational, so the sticky bit is always set (log entry 6). -/

namespace Sys2Proof.Machine

/-- Integer square root, bit by bit: `b` bits of the root are still open. -/
def isqrtGo (n : Nat) : Nat → Nat → Nat
  | 0, r => r
  | b + 1, r => if (r + 2 ^ b) * (r + 2 ^ b) ≤ n then isqrtGo n b (r + 2 ^ b) else isqrtGo n b r
def isqrt (n : Nat) : Nat := isqrtGo n (log2Nat n / 2 + 1) 0

/-- Round a truncated value `n * 2^e` whose dropped part is zero or not. -/
def roundSticky (s : Bool) (n : Nat) (e : Int) (exact : Bool) : Nat × FpFlags :=
  roundF .f32 .rne s (2 * n + (if exact then 0 else 1)) (e - 1)

/-- 1 / a for a finite non-zero a. -/
def rcpVal (s : Bool) (m : Nat) (e : Int) : Nat × FpFlags :=
  let k := log2Nat m + 40
  roundSticky s (2 ^ k / m) (-(k : Int) - e) (2 ^ k % m = 0)

/-- Square root of a positive value. -/
def sqrtVal (m : Nat) (e : Int) : Nat × FpFlags :=
  let (m, e) := if e % 2 = 0 then (m, e) else (2 * m, e - 1)
  let n := m * 2 ^ 64
  let r := isqrt n
  roundSticky false r (e / 2 - 32) (r * r = n)

/-- 1 / √a of a positive value. -/
def rsqVal (m : Nat) (e : Int) : Nat × FpFlags :=
  let (m, e) := if e % 2 = 0 then (m, e) else (2 * m, e - 1)
  let n := 2 ^ 128 / m
  let r := isqrt n
  roundSticky false r (-(64 : Int) - e / 2) (r * r * m = 2 ^ 128)

/-- Working precision of the fixed-point functions. -/
def fixBits : Nat := 448
/-- ln 2 times 2^320, rounded down. -/
def ln2Fix : Nat := 0xb17217f7d1cf79abc9e3b39803f2f6af40f343267298b62d8a0d175b8baafa2be7b876206debac98
/-- pi times 2^640, rounded down. -/
def piFix : Nat := 0x3243f6a8885a308d313198a2e03707344a4093822299f31d0082efa98ec4e6c89452821e638d01377be5466cf34e90c6cc0ac29b7c97c50dd3f84d5b5b54709179216d5d98979fb1bd1310ba698dfb5ac

/-- Sum of `t_k` with `t_(k+1) = t_k * x / (2^b * (k + 1))`, `n` further terms: exp in fixed point. -/
def expGo (x b : Nat) : Nat → Nat → Nat → Nat → Nat
  | 0, _, _, acc => acc
  | n + 1, k, t, acc =>
    let t' := t * x / 2 ^ b / (k + 1)
    expGo x b n (k + 1) t' (acc + t')
/-- e^x of a fixed-point x below 1. -/
def expFix (x b : Nat) : Nat := expGo x b 110 0 (2 ^ b) (2 ^ b)

/-- 2^a for a finite a (R142). -/
def exp2Val (s : Bool) (m : Nat) (e : Int) : Nat × FpFlags :=
  if m = 0 then (0x3F800000, 0)
  else if 12 ≤ log2Nat m + e then
    (if s then roundF .f32 .rne false 1 (-300) else (infBits .f32 false, flagOF ||| flagNX))
  else
    let v : Int := signedVal s m
    if 0 ≤ e then roundF .f32 .rne false 1 (v * 2 ^ e.toNat)
    else
      let k := (-e).toNat
      let n := v / (2 ^ k : Int)
      let fr := (v - n * 2 ^ k).toNat
      if fr = 0 then roundF .f32 .rne false 1 n
      else
        let x := fr * ln2Fix / 2 ^ k
        roundSticky false (expFix x 320) (n - 320) false

/-- Bits of log2 of a fixed-point y in [1, 2), by repeated squaring: `n` bits, the highest first. -/
def log2Go (b : Nat) : Nat → Nat → Nat → Nat
  | 0, _, acc => acc
  | n + 1, y, acc =>
    let y2 := y * y / 2 ^ b
    if 2 ^ (b + 1) ≤ y2 then log2Go b n (y2 / 2) (2 * acc + 1) else log2Go b n y2 (2 * acc)

/-- log2 a for a positive a (R142, R143). -/
def log2Val (m : Nat) (e : Int) : Nat × FpFlags :=
  let l := log2Nat m
  let n : Int := l + e
  if m = 2 ^ l then (if n = 0 then (0, 0) else roundF .f32 .rne (decide (n < 0)) n.natAbs 0)
  else
    let fr := log2Go 400 128 (m * 2 ^ (400 - l)) 0
    let v : Int := n * 2 ^ 128 + fr
    -- the true value lies strictly between v and v + 1, in units of 2^-128
    if 0 ≤ v then roundF .f32 .rne false (2 * v.toNat + 1) (-129)
    else roundF .f32 .rne true (2 * (-v).toNat - 1) (-129)

/-- Alternating Taylor sum in fixed point: `t` is the current term, `k` its highest factor so far. -/
def trigGo (x2 b : Nat) : Nat → Nat → Int → Int → Int
  | 0, _, _, acc => acc
  | n + 1, k, t, acc =>
    let t' := -(t * x2 / 2 ^ b / ((k + 1) * (k + 2) : Nat))
    trigGo x2 b n (k + 2) t' (acc + t')
/-- sin x and cos x of a fixed-point x in [0, pi / 2). -/
def sinFix (x : Nat) : Int := trigGo (x * x / 2 ^ fixBits) fixBits 70 1 x x
def cosFix (x : Nat) : Int := trigGo (x * x / 2 ^ fixBits) fixBits 70 0 (2 ^ fixBits : Nat) (2 ^ fixBits : Nat)

/-- The quadrant of |a| and the fixed-point remainder modulo pi / 2 (the argument reduced in full). -/
def trigReduce (m : Nat) (e : Int) : Nat × Nat :=
  -- |a| in units of 2^-641; pi/2 is piFix in those units
  let x := if -641 ≤ e then m * 2 ^ (e + 641).toNat else m / 2 ^ (-641 - e).toNat
  (x / piFix % 4, x % piFix / 2 ^ (641 - fixBits))

/-- Round a fixed-point value that is never exact. -/
def roundFix (v : Int) : Nat × FpFlags :=
  roundSticky (decide (v < 0)) v.natAbs (-(fixBits : Int)) false

/-- sin a for a finite non-zero a. -/
def sinVal (s : Bool) (m : Nat) (e : Int) : Nat × FpFlags :=
  let (q, r) := trigReduce m e
  let v : Int := match q with
    | 0 => sinFix r
    | 1 => cosFix r
    | 2 => -sinFix r
    | _ => -cosFix r
  roundFix (if s then -v else v)

/-- cos a for a finite non-zero a. -/
def cosVal (m : Nat) (e : Int) : Nat × FpFlags :=
  let (q, r) := trigReduce m e
  roundFix (match q with
    | 0 => cosFix r
    | 1 => -sinFix r
    | 2 => -cosFix r
    | _ => sinFix r)

/-- A special function of an FP32 pattern (R142, R143). -/
def sfuF (op : Sfu) (x : Nat) : Nat × FpFlags :=
  let nan := canonNan .f32
  match unpackF .f32 x with
  | .nan sig => (nan, flagIf sig flagNV)
  | .inf s =>
    match op with
    | .rcp => (signOf .f32 s, 0)
    | .rsq => if s then (nan, flagNV) else (0, 0)
    | .sqrt => if s then (nan, flagNV) else (infBits .f32 false, 0)
    | .exp2 => if s then (0, 0) else (infBits .f32 false, 0)
    | .log2 => if s then (nan, flagNV) else (infBits .f32 false, 0)
    | .sin => (nan, flagNV)
    | .cos => (nan, flagNV)
  | .num s m e =>
    if m = 0 then
      match op with
      | .rcp => (infBits .f32 s, flagDZ)
      | .rsq => (infBits .f32 s, flagDZ)
      | .sqrt => (signOf .f32 s, 0)
      | .exp2 => (0x3F800000, 0)
      | .log2 => (infBits .f32 true, flagDZ)
      | .sin => (signOf .f32 s, 0)
      | .cos => (0x3F800000, 0)
    else
      match op with
      | .rcp => rcpVal s m e
      | .rsq => if s then (nan, flagNV) else rsqVal m e
      | .sqrt => if s then (nan, flagNV) else sqrtVal m e
      | .exp2 => exp2Val s m e
      | .log2 => if s then (nan, flagNV) else log2Val m e
      | .sin => sinVal s m e
      | .cos => cosVal m e

/-! ## QN4 and E8M0 (R63, R74, R77, R140, R141) -/

/-- Code values in units of 1/256 (R74). -/
def qn4Code : Nat → Int
  | 0 => -256
  | 1 => -176
  | 2 => -134
  | 3 => -101
  | 4 => -73
  | 5 => -47
  | 6 => -23
  | 7 => 0
  | 8 => 20
  | 9 => 41
  | 10 => 63
  | 11 => 87
  | 12 => 115
  | 13 => 150
  | 14 => 197
  | _ => 256

/-- The value of a code. -/
def qn4Val (k : Nat) : FVal := .num (decide (qn4Code k < 0)) (qn4Code k).natAbs (-8)

/-- The block scale S_b of a Q byte and the FP32 super-scale M (R77), as an FP32 pattern. -/
def blockScale (q m : Nat) : Nat :=
  let qm := (mulF .f32 .rne (.num false q 0) (unpackF .f32 m)).1
  (mulF .f32 .rne (unpackF .f32 qm) (unpackF .f32 0x3B808081)).1

/-- The exact product of a code value and a block scale (R77). -/
def qn4Element (k sb : Nat) : FVal :=
  match qn4Val k, unpackF .f32 sb with
  | .num s m e, .num t n g => .num (s != t) (m * n) (e + g)
  | .num s m _, .inf t => if m = 0 then .nan false else .inf (s != t)
  | _, _ => .nan false

/-- The value of an E8M0 byte (R63). -/
def e8m0Val (b : Nat) : FVal := if b = 255 then .nan false else .num false 1 ((b : Int) - 127)

/-- Quantise the FP32 pattern x to a code under the block scale sb (R140). -/
def toQn4 (rm : CvtRound) (u x sb : Nat) : Nat × FpFlags :=
  let xv := unpackF .f32 x
  let sv := unpackF .f32 sb
  let sn := flagIf (isSnan xv || isSnan sv) flagNV
  match sv with
  | .num false m e =>
    if m = 0 then (7, sn ||| flagNV)
    else
      match xv with
      | .nan _ => (7, sn ||| flagNV)
      | .inf s => (if s then 0 else 15, flagOF ||| flagNX)
      | .num s n g =>
        -- x and the v_k as integers in units of 2^t
        let t := min g (e - 8)
        let xi := signedVal s n * 2 ^ (g - t).toNat
        let v := fun k => qn4Code k * m * 2 ^ (e - 8 - t).toNat
        if v 15 < xi then (15, flagOF ||| flagNX)
        else if xi < v 0 then (0, flagOF ||| flagNX)
        else
          match (List.range 16).find? (fun k => v k = xi) with
          | some k => (k, 0)
          | none =>
            let lo := ((List.range 15).filter (fun k => v k < xi)).length - 1
            let a := v lo
            let b := v (lo + 1)
            let k := match rm with
              | .det .rne => if 2 * xi < a + b then lo else if a + b < 2 * xi then lo + 1 else if lo % 2 = 0 then lo else lo + 1
              | .det .rz => if lo < 7 then lo + 1 else lo
              | .det .rd => lo
              | .det .ru => lo + 1
              | .sr => if (u : Int) < (xi - a) * 2 ^ 24 / (b - a) then lo + 1 else lo
            (k, flagNX)
  | _ => (7, sn ||| flagNV)

/-- The FP32 value of a code under a block scale, rounded once (R141). -/
def ofQn4 (rm : Round) (x sb : Nat) : Nat × FpFlags := mulF .f32 rm (qn4Val (x % 16)) (unpackF .f32 sb)

end Sys2Proof.Machine
end

