-- ==== Sys2Proof/Machine/Operands.lean ====
section
/-! DEFINITION. Every operand form of the register instructions (R101 to R105, R117, R118), as sources and
destinations of a `Form`. Lane register numbers count from the window base until the issue resolves them. -/

namespace Sys2Proof.Machine

/-- A lane register, or pair, of a field. -/
def laneSrc (wide : Bool) (r : Reg) : Src := if wide then .pair r.toNat else .reg r.toNat
/-- A uniform register, or pair, of a field. -/
def uniSrc (wide : Bool) (r : Reg) : Src := if wide then .uniPair r.toNat else .uni r.toNat
/-- The B operand: a lane register, or under UB a uniform one (R103). -/
def bSrc (ub wide : Bool) (r : Reg) : Src := if ub then uniSrc wide r else laneSrc wide r
/-- The third operand, in the register after B, or the pair after it (R117). -/
def cSrc (ub wide : Bool) (r : Reg) : Src :=
  if wide then (if ub then .uniPair (r.toNat + 2) else .pair (r.toNat + 2))
  else (if ub then .uni (r.toNat + 1) else .reg (r.toNat + 1))
/-- A lane destination. -/
def laneDst (wide : Bool) (r : Reg) : Dst := if wide then .pair r.toNat else .reg r.toNat
/-- A uniform destination. -/
def uniDst (wide : Bool) (r : Reg) : Dst := if wide then .uniPair r.toNat else .uni r.toNat

/-- Integer widths of 64 bits use pairs (R123). -/
def intWide (w : IntW) : Bool := w == .w64
/-- Bits of an integer width (R123). -/
def intBits : IntW → Nat
  | .w32 => 32
  | .w64 => 64
  | .w16 => 16
  | .w8 => 8

/-- The value of a sign-extended immediate (R102). -/
def imm10 (v : BitVec 10) : W64 := (v.signExtend 32).zeroExtend 64
def imm17 (v : BitVec 17) : W64 := (v.signExtend 32).zeroExtend 64

/-- A two-operand lane form. -/
def lane2 (op : AluOp) (wide : Bool) (d a b : Reg) (ub : Bool) (lat : Nat) (col : Col) : Form :=
  { op := .alu op, dst := laneDst wide d, a := laneSrc wide a, b := bSrc ub wide b, lat := lat, col := col }
/-- A three-operand lane form. -/
def lane3 (op : AluOp) (wide : Bool) (d a b : Reg) (ub : Bool) (lat : Nat) (col : Col) : Form :=
  { op := .alu op, dst := laneDst wide d, a := laneSrc wide a, b := bSrc ub wide b, c := cSrc ub wide b, lat := lat, col := col }
/-- A one-operand lane form. -/
def lane1 (op : AluOp) (dwide awide : Bool) (d a : Reg) (lat : Nat) (col : Col) : Form :=
  { op := .alu op, dst := laneDst dwide d, a := laneSrc awide a, lat := lat, col := col }
/-- A comparison into a predicate. -/
def lanePred (op : AluOp) (wide : Bool) (p : BitVec 3) (a b : Reg) (ub : Bool) (lat : Nat) (col : Col) : Form :=
  { op := .alu op, dst := .pred p, a := laneSrc wide a, b := bSrc ub wide b, lat := lat, col := col }
/-- A two-operand uniform form (R118). -/
def uni2 (op : AluOp) (wide : Bool) (d a b : Reg) (lat : Nat) : Form :=
  { op := .alu op, dst := uniDst wide d, a := uniSrc wide a, b := uniSrc wide b, lat := lat }
/-- A three-operand uniform form. -/
def uni3 (op : AluOp) (wide : Bool) (d a b : Reg) (lat : Nat) : Form :=
  { op := .alu op, dst := uniDst wide d, a := uniSrc wide a, b := uniSrc wide b, c := cSrc true wide b, lat := lat }
/-- A one-operand uniform form. -/
def uni1 (op : AluOp) (d a : Reg) (lat : Nat) : Form :=
  { op := .alu op, dst := .uni d.toNat, a := .uni a.toNat, lat := lat }
/-- A uniform comparison. -/
def uniPred (op : AluOp) (wide : Bool) (p : BitVec 3) (a b : Reg) (lat : Nat) : Form :=
  { op := .alu op, dst := .pred p, a := uniSrc wide a, b := uniSrc wide b, lat := lat }

end Sys2Proof.Machine
end

