-- ==== Sys2Proof/Machine/Alu.lean ====
section
/-! DEFINITION. What one lane, or the uniform unit, computes from its operands (R116, R124 to R147). -/

namespace Sys2Proof.Machine

/-- A value to write, as a word or pair, and the flags it raises. A comparison answers 1 or 0. -/
structure AluOut where
  val : W64
  flags : FpFlags := 0
  deriving DecidableEq, Repr

/-- Sign-extend the low `w` bits to the register that holds them (R59, R124): a pair at 64 bits. -/
def extendW (w : IntW) (v : Nat) : W64 :=
  match w with
  | .w64 => BitVec.ofNat 64 v
  | .w32 => BitVec.ofNat 64 (v % 2 ^ 32)
  | .w16 => (BitVec.ofInt 32 (toSigned 16 v)).zeroExtend 64
  | .w8 => (BitVec.ofInt 32 (toSigned 8 v)).zeroExtend 64

/-- Wrapping arithmetic at a width (R124). -/
def wrapW (w : IntW) (v : Int) : W64 := extendW w (v % (2 ^ intBits w : Int)).toNat

/-- An operand as a signed or unsigned integer of `n` bits. -/
def readInt (n : Nat) (uns : Bool) (v : W64) : Int := if uns then ((v.toNat % 2 ^ n : Nat) : Int) else toSigned n v.toNat

/-- Clamp to a type's range (R124, R58). -/
def clampInt (n : Nat) (uns : Bool) (v : Int) : Int :=
  let lo : Int := if uns then 0 else -(2 ^ (n - 1) : Int)
  let hi : Int := if uns then 2 ^ n - 1 else 2 ^ (n - 1) - 1
  max lo (min hi v)

/-- `n` bits of an integer as a value. -/
def bitsOfInt (n : Nat) (v : Int) : W64 := BitVec.ofNat 64 (v % (2 ^ n : Int)).toNat

/-- 32 or 64 bits. -/
def wideBits (wide : Bool) : Nat := if wide then 64 else 32

/-- Integer comparison (R126): the low bits of both operands under a code. -/
def condEval (cc : CondI) (n : Nat) (a b : W64) : Bool :=
  let au := a.toNat % 2 ^ n
  let bu := b.toNat % 2 ^ n
  let as := toSigned n a.toNat
  let bs := toSigned n b.toNat
  match cc with
  | .eq => decide (au = bu)
  | .ne => decide (au ≠ bu)
  | .lts => decide (as < bs)
  | .les => decide (as ≤ bs)
  | .gts => decide (as > bs)
  | .ges => decide (as ≥ bs)
  | .ltz => decide (au < bu)
  | .lez => decide (au ≤ bu)
  | .gtz => decide (au > bu)
  | .gez => decide (au ≥ bu)

/-- Division (R127): quotient and remainder of 32-bit operands. -/
def divRem (uns : Bool) (a b : W64) : W64 × W64 :=
  let x := readInt 32 uns a
  let y := readInt 32 uns b
  if y = 0 then (0xFFFFFFFF, bitsOfInt 32 x)
  else if !uns && x = -(2 ^ 31) && y = -1 then (0x80000000, 0)
  else (bitsOfInt 32 (Int.tdiv x y), bitsOfInt 32 (x - y * Int.tdiv x y))

/-- Number of 1 bits, leading zeros and reversed bits of a word (R125). -/
def popcount (v : Nat) : Nat := ((List.range 32).filter fun i => v / 2 ^ i % 2 = 1).length
def clz32 (v : Nat) : Nat := if v % 2 ^ 32 = 0 then 32 else 31 - log2Nat (v % 2 ^ 32)
def brev (n v : Nat) : Nat := (List.range n).foldl (fun acc i => acc + v / 2 ^ i % 2 * 2 ^ (n - 1 - i)) 0

/-- Byte permute (R145). -/
def bselEval (a b s : Nat) : Nat :=
  let src := a % 2 ^ 32 + b % 2 ^ 32 * 2 ^ 32
  (List.range 4).foldl (fun acc i =>
    let x := src / 2 ^ (8 * (s / 2 ^ (8 * i) % 8)) % 256
    let y := match s / 2 ^ (8 * i + 3) % 4 with
      | 0 => x
      | 1 => 0
      | 2 => if 128 ≤ x then 255 else 0
      | _ => brev 8 x
    acc + y * 2 ^ (8 * i)) 0

/-- Dot product of packed integers (R146): `n` elements of `w` bits. -/
def dotEval (w n : Nat) (sg : DotSign) (a b c : Nat) : W64 :=
  let sa := match sg with | .ss => true | .sz => true | _ => false
  let sb := match sg with | .ss => true | .zs => true | _ => false
  let el := fun (s : Bool) (v i : Nat) => if s then toSigned w (v / 2 ^ (w * i)) else ((v / 2 ^ (w * i) % 2 ^ w : Nat) : Int)
  bitsOfInt 32 ((List.range n).foldl (fun acc i => acc + el sa a i * el sb b i) (c : Int))

/-- Run a scalar operation of a format on its operands. -/
def pat (f : FFmt) (v : W64) : Nat := v.toNat % 2 ^ fmtWidth f
def outP (r : Nat × FpFlags) : AluOut := { val := BitVec.ofNat 64 r.1, flags := r.2 }

/-- Apply a 16-bit operation to both elements of packed words (R64, R130). -/
def packed2 (g : Nat → Nat × FpFlags) : AluOut :=
  let r0 := g 0
  let r1 := g 1
  { val := BitVec.ofNat 64 (r0.1 + 2 ^ 16 * r1.1), flags := r0.2 ||| r1.2 }
/-- Element `e` of a packed pair. -/
def el16 (v : W64) (e : Nat) : Nat := v.toNat / 2 ^ (16 * e) % 2 ^ 16

/-- Element SEL of a conversion's source (R137). -/
def cvtSource (st : SType) (sel : Nat) (v : W64) : Nat :=
  let n := elems st
  if n = 1 then v.toNat else v.toNat / 2 ^ (32 / n * sel) % 2 ^ (32 / n)

/-- Put a conversion's result into element SEL of the old destination word (R137). -/
def cvtInsert (dst : FFmt) (sel : Nat) (old : W64) (r : Nat) : W64 :=
  match dst with
  | .f64 => BitVec.ofNat 64 r
  | .f32 => BitVec.ofNat 64 r
  | _ =>
    let w := fmtWidth dst
    let o := old.toNat % 2 ^ 32
    BitVec.ofNat 64 (o - o / 2 ^ (w * sel) % 2 ^ w * 2 ^ (w * sel) + r * 2 ^ (w * sel))

/-- Whether a conversion's destination is packed: then the draw of R72 counts the element (R137). -/
def cvtPacked : FFmt → Bool
  | .f64 => false
  | .f32 => false
  | _ => true

/-- An operation on operands a, b, c; `draw e` is u of R71 for element e of the lane (R72). -/
def aluEval (op : AluOp) (a b c : W64) (draw : Nat → Nat) : AluOut :=
  match op with
  | .add w => { val := wrapW w ((a.toNat : Int) + b.toNat) }
  | .sub w => { val := wrapW w ((a.toNat : Int) - b.toNat) }
  | .mul w => { val := wrapW w ((a.toNat : Int) * b.toNat) }
  | .mad w => { val := wrapW w ((a.toNat : Int) * b.toNat + c.toNat) }
  | .addSat u wd => { val := bitsOfInt (wideBits wd) (clampInt (wideBits wd) u (readInt (wideBits wd) u a + readInt (wideBits wd) u b)) }
  | .subSat u wd => { val := bitsOfInt (wideBits wd) (clampInt (wideBits wd) u (readInt (wideBits wd) u a - readInt (wideBits wd) u b)) }
  | .mulhi u wd => { val := bitsOfInt (wideBits wd) ((readInt (wideBits wd) u a * readInt (wideBits wd) u b) / (2 ^ wideBits wd : Int)) }
  | .min u => { val := bitsOfInt 32 (min (readInt 32 u a) (readInt 32 u b)) }
  | .max u => { val := bitsOfInt 32 (max (readInt 32 u a) (readInt 32 u b)) }
  | .and => { val := a &&& b }
  | .or => { val := a ||| b }
  | .xor => { val := a ^^^ b }
  | .andn => { val := a &&& ~~~b }
  | .shl => { val := bitsOfInt 32 ((a.toNat * 2 ^ (b.toNat % 32) : Nat) : Int) }
  | .shrZ => { val := bitsOfInt 32 ((a.toNat % 2 ^ 32 / 2 ^ (b.toNat % 32) : Nat) : Int) }
  | .shrS => { val := bitsOfInt 32 (toSigned 32 a.toNat / (2 ^ (b.toNat % 32) : Int)) }
  | .rol =>
    let n := b.toNat % 32
    let x := a.toNat % 2 ^ 32
    { val := BitVec.ofNat 64 ((x * 2 ^ n) % 2 ^ 32 ||| x / 2 ^ (32 - n)) }
  | .setp cc w => { val := if condEval cc (intBits w) a b then 1 else 0 }
  | .popc => { val := BitVec.ofNat 64 (popcount a.toNat) }
  | .clz => { val := BitVec.ofNat 64 (clz32 a.toNat) }
  | .brev => { val := BitVec.ofNat 64 (brev 32 a.toNat) }
  | .neg => { val := bitsOfInt 32 (-(a.toNat : Int)) }
  | .div u => { val := (divRem u a b).1 }
  | .rem u => { val := (divRem u a b).2 }
  | .mov => { val := a }
  | .movh => { val := BitVec.ofNat 64 (a.toNat * 2 ^ 15 + c.toNat % 2 ^ 15) }
  | .fadd f rm => outP (addF f rm (unpackF f (pat f a)) (unpackF f (pat f b)))
  | .fsub f rm => outP (addF f rm (unpackF f (pat f a)) (negate (unpackF f (pat f b))))
  | .fmul f rm => outP (mulF f rm (unpackF f (pat f a)) (unpackF f (pat f b)))
  | .ffma f rm => outP (fmaF f rm (unpackF f (pat f a)) (unpackF f (pat f b)) (unpackF f (pat f c)))
  | .fmin f => outP (minmaxF f false (pat f a) (pat f b))
  | .fmax f => outP (minmaxF f true (pat f a) (pat f b))
  | .fsetp f cc => let r := cmpF f cc (pat f a) (pat f b); { val := if r.1 then 1 else 0, flags := r.2 }
  | .fabs f => { val := BitVec.ofNat 64 (pat f a % 2 ^ (fmtWidth f - 1)) }
  | .fneg f => { val := BitVec.ofNat 64 (pat f a ^^^ 2 ^ (fmtWidth f - 1)) }
  | .fcpsgn f => { val := BitVec.ofNat 64 (pat f a % 2 ^ (fmtWidth f - 1) + pat f b / 2 ^ (fmtWidth f - 1) * 2 ^ (fmtWidth f - 1)) }
  | .fclass f => { val := BitVec.ofNat 64 (classF f (pat f a)) }
  | .hadd f rm => packed2 fun e => addF f rm (unpackF f (el16 a e)) (unpackF f (el16 b e))
  | .hmul f rm => packed2 fun e => mulF f rm (unpackF f (el16 a e)) (unpackF f (el16 b e))
  | .hfma f rm => packed2 fun e => fmaF f rm (unpackF f (el16 a e)) (unpackF f (el16 b e)) (unpackF f (el16 c e))
  | .hmin f => packed2 fun e => minmaxF f false (el16 a e) (el16 b e)
  | .hmax f => packed2 fun e => minmaxF f true (el16 a e) (el16 b e)
  | .cvtF dst sel st rm =>
    let u := draw (if cvtPacked dst then sel.toNat else 0)
    let r := cvtF dst rm u (srcVal st (cvtSource st sel.toNat a))
    { val := cvtInsert dst sel.toNat c r.1, flags := r.2 }
  | .cvtI dt f64 rm =>
    let f : FFmt := if f64 then .f64 else .f32
    let (w, sg) := match dt with
      | .s32 => (32, true)
      | .z32 => (32, false)
      | .s64 => (64, true)
      | .z64 => (64, false)
      | .s16 => (16, true)
      | .z16 => (16, false)
      | .s8 => (8, true)
      | .z8 => (8, false)
    let r := cvtToInt w sg rm (unpackF f (pat f a))
    { val := if w = 64 then bitsOfInt 64 r.1 else bitsOfInt 32 r.1, flags := r.2 }
  | .toQn4 rm => outP (toQn4 rm (draw 0) (a.toNat % 2 ^ 32) (b.toNat % 2 ^ 32))
  | .ofQn4 rm => outP (ofQn4 rm a.toNat (b.toNat % 2 ^ 32))
  | .sfu f => outP (sfuF f (a.toNat % 2 ^ 32))
  | .bsel => { val := BitVec.ofNat 64 (bselEval a.toNat b.toNat c.toNat) }
  | .dp4 sg => { val := dotEval 8 4 sg a.toNat b.toNat c.toNat }
  | .dp2 sg => { val := dotEval 16 2 sg a.toNat b.toNat c.toNat }
  | .hdp2 bf =>
    let f : FFmt := if bf then .bf16 else .f16
    outP (hdp2F f (el16 a 0) (el16 b 0) (el16 a 1) (el16 b 1) (c.toNat % 2 ^ 32))

/-- A chained step op(a, b, P) (R169). Flags of a 64-bit or 32-bit step are its own. -/
def chainEval (op : ChainOp) (a b p : W64) : AluOut :=
  let p32 : Nat := p.toNat % 2 ^ 32
  match op with
  | .addS32 => { val := BitVec.ofNat 64 ((a.toNat + p32) % 2 ^ 32) }
  | .addS64 => { val := a + p }
  | .addF32 => outP (addF .f32 .rne (unpackF .f32 (pat .f32 a)) (unpackF .f32 p32))
  | .addF64 => outP (addF .f64 .rne (unpackF .f64 a.toNat) (unpackF .f64 p.toNat))
  | .minS32 => { val := bitsOfInt 32 (min (toSigned 32 a.toNat) (toSigned 32 p32)) }
  | .maxS32 => { val := bitsOfInt 32 (max (toSigned 32 a.toNat) (toSigned 32 p32)) }
  | .minF32 => outP (minmaxF .f32 false (pat .f32 a) p32)
  | .maxF32 => outP (minmaxF .f32 true (pat .f32 a) p32)
  | .mulF32 => outP (mulF .f32 .rne (unpackF .f32 (pat .f32 a)) (unpackF .f32 p32))
  | .fmaF32 => outP (fmaF .f32 .rne (unpackF .f32 (pat .f32 a)) (unpackF .f32 p32) (unpackF .f32 (pat .f32 b)))
  | .fmaF64 => outP (fmaF .f64 .rne (unpackF .f64 a.toNat) (unpackF .f64 p.toNat) (unpackF .f64 b.toNat))
  | .xorB32 => { val := BitVec.ofNat 64 (a.toNat % 2 ^ 32 ^^^ p32) }
  | .passB64 => { val := BitVec.ofNat 64 (a.toNat % 2 ^ 32 * 2 ^ 32 + p.toNat / 2 ^ 32) }

/-- Chained operations of 32-bit type use the low half of the link (R19, R168). -/
def chainWide : ChainOp → Bool
  | .addS64 => true
  | .addF64 => true
  | .fmaF64 => true
  | .passB64 => true
  | _ => false

/-- A read-modify-write's new value on `n` bits (R198, R201). -/
def rmwEval (op : RmwOp) (n : Nat) (old v new : Nat) : Nat :=
  match op with
  | .add => (old + v) % 2 ^ n
  | .min u => if u then min old v else (if toSigned n old ≤ toSigned n v then old else v)
  | .max u => if u then max old v else (if toSigned n old ≤ toSigned n v then v else old)
  | .and => old &&& v
  | .or => old ||| v
  | .xor => old ^^^ v
  | .exch => v
  | .cas => if old = v then new else old

end Sys2Proof.Machine
end

