-- ==== Sys2Proof/Machine/Turns.lean ====
section
/-! DEFINITION. Turns: which path of which course a string issues for in a cycle (R8, R14, R23, R33), the
checks of a slot's issue-control field (R98 to R100), the faults of decode (R113 to R115), and the passing of
one cycle of the arithmetic clock (R35, R36, R343). -/

namespace Sys2Proof.Machine

/-- The path slot that a turn belongs to (R23): even turns slot 0, odd turns slot 1. -/
def Course.turnSlot (k : Course) (vcc : Nat) : Nat :=
  match k.div with
  | some o => ((vcc - o) / k.drot - 1) % 2
  | none => 0

/-- First cycle at which a slot's turns are usable (R24, R25). -/
def Course.window (k : Course) (slot : Nat) : Nat := if slot = 0 then k.win0 else k.win1

/-- A path that is ready to issue on a turn of its slot (R8, R33). A held path may take one step (R379). -/
def Course.usable (k : Course) (slot : Nat) (p : Path) : Bool :=
  decide (k.window slot = 0) && decide (p.st = .ready) && (!p.held || p.stepping) && !k.heldByHandler p

/-- A path that will issue on its turns, once a fill has ended (R8, R24). -/
def Course.issues (k : Course) (p : Path) (ix : Nat) : Bool :=
  decide (ix ≤ 1) && decide (p.st = .ready) && (!p.held || p.stepping) && !k.heldByHandler p

/-- A block whose courses issue: it has started and no pre-emption has cut it (R302, R337). -/
def Block.issues (b : Block) (vcc : Nat) : Bool :=
  b.started && (match b.preempt with | .cut p => decide (vcc < p) | _ => true) && !b.ending

/-- A course that takes turns on a string at a cycle: its core's string, its block, its path. -/
structure Turn where
  core  : Nat
  str   : Nat
  blk   : Block
  crs   : Course
  slot  : Nat
  pth   : Path
  deriving DecidableEq, Repr

/-- The course bound at the rotation position that owns the cycle (R14), with the path of the turn. -/
def turnOf (w : World) (c s : Nat) : Option Turn :=
  let k := w.core c
  let vcc := vccOf w c
  let pos := (List.range 8).filterMap fun r => k.slots.find (8 * s + r)
  match pos.head? with
  | none => none
  | some any =>
    match k.slots.find (8 * s + vcc % 2 ^ any.rot) with
    | none => none
    | some br =>
      match k.blocks.find br.owner, k.courses.find (32 * br.owner + br.cr) with
      | some b, some x =>
        if b.issues vcc && decide (x.owner = br.owner) && decide (x.cr = br.cr) then
          let slot := x.turnSlot vcc
          (x.path? slot).map fun p => { core := c, str := s, blk := b, crs := x, slot := slot, pth := p }
        else none
      | _, _ => none

/-- The turn of a string in this cycle, when its core runs and the string has not used the cycle. -/
def openTurn (w : World) (c s : Nat) : Option Turn :=
  if running w c && decide (((w.core c).str s).last ≠ some (vccOf w c)) then turnOf w c s else none

/-- An open turn whose path is ready. -/
def readyTurn (w : World) (c s : Nat) : Option Turn :=
  (openTurn w c s).bind fun t => if t.crs.usable t.slot t.pth then some t else none

/-- A clause that the path holds. -/
def Path.clause? (p : Path) (n : Nat) : Option Clause :=
  match p.buf with
  | some b => if b.idx = n then some b else p.ahead.find? fun x => decide (x.idx = n)
  | none => p.ahead.find? fun x => decide (x.idx = n)

/-- The clause of a path's next instruction is at hand (R96). -/
def Path.atHand (p : Path) : Bool := (p.clause? (p.pc / 3)).isSome

/-- Instruction word and issue-control field of the path's next slot (R94, R98). -/
def Path.slotWord (p : Path) : W32 × Nat × Nat :=
  match p.clause? (p.pc / 3) with
  | some b =>
    let kind := b.ctl.toNat / 2 ^ 30
    match p.pc % 3 with
    | 0 => (b.w1, b.ctl.toNat / 2 ^ 20 % 2 ^ 10, kind)
    | 1 => (b.w2, b.ctl.toNat / 2 ^ 10 % 2 ^ 10, kind)
    | _ => (b.w3, b.ctl.toNat % 2 ^ 10, kind)
  | none => (0, 0, 0)

/-- DELAY of the next instruction (R98). -/
def Path.delay (p : Path) : Nat := p.slotWord.2.1 / 2 ^ 5
/-- The path's next instruction issues on this usable turn (R8). -/
def Path.due (p : Path) : Bool := p.fresh || decide (p.delay ≤ p.turns)

/-- The issue port's contents for a turn (R98, R99). -/
def Turn.issuer (t : Turn) (cyc : Nat) : Issuer :=
  { core := t.core, owner := t.crs.owner, cr := t.crs.cr, slot := t.slot, pc := t.pth.pc,
    word := t.pth.slotWord.1, pred := BitVec.ofNat 3 (t.pth.slotWord.2.1 / 4),
    neg := decide (t.pth.slotWord.2.1 / 2 % 2 = 1), cyc := cyc }

/-- A usable turn passes without an issue: it counts toward DELAY (R8). -/
def passTurn (t : Turn) (w : World) : World :=
  let w := w.modCore t.core fun k => k.setStr t.str { k.str t.str with last := some (vccOf w t.core) }
  modPath w t.core t.crs.owner t.crs.cr t.slot fun p => { p with turns := p.turns + 1 }

/-- A turn on which the path is not usable passes: nothing is counted. -/
def skipTurn (t : Turn) (w : World) : World :=
  w.modCore t.core fun k => k.setStr t.str { k.str t.str with last := some (vccOf w t.core) }

/-- The path after an issue: the next slot, no turns counted yet (R8). -/
def Path.issued (p : Path) (cyc : Nat) : Path :=
  { p with pc := p.pc + 1, turns := 0, fresh := false, lastIssue := cyc, bpSkip := none }

/-- SRC of a fault raised in decode (R325): 2 an engine command, 1 an instruction executed once, 0 lanes. -/
def decodeSrc (word : W32) : Nat :=
  let op := word.toNat % 256
  let m0 := decide (word.toNat / 2 ^ 8 % 2 = 1)
  if (0xC0 ≤ op ∧ op ≤ 0xCA) ∨ op = 0xE1 then 2
  else if (0x10 ≤ op ∧ op ≤ 0x1F) ∨ (0x60 ≤ op ∧ op ≤ 0x69) ∨ (0x7D ≤ op ∧ op ≤ 0x7F) ∨ op = 0xA0 ∨ op = 0xA1
      ∨ op = 0xA3 ∨ (0xAA ≤ op ∧ op ≤ 0xB5) ∨ (0xCB ≤ op ∧ op ≤ 0xCD) ∨ (0xE0 ≤ op ∧ op ≤ 0xED) then 1
  else if (op = 0x6A ∨ op = 0x6B ∨ op = 0xA2) ∧ m0 then 1
  else 0

/-- The slot at the issue port faults in decode: it takes its turn, counts in no `%dii`, and the path passes
on to its next slot (R99, R113, R328). -/
def decodeFault (code sub : Nat) (info : W64) (w : World) : World :=
  match w.mach.cur with
  | none => w
  | some i =>
    let w := { w with mach := { w.mach with cur := none } }
    match w.block? i.core i.owner, w.course? i.core i.owner i.cr with
    | some b, some k =>
      match k.path? i.slot with
      | some p =>
        let w := w.setCourse i.core i.owner i.cr (k.setPath i.slot (p.issued i.cyc))
        let w := w.modCore i.core fun x => x.setStr k.str { x.str k.str with last := some i.cyc }
        let f : FaultRec := {
          code := code
          sub := sub
          src := decodeSrc i.word
          owner := i.owner
          cr := i.cr
          path := i.slot
          mask := p.mask
          pc := pcWord i.pc
          word := i.word
          vcc := 0
          info := info
          seq := (w.core i.core).seq
          work := .once i.cr i.slot false i.cyc [] }
        takeFault w i.core (f.ofBlock b)
      | none => w
    | _, _ => w

/-! ## One cycle passes -/

/-- The drift unit in one cycle (R343): the accumulator's carry or a pending step hold makes the next cycle
a hold cycle. A hold cycle itself advances no counter (R35). -/
def Module.tick (m : Module) : Module :=
  let sum := m.accm.toNat + m.rate.toNat
  let carry := decide (2 ^ 32 ≤ sum)
  let stepHold := decide (0 < m.step) && decide (64 ≤ m.sinceStep)
  { m with
    gcc := if m.frozen then m.gcc else m.gcc + 1
    accm := BitVec.ofNat 32 sum
    hold := carry || stepHold
    step := if stepHold then m.step - 1 else m.step
    sinceStep := if stepHold then 0 else m.sinceStep + 1
    frozen := false }

/-- The head of the outbound messages moves to the message area while FULL is clear, and raises vector 0 (R364). -/
def Module.pump (x : Module) : Module :=
  match x.outq with
  | h :: r => if x.full then x else { x with d2h := h, full := true, outq := r, msix := x.msix.modify 0 (· + 1) }
  | [] => x

/-- A module loads the GCC that the master's stamp gives it, and its drift unit starts (R341); with that the group has formed, and
IMGSTAT goes from 5 to 6, which raises vector 2 (R370). -/
def Module.joinAt (x : Module) (gcc : Nat) : Module :=
  let x := { x with gcc := gcc, rate := Config.firstRate, step := 0, accm := 0, sinceStep := 64 }
  if x.imgStat = 5 then { x with imgStat := 6, msix := x.msix.modify 2 (· + 1) } else x

/-- What comes to a module as a real cycle begins: the master's stamp (R341), and the end of the message that the device
handles, whose replies wait among the outbound messages then (R364). -/
def Module.begin_ (clock : Nat) (x : Module) : Module :=
  let x := match x.loadAt with
    | some (d, g) => if d ≤ clock then { x.joinAt g with loadAt := none } else x
    | none => x
  if x.replies.isEmpty || decide (clock < x.h2dBusy) then x else { x with outq := x.outq ++ x.replies, replies := [] }.pump

/-- A sash in one cycle: VCC advances unless the sash stands paused or the module holds (R36, R43). -/
def Sash.tick (frozen : Bool) (s : Sash) : Sash :=
  if s.paused || frozen then s else { s with vcc := s.vcc + 1 }

/-- Drop what a core has finished with: accesses performed at every scope, and reservations that ended. -/
def Core.sweep (k : Core) (vcc : Nat) : Core :=
  { k with
    accs := k.accs.filter fun a => match a.done with
      | some d => decide (vcc < d + a.extra)
      | none => true
    resv := k.resv.filter fun r => decide (vcc ≤ r.cyc + 2)
    pardons := k.pardons.filter fun f => decide (vcc ≤ f.vcc.toNat) }

/-- One cycle of the arithmetic clock (R35). -/
def tick (w : World) : World :=
  let mc := w.mach
  let frozen := fun (d : Nat) => ((mc.mods.find (d / 4)).map Module.frozen).getD false
  let vcc := fun (k : Core) => ((k.sash.bind fun i => mc.sashes.find i).map Sash.vcc).getD 0
  { w with mach := { mc with
      clock := mc.clock + 1
      mods := mc.mods.map fun x => (x.1, x.2.tick.begin_ (mc.clock + 1))
      sashes := mc.sashes.map fun x => (x.1, x.2.tick (frozen x.2.die))
      cores := mc.cores.map fun x => (x.1, x.2.sweep (vcc x.2)) } }

end Sys2Proof.Machine
end

