-- ==== Sys2Proof/Machine/Home.lean ====
section
/-! DEFINITION. The homes of die, lane and fabric space: translation (R307 to R316), the writes a home
applies with the monitors they trigger (R206, R239), the stamp records of timed launches (R249), and the
record rings in die memory that the debug mailbox and the replay log use (R373, R386). -/

namespace Sys2Proof.Machine

/-! ## Translation -/

/-- Bit `n` of a 64-bit value. -/
def bit64 (v : W64) (n : Nat) : Bool := v.getLsbD n

/-- Permission and kind bits of a leaf entry (R311). -/
def Leaf.host (l : Leaf) : Bool := bit64 l.pte 62
def Leaf.pv (l : Leaf) : Bool := bit64 l.pte 61
def Leaf.ex (l : Leaf) : Bool := bit64 l.pte 60
def Leaf.wr (l : Leaf) : Bool := bit64 l.pte 59
def Leaf.rd (l : Leaf) : Bool := bit64 l.pte 58
/-- Bytes of a page (R307). -/
def pageBytes (large : Bool) : Nat := if large then 2 ^ 20 else 2 ^ 14
/-- First byte of the frame (R311). -/
def Leaf.frame (l : Leaf) : Nat :=
  if l.large then l.pte.toNat / 2 ^ 20 % 2 ^ 34 * 2 ^ 20 else l.pte.toNat / 2 ^ 14 % 2 ^ 40 * 2 ^ 14
/-- The leaf covers an offset. -/
def Leaf.covers (l : Leaf) (off : Nat) : Bool := decide (off / pageBytes l.large = l.base / pageBytes l.large)
/-- The location an offset of a die has under a leaf. -/
def Leaf.place (l : Leaf) (d off : Nat) : Store × Nat :=
  let a := l.frame + off % pageBytes l.large
  if l.host then (.host, hostKey (d / 4) a) else (.dram, dramKey d a)

/-- The leaf refuses an access (R313). `laneSpace` lifts the PV check (R185). -/
def Leaf.refuses (l : Leaf) (u : AccessUse) (priv laneSpace : Bool) : Bool :=
  (l.pv && !priv && !laneSpace) ||
  (match u with
    | .read => !l.rd
    | .engineRead => !l.rd
    | .write => !l.wr || l.ex
    | .engineWrite => !l.wr || l.ex
    | .atomic => !l.rd || !l.wr || l.ex || l.host
    | .fetch => !l.ex || l.host)

/-- What a walk finds (R312): a leaf, an absent entry at a level, with the page size where it is known to be large, or a
fault code. -/
inductive WalkOut where
  | leaf (l : Leaf)
  | absent (level : Nat) (large : Bool)
  | bad (code : Nat)
  deriving DecidableEq, Repr

/-- A table entry at a physical offset of a die: 0x09 for a poisoned one (R312), 0x03 outside the DRAM. -/
def tableEntry (w : World) (d off : Nat) : Except Nat W64 :=
  if Config.dieDram < off + 8 then .error 0x03
  else if w.mem.poisoned .dram (dramKey d off) 8 then .error 0x09
  else .ok (BitVec.ofNat 64 (leNat (w.mem.bytes .dram (dramKey d off) 8)))

/-- An entry of the two upper levels: as the walkers keep it, or read at its home (R315). -/
def dirEntry (w : World) (d off : Nat) : Except Nat W64 :=
  match (w.die d).dirs.find? fun x => decide (x.1 = off) with
  | some x => .ok x.2
  | none => tableEntry w d off

/-- Offset of the directory entry of an offset of a die, and of its middle entry below a directory entry (R309). -/
def l1Offset (x : Die) (off : Nat) : Nat := x.tbase.toNat / 2 ^ 14 % 2 ^ 32 * 2 ^ 14 + 8 * (off / 2 ^ 35 % 2 ^ 11)
def l2Offset (e1 : W64) (off : Nat) : Nat := e1.toNat / 2 ^ 15 % 2 ^ 31 * 2 ^ 15 + 8 * (off / 2 ^ 23 % 2 ^ 12)

/-- Where the leaf entry of an offset stands, and whether it is a large page's; or how the walk ends before it (R312). -/
def leafSlot (w : World) (d off : Nat) : Except WalkOut (Nat × Bool) :=
  let x := w.die d
  if !bit64 x.tbase 0 then .error (.bad 0x03) else
  match dirEntry w d (l1Offset x off) with
  | .error c => .error (.bad c)
  | .ok e1 =>
    if !bit64 e1 63 then .error (.absent 1 false) else
    match dirEntry w d (l2Offset e1 off) with
    | .error c => .error (.bad c)
    | .ok e2 =>
      if !bit64 e2 63 then .error (.absent 2 false)
      else if bit64 e2 62 then .ok (e2.toNat / 2 ^ 6 % 2 ^ 40 * 2 ^ 6 + 8 * (off / 2 ^ 20 % 8), true)
      else .ok (e2.toNat / 2 ^ 12 % 2 ^ 34 * 2 ^ 12 + 8 * (off / 2 ^ 14 % 2 ^ 9), false)

/-- The walk for an offset on its die (R312). -/
def walkOut (w : World) (d off : Nat) : WalkOut :=
  match leafSlot w d off with
  | .error r => r
  | .ok (at_, large) =>
    match tableEntry w d at_ with
    | .error c => .bad c
    | .ok e3 =>
      if !bit64 e3 63 then .absent 3 large else
      let l : Leaf := { base := off / pageBytes large * pageBytes large, large := large, pte := e3, epoch := (w.die d).epoch }
      if !l.host && decide (Config.dieDram < l.frame + pageBytes large) then .bad 0x03 else .leaf l

/-- Look an offset up: a small entry is used before a large one, which is then dropped (R319). -/
def tlbLook (t : List Leaf) (off : Nat) : Option Leaf × List Leaf :=
  let hits := t.filter fun l => l.covers off
  match hits.find? fun l => !l.large with
  | some l => (some l, t.filter fun x => !(x.covers off && x.large))
  | none => (hits.head?, t)

/-- Install a leaf; a full TLB drops a victim of the hardware's choice (R314: free value). -/
def tlbPut (t : List Leaf) (cap victim : Nat) (l : Leaf) : List Leaf :=
  let t := t.filter fun x => !(x.base = l.base && x.large = l.large)
  if cap ≤ t.length then (t.eraseIdx (victim % t.length)) ++ [l] else t ++ [l]

/-- The walkers keep what they choose of the present entries that a walk for an offset has read (R315; free value). An
absent entry is never kept. -/
def keepDirs (w : World) (d off : Nat) : World :=
  let x := w.die d
  let n := Config.dirChoice w.free
  let l1 := l1Offset x off
  let put := fun (keep : Bool) (o : Nat) (e : W64) (l : List (Nat × W64)) =>
    if keep && bit64 e 63 then (o, e) :: l.filter fun y => decide (y.1 ≠ o) else l
  let dirs := if n / 4 % 2 = 1 then x.dirs.dropLast else x.dirs
  let dirs := match dirEntry w d l1 with
    | .ok e1 =>
      let dirs := put (decide (n % 2 = 1)) l1 e1 dirs
      if !bit64 e1 63 then dirs
      else match dirEntry w d (l2Offset e1 off) with
        | .ok e2 => put (decide (n / 2 % 2 = 1)) (l2Offset e1 off) e2 dirs
        | .error _ => dirs
    | .error _ => dirs
  w.step.setDie d { x with dirs := dirs }

/-- The virtual address of an offset of a die (R183, R317). -/
def fabVa (w : World) (d off : Nat) : Nat := (w.module (d / 4)).num * 2 ^ 48 + d % 4 * 2 ^ 46 + off

/-- Two offsets lie in the page of a walk, as far as its size is known (R316, R317). -/
def Walk.samePage (k : Walk) (off : Nat) : Bool :=
  decide (k.off / 2 ^ 14 = off / 2 ^ 14) || (k.large && decide (k.off / 2 ^ 20 = off / 2 ^ 20)) || (k.found.any fun l => l.covers off)

/-- Begin a translation on the owner die `d` for a core: by its L1 TLB where `l1` says so, by a walk in
progress for the same page, by the memory-side TLB, or by a new walk (R314 to R316). -/
def startXlate (w : World) (c d off : Nat) (use : AccessUse) (l1 : Bool) : World × Xlate :=
  let va := fabVa w d off
  let x := w.die d
  if !bit64 x.tbase 0 then (w, .bad 0x03) else
  let (hit, t) := if l1 then tlbLook (w.core c).tlb off else (none, (w.core c).tlb)
  let w := if l1 then w.modCore c fun k => { k with tlb := t } else w
  match hit with
  | some l => (w, .ok l)
  | none =>
    match x.walks.find? fun k => k.samePage off with
    | some k => (w, .wait d k.wid)
    | none =>
      let (mhit, mt) := tlbLook x.tlb off
      let due := match mhit with
        | some _ => w.mach.clock + Config.realDelay w.free % 65
        | none => w.later 0
      let k : Walk := { wid := x.nextWalk, off := off, va := va, use := use, due := due, found := mhit }
      let w := w.step
      (w.setDie d { x with walks := x.walks ++ [k], tlb := mt, nextWalk := x.nextWalk + 1 }, .wait d x.nextWalk)

/-- What stands in the way of a list of translations: a fault code, a wait, a host-backed page, or nothing. -/
inductive Gate where
  | fail (code d off : Nat)
  | wait
  | hostPage
  | clear
  deriving DecidableEq, Repr

/-- The gate of the pages that an engine access or a crossing write touches. -/
def pageGate (xs : List (Nat × Nat × Xlate)) (use : AccessUse) (pv : Bool) : Gate :=
  match xs.findSome? fun x => match x.2.2 with
      | .bad code => some (code, x)
      | .ok l => if l.refuses use pv false then some (0x03, x) else none
      | .hostWait l _ => if l.refuses use pv false then some (0x03, x) else none
      | .hostOk l => if l.refuses use pv false then some (0x03, x) else none
      | _ => none with
  | some f => .fail f.1 f.2.1 f.2.2.1
  | none =>
    if xs.any fun x => match x.2.2 with
        | .need => true
        | .wait _ _ => true
        | .hostWait _ _ => true
        | _ => false then .wait
    else if xs.any fun x => match x.2.2 with
        | .ok l => l.host
        | _ => false then .hostPage
    else .clear

/-- The store and key of a byte of a die under a list of translations. -/
def pagePlace (xs : List (Nat × Nat × Xlate)) (d off : Nat) : Store × Nat :=
  match xs.findSome? fun x => if x.1 = d && x.2.1 / 2 ^ 14 = off / 2 ^ 14 then
      (match x.2.2 with
        | .ok l => some (l.place d off)
        | .hostWait l _ => some (l.place d off)
        | .hostOk l => some (l.place d off)
        | _ => none) else none with
  | some p => p
  | none => (.dram, dramKey d off)

/-- The location an offset of a die has now, read from the tables without a TLB: for the die's own writes. -/
def placeNow (w : World) (d off : Nat) : Option (Store × Nat) :=
  match walkOut w d off with
  | .leaf l => some (l.place d off)
  | _ => none

/-! ## The host's interrupts and the time master -/

/-- Raise an MSI-X vector: 0 a mailbox message, 1 a page request, 2 a change of IMGSTAT (R359). -/
def raiseMsix (w : World) (m v : Nat) : World :=
  w.modModule m fun x => { x with msix := x.msix.modify v (· + 1) }

/-- The master of the time group: the lowest-numbered module that may become master (R341). -/
def groupMaster (mach : Mach) : Option (Nat × Module) :=
  (mach.mods.filter fun x => x.2.formed && x.2.master).foldl (fun r x => match r with
    | some y => if x.2.num < y.2.num then some x else r
    | none => some x) none

/-! ## Byte budgets (R354, R355) -/

/-- A quadrant of a die. -/
def Die.quad (x : Die) (q : Nat) : Quadrant := (x.quads.find q).getD {}
def modQuad (w : World) (d q : Nat) (f : Quadrant → Quadrant) : World :=
  w.modDie d fun x => { x with quads := x.quads.put q (f (x.quad q)) }

/-- An access or a beat is to be charged to its core's quadrant. -/
def charge (w : World) (u : Charge) : World := modQuad w (dieOf u.core) (quadOf u.core) fun x => { x with dues := x.dues ++ [u] }

/-- Units of a charge. -/
def Charge.units (u : Charge) : Nat := (u.bytes + 63) / 64

/-- Charges in ascending order of memory cycle, with ties in agent order (R355). -/
def Charge.le (a b : Charge) : Bool := decide (a.cyc < b.cyc) || (decide (a.cyc = b.cyc) && decide (a.agent ≤ b.agent))

/-- What is charged is late. -/
def markLate (w : World) (u : Charge) : World :=
  w.modCore u.core fun k =>
    if u.beat then { k with beats := k.beats.map fun (x : Beat) => if x.id = u.id then { x with late := true } else x }
    else { k with accs := k.accs.map fun (x : Access) => if x.id = u.id then { x with late := true } else x }

/-- Charge one use; one that would raise USED above BUD is late and is not charged yet (R355). -/
def settle (w : World) (u : Charge) : World :=
  let d := dieOf u.core
  let q := quadOf u.core
  let x := (w.die d).quad q
  if x.bud = 2 ^ 24 - 1 then modQuad w d q fun x => { x with used := min (x.used + u.units) (2 ^ 24 - 1) }
  else if x.bud < x.used + u.units then markLate w u
  else modQuad w d q fun x => { x with used := x.used + u.units }

/-- Charge what was issued in this real cycle (R355). -/
def settleCharges (w : World) : World :=
  w.mach.dies.foldl (fun w d => d.2.quads.foldl (fun w q =>
    if q.2.dues.isEmpty then w
    else (sortBy Charge.le q.2.dues).foldl settle (modQuad w d.1 q.1 fun x => { x with dues := [] })) w) w

/-! ## Activity counters (R352) -/

/-- Count activity of a block on its core. -/
def countAct (w : World) (c o : Nat) (f : Activity → Activity) : World :=
  w.modCore c fun k => { k with acts := k.acts.put o (f ((k.acts.find o).getD {})) }
/-- Number of a column in the counters. -/
def Col.no : Col → Nat
  | .none => 0
  | .fp => 1
  | .fp64 => 2
  | .sfu => 3
  | .chain => 4
/-- One more lane-execution in a column. -/
def Activity.lane (a : Activity) (col : Col) : Activity := { a with lanes := a.lanes.put col.no ((a.lanes.find col.no).getD 0 + 1) }
/-- Tile-store or accumulator bytes. -/
def Activity.bytes (a : Activity) (n : Nat) : Activity := { a with tile := a.tile + n }
/-- Array cycles of a pairing. -/
def Activity.cycles (a : Activity) (p : MxPair) (n : Nat) : Activity :=
  let i := match p with | .f64 => 0 | .f32 => 1 | .bf16 => 2 | .f16 => 3 | .fp8 => 4 | .qn4 => 5
  { a with array := a.array.put i ((a.array.find i).getD 0 + n) }

/-! ## Writes at a home -/

/-- The 8-byte granules that a write of `n` bytes at a key touches. -/
def granulesOf (st : Store) (key n : Nat) : List Nat :=
  (List.range ((key + n + 7) / 8 - key / 8)).map fun i => poisonKey st (key / 8 + i)

/-- Trigger the armed monitor entries of every granule written (R206). -/
def monTrigger (w : World) (st : Store) (key n : Nat) : World :=
  let gs := granulesOf st key n
  { w with mach := { w.mach with dies := w.mach.dies.map fun x =>
      (x.1, { x.2 with mons := x.2.mons.map fun m => if gs.contains m.granule then { m with trig := true } else m }) } }

/-- A load that has not taken its value yet, and whose memory cycle a write of a cycle follows. -/
def Access.stale (a : Access) (cyc : Nat) : Bool := a.kind = .load && a.done.isNone && decide (a.cyc < cyc)

/-- A load of the sash of a core stands after its memory cycle, before a cycle. -/
def lateLoads (w : World) (c cyc : Nat) : Bool :=
  match sashOf w c with
  | none => false
  | some s => s.cores.any fun x => (w.core x).accs.any (·.stale cyc)

/-- A load of the sash that stands after its memory cycle keeps the bytes of that cycle, which a write of a later memory
cycle replaces (R241, R243, R330). -/
def keepBytes (w : World) (c cyc : Nat) (old : List (Store × Nat × Byte)) : World :=
  match sashOf w c with
  | none => w
  | some s =>
    s.cores.foldl (fun w x =>
      let k := w.core x
      if k.accs.any (·.stale cyc) then
        w.setCore x { k with accs := k.accs.map fun a => if a.stale cyc then { a with shadow := a.shadow ++ old } else a }
      else w) w

/-- The bytes kept are those of a stretch of a home. -/
def keepOld (w : World) (c cyc : Nat) (st : Store) (key n : Nat) : World :=
  keepBytes w c cyc ((List.range n).map fun i => (st, key + i, w.mem.byte st (key + i)))

/-- Poison the granules of the bytes at some positions from a key (R332). -/
def poisonAt (w : World) (st : Store) (key : Nat) (bad : List Nat) : World :=
  (bad.map fun i => (key + i) / 8).eraseDups.foldl (fun w g => w.poison st g) w

/-- The core that a byte of a tile or accumulator store belongs to. -/
def storeCore (st : Store) (key : Nat) : Nat :=
  match st with
  | .ts => key / Config.tsSpan
  | .acc => key / Config.accSpan
  | _ => key / Config.trnSpan

/-- A write to a tile or accumulator store; what it replaces is kept for the sends of this cycle (R47, R232). -/
def tileWrite (w : World) (st : Store) (key : Nat) (bs : List Byte) : World :=
  let c := storeCore st key
  let vcc := vccOf w c
  let u : Undo := { st := st, key := key, bytes := w.mem.bytes st key bs.length,
                    bad := (granulesOf st key bs.length).filter fun g => Tab.get false w.mem.poison g }
  let w := w.modCore c fun k => { k with undo := (vcc, (if k.undo.1 = vcc then k.undo.2 else []) ++ [u]) }
  w.write st key bs

/-- The oldest write of this cycle that covers a byte of a core's store. -/
def undoAt (w : World) (c : Nat) (st : Store) (key : Nat) : Option Undo :=
  let u := (w.core c).undo
  if u.1 = vccOf w c then u.2.find? fun x => decide (x.st = st) && decide (x.key ≤ key) && decide (key < x.key + x.bytes.length) else none

/-- Bytes of a core's store as they stood before the writes of this cycle, and which of them were poisoned. -/
def bytesBefore (w : World) (c : Nat) (st : Store) (key n : Nat) : List Byte × List Nat :=
  ((List.range n).map fun i => match undoAt w c st (key + i) with
      | some u => u.bytes.getD (key + i - u.key) 0
      | none => w.mem.byte st (key + i),
   (List.range n).filter fun i => match undoAt w c st (key + i) with
      | some u => u.bad.contains (poisonKey st ((key + i) / 8))
      | none => w.mem.poisoned st (key + i) 1)

/-- A home applies a write of a core, of a memory cycle. -/
def homeWrite (w : World) (c cyc : Nat) (st : Store) (key : Nat) (bs : List Byte) : World :=
  if bs.isEmpty then w
  else monTrigger ((keepOld w c cyc st key bs.length).write st key bs) st key bs.length

/-- A home applies a write that no sash makes: the host, a management core, the die (R206). -/
def outsideWrite (w : World) (st : Store) (key : Nat) (bs : List Byte) : World :=
  if bs.isEmpty then w else monTrigger (w.write st key bs) st key bs.length

/-- A core's place in the order of (module, die, core), which goes by module numbers (R180). -/
def coreNo (w : World) (c : Nat) : Nat := (w.module (modOf c)).num * (4 * Config.coresPerDie) + c % (4 * Config.coresPerDie)

/-- Agent order of R180 as one number: (module, die, core, string, lane); an engine is string 8, lane 0. -/
def agentNo (w : World) (c str lane : Nat) : Nat := (coreNo w c * 9 + str) * 32 + lane

/-- The stamp record of a launch for a granule (R249). -/
def stampOf (x : Die) (lid : W32) (g : Nat) : Option Stamp :=
  x.stamps.find? fun s => s.lid = lid && s.granule = g

/-- A pair compares as stamp, then agent (R249). -/
def pairLt (s1 a1 s2 a2 : Nat) : Bool := decide (s1 < s2) || (decide (s1 = s2) && decide (a1 < a2))

/-- Record a pair for a granule. -/
def putStamp (x : Die) (s : Stamp) : Die :=
  { x with stamps := (x.stamps.filter fun t => !(t.lid = s.lid && t.granule = s.granule)) ++ [s] }

/-- The parts of a write, granule of 64 bytes by granule. -/
def parts64 : Nat → Nat → List Byte → List (Nat × List Byte)
  | 0, _, _ => []
  | n + 1, key, bs =>
    if bs.isEmpty then []
    else
      let m := 64 - key % 64
      (key, bs.take m) :: parts64 n (key + m) (bs.drop m)

/-- The recorded pair of a granule is higher than a write's: the write is not applied (R249). -/
def stampBars (x : Die) (lid : W32) (g stamp agent : Nat) : Bool :=
  match stampOf x lid g with
  | some s => pairLt stamp agent s.stamp s.agent
  | none => false

/-- A write of a timed launch to die or fabric space, with the positions among its bytes that carry poison: a part whose pair
is lower than the recorded pair of its granule is not applied (R249). -/
def timedWrite (w : World) (c cyc : Nat) (lid : W32) (stamp agent d : Nat) (st : Store) (key : Nat) (bs : List Byte) (bad : List Nat) : World :=
  (parts64 (bs.length + 1) key bs).foldl (fun w p =>
    let g := poisonKey st (p.1 / 64)
    let x := w.die d
    if stampBars x lid g stamp agent then w
    else
      let w := w.setDie d (putStamp x { lid := lid, granule := g, stamp := stamp, agent := agent })
      poisonAt (homeWrite w c cyc st p.1 p.2) st key (bad.filter fun i => decide (p.1 ≤ key + i) && decide (key + i < p.1 + p.2.length))) w

/-! ## Record rings (R373) -/

/-- A 32-bit word of die space, 0 where nothing maps it. -/
def dieWord (w : World) (d off : Nat) : Nat :=
  match placeNow w d off with
  | some (st, k) => leNat (w.mem.bytes st k 4)
  | none => 0
/-- Write bytes of die space by the die itself; they lie in one page. -/
def dieWrite (w : World) (d off : Nat) (bs : List Byte) : World :=
  match placeNow w d off with
  | some (st, k) => outsideWrite w st k bs
  | none => w

/-- Bytes of a list of 32-bit words (R5). -/
def wordBytes (l : List Nat) : List Byte := l.flatMap fun v => leBytes 4 v

/-- Append a 64-byte record to the ring at a die offset, or count it as lost (R373). -/
def ringWrite (w : World) (d base : Nat) (rec : List Nat) : World :=
  let head := dieWord w d base
  let tail := dieWord w d (base + 4)
  let size := 2 ^ (dieWord w d (base + 8) % 16)
  if (head + 2 ^ 32 - tail) % 2 ^ 32 < size then
    dieWrite (dieWrite w d (base + 64 + 64 * (head % size)) (wordBytes rec)) d base (leBytes 4 ((head + 1) % 2 ^ 32))
  else dieWrite w d (base + 12) (leBytes 4 (min (dieWord w d (base + 12) + 1) 0xFFFFFFFF))

/-- A record of an event of a core for its die's mailbox, with the event's agent on the core: dropped without count until a base is
set (R373). It enters the ring at the end of the real cycle, when what it reports has taken effect (R375). -/
def mailNote (w : World) (c agent : Nat) (rec : List Nat) : World :=
  match (w.die (dieOf c)).mbox with
  | some mb => w.modCore c fun k => { k with recs := k.recs ++ [(agent, mb, rec)] }
  | none => w

/-- The records of a core's events of this real cycle enter the ring in agent order (R375). -/
def flushCore (w : World) (c : Nat) : World :=
  (sortBy (fun (a b : Nat × Nat × List Nat) => decide (a.1 ≤ b.1)) (w.core c).recs).foldl (fun w r => ringWrite w (dieOf c) r.2.1 r.2.2)
    (w.modCore c fun k => { k with recs := [] })

/-- The records of every core's events of this real cycle enter the rings (R375). -/
def flushRecords (w : World) : World :=
  ((w.mach.cores.filter fun x => !x.2.recs.isEmpty).map Prod.fst).foldl flushCore w

/-- The target word of a path (R371). -/
def targetWord (c owner cr path : Nat) : Nat :=
  (c % Config.coresPerDie) * 2 ^ 23 + owner % 2 ^ 6 * 2 ^ 17 + cr % 2 ^ 5 * 2 ^ 12 + path % 2 ^ 5 * 2 ^ 7

/-- Low and high words of a 64-bit value. -/
def lohi (v : Nat) : List Nat := [v % 2 ^ 32, v / 2 ^ 32 % 2 ^ 32]

/-- What a debug record says beyond its subject (R374). -/
structure DebugRec where
  kind : Nat
  ent  : Nat := 0
  issr : Bool := false
  /-- HELD where the event says it; else it is as the path stands. -/
  held : Option Bool := none
  /-- The event is the engine's. -/
  engine : Bool := false
  tag  : Nat := 0
  tgv  : Bool := false
  mask : LaneMask := 0
  pc   : Nat := 0
  addr : Nat := 0
  data : Nat := 0
  code : Nat := 0
  deriving DecidableEq, Repr

/-- HELD of a record beyond the stop that it reports: a debugger holds the subject path, or its timed sash stands (R374). -/
def recordHeld (w : World) (c owner cr path : Nat) : Bool :=
  match w.block? c owner with
  | none => false
  | some b =>
    if b.hdr.timed then ((sashOf w c).map Sash.paused).getD false
    else (((w.course? c owner cr).bind fun k => k.path? path).map Path.held).getD false

/-- Agent on its core of a record about a course and lanes: its string and lowest lane, or string 8 for the engine (R180). -/
def recordAgent (w : World) (c owner cr path : Nat) (r : DebugRec) : Nat :=
  if r.engine then 8 * 32
  else match w.course? c owner cr with
    | some k => 32 * k.str + lowestLane (if r.mask ≠ 0 then r.mask else ((k.path? path).map Path.mask).getD 1)
    | none => 0

/-- A record about a path of a block for the mailbox of the core's die (R374). -/
def debugRecord (w : World) (c owner cr path : Nat) (r : DebugRec) : World :=
  let b := w.block? c owner
  let timed := (b.map fun b => b.hdr.timed).getD false
  let held := r.held.getD (recordHeld w c owner cr path)
  let bk := (b.map fun b => b.bind.bk.toNat).getD 0
  let lid := (b.map fun b => b.bind.lid.toNat).getD 0
  mailNote w c (recordAgent w c owner cr path r) ([
    r.kind * 2 ^ 24 + r.ent * 2 ^ 20 + (if r.issr then 2 ^ 19 else 0) + (if timed then 2 ^ 18 else 0) + (if held then 2 ^ 17 else 0),
    targetWord c owner cr path + r.tag % 2 ^ 6 * 2 + (if r.tgv then 1 else 0),
    r.mask.toNat, bk] ++ lohi r.pc ++ lohi (vccOf w c) ++ lohi r.addr ++ lohi r.data ++ [lid, r.code, 0, 0])

/-! ## The replay log (R386, R388) -/

/-- Numbers of the records that a ring holds, the oldest first. -/
def ringNos (w : World) (d base : Nat) : List Nat :=
  let head := dieWord w d base
  let size := 2 ^ (dieWord w d (base + 8) % 16)
  (List.range (min head size)).map (head - min head size + ·)

/-- Word `i` of record `n` of a ring, and the pair at words i, i + 1. -/
def ringWord (w : World) (d base n i : Nat) : Nat :=
  dieWord w d (base + 64 + 64 * (n % 2 ^ (dieWord w d (base + 8) % 16)) + 4 * i)
def ringPair (w : World) (d base n i : Nat) : Nat := ringWord w d base n i + 2 ^ 32 * ringWord w d base n (i + 1)

/-- The first input record of the log that a replay has not used and that is about this course, lane, PC and
address: its number, VCC and value. -/
def replayInput (w : World) (c owner cr lane pc addr : Nat) : Option (Nat × Nat × Nat) :=
  let d := dieOf c
  let x := w.die d
  if x.recMode = 2 then
    let v := ringWord w d x.recBase
    let v2 := ringPair w d x.recBase
    ((ringNos w d x.recBase).find? fun n => !x.recUsed.contains n && decide (v n 0 / 2 ^ 24 = 0x31) &&
        decide (v n 1 = targetWord c owner cr 0) && decide (v n 2 = (laneBit lane).toNat) && decide (v2 n 4 = pc) && decide (v2 n 8 = addr)).map
      fun n => (n, v2 n 6, v2 n 10)
  else none

/-- The next placement of a free block in the log of a die that replays: its record, core and VCC (R387, R388). -/
def placeNext (w : World) (d : Nat) (lid bk : W32) : Option (Nat × Nat × Nat) :=
  let x := w.die d
  let v := ringWord w d x.recBase
  if x.recMode = 2 then
    ((ringNos w d x.recBase).find? fun n => !x.recUsed.contains n && decide (0x35 ≤ v n 0 / 2 ^ 24) && decide (v n 3 = bk.toNat) && decide (v n 12 = lid.toNat)).map
      fun n => (n, d * Config.coresPerDie + v n 1 / 2 ^ 23, ringPair w d x.recBase n 6)
  else none

/-- Bindings, pre-emptions and restores of a free block go into the log of a die that records, at the core's virtual cycle
(R387), and a replay has used the record. DESIGN CHOICE: the specification gives this record no KIND and no words; KIND is a free value from 0x35 on, and the
words are those of R374 (log entry 111). -/
def logPlace (w : World) (c owner : Nat) : World :=
  let d := dieOf c
  match w.block? c owner with
  | none => w
  | some b =>
    if b.hdr.timed then w
    else if (w.die d).recMode = 2 then (match placeNext w d b.bind.lid b.bind.bk with
      | some e => w.modDie d fun x => { x with recUsed := x.recUsed ++ [e.1] }
      | none => w)
    else if (w.die d).recMode ≠ 1 then w
    else
      let kind := 0x35 + (Config.freeByte w.free).toNat % 0xCB
      ringWrite w.step d (w.die d).recBase ([kind * 2 ^ 24, targetWord c owner 0 0, 0, b.bind.bk.toNat, 0, 0] ++ lohi (vccOf w c) ++
        [0, 0, 0, 0, b.bind.lid.toNat, 0, 0, 0])

/-- A replay has used a record of the log. -/
def useRecord (w : World) (d n : Nat) : World := w.modDie d fun x => { x with recUsed := x.recUsed ++ [n] }

/-- An untimed input: it goes into the log of a die that records, and a replay returns the logged value
(R386, R388). -/
def untimed (w : World) (c owner cr lane pc addr value : Nat) : World × Nat :=
  let d := dieOf c
  let x := w.die d
  if x.recMode = 1 then
    (ringWrite w d x.recBase ([0x31 * 2 ^ 24, targetWord c owner cr 0, (laneBit lane).toNat, 0]
      ++ lohi pc ++ lohi (vccOf w c) ++ lohi addr ++ lohi value ++ [0, 0, 0, 0]), value)
  else match replayInput w c owner cr lane pc addr with
    | some r => (useRecord w d r.1, r.2.2)
    | none => (w, value)

/-- Untimed bytes, one record for each eight of them. -/
def untimedBytes (c owner cr lane pc : Nat) : Nat → Nat → List Byte → World → World × List Byte
  | 0, _, bs, w => (w, bs)
  | n + 1, addr, bs, w =>
    if bs.isEmpty then (w, [])
    else
      let r := untimed w c owner cr lane pc addr (leNat (bs.take 8))
      let z := untimedBytes c owner cr lane pc n (addr + 8) (bs.drop 8) r.1
      (z.1, leBytes (min 8 bs.length) r.2 ++ z.2)

end Sys2Proof.Machine
end

