-- ==== Sys2Proof/Machine/Issue.lean ====
section
/-! DEFINITION. The shared part of every instruction: the checks of R115 that decode has not made, what an
issue does to its course and string, and the ways an instruction goes on from there: over the lanes (R16,
R19), once in the uniform unit (R118), or at once.

An `exec` of an instruction is the ISSUE of it at cycle I. What the specification gives its later cycles
happens in the event steps LANE_EXECUTE, CHAIN_STEP, RESULT_READY and so on. -/

namespace Sys2Proof.Machine

/-- What an issuing slot sees: the port, the block, course and path as they stand at I, and the issue number. -/
structure Site where
  i   : Issuer
  b   : Block
  k   : Course
  p   : Path
  seq : Nat
  deriving DecidableEq, Repr

/-- The site of the issue port. -/
def siteOf (w : World) : Option Site :=
  match w.mach.cur with
  | none => none
  | some i =>
    match w.block? i.core i.owner, w.course? i.core i.owner i.cr with
    | some b, some k =>
      match k.path? i.slot with
      | some p => some { i := i, b := b, k := k, p := p, seq := (w.core i.core).seq }
      | none => none
    | _, _ => none

namespace Site

/-- Free launches order and wait; timed launches do neither (R30, R33). -/
def timed (t : Site) : Bool := t.b.hdr.timed
/-- The lowest active lane is enabled (R118). -/
def once (t : Site) : Bool := t.k.onceOk t.p.mask t.i.pred t.i.neg
/-- The lanes enabled at I. -/
def enabled (t : Site) : LaneMask := t.k.enabled t.p.mask t.i.pred t.i.neg
/-- The names under which the path's accesses were issued: its own and those of the paths it came from. -/
def ids (t : Site) : List Nat := t.p.id :: (t.p.merged ++ t.p.anc)

end Site

/-- The profile of an instruction that the sampler tags (R384, R385). -/
def Site.sample (t : Site) : Sample :=
  { str := t.k.str, seq := t.seq, owner := t.i.owner, cr := t.i.cr, path := t.i.slot, pid := t.p.id, mask := t.p.mask, pc := t.i.pc,
    word := t.i.word, issue := t.i.cyc, fetch := t.i.cyc - (((t.p.clause? (t.p.pc / 3)).map Clause.got).getD t.i.cyc) }

/-- What every issue does: the slot takes its turn, counts in `%dii` (R70, R99), gets the core's next issue
number (R119), and the sampler counts it (R384). -/
def beginIssue (t : Site) (w : World) : World :=
  let k := w.core t.i.core
  let x := k.str t.k.str
  let tag := decide (k.samp ≠ 0) && decide (x.draw = 1)
  let course := { t.k.setPath t.i.slot (t.p.issued t.i.cyc) with dii := t.k.dii + 1 }
  let w := { w with mach := { w.mach with cur := none } }
  w.setCore t.i.core
    ({ k with seq := t.seq + 1
              courses := k.courses.put (32 * t.i.owner + t.i.cr) course
              samples := if tag then k.samples ++ [t.sample] else k.samples }.setStr t.k.str
      { x with last := some t.i.cyc, draw := x.draw - 1, tagged := if tag then some t.seq else x.tagged })

/-- The slot's paths after a stepped instruction, in ascending order of lowest lane (R379). -/
def steppedPaths (t : Site) (k : Course) : List (Nat × Path) :=
  (List.range 32).filterMap fun j => k.paths.find? fun x => decide (lowestLane x.2.mask = j) && decide (x.2.mask &&& t.p.mask ≠ 0)

/-- The end of a step (R379, R380). -/
def endStep (t : Site) (w : World) : World :=
  if !t.p.stepping then w else
  match w.course? t.i.core t.i.owner t.i.cr with
  | none => w
  | some k =>
    let ps := steppedPaths t k
    let mine := fun (p : Path) => decide (p.mask &&& t.p.mask ≠ 0)
    if t.p.stepTrap then
      w.setCourse t.i.core t.i.owner t.i.cr { k.mapPaths (fun p => if mine p then { p with stepping := false, stepTrap := false, held := false } else p) with stepT := some t.i.slot }
    else if t.timed then
      -- the stop comes at the next issue cycle of a path that is left, or at the cycle after this one, with its records (R375, R380)
      let next := ps.any fun x => k.issues x.2 x.1
      let w := w.setCourse t.i.core t.i.owner t.i.cr (k.mapPaths fun p =>
        if !mine p then p else if next then { p with stepping := false, stopNext := true } else { p with stepping := false, stop := some (t.i.cyc + 1, 3, 0) })
      if ps.isEmpty then w.modCore t.i.core fun x => { x with stepEnds := x.stepEnds ++ [(t.i.cyc + 1, t.i.owner, t.i.cr, t.i.slot, t.i.pc + 1)] } else w
    else
      let note := fun (w : World) (ix : Nat) (held : Bool) (m : LaneMask) (pc : Nat) =>
        debugRecord w t.i.core t.i.owner t.i.cr ix { kind := 3, held := some held, mask := m, pc := (pcWord pc).toNat }
      let w := w.setCourse t.i.core t.i.owner t.i.cr (k.mapPaths fun p => if mine p then { p with stepping := false, held := true, bpSkip := some p.pc } else p)
      if ps.isEmpty then note w t.i.slot false 0 (t.i.pc + 1) else ps.foldl (fun w x => note w x.1 true x.2.mask x.2.pc) w

/-- A slot at the issue port that faults in decode has issued: a step of its path ends with it (R99, R379). -/
def faultIssue (code sub : Nat) (info : W64) (w : World) : World :=
  match siteOf w with
  | some t => endStep t (decodeFault code sub info w)
  | none => decodeFault code sub info w

/-- The checks of R115 that need the course, in their order, then the instruction's own effect. `top` is one
more than the highest word the slot names, 0 when it names none; `bad` answers the address of a target that
fails R95 or R102. -/
def issueWorld (priv : Bool) (top : Nat) (bad : Site → Option W64) (act : Site → World → World) (t : Site) (w : World) : World :=
  if priv && !t.b.bind.priv then decodeFault 0x07 0 0 w
  else if decide (top ≠ 0) && decide (t.k.allotAt t.i.cyc < t.k.wb + top) then decodeFault 0x0C 0 0 w
  else match bad t with
    | some a => decodeFault 0x04 0 a w
    | none => act t (beginIssue t w)

/-- Issue an instruction (R99, R115). -/
def issue (priv : Bool) (top : Nat) (bad : Site → Option W64) (act : Site → World → World) (s : State) :
    Host.Outcome State Fault Refusal :=
  match siteOf (enter s) with
  | none => .fault .noIssuer
  | some t => .next (commit s (endStep t (issueWorld priv top bad act t (enter s))))

/-- An issue without a privilege, window or target check. -/
def issuePlain (act : Site → World → World) (s : State) : Host.Outcome State Fault Refusal :=
  issue false 0 (fun _ => none) act s

/-! ## Results -/

/-- The words that a value takes in a destination; a pair's high word follows its low one (R59). -/
def dstWrites (d : Dst) (lane : Nat) (v : W64) : List Write :=
  let lo : W32 := v.truncate 32
  let hi : W32 := (v >>> 32).truncate 32
  match d with
  | .none => []
  | .reg w => [.lane lane w lo]
  | .pair w => [.lane lane w lo, .lane lane (w + 1) hi]
  | .quad w => [.lane lane w lo, .lane lane (w + 1) hi]
  | .pred p => [.pred p (laneBit lane) (if v = 0 then 0 else laneBit lane)]
  | .uni k => [.uni k lo]
  | .uniPair k => [.uni k lo, .uni (k + 1) hi]

/-- The instruction that a result comes from, its slot index and word (R330): of a flight, of an access, or the one before the
slot at which a path waits. -/
def Flight.from_ (f : Flight) : Nat × W32 := (f.pc, f.word)
def Access.from_ (a : Access) : Nat × W32 := (a.pc, a.word)
def Path.from_ (p : Path) : Nat × W32 := (p.pc - 1, ({ p with pc := p.pc - 1 } : Path).slotWord.1)

/-- Record a result that becomes ready at a cycle (R9, R16), with the instruction that it comes from. -/
def pushResult (w : World) (c owner cr seq ready : Nat) (src : Nat × W32) (writes : List Write) (flags : FpFlags) : World :=
  w.modCore c fun k => { k with
    results := k.results ++ [{ id := k.nextId, seq := seq, owner := owner, cr := cr, ready := ready, writes := writes, flags := flags,
                               pc := src.1, word := src.2 }]
    nextId := k.nextId + 1 }

/-- A result of an instruction that executes once, ready `lat` cycles after I. -/
def onceResult (t : Site) (lat : Nat) (writes : List Write) (w : World) : World :=
  pushResult w t.i.core t.i.owner t.i.cr t.seq (t.i.cyc + lat) (t.i.pc, t.i.word) writes 0

/-- Writes of a once-only destination: a predicate goes to every active lane of the path (R118). DESIGN CHOICE: the lanes
active at I, though the path may divide before I + L; the specification does not say which (log entry 17). -/
def onceWrites (t : Site) (d : Dst) (v : W64) : List Write :=
  match d with
  | .pred p => [.pred p t.p.mask (if v = 0 then 0 else 0xFFFFFFFF)]
  | d => dstWrites d 0 v

/-! ## Ways to go on -/

/-- The flight of an instruction that its lanes execute one after another (R16, R19), with the shift of a
busy column (R39). -/
def Site.flight (t : Site) (f : Form) (cyc stride : Nat) : Flight :=
  { seq := t.seq, owner := t.i.owner, cr := t.i.cr, path := t.p.id, pathIx := t.i.slot, pc := t.i.pc, word := t.i.word,
    mask := t.p.mask, pred := t.i.pred, neg := t.i.neg, issue := t.i.cyc, cyc := cyc, stride := stride,
    form := f.resolve t.k.wb, part := t.k.part, seed := t.k.seed, dii := t.k.dii, marks := t.p.marks }

/-- Send an instruction over the lanes. `set` completes the flight. -/
def startLanes (f : Form) (stride : Nat) (set : Flight → Flight) (t : Site) (w : World) : World :=
  w.modCore t.i.core fun k =>
    let r := (k.str t.k.str).take f.col t.i.cyc
    { k with flights := k.flights ++ [set (t.flight f r.1 stride)] }.setStr t.k.str r.2

/-- An ordinary lane instruction (R16, R116). -/
def issueLane (f : Form) (s : State) : Host.Outcome State Fault Refusal :=
  issue false f.top (fun _ => none) (startLanes f 1 id) s

/-- A uniform form (R118): operands are read at I, the result is ready at I + L, and nothing is written when
the lowest active lane is disabled. -/
def uniAct (op : AluOp) (f : Form) (t : Site) (w : World) : World :=
  if t.once then
    let r := aluEval op (t.k.src 0 f.a) (t.k.src 0 f.b) (t.k.src 0 f.c) (fun _ => 0)
    onceResult t f.lat (onceWrites t f.dst r.val) w
  else w

/-- Issue a uniform form. -/
def issueUni (f : Form) (s : State) : Host.Outcome State Fault Refusal :=
  match f.op with
  | .alu op => issuePlain (uniAct op f) s
  | _ => issuePlain (fun _ w => w) s

/-- `%bri` of a course (R20): `%bro` of course c - 1, kept by the block once its slot is released, or the
block's seed for course 0. -/
def briOf (w : World) (c : Nat) (b : Block) (cr : Nat) : W64 :=
  if cr = 0 then b.bseed
  else match w.course? c b.bind.owner (cr - 1) with
    | some k => k.bro
    | none => (b.bros.find (cr - 1)).getD 0

/-- Bits of the link that a chained operation uses (R19). -/
def linkBits (op : ChainOp) (v : W64) : W64 := if chainWide op then v else (v.truncate 32 : W32).zeroExtend 64

/-- A chained instruction (R19, R168): `%bri` is read at I, and the sweep goes four cycles a lane. -/
def issueChain (op : ChainOp) (br : Bool) (f : Form) (s : State) : Host.Outcome State Fault Refusal :=
  issue false f.top (fun _ => none) (fun t w =>
    let bri := linkBits op (briOf w t.i.core t.b t.i.cr)
    startLanes f 4 (fun x => { x with link := if br then bri else 0, last := bri }) t w) s

/-! ## Events -/

/-- An event step: a change of the world. An event whose subject does not exist changes nothing. -/
def runEvent (f : World → World) (s : State) : Host.Outcome State Fault Refusal := .next (commit s (f (enter s)))

/-- A fault of an instruction that executes once, at I (R325 SRC 1, or 2 for a command). Under the ignore
policy `zero` is what its destinations receive `lat` cycles after I (R328). -/
def siteFault (t : Site) (code sub src : Nat) (info : W64) (lat : Nat) (zero : List Write) (w : World) : World :=
  let f : FaultRec := {
    code := code
    sub := sub
    src := src
    owner := t.i.owner
    cr := t.i.cr
    path := t.i.slot
    mask := t.p.mask
    pc := pcWord t.i.pc
    word := t.i.word
    vcc := 0
    info := info
    seq := t.seq
    work := .once t.i.cr t.i.slot true (t.i.cyc + lat) zero }
  takeFault w t.i.core (f.ofBlock t.b)

end Sys2Proof.Machine
end

