-- ==== Sys2Proof/Machine/Convert.lean ====
section
/-! DEFINITION. Conversions (R136 to R141), special functions (R142 to R144), byte permute and dot products (R145 to R147).
Each meaning is the issue; LANE_EXECUTE computes the lanes. -/

namespace Sys2Proof.Machine

/-- A conversion to floating point (R136, R137): the old destination word is an operand of a packed result. -/
def cvtForm (f : FFmt) (d a : Reg) (sel : BitVec 2) (st : SType) (rm : CvtRound) : Form :=
  { op := .alu (.cvtF f sel st rm), dst := laneDst (f == .f64) d, a := laneSrc (isPair st) a,
    c := if cvtPacked f then .reg d.toNat else .none, lat := 4, col := .fp }

/-- `cvt_to_f32` (R136 to R138). -/
def execCvtToF32 (d a : Reg) (sel : BitVec 2) (st : SType) (rm : CvtRound) (s : State) : Host.Outcome State Fault Refusal :=
  issueLane (cvtForm .f32 d a sel st rm) s

/-- `cvt_to_f64` (R136 to R138). -/
def execCvtToF64 (d a : Reg) (sel : BitVec 2) (st : SType) (rm : CvtRound) (s : State) : Host.Outcome State Fault Refusal :=
  issueLane (cvtForm .f64 d a sel st rm) s

/-- `cvt_to_f16` (R136 to R138). -/
def execCvtToF16 (d a : Reg) (sel : BitVec 2) (st : SType) (rm : CvtRound) (s : State) : Host.Outcome State Fault Refusal :=
  issueLane (cvtForm .f16 d a sel st rm) s

/-- `cvt_to_bf16` (R136 to R138). -/
def execCvtToBf16 (d a : Reg) (sel : BitVec 2) (st : SType) (rm : CvtRound) (s : State) : Host.Outcome State Fault Refusal :=
  issueLane (cvtForm .bf16 d a sel st rm) s

/-- `cvt_to_e4m3` (R136 to R138). -/
def execCvtToE4m3 (d a : Reg) (sel : BitVec 2) (st : SType) (rm : CvtRound) (s : State) : Host.Outcome State Fault Refusal :=
  issueLane (cvtForm .e4m3 d a sel st rm) s

/-- `cvt_to_e5m2` (R136 to R138). -/
def execCvtToE5m2 (d a : Reg) (sel : BitVec 2) (st : SType) (rm : CvtRound) (s : State) : Host.Outcome State Fault Refusal :=
  issueLane (cvtForm .e5m2 d a sel st rm) s

/-- `cvt_qn4_f32` (R140). -/
def execCvtQn4F32 (d a b : Reg) (rm : CvtRound) (s : State) : Host.Outcome State Fault Refusal :=
  issueLane { op := .alu (.toQn4 rm), dst := .reg d.toNat, a := .reg a.toNat, b := .reg b.toNat, lat := 4, col := .fp } s

/-- `cvt_f32_qn4` (R141). -/
def execCvtF32Qn4 (d a b : Reg) (ub : Bool) (rm : Round) (s : State) : Host.Outcome State Fault Refusal :=
  issueLane (lane2 (.ofQn4 rm) false d a b ub 4 .fp) s

/-- `cvt_to_integer` (R139). -/
def execCvtToInteger (d a : Reg) (dt : DType) (f64 : Bool) (rm : Round) (s : State) : Host.Outcome State Fault Refusal :=
  issueLane (lane1 (.cvtI dt f64 rm) (dt == .s64 || dt == .z64) f64 d a 4 .fp) s

/-- `rcp` (R142, R143). -/
def execRcp (d a : Reg) (s : State) : Host.Outcome State Fault Refusal :=
  issueLane (lane1 (.sfu .rcp) false false d a 12 .sfu) s

/-- `rsq` (R142, R143). -/
def execRsq (d a : Reg) (s : State) : Host.Outcome State Fault Refusal :=
  issueLane (lane1 (.sfu .rsq) false false d a 12 .sfu) s

/-- `sqrt` (R142, R143). -/
def execSqrt (d a : Reg) (s : State) : Host.Outcome State Fault Refusal :=
  issueLane (lane1 (.sfu .sqrt) false false d a 12 .sfu) s

/-- `exp2` (R142, R143). -/
def execExp2 (d a : Reg) (s : State) : Host.Outcome State Fault Refusal :=
  issueLane (lane1 (.sfu .exp2) false false d a 12 .sfu) s

/-- `log2` (R142, R143). -/
def execLog2 (d a : Reg) (s : State) : Host.Outcome State Fault Refusal :=
  issueLane (lane1 (.sfu .log2) false false d a 12 .sfu) s

/-- `sin` (R142, R143). -/
def execSin (d a : Reg) (s : State) : Host.Outcome State Fault Refusal :=
  issueLane (lane1 (.sfu .sin) false false d a 12 .sfu) s

/-- `cos` (R142, R143). -/
def execCos (d a : Reg) (s : State) : Host.Outcome State Fault Refusal :=
  issueLane (lane1 (.sfu .cos) false false d a 12 .sfu) s

/-- `bsel` (R145). -/
def execBsel (d a b : Reg) (ub : Bool) (s : State) : Host.Outcome State Fault Refusal :=
  issueLane (lane3 .bsel false d a b ub 2 .none) s

/-- `dp4` (R146). -/
def execDp4 (d a b : Reg) (ub : Bool) (sg : DotSign) (s : State) : Host.Outcome State Fault Refusal :=
  issueLane (lane3 (.dp4 sg) false d a b ub 2 .none) s

/-- `dp2` (R146). -/
def execDp2 (d a b : Reg) (ub : Bool) (sg : DotSign) (s : State) : Host.Outcome State Fault Refusal :=
  issueLane (lane3 (.dp2 sg) false d a b ub 2 .none) s

/-- `hdp2` (R147). -/
def execHdp2 (d a b : Reg) (ub bf : Bool) (s : State) : Host.Outcome State Fault Refusal :=
  issueLane (lane3 (.hdp2 bf) false d a b ub 4 .fp) s

end Sys2Proof.Machine
end

