-- ==== Sys2Proof/Machine/Paths.lean ====
section
/-! DEFINITION. What divides, ends, parks and unites the paths of a course (R22 to R28, R151 to R158). -/

namespace Sys2Proof.Machine

namespace Course

/-- First cycle at which a slot's turns are usable again. -/
def setWindow (k : Course) (slot cyc : Nat) : Course :=
  if slot = 0 then { k with win0 := max k.win0 cyc } else { k with win1 := max k.win1 cyc }

/-- A slot takes a path from the stack in a transfer that lasts to a cycle (R25). -/
def setFill (k : Course) (slot cyc : Nat) : Course := { k.setWindow slot cyc with filling := slot :: k.filling.filter (· ≠ slot) }

/-- Empty a resident slot. -/
def clearSlot (k : Course) (slot : Nat) : Course :=
  if slot = 0 then { k with slot0 := none } else { k with slot1 := none }

/-- Depth in the stack of the newest path that is not parked (R25). -/
def fillable (k : Course) : Option Nat :=
  ((List.range k.stack.length).reverse).find? fun n => match k.stack[n]? with
    | some p => decide (p.st ≠ .parked)
    | none => false

/-- A resident path ended (its slot is empty), or parked (it is still in the slot): act on the slot (R25). -/
def vacate (k : Course) (slot cyc : Nat) : Course :=
  match k.fillable with
  | none => k
  | some n =>
    match k.stack[n]? with
    | none => k
    | some p =>
      let rest := k.stack.eraseIdx n
      match k.path? slot with
      | some q => ({ k with stack := rest ++ [q] }.setPath slot p).setFill slot (cyc + 49)
      | none => ({ k with stack := rest }.setPath slot p).setFill slot (cyc + 25)

/-- A course left with one path takes it to slot 0 and is converged from its next usable turn (R25). -/
def settle (k : Course) (cyc : Nat) : Course :=
  match k.paths, k.div with
  | [(ix, p)], some _ =>
    if ix = 0 then { k with div := none }
    else if ix = 1 then { k with slot0 := some p, slot1 := none, win0 := max k.win0 k.win1, win1 := 0, div := none,
                                 filling := if k.filling.isEmpty then [] else [0] }
    else ({ k with slot0 := some p, stack := [], div := none } : Course).setFill 0 (cyc + 25)
  | _, _ => k

/-- Index of the innermost live token of a lane mask (R156): tokens stand in order of age. -/
def innermost (k : Course) (mask : LaneMask) : Option Nat :=
  let j := lowestLane mask
  ((List.range k.tokens.length).reverse).find? fun n => match k.tokens[n]? with
    | some t => decide (j < 32) && t.hold.getLsbD j
    | none => false

/-- Every remaining holder of a token is parked at it, and none of those paths is held by a debugger (R378). A path that
may take a step is released for it. -/
def tokenFull (k : Course) (n : Nat) : Bool :=
  match k.tokens[n]? with
  | some t => decide (t.hold ≠ 0) && decide (t.hold &&& ~~~t.parked = 0) &&
      k.paths.all fun x => !(decide (x.2.st = .parked) && decide (k.innermost x.2.mask = some n) && x.2.held && !x.2.stepping)
  | none => false

/-- The union of the member paths of a join (R26): the one of the lowest slot goes on as the united path. DESIGN CHOICE: where
the course is in handler state and a member is a path of the handler while another is held by it (R174), neither R26 nor R174
says whether the united path is held. The union goes on under the name of the member in the lowest slot, so it is held exactly
when that member was (log entry 116). -/
def unite (members : List Path) (u : Path) (pc cyc : Nat) : Path :=
  let others := members.filter fun p => p.id ≠ u.id
  { u with
    mask := members.foldl (fun m p => m ||| p.mask) 0
    pc := pc
    st := .ready
    held := members.any Path.held
    stepping := members.any Path.stepping
    stepTrap := members.any Path.stepTrap
    turns := 0
    fresh := false
    lastIssue := cyc
    merged := u.merged ++ others.flatMap fun p => p.id :: p.merged
    anc := (members.flatMap Path.anc).eraseDups
    marks := (members.flatMap Path.marks).eraseDups
    fetch := .idle
    coming := none
    stopNext := members.any Path.stopNext
    stop := members.findSome? Path.stop
    bpSkip := none }

/-- Complete a token (R26, R157, R158). In handler state the united path is held or not as its lowest member was: DESIGN CHOICE
(R10, R174; log entry 116). -/
def complete (k : Course) (n cyc : Nat) : Course :=
  match k.tokens[n]? with
  | none => k
  | some t =>
    let mem := k.paths.filter fun x => decide (x.2.st = .parked) && decide (k.innermost x.2.mask = some n)
    let k := { k with tokens := k.tokens.eraseIdx n }
    match mem with
    | [] => k
    | (ix, u) :: _ =>
      let ps := mem.map Prod.snd
      let ids := ps.map Path.id
      let stacked := mem.any fun x => decide (2 ≤ x.1)
      let path := unite ps u (t.jaddr + 1) cyc
      let k := { k with stack := k.stack.filter fun p => !ids.contains p.id }
      let drop := fun (k : Course) (slot : Nat) => match k.path? slot with
        | some p => if ids.contains p.id && decide (slot ≠ ix) then (k.clearSlot slot).vacate slot cyc else k
        | none => k
      if 2 ≤ ix then { k with stack := k.stack ++ [path] }
      else
        let k := k.setPath ix path
        let k := if stacked then k.setFill ix (cyc + 25) else k
        drop (drop k 0) 1

/-- Complete every token that is full, the newest first. -/
def completeAll (k : Course) (cyc : Nat) : Course :=
  ((List.range k.tokens.length).reverse).foldl (fun k n => if k.tokenFull n then k.complete n cyc else k) k

/-- A debugger has released paths: a join that waited for no other arrival completes (R378). -/
def released (k : Course) (cyc : Nat) : Course := (k.completeAll cyc).settle cyc

/-- Give the course's paths their targets after a transfer at a cycle (R151): `targets` says where each lane
of the mask goes. -/
def transfer (k : Course) (ix cyc : Nat) (targets : Nat → Nat) : Course :=
  match k.path? ix with
  | none => k
  | some p =>
    let lanes := lanesOf p.mask
    let firsts := lanes.filter fun j => !((lanes.filter fun l => decide (l < j)).any fun l => decide (targets l = targets j))
    let group := fun (j : Nat) => (lanes.filter fun l => decide (targets l = targets j)).foldl (fun m l => m ||| laneBit l) (0 : LaneMask)
    let keep := firsts.foldl (fun b j => if laneCount (group b) < laneCount (group j) then j else b) (firsts.headD 0)
    let p' := { p with mask := group keep, pc := targets keep }
    let k := k.setPath ix p'
    let others := firsts.filter fun j => decide (j ≠ keep)
    if others.isEmpty then k
    else
      let k := match k.div with
        | some _ => k
        | none => { k with div := some cyc, win1 := 0 }
      let place := fun (r : Course × Nat) (j : Nat) =>
        let k := r.1
        let g : Path := {
          id := k.nextPath
          anc := p.id :: (p.merged ++ p.anc)
          mask := group j
          pc := targets j
          lastIssue := cyc
          marks := p.marks }
        let k := { k with nextPath := k.nextPath + 1 }
        if k.slot0.isNone then (k.setPath 0 g, r.2)
        else if k.slot1.isNone then (k.setPath 1 g, r.2)
        else ({ k with stack := k.stack ++ [g] }, r.2 + 1)
      let r := others.foldl place (k, 0)
      if r.2 = 0 then r.1 else r.1.setWindow ix (cyc + 24 * r.2 + 1)

/-- The path in a slot reached a `join` at an index (R157). -/
def joinAt (k : Course) (ix here cyc : Nat) : Course :=
  match k.path? ix with
  | none => k
  | some p =>
    match k.innermost p.mask with
    | none => k
    | some n =>
      match k.tokens[n]? with
      | none => k
      | some t =>
        if t.jaddr = here then
          let k := { k with tokens := k.tokens.set n { t with parked := t.parked ||| (p.mask &&& t.hold) } }
          let k := k.setPath ix { p with st := .parked, pc := here }
          (if k.tokenFull n then k.complete n cyc else k.vacate ix cyc).settle cyc
        else k

/-- A new join token of the path in a slot; none when all 16 are live (R156). -/
def newToken (k : Course) (ix target : Nat) : Option Course :=
  match k.path? ix with
  | none => some k
  | some p =>
    if 16 ≤ k.tokens.length then none
    else some { k with tokens := k.tokens ++ [{ jaddr := target, hold := p.mask, parked := 0 }] }

/-- Lanes of the path in a slot leave the course (R155, R158). -/
def exitLanes (k : Course) (ix cyc : Nat) (lanes : LaneMask) : Course :=
  match k.path? ix with
  | none => k
  | some p =>
    let gone := lanes &&& p.mask
    if gone = 0 then k
    else
      let left := p.mask &&& ~~~gone
      let k := { k with
        live := k.live &&& ~~~gone
        tokens := (k.tokens.map fun (t : Token) => { t with hold := t.hold &&& ~~~gone, parked := t.parked &&& ~~~gone }) }
      let k := k.setPath ix { p with mask := left }
      let k := (k.completeAll cyc)
      let k := { k with tokens := k.tokens.filter fun (t : Token) => decide (t.hold ≠ 0) }
      let k := if left = 0 then
          match k.indexOf p.id with
          | some n => if n < 2 then (k.clearSlot n).vacate n cyc else { k with stack := k.stack.filter fun q => decide (q.id ≠ p.id) }
          | none => k
        else k
      k.settle cyc

/-- The course has no lane left (R155). -/
def gone (k : Course) : Bool := decide (k.live = 0)

end Course

/-! ## The end of a course -/

/-- The next course after `c` that has not exited, in ascending order, wrapping to course 0 (R210). -/
def nextHolder (w : World) (core : Nat) (b : Block) (c : Nat) : Option Nat :=
  let n := b.hdr.courses
  ((List.range n).map fun i => (c + 1 + i) % n).find? fun r => match w.course? core b.bind.owner r with
    | some k => !k.gone
    | none => false

/-- A phase of a phaser completes (R209). -/
def Phaser.finish (x : Phaser) : Phaser :=
  if decide (x.sig ≠ 0) && decide (x.sig &&& ~~~x.arr = 0) && decide (x.bal = 0) then { x with phase := x.phase + 1, arr := 0 } else x

/-- What ends with a course at its exit cycle: the key moves on (R210), its SIG flags clear (R209), its
monitor entries go (R207), and a debug course's claims end (R377). -/
def courseEnd (w : World) (c o r : Nat) : World :=
  let w := match w.block? c o with
    | none => w
    | some b =>
      let key := if b.key = r then (nextHolder w c b r).getD b.key else b.key
      let bit := ~~~(laneBit r)
      let w := w.setBlock c o { b with
        key := key
        pends := b.pends.filter fun (p : Pend) => decide (p.cr ≠ r)
        phasers := b.phasers.map fun (x : Nat × Phaser) => (x.1, ({ x.2 with sig := x.2.sig &&& bit, arr := x.2.arr &&& bit } : Phaser).finish) }
      w
  let w := { w with mach := { w.mach with dies := w.mach.dies.map fun (x : Nat × Die) =>
      (x.1, { x.2 with mons := x.2.mons.filter fun (m : Monitor) => !(decide (m.core = c) && decide (m.owner = o) && decide (m.cr = r)) }) } }
  { w with mach := { w.mach with cores := w.mach.cores.map fun (x : Nat × Core) =>
      (x.1, { x.2 with claims := x.2.claims.filter fun (y : Nat × Nat × Nat × Nat) => decide (y.2 ≠ (c, o, r)) }) } }

/-- When every course that has not exited is in handler state, the exited ones give up their slots, registers
and pool words, and the block keeps their `%bro` (R340). -/
def releaseExited (w : World) (c o : Nat) : World :=
  match w.block? c o with
  | none => w
  | some b =>
    let ks := (List.range 32).filterMap fun r => w.course? c o r
    let live := ks.filter fun k => !k.gone
    let dead := ks.filter Course.gone
    if live.isEmpty || dead.isEmpty || live.any fun k => k.handler.isNone then w
    else
      let strs := live.map Course.str
      let b' := { b with
        bros := dead.foldl (fun t k => t.put k.cr k.bro) b.bros
        pools := b.pools.filter fun (x : Nat × Nat) => strs.contains x.1 }
      let w := w.setBlock c o b'
      w.modCore c fun k => { k with
        courses := k.courses.filter fun (x : Nat × Course) => !(decide (x.2.owner = o) && x.2.gone)
        slots := k.slots.filter fun (x : Nat × BindRec) => !(decide (x.2.owner = o) && dead.any fun d => decide (d.cr = x.2.cr)) }

end Sys2Proof.Machine
end

