-- ==== Sys2Proof/Machine/Control.lean ====
section
/-! DEFINITION. Class 011 (R148 to R178): transfers, exit, join tokens, window and partition, special-register
moves, cross-lane and chained instructions, user traps. -/

namespace Sys2Proof.Machine

/-! ## Transfers (R150 to R154) -/

/-- Target index of an offset from the issuing slot (R102); none below 0. -/
def offsetTarget (t : Site) (off : Int) : Option Nat :=
  let n : Int := (t.i.pc : Int) + off
  if n < 0 then none else some n.toNat

/-- A J-format or `loop` target below 0 fails in decode, whatever the lanes (R102, R115). DESIGN CHOICE: R325 gives INFO of
an ALIGN record as the address, and an index below 0 has none; INFO is 0 (log entry 98). DESIGN CHOICE: R95 states its checks of a
register-supplied target; an index so high that its PC has bits in [63:46] fails none of them here, also as a `bra`, `call` or fall-through
target (R151), and the path faults when it fetches there (log entry 122). -/
def badOffset (off : Int) (t : Site) : Option W64 :=
  match offsetTarget t off with
  | some _ => none
  | none => some 0

/-- Change the issuing course. -/
def onCourse (t : Site) (w : World) (f : Course → Course) : World := w.modCourse t.i.core t.i.owner t.i.cr f

/-- Lanes that are in the path of a chained sweep (R171). DESIGN CHOICE: a path that has been united into another by a join has not left its
sweeps; its lanes count as in them under its old name (log entry 17). -/
def pathLanes (k : Course) (f : Flight) : LaneMask :=
  k.paths.foldl (fun m x => if x.2.id = f.path || x.2.merged.contains f.path then m ||| x.2.mask else m) 0

/-- Lanes that left the path of a chained sweep after I are inactive for the sweep's later steps, whether or not they come
back to the path (R155, R171). -/
def leaveSweeps (t : Site) (w : World) : World :=
  match w.course? t.i.core t.i.owner t.i.cr with
  | none => w
  | some k =>
    let mine := fun (f : Flight) => decide (f.stride = 4) && decide (f.owner = t.i.owner) && decide (f.cr = t.i.cr)
    if (w.core t.i.core).flights.any mine then
      w.modCore t.i.core fun x => { x with flights := x.flights.map fun (f : Flight) => if mine f then { f with mask := f.mask &&& pathLanes k f } else f }
    else w

/-- The enabled lanes go to their targets, the others fall through (R151). -/
def transferLanes (t : Site) (target : Nat → Nat) (w : World) : World :=
  let e := t.enabled
  leaveSweeps t (onCourse t w fun k => k.transfer t.i.slot t.i.cyc fun j => if e.getLsbD j then target j else t.i.pc + 1)

/-- `bra` (R151). -/
def execBra (off : BitVec 24) (s : State) : Host.Outcome State Fault Refusal :=
  issue false 0 (badOffset off.toInt) (fun t w => transferLanes t (fun _ => (offsetTarget t off.toInt).getD 0) w) s

/-- PC that a lane, or the uniform pair, supplies. -/
def regTarget (t : Site) (a : Reg) (uni : Bool) (j : Nat) : W64 :=
  t.k.src j (if uni then .uniPair a.toNat else .pair (t.k.wb + a.toNat))

/-- A source names a poisoned word of the lane (R332). -/
def srcPoisoned (k : Course) (lane : Nat) : Src → Bool
  | .reg w => Tab.get false k.poison (w / 2 * 32 + lane)
  | .pair w => Tab.get false k.poison (w / 2 * 32 + lane) || Tab.get false k.poison ((w + 1) / 2 * 32 + lane)
  | _ => false

/-- The first supplied PC that fails R95: then no lane transfers (R151). DESIGN CHOICE: where several lanes supply one, the
one record's INFO is the PC of the lowest of them; the specification does not say which (log entry 98). -/
def badRegTarget (a : Reg) (uni : Bool) (t : Site) : Option W64 :=
  ((lanesOf t.enabled).map (regTarget t a uni)).find? fun v => !pcGood v

/-- The transfer of `brx` and `ret` (R151, R152). A poisoned pair is read at I (R332): no lane transfers. -/
def regTransfer (a : Reg) (uni : Bool) (t : Site) (w : World) : World :=
  if !uni && (lanesOf t.enabled).any fun j => srcPoisoned t.k j (.pair (t.k.wb + a.toNat)) then siteFault t 0x09 0 1 0 0 [] w
  else transferLanes t (fun j => pcIndex (regTarget t a uni j)) w

/-- `brx` (R151). -/
def execBrx (a : Reg) (uni : Bool) (s : State) : Host.Outcome State Fault Refusal :=
  issue false (if uni then 0 else a.toNat + 2) (badRegTarget a uni) (regTransfer a uni) s

/-- `call` (R151, R153): the link pair is k124:k125. -/
def execCall (off : BitVec 24) (s : State) : Host.Outcome State Fault Refusal :=
  issue false 0 (badOffset off.toInt) (fun t w =>
    let w := transferLanes t (fun _ => (offsetTarget t off.toInt).getD 0) w
    if t.enabled = 0 then w else onceResult t 2 (dstWrites (.uniPair 124) 0 (pcWord (t.i.pc + 1))) w) s

/-- `ret` (R152). -/
def execRet (a : Reg) (uni : Bool) (s : State) : Host.Outcome State Fault Refusal :=
  issue false (if uni then 0 else a.toNat + 2) (badRegTarget a uni) (regTransfer a uni) s

/-- `loop` (R154). -/
def execLoop (d : Reg) (off : BitVec 17) (s : State) : Host.Outcome State Fault Refusal :=
  issue false 0 (badOffset off.toInt) (fun t w =>
    if t.once then
      let c := t.k.uni d.toNat - 1
      let w := onceResult t 2 [.uni d.toNat c] w
      if c = 0 then w
      else modPath w t.i.core t.i.owner t.i.cr t.i.slot fun p => { p with pc := (offsetTarget t off.toInt).getD 0 }
    else w) s

/-! ## Exit and join tokens (R155 to R158) -/

/-- `exit` (R155). -/
def execExit (s : State) : Host.Outcome State Fault Refusal :=
  issuePlain (fun t w =>
    let w := leaveSweeps t (onCourse t w fun k => k.exitLanes t.i.slot t.i.cyc t.enabled)
    let fin := ((w.course? t.i.core t.i.owner t.i.cr).map Course.gone).getD false
    if fin then releaseExited (courseEnd w t.i.core t.i.owner t.i.cr) t.i.core t.i.owner else w) s

/-- `jtok` (R156). -/
def execJtok (off : BitVec 24) (s : State) : Host.Outcome State Fault Refusal :=
  issue false 0 (badOffset off.toInt) (fun t w =>
    match w.course? t.i.core t.i.owner t.i.cr with
    | none => w
    | some k =>
      match k.newToken t.i.slot ((offsetTarget t off.toInt).getD 0) with
      | some k => w.setCourse t.i.core t.i.owner t.i.cr k
      | none => siteFault t 0x0B 0 1 0 0 [] w) s

/-- `join` (R157). -/
def execJoin (s : State) : Host.Outcome State Fault Refusal :=
  issuePlain (fun t w => leaveSweeps t (onCourse t w fun k => k.joinAt t.i.slot t.i.pc t.i.cyc)) s

/-! ## Window and partition (R159, R160) -/

/-- `wbase` (R159). -/
def execWbase (n : BitVec 10) (s : State) : Host.Outcome State Fault Refusal :=
  issuePlain (fun t w =>
    if t.once then
      if 32 * n.toNat < t.k.allotAt t.i.cyc then onCourse t w fun k => { k with wb := 32 * n.toNat }
      else siteFault t 0x0C 0 1 0 0 [] w
    else w) s

/-- `part` (R160); under COMPAT16 the width stays 16. -/
def execPart (e : BitVec 10) (s : State) : Host.Outcome State Fault Refusal :=
  issuePlain (fun t w => if t.once && !t.b.hdr.compat then onCourse t w fun k => { k with part := 2 ^ e.toNat } else w) s

/-! ## Special registers (R161, R162) -/

/-- Level that a core's quadrant provides now, without a raise of its own (R92). -/
def quadOfCore (w : World) (c : Nat) : Quadrant := ((w.die (dieOf c)).quads.find (quadOf c)).getD {}

/-- The value of a special register as a lane reads it now (R106, R161, R178). -/
def readSr (w : World) (c : Nat) (b : Block) (k : Course) (n lane : Nat) (dii : W64) : W64 :=
  let w32 := fun (v : Nat) => BitVec.ofNat 64 (v % 2 ^ 32)
  match n with
  | 0x00 => w32 (if b.hdr.compat then lane % 16 else lane)
  | 0x01 => w32 (if b.hdr.compat then 2 * k.cr + lane / 16 else k.cr)
  | 0x02 => b.bind.bk.zeroExtend 64
  | 0x03 => ((sashOf w c).map fun s => s.num.zeroExtend 64).getD 0
  | 0x04 => BitVec.ofNat 64 (vccOf w c)
  | 0x05 => BitVec.ofNat 64 (gccOf w c)
  | 0x06 => w32 k.part
  | 0x07 => w32 k.wb
  | 0x08 => blockTags (w.core c) b
  | 0x09 => dii
  | 0x0A => k.seed
  | 0x0B => briOf w c b k.cr
  | 0x0C => k.bro
  | 0x0D => b.bseed
  | 0x0E => w32 (b.hdr.fid * 16 + (quadOfCore w c).level)
  | 0x0F => b.mxe1.zeroExtend 64
  | 0x10 => b.mxe0.zeroExtend 64
  | 0x11 => k.fpst.zeroExtend 64
  | 0x12 => k.tpc
  | _ => k.tcause.zeroExtend 64

/-- `mfs` (R161). A read of `%gcc` is an untimed input (R37, R386). -/
def execMfs (d sr : Reg) (uni : Bool) (s : State) : Host.Outcome State Fault Refusal :=
  if uni then
    issuePlain (fun t w =>
      if t.once then
        let j := lowestLane t.p.mask
        let v := readSr w t.i.core t.b t.k sr.toNat j t.k.dii
        let z := if sr = 5 then untimed w t.i.core t.i.owner t.i.cr j (pcWord t.i.pc).toNat 0 v.toNat else (w, v.toNat)
        let w := z.1
        let v := BitVec.ofNat 64 z.2
        onceResult t 2 (dstWrites (uniDst (srWide sr.toNat) d) 0 v) w
      else w) s
  else issueLane { op := .mfs sr.toNat, dst := laneDst (srWide sr.toNat) d, lat := 2 } s

/-- `mts` (R162). From a uniform register it acts at I; from a lane register when its lowest enabled lane
executes. A `%tpc` value that fails R95 writes nothing. -/
def execMts (sr a : Reg) (uni : Bool) (s : State) : Host.Outcome State Fault Refusal :=
  if uni then
    issue false 0 (fun t =>
        let v := t.k.src 0 (uniSrc (srWide sr.toNat) a)
        if t.once && sr == 0x12 && !pcGood v then some v else none)
      (fun t w => if t.once then onceResult t 2 [.sr sr.toNat (t.k.src 0 (uniSrc (srWide sr.toNat) a))] w else w) s
  else issueLane { op := .mts sr.toNat, a := laneSrc (srWide sr.toNat) a, lat := 2 } s

/-! ## Cross-lane (R163 to R167) -/

/-- A cross-lane instruction: lanes are collected from I to I + 31, results are ready at I + j + 36. -/
def xForm (op : XOp) (dst : Dst) (a b : Src) : Form := { op := .xlane op, dst := dst, a := a, b := b, lat := 36 }

/-- `lpick.at` (R164). -/
def execLpickAt (d a b : Reg) (ub : Bool) (s : State) : Host.Outcome State Fault Refusal :=
  issueLane (xForm .pickAt (.reg d.toNat) (.reg a.toNat) (bSrc ub false b)) s

/-- `lpick.back` (R164). -/
def execLpickBack (d a b : Reg) (ub : Bool) (s : State) : Host.Outcome State Fault Refusal :=
  issueLane (xForm .pickBack (.reg d.toNat) (.reg a.toNat) (bSrc ub false b)) s

/-- `lpick.fwd` (R164). -/
def execLpickFwd (d a b : Reg) (ub : Bool) (s : State) : Host.Outcome State Fault Refusal :=
  issueLane (xForm .pickFwd (.reg d.toNat) (.reg a.toNat) (bSrc ub false b)) s

/-- `lpick.xor` (R164). -/
def execLpickXor (d a b : Reg) (ub : Bool) (s : State) : Host.Outcome State Fault Refusal :=
  issueLane (xForm .pickXor (.reg d.toNat) (.reg a.toNat) (bSrc ub false b)) s

/-- `lpoll.any` (R165). -/
def execLpollAny (p q : BitVec 3) (s : State) : Host.Outcome State Fault Refusal :=
  issueLane (xForm (.pollAny q) (.pred p) .none .none) s

/-- `lpoll.all` (R165). -/
def execLpollAll (p q : BitVec 3) (s : State) : Host.Outcome State Fault Refusal :=
  issueLane (xForm (.pollAll q) (.pred p) .none .none) s

/-- `lpoll.map` (R165). -/
def execLpollMap (d : Reg) (q : BitVec 3) (s : State) : Host.Outcome State Fault Refusal :=
  issueLane (xForm (.pollMap q) (.reg d.toNat) .none .none) s

/-- `red.add` (R166): both forms give the same bits. -/
def execRedAdd (d a : Reg) (_uns : Bool) (s : State) : Host.Outcome State Fault Refusal :=
  issueLane (xForm .redAdd (.reg d.toNat) (.reg a.toNat) .none) s

/-- `red.min` (R166). -/
def execRedMin (d a : Reg) (uns : Bool) (s : State) : Host.Outcome State Fault Refusal :=
  issueLane (xForm (.redMin uns) (.reg d.toNat) (.reg a.toNat) .none) s

/-- `red.max` (R166). -/
def execRedMax (d a : Reg) (uns : Bool) (s : State) : Host.Outcome State Fault Refusal :=
  issueLane (xForm (.redMax uns) (.reg d.toNat) (.reg a.toNat) .none) s

/-- `first` and `first.idx` (R167). -/
def execFirst (d a : Reg) (idx : Bool) (s : State) : Host.Outcome State Fault Refusal :=
  issueLane (xForm (.first idx) (.reg d.toNat) (.reg a.toNat) .none) s

/-! ## Chained (R168 to R171) -/

/-- The form of a chained instruction without a B operand. -/
def chainForm (op : ChainOp) (wide : Bool) (d a : Reg) (seg br : Bool) : Form :=
  { op := .chain op seg br, dst := laneDst wide d, a := laneSrc wide a, lat := 4, col := .chain }

/-- `cadd.s32` (R169). -/
def execCaddS32 (d a : Reg) (seg br : Bool) (s : State) : Host.Outcome State Fault Refusal :=
  issueChain .addS32 br (chainForm .addS32 false d a seg br) s

/-- `cadd.s64` (R169). -/
def execCaddS64 (d a : Reg) (seg br : Bool) (s : State) : Host.Outcome State Fault Refusal :=
  issueChain .addS64 br (chainForm .addS64 true d a seg br) s

/-- `cadd.f32` (R169). -/
def execCaddF32 (d a : Reg) (seg br : Bool) (s : State) : Host.Outcome State Fault Refusal :=
  issueChain .addF32 br (chainForm .addF32 false d a seg br) s

/-- `cadd.f64` (R169). -/
def execCaddF64 (d a : Reg) (seg br : Bool) (s : State) : Host.Outcome State Fault Refusal :=
  issueChain .addF64 br (chainForm .addF64 true d a seg br) s

/-- `cmin.s32` (R169). -/
def execCminS32 (d a : Reg) (seg br : Bool) (s : State) : Host.Outcome State Fault Refusal :=
  issueChain .minS32 br (chainForm .minS32 false d a seg br) s

/-- `cmin.f32` (R169). -/
def execCminF32 (d a : Reg) (seg br : Bool) (s : State) : Host.Outcome State Fault Refusal :=
  issueChain .minF32 br (chainForm .minF32 false d a seg br) s

/-- `cmax.s32` (R169). -/
def execCmaxS32 (d a : Reg) (seg br : Bool) (s : State) : Host.Outcome State Fault Refusal :=
  issueChain .maxS32 br (chainForm .maxS32 false d a seg br) s

/-- `cmax.f32` (R169). -/
def execCmaxF32 (d a : Reg) (seg br : Bool) (s : State) : Host.Outcome State Fault Refusal :=
  issueChain .maxF32 br (chainForm .maxF32 false d a seg br) s

/-- `cmul.f32` (R169). -/
def execCmulF32 (d a : Reg) (seg br : Bool) (s : State) : Host.Outcome State Fault Refusal :=
  issueChain .mulF32 br (chainForm .mulF32 false d a seg br) s

/-- `cfma.f32` (R169). -/
def execCfmaF32 (d a b : Reg) (ub seg br : Bool) (s : State) : Host.Outcome State Fault Refusal :=
  issueChain .fmaF32 br { chainForm .fmaF32 false d a seg br with b := bSrc ub false b } s

/-- `cfma.f64` (R169). -/
def execCfmaF64 (d a b : Reg) (ub seg br : Bool) (s : State) : Host.Outcome State Fault Refusal :=
  issueChain .fmaF64 br { chainForm .fmaF64 true d a seg br with b := bSrc ub true b } s

/-- `cxor.b32` (R169). -/
def execCxorB32 (d a : Reg) (seg br : Bool) (s : State) : Host.Outcome State Fault Refusal :=
  issueChain .xorB32 br (chainForm .xorB32 false d a seg br) s

/-- `cpass.b64` (R169, R170): a pair from a single source. -/
def execCpassB64 (d a : Reg) (seg br : Bool) (s : State) : Host.Outcome State Fault Refusal :=
  issueChain .passB64 br { chainForm .passB64 true d a seg br with a := .reg a.toNat } s

/-! ## User traps (R172 to R177) -/

/-- Take a trap at I, or record it where there is no handler or the course is in one (R110, R173, R174). -/
def takeTrap (kind code : Nat) (t : Site) (w : World) : World :=
  if t.k.handler.isSome || !t.b.hdr.traph then
    w.modCore t.i.core fun k => k.recordTrap kind code t.i.slot (pcWord t.i.pc)
  else releaseExited (onCourse t w fun k => k.enterTrap t.b t.i.slot kind code (t.i.pc + 1)) t.i.core t.i.owner

/-- `trap` (R173). -/
def execTrap (c : BitVec 10) (s : State) : Host.Outcome State Fault Refusal :=
  issuePlain (fun t w => if t.once then takeTrap 1 c.toNat t w else w) s

/-- `brk` (R173); where a debugger has the block's claim the path stops instead (R377, R380). -/
def execBrk (c : BitVec 10) (s : State) : Host.Outcome State Fault Refusal :=
  issuePlain (fun t w =>
    if t.once then
      match (w.core t.i.core).claims.find t.i.owner with
      | none => takeTrap 2 c.toNat t w
      | some _ =>
        let stop := fun (f : Path → Path) => modPath w t.i.core t.i.owner t.i.cr t.i.slot f
        if t.timed then stop fun p => { p with stop := some (t.i.cyc + 1, 2, c.toNat) }
        else debugRecord (stop fun p => { p with held := true, bpSkip := some p.pc }) t.i.core t.i.owner t.i.cr t.i.slot
          { kind := 2, held := some true, mask := t.p.mask, pc := (pcWord (t.i.pc + 1)).toNat, code := c.toNat }
    else w) s

/-- `tret` (R175). -/
def execTret (s : State) : Host.Outcome State Fault Refusal :=
  issue false 0 (fun t => if t.once && t.k.handler.isSome && !pcGood t.k.tpc then some t.k.tpc else none)
    (fun t w => if t.once && t.k.handler.isSome then onCourse t w fun k => k.leaveTrap t.i.slot else w) s

/-- `nop` (R111): it issues and takes its turn. -/
def execNop (s : State) : Host.Outcome State Fault Refusal := issuePlain (fun _ w => w) s

end Sys2Proof.Machine
end

