-- ==== Sys2Proof/Machine/Access.lean ====
section
/-! DEFINITION. Lane memory accesses: how a lane forms one (R184, R190), the order that marks put on memory
cycles (R182, R204, R244), and how an access is applied at its home (R179, R202, R239 to R258). -/

namespace Sys2Proof.Machine

/-! ## The context area (R334) -/

/-- Round up to a multiple. -/
def padTo (n m : Nat) : Nat := (n + m - 1) / m * m

/-- Offsets of the sections of a context area from CTX. -/
structure CtxMap where
  course : Nat
  flight : Nat
  regs   : Nat
  stage  : Nat
  ts     : Nat
  acc    : Nat
  trn    : Nat
  lane   : Nat
  deriving DecidableEq, Repr

/-- The sections of a block's context area, each at the next 4 KiB boundary (R334). -/
def ctxMap (h : Hdr) : CtxMap :=
  let n := h.courses
  let flight := 8192 + 4096 * n
  let regs := flight + 3 * 2 ^ 20 + 128 * 1024 * n
  let stage := regs + 65536 * n
  let tile := stage + 65536
  let accu := tile + padTo h.tsb 4096
  let tran := accu + padTo (h.acc * 1024) 4096
  { course := 8192, flight := flight, regs := regs, stage := stage, ts := tile, acc := accu, trn := tran,
    lane := tran + padTo (h.trn * 1024) 4096 }

/-- Die offset of byte `x` of a lane's lane space (R185). -/
def laneOffset (b : Block) (cr lane x : Nat) : Nat :=
  b.bind.ctx + (ctxMap b.hdr).lane + 512 * 1024 * cr + 16384 * lane + x

/-- Write bytes of a die's space by the management core, page by page. -/
def spaceWrite (d : Nat) : Nat → Nat → List Byte → World → World
  | 0, _, _, w => w
  | n + 1, off, bs, w =>
    if bs.isEmpty then w
    else
      let m := 2 ^ 14 - off % 2 ^ 14
      spaceWrite d n (off + m) (bs.drop m) (dieWrite w d off (bs.take m))

/-- The hardware's own traffic to a context area is checked as every access is, but for PV (R313): whether the tables refuse
it somewhere in a stretch. An absent page refuses nothing: the traffic waits for the page service (log entry 104). -/
def ctxRefused (w : World) (d off n : Nat) (write : Bool) : Bool :=
  (List.range ((off + n + 2 ^ 14 - 1) / 2 ^ 14 - off / 2 ^ 14)).any fun i =>
    match walkOut w d ((off / 2 ^ 14 + i) * 2 ^ 14) with
    | .leaf l => l.refuses (if write then .write else .read) true true
    | .bad _ => true
    | .absent _ _ => false

/-- Such traffic that is refused raises XLATE; no instruction stands in the record (log entry 104). -/
def ctxFault (w : World) (c : Nat) (b : Block) (off : Nat) (code : Nat := 0x03) : World :=
  takeFault w c (({ code := code, src := 7, owner := b.bind.owner, vcc := 0, info := BitVec.ofNat 64 off } : FaultRec).ofBlock b)

/-- The hardware's own access to one page of a context area (R313, R317): refused, it raises a fault and has no effect; on an
absent page it waits for the page service, and the sash stands for it from the cycle `at_`; else it takes place. -/
def ctxPage (c : Nat) (b : Block) (write : Bool) (at_ : Option Nat) (off : Nat) (bs : List Byte) (w : World) : World :=
  let d := dieOf c
  let u := if write then AccessUse.write else .read
  match walkOut w d off with
  | .leaf l => if l.refuses u true true then ctxFault w c b off else if write then dieWrite w d off bs else w
  | .bad code => ctxFault w c b off code
  | .absent _ _ =>
    let x := startXlate w c d off u false
    let id := (x.1.core c).nextId
    let a : CtxAcc := { id := id, owner := b.bind.owner, off := off, write := write, bytes := bs, page := x.2, at_ := at_ }
    let w := x.1.modCore c fun k => { k with ctxs := k.ctxs ++ [a], nextId := id + 1 }
    match at_ with
    | some p => addCause w c p (.ctx c id)
    | none => w

/-- Such an access to a stretch, page by page. -/
def ctxAccess (c : Nat) (b : Block) (write : Bool) (at_ : Option Nat) : Nat → Nat → List Byte → World → World
  | 0, _, _, w => w
  | n + 1, off, bs, w =>
    if bs.isEmpty then w
    else
      let m := 2 ^ 14 - off % 2 ^ 14
      ctxAccess c b write at_ n (off + m) (bs.drop m) (ctxPage c b write at_ off (bs.take m) w)

/-- The access of a path transfer or of staging to its section of the area: it is named for the horizon after the present cycle
(log entry 104). -/
def ctxTraffic (c : Nat) (b : Block) (write : Bool) (at_ : Nat) (bs : List Byte) (w : World) : World :=
  ctxAccess c b write (some (vccOf w c + Config.horizon)) (bs.length / 2 ^ 14 + 2) (b.bind.ctx + at_) bs w

/-- Write bytes at an offset of a context area. -/
def ctxWrite (b : Block) (d at_ : Nat) (bs : List Byte) (w : World) : World :=
  spaceWrite d (bs.length / 2 ^ 14 + 2) (b.bind.ctx + at_) bs w

/-- A path record (R28). -/
def pathWords (k : Course) (p : Path) : List Nat :=
  let t := (k.innermost p.mask).bind fun n => k.tokens[n]?
  let st := match p.st with | .ready => 0 | .parked => 1 | .waiting _ => 2
  [p.mask.toNat] ++ lohi (pcWord p.pc).toNat ++ [st, (((t.map Token.hold).getD 0) &&& p.mask).toNat, 0] ++ lohi (((t.map fun x => (pcWord x.jaddr).toNat)).getD 0)

/-- The records of the stacked paths, the oldest first (R27, R28). -/
def stackBytes (k : Course) : List Byte := wordBytes (k.stack.flatMap (pathWords k))

/-- The stack area of a course, in the course section of its block's context area (R27, R336): its records are written as they
stand, and a transfer that fills the slot reads one (R25, R313). -/
def stackTransfer (c o r slot : Nat) (w : World) : World :=
  match w.block? c o, w.course? c o r with
  | some b, some k =>
    let at_ := (ctxMap b.hdr).course + 4096 * r + 0x800
    let w := ctxTraffic c b true at_ (stackBytes k) w
    if k.filling.contains slot then ctxTraffic c b false (at_ + 32 * k.stack.length) (List.replicate 32 0) w else w
  | _, _ => w

/-! ## Flight records (R330) -/

/-- The command addresses fabric space. -/
def CmdOp.fabric : CmdOp → Bool
  | .fab _ => true
  | .gth f => f
  | _ => false

/-- A flight record: the form that the operand log and the flight area share. -/
structure FlightRec where
  word : Nat
  kind : Nat
  lane : Nat := 0
  space : Nat := 0
  size : Nat := 0
  dkind : Nat := 0
  dest : Nat := 0
  pred : Nat := 0
  neg : Bool := false
  due : Int
  mask : Nat
  addr : Nat := 0
  data : Nat := 0
  pc : Nat := 0
  aux : Nat := 0
  deriving DecidableEq, Repr

/-- The twelve words of a record. -/
def FlightRec.words (r : FlightRec) : List Nat :=
  [r.word, r.kind * 2 ^ 28 + r.lane % 32 * 2 ^ 23 + r.space * 2 ^ 20 + r.size % 4 * 2 ^ 18 + r.dkind * 2 ^ 16 + r.dest % 512 * 2 ^ 7
      + r.pred % 8 * 2 ^ 4 + (if r.neg then 8 else 0), (BitVec.ofInt 32 r.due).toNat, r.mask] ++ lohi r.addr ++ lohi r.data ++ lohi r.pc ++ lohi r.aux

/-- DKIND and DEST of a destination. -/
def dstCode : Dst → Nat × Nat
  | .none => (0, 0)
  | .reg w => (0, w)
  | .pair w => (0, w)
  | .quad w => (0, w)
  | .pred p => (1, p.toNat)
  | .uni k => (2, k)
  | .uniPair k => (2, k)

/-- SPACE of R330. -/
def spaceCode : Space → Nat
  | .lane => 0
  | .die => 1
  | .fab => 2
  | .ts => 3
  | .acc => 4
  | _ => 1

/-- SIZE of R183 for a number of bytes: b32, b64, b16, b8. -/
def sizeCode (n : Nat) : Nat := if n = 8 then 1 else if n = 2 then 2 else if n = 1 then 3 else 0

/-- The record of a lane memory access, with its named cycle as DUE says it. -/
def Access.record (a : Access) (due : Int) : FlightRec :=
  let d := dstCode a.dst
  { word := a.word.toNat, kind := match a.kind with | .load => 1 | .store => 2 | _ => 3, lane := a.lane, space := spaceCode a.space,
    size := sizeCode a.size, dkind := d.1, dest := d.2, due := due, mask := (laneBit a.lane).toNat,
    addr := (BitVec.ofInt 64 a.addr).toNat, data := a.data.toNat, pc := (pcWord a.pc).toNat, aux := a.data2.toNat }

/-- The record of a beat of a command in die or fabric space. SIZE and MASK say nothing of a beat and are written 0, and
DATA holds the first 8 of its bytes (log entry 103). -/
def Beat.record (x : Beat) (c : Cmd) (addr : Nat) (due : Int) : FlightRec :=
  { word := 0, kind := if x.data.isNone then 4 else 5, space := if c.op.fabric then 2 else 1, due := due, mask := 0, addr := addr,
    data := leNat ((x.data.getD []).take 8), pc := (pcWord c.pc).toNat, aux := c.tag % 64 * 2 ^ 32 + x.no }

/-- A record enters the operand log, at its lowest free place, once. -/
def Core.logHeld (k : Core) (beat : Bool) (id : Nat) (r : FlightRec) : Core :=
  if k.log.any fun y => decide (y.beat = beat) && decide (y.id = id) then k
  else
    let slot := ((List.range (k.log.length + 1)).find? fun n => !(k.log.any fun y => decide (y.slot = n))).getD 0
    { k with log := k.log ++ [{ beat := beat, id := id, slot := slot, words := r.words }] }

/-- The held access or beat is recorded in the log's area of die memory too, 48 bytes a record (R331). -/
def logRecord (w : World) (c : Nat) (beat : Bool) (id : Nat) (r : FlightRec) : World :=
  let w := w.modCore c fun k => k.logHeld beat id r
  match (w.core c).log.find? fun y => decide (y.beat = beat) && decide (y.id = id) with
  | some y => w.write .dram (dramKey (dieOf c) (logAt c + 48 * y.slot)) (wordBytes y.words)
  | none => w

/-- A record leaves the operand log when its access has been performed (R331). -/
def Core.logFree (k : Core) (beat : Bool) (id : Nat) : Core :=
  if k.log.isEmpty then k else { k with log := k.log.filter fun (y : LogRec) => !(decide (y.beat = beat) && decide (y.id = id)) }

/-- An access that cannot be performed at its named cycle is recorded: of lane, die or fabric space; a monitor entry is no
access of R330. -/
def holdAccess (w : World) (c : Nat) (a : Access) : World :=
  let lasts := match a.kind with | .load => true | .store => true | .rmw _ _ => true | _ => false
  if lasts && (decide (a.space = .lane) || decide (a.space = .die) || decide (a.space = .fab)) then
    logRecord w c false a.id (a.record (match a.kind with | .load => a.due | _ => a.cyc))
  else w

/-! ## Marks -/

/-- An instruction whose lanes access memory. -/
def isMemOp : LaneOp → Bool
  | .load _ _ _ => true
  | .store _ _ _ => true
  | .mcast _ _ => true
  | .tile _ _ _ _ => true
  | .host _ _ _ => true
  | .rmw _ _ _ => true
  | .tatom _ _ => true
  | _ => false

/-- Die offset of an access on its home die. -/
def Access.off (a : Access) (b : Block) : Nat :=
  match a.space with
  | .lane => laneOffset b a.cr a.lane a.addr.toNat
  | .die => a.addr.toNat
  | _ => a.addr.toNat % 2 ^ 46

/-- Named cycle of an access: a load's due cycle, and the memory cycle of every other one (R40). -/
def Access.point (a : Access) : Nat := match a.kind with | .load => a.due | _ => a.cyc

/-- A lane's access to die or fabric space. -/
def Access.beyond (a : Access) : Bool := decide (a.space = .die) || decide (a.space = .fab)

/-- A write or an atomic. -/
def Access.changes (a : Access) : Bool := match a.kind with | .store => true | .rmw _ _ => true | _ => false

/-- An access that a recording core makes in its chunk, or that ends it (R387). -/
def Access.chunked (a : Access) : Bool := a.beyond && (a.changes || decide (a.kind = .load))

/-- Scopes that reach beyond the core (R245). -/
def scopeWide : Scope → Bool
  | .crs => false
  | .blk => false
  | _ => true

/-- At `.die` and wider an access is performed some cycles after its memory cycle (R247). -/
def Access.later (a : Access) : Bool :=
  match a.kind with
  | .store => decide (a.space ≠ .ts) && decide (a.space ≠ .acc)
  | .rmw _ _ => true
  | _ => false

/-- An access is performed at a scope by a cycle (R247). A load is performed at its memory cycle, even where it is late. -/
def Access.performed (a : Access) (sc : Scope) (vcc : Nat) : Bool :=
  match a.done with
  | some d => if scopeWide sc && a.later then decide (d + a.extra ≤ vcc) else true
  | none =>
    if a.space = .host then false
    else match a.kind with
      | .tread _ _ => a.logged && decide (a.cyc ≤ vcc)
      | _ => !(scopeWide sc && a.later) && decide (a.cyc ≤ vcc)

/-- Writes that a block staged before issue number `seq` are performed beyond the block only when they are released (R258). -/
def stagedOpen (w : World) (c owner seq : Nat) (sc : Scope) : Bool :=
  scopeWide sc && ((w.block? c owner).map fun b => b.staged.any fun s => decide (s.seq < seq)).getD false

/-- A mark is met at a cycle. -/
def markMet (w : World) (c vcc : Nat) (m : Mark) : Bool :=
  let k := w.core c
  match m with
  | .applied seq =>
    !(k.flights.any fun f => decide (f.seq = seq) && decide (f.next < 32)) &&
    k.accs.all fun a => decide (a.seq ≠ seq) || a.done.isSome || decide (a.cyc ≤ vcc)
  | .performed seq sc ids =>
    !(k.flights.any fun f => decide (f.seq < seq) && ids.contains f.path && isMemOp f.form.op && decide (f.next < 32)) &&
    k.accs.all fun a => !(decide (a.seq < seq) && ids.contains a.path) || a.performed sc vcc

/-- A mark whose scope covers staged writes that still wait (R258). -/
def markStaged (w : World) (c owner : Nat) (m : Mark) : Bool :=
  match m with
  | .performed seq sc _ => stagedOpen w c owner seq sc
  | .applied _ => false

/-! ## Tags of a block -/

/-- Some operation of the block that named a tag has not completed (R186, R216). -/
def tagBusy (k : Core) (owner n : Nat) : Bool :=
  (k.cmds.any fun x => decide (x.owner = owner) && x.tgv && decide (x.tag = n) && decide (x.st ≠ .ended)) ||
  (k.accs.any fun a => decide (a.owner = owner) && decide (a.space = .host) && decide (a.tag = n) && a.done.isNone) ||
  (k.flights.any fun f => decide (f.owner = owner) && decide (f.next < 32) &&
    (match f.form.op with | .host _ t _ => decide (t = n) | _ => false))

/-- A completed operation named the tag: set it once no other one is open (R216). -/
def finishTag (w : World) (c owner n : Nat) : World :=
  match w.block? c owner with
  | none => w
  | some b => if b.spent || tagBusy (w.core c) owner n then w else w.modCore c fun k => k.setTag (b.bind.tagb + n) true

/-- A command or host access names a tag: the bit clears (R216), and a host tag is noted (R386). -/
def clearTag (w : World) (c owner n : Nat) (host : Bool) : World :=
  match w.block? c owner with
  | none => w
  | some b => w.modCore c fun (k : Core) =>
      let bitv := BitVec.ofNat 64 (2 ^ (b.bind.tagb + n))
      { k.setTag (b.bind.tagb + n) false with hostTags := if host then k.hostTags ||| bitv else k.hostTags &&& ~~~bitv }

/-! ## Launches -/

/-- The live launch that a block on a core belongs to, and the module that keeps it: its own module's, or that of
the module that placed the block over the group (R31). -/
def launchOf (w : World) (c : Nat) (lid : W32) : Option (Nat × Launch) :=
  match (w.module (modOf c)).launches.find? fun l => l.lid = lid && (partOf w (dieOf c) == some l.part) with
  | some l => some (modOf c, l)
  | none => w.mach.mods.findSome? fun x => if x.1 = modOf c then none else (x.2.launches.find? fun l => decide (l.lid = lid)).map fun l => (x.1, l)
/-- A timed launch's block. -/
def timedBlock (w : World) (core o : Nat) : Bool := ((w.block? core o).map fun b => b.hdr.timed).getD false

/-- Index of the head block of a launch (R256): the lowest that has not ended. -/
def headIndex (l : Launch) : Nat := ((List.range (l.ended.length + 1)).find? fun n => !l.ended.contains n).getD 0
/-- A block that stages its writes: of a free-deterministic launch, and not its head (R256). -/
def stages (w : World) (c : Nat) (b : Block) : Bool :=
  b.hdr.determ && !b.hdr.timed &&
    (match launchOf w c b.bind.lid with
      | some l => decide (headIndex l.2 < b.bind.bk.toNat)
      | none => false)

/-- A mark names a write of the block that is staged, or that will be: it is not performed beyond the block before its release
(R258). -/
def markOpen (w : World) (c : Nat) (b : Block) (m : Mark) : Bool :=
  markStaged w c b.bind.owner m ||
  (match m with
    | .performed seq sc ids => scopeWide sc && stages w c b && (w.core c).accs.any fun x =>
        x.changes && x.beyond && x.done.isNone && !x.ticket && decide (x.seq < seq) && ids.contains x.path
    | .applied _ => false)

/-- Staged writes of a new head stand before every write that it makes from then on (R258). -/
def headOwes (w : World) (c : Nat) (b : Block) : Bool := !b.staged.isEmpty && !stages w c b

/-! ## A lane's fault -/

/-- Path-table index that the path with a name has now (R27); where the path has ended, the one it had at I (log entry 98). -/
def pathNow (w : World) (c o r id ix : Nat) : Nat :=
  ((w.course? c o r).bind fun k => (k.paths.find? fun x => x.2.id = id || x.2.merged.contains id).map Prod.fst).getD ix

/-- A lane of an instruction faults in execution (R181): its work may run again at P (R328). -/
def laneFault (w : World) (c : Nat) (f : Flight) (lane code sub : Nat) (info : W64) : World :=
  match w.block? c f.owner with
  | none => w
  | some b =>
    let r : FaultRec := {
      code := code
      sub := sub
      src := 0
      owner := f.owner
      cr := f.cr
      path := pathNow w c f.owner f.cr f.path f.pathIx
      mask := laneBit lane
      pc := pcWord f.pc
      word := f.word
      vcc := 0
      info := info
      seq := f.seq
      work := .lanes { f with mask := laneBit lane, next := lane } }
    takeFault w c (r.ofBlock b)

/-- A crossing atomic that was counted and will not act leaves an empty write in its place, so that the home's count goes
on (R251). -/
def crossDrop (w : World) (c : Nat) (a : Access) : World :=
  match a.kind with
  | .rmw _ _ =>
    if a.sent && a.done.isNone then
      w.modDie a.home fun y => { y with
        heldW := y.heldW ++ [{ id := y.nextHeld, src := dieOf c % 4, clk := a.clk, mat := [], core := c, owner := a.owner, aid := 0, cyc := a.cyc, due := w.mach.clock,
                               pieces := [], pages := [], use := .atomic, pv := true }]
        nextHeld := y.nextHeld + 1 }
    else w
  | _ => w

/-- An access faults at its memory cycle or at its due cycle; its record lets it run again (R328, R330). -/
def accessFault (w : World) (c : Nat) (a : Access) (code sub : Nat) (info : W64) : World :=
  match w.block? c a.owner with
  | none => w
  | some b =>
    let once := match a.kind with | .arm _ _ => true | .disarm => true | _ => false
    let r : FaultRec := {
      code := code
      sub := sub
      src := if once then 1 else 0
      owner := a.owner
      cr := a.cr
      path := pathNow w c a.owner a.cr a.path a.pathIx
      mask := if once then a.data.truncate 32 else laneBit a.lane
      pc := pcWord a.pc
      word := a.word
      vcc := 0
      info := info
      seq := a.seq
      work := .access a.id }
    let w := (crossDrop w c a).modCore c fun k => { k with accs := k.accs.map fun (x : Access) => if x.id = a.id then { x with logged := true, sent := false } else x }
    takeFault (clearCause (holdAccess w c a) c (.access c a.id)) c (r.ofBlock b)

/-! ## Forming an access (R184, R190) -/

/-- The access of a lane with what every one of them shares. -/
def baseAccess (f : Flight) (str lane id : Nat) (kind : AccKind) (sp : Space) (addr : Int) (size cyc due home : Nat) : Access :=
  { id := id, seq := f.seq, owner := f.owner, cr := f.cr, str := str, path := f.path, pathIx := f.pathIx, lane := lane,
    pc := f.pc, word := f.word, kind := kind, space := sp, addr := addr, size := size, dst := f.form.dst, cyc := cyc,
    due := due, home := home, marks := f.marks, acq := f.form.acq }

/-- Put an access into the core, charged to the byte budget (R355), with its translation begun where its space
has one (R316): that of a fabric access begins on its arrival at the owner (R315). -/
def addAccess (w : World) (c : Nat) (a : Access) (off : Nat) (use : AccessUse) (l1 : Bool) : World :=
  match a.xl with
  | .need =>
    let w := charge w { cyc := a.cyc, agent := agentNo w c a.str a.lane, bytes := a.size, core := c, beat := false, id := a.id }
    let r := if a.space = .fab then (w, .need) else startXlate w c a.home off use l1
    r.1.modCore c fun k => { k with accs := k.accs ++ [{ a with xl := r.2 }], nextId := k.nextId + 1 }
  | _ => w.modCore c fun k => { k with accs := k.accs ++ [a], nextId := k.nextId + 1 }

/-- Owner die of a fabric address, when it lies in the time group and its partition is open (R184). -/
def fabOwner (w : World) (x : Nat) : Option Nat :=
  (moduleByNum w.mach (x / 2 ^ 48 % 2 ^ 9)).map fun m => 4 * m + x / 2 ^ 46 % 4

/-- Route, memory cycle and due cycle of an access formed at cycle `e` (R179, R184). -/
structure Routed where
  home : Nat
  off  : Nat
  cyc  : Nat
  due  : Nat
  xl   : Xlate
  deriving DecidableEq, Repr

/-- Route an address of a space. -/
def route (w : World) (c e : Nat) (b : Block) (cr lane : Nat) (sp : Space) (x : Int) : Routed :=
  let d := dieOf c
  match sp with
  | .lane => { home := d, off := laneOffset b cr lane x.toNat, cyc := e + 440, due := e + 448, xl := .need }
  | .die =>
    let ok := decide (0 ≤ x) && decide (x < 2 ^ 46)
    { home := d, off := x.toNat, cyc := e + 440, due := e + 448, xl := if ok then .need else .bad 0x03 }
  | _ =>
    let bad : Routed := { home := d, off := 0, cyc := e + 452, due := e + 460, xl := .bad 0x03 }
    if x < 0 ∨ 2 ^ 57 ≤ x then bad else
    match fabOwner w x.toNat with
    | none => bad
    | some o =>
      match fabLat w.mach d o with
      | none => bad
      | some lat => { home := o, off := x.toNat % 2 ^ 46, cyc := e + lat - 8, due := e + lat,
                      xl := if fabOpen w d o then .need else .bad 0x03 }

/-- A crossing access: free, over the fabric, to another die of the module (R250). -/
def crosses (b : Block) (c : Nat) (sp : Space) (home : Nat) : Bool :=
  decide (sp = .fab) && !b.hdr.timed && decide (home ≠ dieOf c) && decide (home / 4 = modOf c)

/-- What an access asks of the page (R313, R317). -/
def AccKind.use : AccKind → AccessUse
  | .load => .read
  | .store => .write
  | .rmw _ _ => .atomic
  | _ => .read

/-- Scope at which a space's ORD acts (R182). -/
def spaceScope : Space → Scope
  | .lane => .crs
  | .fab => .grp
  | _ => .die

/-- Store data of a size. -/
def sizeData (n : Nat) (v : W64) : W64 := BitVec.ofNat 64 (v.toNat % 2 ^ (8 * n))

/-- A register-addressed access of a lane at its execution cycle (R184, R202). -/
def formAccess (w : World) (c e : Nat) (b : Block) (k : Course) (f : Flight) (lane : Nat) (kind : AccKind) (sp : Space)
    (n : Nat) (off : Int) (data data2 : W64) : World :=
  let av := (k.src lane f.form.a).toNat
  let x : Int := match sp with
    | .lane => (((av : Int) + off) % (2 ^ 32 : Int))
    | _ => (av : Int) + off
  if x % n ≠ 0 then laneFault w c f lane 0x04 0 (BitVec.ofInt 64 x)
  else if sp = .lane ∧ 16384 < x + n then laneFault w c f lane 0x0B 0 0
  else
    let r := route w c e b f.cr lane sp x
    let a := baseAccess f k.str lane (w.core c).nextId kind sp x n r.cyc r.due r.home
    addAccess w c { a with xl := r.xl, data := sizeData n data, data2 := sizeData n data2, pv := b.bind.priv,
                           rel := if f.form.rel then some (spaceScope sp) else none, cross := crosses b c sp r.home }
      r.off kind.use (decide (sp ≠ .fab))

/-- The replicas of a multicast store (R187). -/
def formMcast (w : World) (c e : Nat) (b : Block) (k : Course) (f : Flight) (lane : Nat) (mask : BitVec 4) (n : Nat) (data : W64) : World :=
  let x := (k.src lane f.form.a).toNat
  if x % n ≠ 0 then laneFault w c f lane 0x04 0 (BitVec.ofNat 64 x)
  else
    (List.range 4).foldl (fun w d =>
      if mask.getLsbD d then
        let y : Int := ((if x < 2 ^ 57 then x / 2 ^ 48 * 2 ^ 48 + d * 2 ^ 46 + x % 2 ^ 46 else x : Nat) : Int)
        let r := route w c e b f.cr lane .fab y
        let a := baseAccess f k.str lane (w.core c).nextId .store .fab y n r.cyc r.due r.home
        addAccess w c { a with xl := r.xl, data := sizeData n data, pv := b.bind.priv, rel := if f.form.rel then some .mod else none,
                               cross := crosses b c .fab r.home }
          r.off .write false
      else w) w

/-- A host access of a lane (R186): untimed, it ends at a real cycle of the link's own. -/
def formHost (w : World) (c e : Nat) (k : Course) (f : Flight) (lane : Nat) (ld : Bool) (tag n : Nat) (data : W64) : World :=
  let x := (k.src lane f.form.a).toNat
  if x % n ≠ 0 then laneFault w c f lane 0x04 0 (BitVec.ofNat 64 x)
  else
    let a := baseAccess f k.str lane (w.core c).nextId (if ld then .load else .store) .host (x : Int) n e (w.later 0) (modOf c)
    (addAccess w.step c { a with xl := .bad 0, data := sizeData n data, tag := tag } 0 .read false)

/-- The checks of a handle access (R190): the descriptor, or a fault code. -/
def handleCheck (kc : Core) (b : Block) (h level width e : Nat) : Except Nat Desc :=
  let d := descOf kc b h
  if b.hdr.handles ≤ h then .error 0x05
  else if !d.valid || decide (e < d.since) || decide (d.level ≠ level) then .error 0x05
  else if width < fmtBits d.fmt || (decide (d.fmt = 14) && decide (width = 64)) then .error 0x05
  else .ok d

/-- Level number of R191. -/
def levelNo : Level → Nat
  | .ts => 0
  | .acc => 1
  | .trn => 2

/-- A tile or accumulator access of a lane (R190). -/
def formTile (w : World) (c e : Nat) (b : Block) (k : Course) (f : Flight) (lane : Nat) (ld : Bool) (lv : Level) (h n : Nat) : World :=
  let r := (k.src lane f.form.a).toNat % 2 ^ 32
  let cc := (k.src lane f.form.b).toNat % 2 ^ 32
  let info : W64 := BitVec.ofNat 64 h
  match handleCheck (w.core c) b h (levelNo lv) (8 * n) e with
  | .error code => laneFault w c f lane code 0 info
  | .ok d =>
    let q := 8 * n / fmtBits d.fmt
    let linear := decide (lv ≠ .ts)
    let row := if linear then r / d.cols else r
    let col := if linear then r % d.cols else cc
    let elem := if linear then r else r * d.cols + cc
    if (if linear then r else cc) % q ≠ 0 then
      laneFault w c f lane 0x04 0 (BitVec.ofNat 64 (256 * d.base + elem * fmtBits d.fmt / 8))
    else if (if linear then decide (d.rows * d.cols < r + q) else decide (d.rows ≤ r) || decide (d.cols < cc + q)) then
      laneFault w c f lane 0x0B 0 0
    else
      let addr := if linear && decide (d.fmt ≠ 14) then 256 * d.base + r * fmtBits d.fmt / 8 else d.addr row col
      let lat := match ld, lv with
        | true, .ts => 8
        | true, _ => 10
        | false, .ts => 6
        | false, _ => 8
      let sp : Space := match lv with | .ts => .ts | _ => .acc
      let a := baseAccess f k.str lane (w.core c).nextId (if ld then .load else .store) sp (addr : Int) n (e + lat) (e + lat) c
      addAccess w c { a with xl := .bad 0, data := sizeData n (k.src lane f.form.c), handle := h, elem := elem } 0 .read false

/-- Address of a tile atomic's element, where it raises no fault (R190, R198). -/
def tatomAddr (kc : Core) (b : Block) (h r cc e : Nat) : Option Nat :=
  match handleCheck kc b h 0 32 e with
  | .error _ => none
  | .ok d => if (d.fmt = 0 || d.fmt = 1 || d.fmt = 4) && decide (r < d.rows) && decide (cc < d.cols) then some (d.addr r cc) else none

/-- A tile atomic of a lane (R198): it reads at its execution cycle and writes two cycles later. -/
def formTatom (w : World) (c e : Nat) (b : Block) (k : Course) (f : Flight) (lane : Nat) (op : RmwOp) (h : Nat) : World :=
  let r := (k.src lane f.form.a).toNat % 2 ^ 32
  let cc := (k.src lane f.form.b).toNat % 2 ^ 32
  let info : W64 := BitVec.ofNat 64 h
  match handleCheck (w.core c) b h 0 32 e with
  | .error code => laneFault w c f lane code 0 info
  | .ok d =>
    if !(d.fmt = 0 || d.fmt = 1 || d.fmt = 4) then laneFault w c f lane 0x05 0 info
    else if d.rows ≤ r ∨ d.cols ≤ cc then laneFault w c f lane 0x0B 0 0
    else
      let v := k.src lane f.form.c
      let a := baseAccess f k.str lane (w.core c).nextId (.tread op d.fmt) .ts (d.addr r cc : Int) 4 e (e + 8) c
      addAccess w c { a with xl := .bad 0, data := sizeData 4 v, data2 := v >>> 32, handle := h, elem := r * d.cols + cc } 0 .read false

end Sys2Proof.Machine
end

