-- ==== Sys2Proof/Machine/Apply.lean ====
section
/-! DEFINITION. The application of lane accesses at their homes: MEMORY_ACCESS_APPLY, TATOM_WRITE_HALF,
HOST_ACCESS_COMPLETE, CAUSAL_APPLY, TICKET_RELEASE and CHUNK_COMMIT. -/

namespace Sys2Proof.Machine

/-! ## Watchpoints (R381, R382) -/

/-- The lowest watched index or byte that an access touched; `runs` are the stretches it touched. -/
def Watch.hit (x : Watch) (owner : Nat) (write die : Bool) (handle : Nat) (runs : List (Nat × Nat)) (both : Bool := false) : Option Nat :=
  if x.owner = owner && (if write then x.wr || (both && x.rd) else x.rd) && x.die = die && (die || x.handle = handle) then
    ((runs.filter fun r => decide (r.1 ≤ x.hi) && decide (x.lo ≤ r.2)).map fun r => max r.1 x.lo).min?
  else none

/-- The course that takes WATCH: the issuing one, or the lowest that has not exited. -/
def watchCourse (w : World) (c owner cr : Nat) : Nat :=
  match w.course? c owner cr with
  | some k => if k.gone then ((List.range 32).find? fun r => ((w.course? c owner r).map fun k => !k.gone).getD false).getD cr else cr
  | none => cr

/-- Report an access to every entry it hits (R382). -/
def watchAccess (w : World) (c owner cr : Nat) (write die : Bool) (handle : Nat) (runs : List (Nat × Nat)) (r : Nat → Nat → DebugRec) (path : Nat)
    (both : Bool := false) : World :=
  (w.core c).watches.foldl (fun w x =>
    match x.2.hit owner write die handle runs both with
    | none => w
    | some at_ =>
      if x.2.trap then
        w.modCourse c owner (watchCourse w c owner cr) fun k => { k with watchT := some ((if write then 2 ^ 9 else 0) + x.1) }
      else debugRecord w c owner cr path (r x.1 at_)) w

/-- The watch report of a lane access. -/
def watchLane (w : World) (c : Nat) (a : Access) (write : Bool) (off : Nat) (bits : Nat) : World :=
  let tile := decide (a.space = .ts) || decide (a.space = .acc)
  if !tile && !(decide (a.space = .die) || decide (a.space = .lane)) then w
  else
    let n := if tile then max 1 (8 * a.size / max 1 bits) else a.size
    let lo := if tile then a.elem else off
    let data := match a.kind with
      | .store => a.data.toNat
      | _ => 0
    watchAccess w c a.owner a.cr write (!tile) a.handle [(lo, lo + n - 1)]
      (fun e at_ => { kind := 4, ent := e, mask := laneBit a.lane, pc := (pcWord a.pc).toNat, addr := at_, data := data })
      (pathNow w c a.owner a.cr a.path a.pathIx)
      (match a.kind with | .rmw _ _ => true | .tread _ _ => true | _ => false)

/-! ## Bookkeeping -/

/-- Replace an access record. -/
def setAcc (w : World) (c : Nat) (a : Access) : World :=
  w.modCore c fun k => { k with accs := k.accs.map fun (x : Access) => if x.id = a.id then a else x }

/-- Move a tagged instruction's profile on (R385). -/
def touchSample (w : World) (c seq : Nat) (f : Sample → Sample) : World :=
  let k := w.core c
  if k.samples.any fun x => decide (x.seq = seq) then
    w.setCore c { k with samples := k.samples.map fun (x : Sample) => if x.seq = seq then f x else x }
  else w

/-- LEVEL of R385 for an access. -/
def levelOf (a : Access) (c : Nat) : Nat :=
  match a.space with
  | .ts => 1
  | .acc => 2
  | .lane => 3
  | .die => 4
  | .host => 8
  | .fab => if a.home = dieOf c then 5 else if a.home / 4 = modOf c then 6 else 7

/-- The access is applied at a cycle, and performed beyond the core `extra` cycles later (R247): a profile of its instruction
learns its level, and the cycle at which a write is performed (R385). -/
def doneAcc (w : World) (c : Nat) (a : Access) (vcc extra : Nat) : World :=
  let w := touchSample w c a.seq fun x => { x with level := levelOf a c, wb := if a.changes then max x.wb (vcc + extra - x.issue) else x.wb }
  clearCause ((setAcc w c { a with done := some vcc, extra := extra }).modCore c fun k => k.logFree false a.id) c (.access c a.id)

/-- A value lands in an access's destination at its due cycle. -/
def landResult (w : World) (c : Nat) (a : Access) (v : W64) (flags : FpFlags) : World :=
  let w := touchSample w c a.seq fun x => { x with level := levelOf a c }
  pushResult w c a.owner a.cr a.seq a.due a.from_ (dstWrites a.dst a.lane v) flags

/-! ## Recording (R387, R388) -/

/-- The next commit in the log of a die that replays (R388): its record, and the number from 1 of the die that a crossing
write came from, or 0 for a chunk of this die. -/
def replayEntry (w : World) (d : Nat) : Option (Nat × Nat) :=
  let x := w.die d
  if x.recMode = 2 then
    ((ringNos w d x.recBase).find? fun n => decide (x.recPos ≤ n) && decide (ringWord w d x.recBase n 0 / 2 ^ 24 = 0x32)).map
      fun n => (n, ringWord w d x.recBase n 2)
  else none

/-- The chunk that a replay of a die's free cores runs next (R388): its record, core, and the VCC at its end. -/
def replayChunk (w : World) (d : Nat) : Option (Nat × Nat × Nat) :=
  let base := (w.die d).recBase
  match replayEntry w d with
  | some (n, 0) => some (n, d * Config.coresPerDie + ringWord w d base n 1 / 2 ^ 23, ringPair w d base n 6 + ringPair w d base n 8)
  | _ => none

/-- The logged copy of a granule that another chunk committed while the chunk of record `n` ran (R387, R388). -/
def replayCopy (w : World) (d n granule : Nat) : Option (List Byte) :=
  let x := w.die d
  let kind := fun (i : Nat) => ringWord w d x.recBase i 0 / 2 ^ 24
  let mine := ((ringNos w d x.recBase).filter fun i => decide (n < i)).takeWhile fun i => decide (kind i = 0x33) || decide (kind i = 0x34)
  let half := fun (k : Nat) => (mine.find? fun i => decide (kind i = k) && decide (ringPair w d x.recBase i 2 = 64 * granule % Config.dramSpan)).map
    fun i => wordBytes ((List.range 8).map fun j => ringWord w d x.recBase i (4 + j))
  match half 0x33, half 0x34 with
  | some a, some b => some (a ++ b)
  | _, _ => none

/-- A free core of a die that records, or that replays a log with chunks left, runs in chunks. -/
def recording (w : World) (c : Nat) (timed : Bool) : Bool :=
  !timed && (decide ((w.die (dieOf c)).recMode = 1) || (replayEntry w (dieOf c)).isSome)

/-- The chunk of a core, opened at the present cycle where there is none. -/
def theChunk (w : World) (c : Nat) : Chunk := ((w.core c).chunk).getD { start := vccOf w c }

/-- An access of an instruction or command with issue number `seq` stands in the chunk. -/
def Chunk.name (ch : Chunk) (seq : Nat) : Chunk := { ch with first := some (min seq (ch.first.getD seq)) }

/-- The chunk began in this cycle and holds nothing. -/
def Chunk.fresh (ch : Chunk) (vcc : Nat) : Bool := ch.writes.isEmpty && ch.copies.isEmpty && decide (vcc ≤ ch.start)

/-- Read within one 64-byte granule through a chunk: the first read of it takes a copy. -/
def chunkRead (w : World) (c seq key n : Nat) : World × List Byte :=
  let ch := (theChunk w c).name seq
  let g := key / 64
  let ch := if ch.copies.any fun x => decide (x.1 = g) then ch
    else
      let logged := (replayChunk w (dieOf c)).bind fun r => replayCopy w (dieOf c) r.1 g
      { ch with copies := ch.copies ++ [(g, (w.die (dieOf c)).commitOrder, logged.getD (w.mem.bytes .dram (64 * g) 64))] }
  let copy := ((ch.copies.find? fun x => decide (x.1 = g)).map fun x => x.2.2).getD []
  let bs := (List.range n).map fun i => (ch.writes.find (key + i)).getD ((copy[(key + i) % 64]?).getD 0)
  (w.modCore c fun k => { k with chunk := some ch }, bs)

/-- Read a stretch through a chunk. -/
def chunkReads (w : World) (c seq key n : Nat) : World × List Byte :=
  (parts64 (n + 1) key (List.replicate n 0)).foldl (fun r p =>
    let x := chunkRead r.1 c seq p.1 p.2.length
    (x.1, r.2 ++ x.2)) (w, [])

/-- Buffer a write of a recording core, of a memory cycle: loads that are late keep what the chunk held (R241). -/
def chunkWrite (w : World) (c cyc seq key : Nat) (bs : List Byte) : World :=
  let w := if lateLoads w c cyc then
      let r := chunkReads w c seq key bs.length
      keepBytes r.1 c cyc (r.2.mapIdx fun i v => (.dram, key + i, v))
    else w
  let ch := (theChunk w c).name seq
  let r := bs.foldl (fun (t : Tab Byte × Nat) v => (t.1.put t.2 v, t.2 + 1)) (ch.writes, key)
  w.modCore c fun k => { k with chunk := some { ch with writes := r.1 } }

/-- A replay has run the chunk of a core to its end. -/
def endReplayChunk (w : World) (c : Nat) : World :=
  match replayChunk w (dieOf c) with
  | some r => if r.2.1 = c then w.modDie (dieOf c) fun x => { x with recPos := r.1 + 1 } else w
  | none => w

/-- What a commit logs (R387): the chunk, and each copied granule that another chunk committed since. -/
def logChunk (w : World) (c : Nat) (ch : Chunk) : World :=
  let d := dieOf c
  let x := w.die d
  if x.recMode ≠ 1 then w
  else
    let word1 := targetWord c 0 0 0
    let w := ringWrite w d x.recBase ([0x32 * 2 ^ 24, word1, 0, 0, 0, 0] ++ lohi ch.start ++ lohi (vccOf w c - ch.start) ++ [0, 0, 0, 0, 0, 0])
    ch.copies.foldl (fun w y =>
      if x.commits.any fun z => decide (z.1 = y.1) && decide (y.2.1 ≤ z.2) then
        let rec1 := fun (kind : Nat) (bs : List Byte) => [kind * 2 ^ 24, word1] ++ lohi (64 * y.1 % Config.dramSpan)
          ++ (List.range 8).map (fun i => leNat ((bs.drop (4 * i)).take 4)) ++ [0, 0, 0, 0]
        ringWrite (ringWrite w d x.recBase (rec1 0x33 (y.2.2.take 32))) d x.recBase (rec1 0x34 (y.2.2.drop 32))
      else w) w

/-- The die's commit unit commits a chunk (R387): it applies the buffered writes and logs the chunk; `gs` are granules that
the core has written at their home itself. A core that records begins its next chunk; a replay moves on in its log (R388). -/
def commitChunk (c : Nat) (gs : List Nat) (w : World) : World :=
  let ch := theChunk w c
  let d := dieOf c
  let gs := (gs ++ ch.writes.map fun (y : Nat × Byte) => y.1 / 64).eraseDups
  let w := ch.writes.foldl (fun w y => homeWrite w c 0 .dram y.1 [y.2]) w
  let w := endReplayChunk (logChunk w c ch) c
  let n := (w.die d).commitOrder
  let w := w.modDie d fun x => { x with commitOrder := n + 1, commits := x.commits ++ gs.map fun g => (g, n) }
  w.modCore c fun k => { k with chunk := if (w.die d).recMode = 1 then some { start := vccOf w c } else none }

/-- Commit what a core's chunk holds, if it holds anything or has lasted. -/
def flushChunk (w : World) (c : Nat) : World :=
  match (w.core c).chunk with
  | some ch => if ch.fresh (vccOf w c) then w else commitChunk c [] w
  | none => w

/-- An access that ends a chunk acts at commit (R387): what the chunk holds is committed first, and the access itself is a
commit of no length, whose granules are those that it writes in its own die's memory. -/
def actsAtCommit (c : Nat) (gs : List Nat) (act : World → World) (w : World) : World := commitChunk c gs (act (flushChunk w c))

/-- Causes of a core's chunk that are effective now have done their work. -/
def clearChunk (w : World) (c : Nat) : World :=
  modSashOf w c fun s => { s with causes := s.causes.filter fun x => x.src ≠ .chunk c || decide (s.vcc < x.p) }

/-- A replay's next commit is a single access of this core (R388). -/
def replaysAct (w : World) (c : Nat) : Bool :=
  match replayChunk w (dieOf c) with
  | some r => decide (r.2.1 = c) && decide (ringPair w (dieOf c) (w.die (dieOf c)).recBase r.1 8 = 0)
  | none => false

/-! ## Causal order (R251) -/

/-- Entry (d, e) of a causal matrix of one module's dies. -/
def matAt (m : List (List Nat)) (d e : Nat) : Nat := ((m[d]?).getD []).getD e 0
/-- Row d. -/
def matRow (m : List (List Nat)) (d : Nat) : List Nat := (List.range 4).map (matAt m d)
/-- Greater of two matrices, entry by entry. -/
def matMerge (a b : List (List Nat)) : List (List Nat) :=
  (List.range 4).map fun d => (List.range 4).map fun e => max (matAt a d e) (matAt b d e)
/-- The matrix that knows one write from e to d more, and the row of the write's clock. -/
def matBump (m : List (List Nat)) (d e : Nat) (clk : List Nat) : List (List Nat) :=
  (List.range 4).map fun i => (List.range 4).map fun j =>
    let v := max (matAt m i j) (if i = d then clk.getD j 0 else 0)
    if i = d && j = e then max v (clk.getD e 0 + 1) else v
/-- The home has applied every write that a clock names. -/
def clockMet (x : Die) (clk : List Nat) : Bool := (List.range 4).all fun e => decide (clk.getD e 0 ≤ x.applied.getD e 0)

/-! ## Free-deterministic launches (R203, R256 to R258) -/

/-- Lowest block of the launch that staged or wrote a 64-byte granule. -/
def ticketOf (x : Die) (lid : W32) (g : Nat) : Option Nat :=
  (x.tickets.find? fun t => t.lid = lid && t.granule = g).map Ticket.bk
/-- Record a block's write of a granule. -/
def putTicket (x : Die) (lid : W32) (g bk : Nat) : Die :=
  let old := (ticketOf x lid g).getD bk
  { x with tickets := (x.tickets.filter fun t => !(t.lid = lid && t.granule = g)) ++ [{ lid := lid, granule := g, bk := min old bk }] }
/-- A lower block of the launch has written the granule: an atomic faults with 0x08 (R203). -/
def ticketFault (x : Die) (b : Block) (g : Nat) : Bool :=
  match ticketOf x b.bind.lid g with
  | some n => decide (n < b.bind.bk.toNat)
  | none => false
/-- Bytes that a block has staged. DESIGN CHOICE: R256 gives the area 64 KiB and a staged write no size; each takes the bytes that
it writes, and at least 8 (log entry 117). -/
def stagedBytes (b : Block) : Nat := b.staged.foldl (fun n s => n + max 8 s.data.length) 0
/-- A staged write of `n` bytes stands in the staging section of the block's context area (R256, R334). The specification gives
that section no layout, so what its bytes read as is free. -/
def stageArea (w : World) (c : Nat) (b : Block) (n : Nat) : World :=
  let m := w.free * 2 ^ 40
  ctxTraffic c b true ((ctxMap b.hdr).stage + stagedBytes b) ((List.range n).map fun i => Config.freeByte (m + i)) w.step

/-- A block's write of a stretch counts for every 64-byte granule that it touches (R203, R259). -/
def putTickets (w : World) (b : Block) (d : Nat) (st : Store) (key n : Nat) : World :=
  ((List.range ((key + n + 63) / 64 - key / 64)).map (key / 64 + ·)).foldl
    (fun w g => w.modDie d fun x => putTicket x b.bind.lid (poisonKey st g) b.bind.bk.toNat) w
/-- The block's own staged write that covers a byte last by a memory cycle, and whether it carries poison there (R257, R332). -/
def stagedAt (b : Block) (st : Store) (key cyc : Nat) : Option (Byte × Bool) :=
  b.staged.foldl (fun r s =>
    if s.st = st && s.atom.isNone && decide (s.cyc ≤ cyc) && decide (s.key ≤ key) && decide (key < s.key + s.data.length) then
      some ((s.data[key - s.key]?).getD 0, s.bad.contains (key - s.key))
    else r) none
/-- A read of a stretch at a memory cycle meets poison: at its home, or in the block's own staged bytes that cover it. -/
def poisonedRead (w : World) (b : Block) (st : Store) (key n cyc : Nat) : Bool :=
  (List.range n).any fun i => match stagedAt b st (key + i) cyc with
    | some v => v.2
    | none => w.mem.poisoned st (key + i) 1

/-! ## Reading and writing die memory -/

/-- Bytes that an access reads: the home's, with the bytes the sash has overwritten since the memory cycle put
back (R243), the block's own bytes staged by that cycle (R257), and through the chunk of a recording core. -/
def readHome (w : World) (c : Nat) (b : Block) (a : Access) (st : Store) (key n : Nat) : World × List Byte :=
  let plain := a.space = .die || (a.space = .fab && !a.cross && decide (a.home = dieOf c))
  let r := if recording w c b.hdr.timed && plain && decide (st = .dram) then chunkRead w c a.seq key n
    else (w, w.mem.bytes st key n)
  let bs := r.2.mapIdx fun i v =>
    match a.shadow.find? fun s => decide (s.1 = st) && decide (s.2.1 = key + i) with
    | some s => s.2.2
    | none => v
  (r.1, bs.mapIdx fun i v => ((stagedAt b st (key + i) a.cyc).map Prod.fst).getD v)

/-- A store is carried out at its home (R180, R249). -/
def writeHome (w : World) (c : Nat) (b : Block) (a : Access) (st : Store) (key : Nat) (bs : List Byte) : World :=
  if b.hdr.timed && decide (a.space ≠ .lane) then
    timedWrite w c a.cyc b.bind.lid (a.cyc - b.v0) (agentNo w c a.str a.lane) a.home st key bs []
  else homeWrite w c a.cyc st key bs

/-- Compute and write a read-modify-write at its home, which reports it (R382); its old value is due later (R202). -/
def actAtomic (w : World) (c : Nat) (b : Block) (a : Access) (op : RmwOp) (st : Store) (key vcc : Nat) : World :=
  let old := leNat (w.mem.bytes st key a.size)
  let new := rmwEval op (8 * a.size) old a.data.toNat a.data2.toNat
  let w := if b.hdr.timed then
      let g := poisonKey st (key / 64)
      w.modDie a.home fun x =>
        let s := a.cyc - b.v0
        let n := agentNo w c a.str a.lane
        match stampOf x b.bind.lid g with
        | some t => if pairLt t.stamp t.agent s n then putStamp x { lid := b.bind.lid, granule := g, stamp := s, agent := n } else x
        | none => putStamp x { lid := b.bind.lid, granule := g, stamp := s, agent := n }
    else w
  let w := watchLane (homeWrite w c a.cyc st key (leBytes a.size new)) c a true (a.off b) 0
  let w := landResult w c a (BitVec.ofNat 64 old) 0
  doneAcc w c a vcc (perfExtra w.mach (dieOf c) a.home)

/-- The access's own effect at its home, once nothing holds it. -/
def actHome (w : World) (c : Nat) (b : Block) (a : Access) (st : Store) (key off vcc : Nat) : World :=
  match a.kind with
  | .load =>
    let r := readHome w c b a st key a.size
    let w := watchLane r.1 c a false off 0
    let z := if st = .host then untimed w c a.owner a.cr a.lane (pcWord a.pc).toNat key (leNat r.2) else (w, leNat r.2)
    let v := z.2
    let w := landResult z.1 c a (BitVec.ofNat 64 v) 0
    let w := if a.cross then
        w.modDie (dieOf c) fun x => { x with causal := matMerge x.causal (w.die a.home).causal }
      else w
    doneAcc w c a vcc 0
  | .store =>
    let w := writeHome w c b a st key (leBytes a.size a.data.toNat)
    let w := watchLane w c a true off 0
    doneAcc w c a vcc (if a.space = .lane || a.space = .die then 8 else perfExtra w.mach (dieOf c) a.home)
  | .rmw op _ => actAtomic w c b a op st key vcc
  | .arm pm p =>
    let g := poisonKey st (key / 8)
    let x := w.die a.home
    let mine := (w.mach.dies.flatMap fun y => y.2.mons).filter fun m => decide (m.core = c) && decide (m.owner = a.owner) && decide (m.cr = a.cr)
    let here := ((w.course? c a.owner a.cr).map fun k => !k.gone).getD false
    let ok := here && decide (x.mons.length < Config.monitorTable) && decide (mine.length < 8) && !(mine.any fun m => decide (m.granule = g))
    let w := if ok then w.setDie a.home { x with mons := x.mons ++
        [{ granule := g, core := c, owner := a.owner, cr := a.cr, fab := decide (a.space = .fab) }] } else w
    let w := pushResult w c a.owner a.cr a.seq a.due a.from_ [.pred p pm (if ok then 0xFFFFFFFF else 0)] 0
    doneAcc w c a vcc 0
  | .disarm =>
    let g := poisonKey st (key / 8)
    let w := w.modDie a.home fun x => { x with mons := x.mons.filter fun m =>
      !(decide (m.core = c) && decide (m.owner = a.owner) && decide (m.cr = a.cr) && decide (m.granule = g)) }
    doneAcc w c a vcc 0
  | .tread _ _ => w

/-- An access of a recording core that ends its chunk (R387): an atomic, an acquire or release beyond the core, a crossing
access, or the first one after a fence for which something in the chunk has to be performed. -/
def endsChunk (w : World) (c : Nat) (a : Access) : Bool :=
  (match a.kind with | .rmw _ _ => true | _ => false) || a.cross || decide (a.home ≠ dieOf c) || a.acq || a.rel.isSome ||
  a.marks.any fun m => match m with
    | .performed seq sc _ => scopeWide sc && (((w.core c).chunk.bind Chunk.first).map fun n => decide (n < seq)).getD false
    | .applied _ => false

/-- Copies that a core holds of a chunk (R387). -/
def chunkCopies : Nat := 256

/-- The chunk has no room for an access: its copies, or its buffer, which DESIGN CHOICE has the size of the staging area
(log entry 111). -/
def chunkFull (w : World) (c : Nat) (a : Access) : Bool :=
  if a.changes then decide (Config.stagingBytes < (theChunk w c).writes.length + a.size) else decide (chunkCopies ≤ (theChunk w c).copies.length)

/-- A recording core's access acts at or after the cycle for which its chunk is committed, where it ends the chunk or finds it
full; and in a replay in its place in the log (R387, R388). -/
def chunkLets (w : World) (c : Nat) (a : Access) : Bool :=
  !a.chunked || !recording w c (timedBlock w c a.owner) ||
  (let ends := endsChunk w c a
   (!(ends || chunkFull w c a) || decide (a.point ≤ vccOf w c)) &&
   (!ends || decide ((w.die (dieOf c)).recMode ≠ 2) || replaysAct w c))

/-- A crossing write leaves for its home (R251): it is counted in its sender's matrix and carries the matrix as it stood.
The flight takes at most the 8 + 64h cycles of R247. -/
def crossSend (w : World) (c owner home aid cyc : Nat) (use : AccessUse) (pv : Bool) (pieces : List (Nat × List Byte × List Nat))
    (pages : List (Nat × Nat × Xlate)) : World :=
  let e := dieOf c % 4
  let x := w.die (dieOf c)
  let y := w.die home
  let clk := matRow x.causal (home % 4)
  let hw : HeldWrite := { id := y.nextHeld, src := e, clk := clk, mat := x.causal, core := c, owner := owner, aid := aid, cyc := cyc,
                          due := w.mach.clock + Config.realDelay w.free % (9 + 64 * dieHops (dieOf c) home),
                          pieces := pieces, pages := pages, use := use, pv := pv }
  let w := (w.step).setDie (dieOf c) { x with causal := matBump x.causal (home % 4) e clk }
  w.modDie home fun y => { y with heldW := y.heldW ++ [hw], nextHeld := y.nextHeld + 1 }

/-- A home applies one more write from die `e` of the module, and learns what its sender knew (R250, R251). -/
def applyCount (d e : Nat) (clk : List Nat) (mat : List (List Nat)) (w : World) : World :=
  w.modDie d fun x => { x with
    applied := (List.range 4).map fun i => x.applied.getD i 0 + (if i = e then 1 else 0)
    causal := matMerge (matBump x.causal (d % 4) e clk) mat }

/-- Bytes of a crossing write reach their home, in order of the memory cycles of its sash (R243); poison goes with them. -/
def heldPieces (d : Nat) (h : HeldWrite) (w : World) : World :=
  h.pieces.foldl (fun w p =>
    let n1 := min p.2.1.length (2 ^ 14 - p.1 % 2 ^ 14)
    let put := fun (w : World) (off o n : Nat) =>
      if n = 0 then w
      else
        let a := pagePlace h.pages d off
        let w := homeWrite w h.core h.cyc a.1 a.2 ((p.2.1.drop o).take n)
        poisonAt w a.1 a.2 ((p.2.2.filter fun i => decide (o ≤ i) && decide (i < o + n)).map (· - o))
    put (put w p.1 0 n1) (p.1 + n1) n1 (p.2.1.length - n1)) w

/-- How much later than its write cycle a crossing write is performed at `.die` and wider: its flight, and the hold at its
home beyond it (R247). -/
def heldExtra (w : World) (d : Nat) (h : HeldWrite) : Nat :=
  perfExtra w.mach (dieOf h.core) d + min (w.mach.clock - h.due) (vccOf w h.core - h.cyc)

/-- A crossing atomic leaves for its home: it is counted as a crossing write of its die, once (R251). -/
def crossCount (w : World) (c : Nat) (a : Access) : World × Access :=
  if a.sent then (w, a)
  else
    let x := w.die (dieOf c)
    let clk := matRow x.causal (a.home % 4)
    let w := w.setDie (dieOf c) { x with causal := matBump x.causal (a.home % 4) (dieOf c % 4) clk }
    let a := { a with sent := true, clk := clk }
    (setAcc w c a, a)

/-- A crossing atomic acts at its home once the home has applied every write that its clock names; its old value may come
late, which pauses the sash from its due cycle (R40, R251; log entry 100). -/
def crossAtomic (w : World) (c : Nat) (b : Block) (a : Access) (op : RmwOp) (st : Store) (key : Nat) : World :=
  let x := crossCount w c a
  let w := x.1
  let a := x.2
  if !clockMet (w.die a.home) a.clk then w
  else
    let vcc := vccOf w c
    let w := applyCount a.home (dieOf c % 4) a.clk (w.die (dieOf c)).causal w
    let w := actAtomic w c b { a with ticket := false } op st key vcc
    let w := w.modDie (dieOf c) fun x => { x with causal := matMerge x.causal (w.die a.home).causal }
    let n := Config.realDelay w.free
    let w := w.step
    if n ≤ 8 then w
    else
      -- the cause was raised H cycles before the due cycle, for a value that was not yet assured (R42)
      let w := w.modCore c fun k => { k with accs := k.accs.map fun (y : Access) => if y.id = a.id then { y with back := w.mach.clock + n } else y }
      addCause w c (max a.due vcc) (.access c a.id)

/-- The access acts: it is sent across the module, or applied at its home. -/
def actNow (c : Nat) (b : Block) (a : Access) (st : Store) (key off vcc : Nat) (w : World) : World :=
  if a.cross then
    match a.kind with
    | .store =>
      if a.sent then w
      else setAcc (crossSend w c a.owner a.home a.id a.cyc .write a.pv [(off, leBytes a.size a.data.toNat, [])] [(a.home, off, a.xl)]) c { a with sent := true }
    | .rmw op _ => crossAtomic w c b a op st key
    | .load =>
      let clk := if a.clk.isEmpty then matRow (w.die (dieOf c)).causal (a.home % 4) else a.clk
      if clockMet (w.die a.home) clk then actHome w c b a st key off vcc else setAcc w c { a with clk := clk }
    | _ => actHome w c b a st key off vcc
  else actHome w c b a st key off vcc

/-- The access acts, at a commit of its own or into the chunk of a core that records (R387). -/
def actRecorded (c : Nat) (b : Block) (a : Access) (st : Store) (key off vcc : Nat) (w : World) : World :=
  if !recording w c b.hdr.timed || !a.chunked then actNow c b a st key off vcc w
  else if endsChunk w c a then
    actsAtCommit c (if a.changes && decide (a.home = dieOf c) && decide (st = .dram) then [key / 64] else []) (actNow c b a st key off vcc) w
  else
    let w := if chunkFull w c a then flushChunk w c else w
    if decide (a.kind = .store) && decide (st = .dram) then
      doneAcc (watchLane (chunkWrite w c a.cyc a.seq key (leBytes a.size a.data.toNat)) c a true off 0) c a vcc 8
    else actNow c b a st key off vcc w

/-- Write bytes are staged, buffered, sent across the module, or applied, as the launch and the route say. -/
def actAccess (w : World) (c : Nat) (b : Block) (a : Access) (st : Store) (key off vcc : Nat) : World :=
  let atomic := match a.kind with | .rmw _ _ => true | _ => false
  let determ := a.changes && decide (a.space ≠ .lane) && b.hdr.determ && !b.hdr.timed
  let g := poisonKey st (key / 64)
  if determ && stages w c b then
    if a.ticket then w
    else if ctxRefused w (dieOf c) (b.bind.ctx + (ctxMap b.hdr).stage + stagedBytes b) 8 true then
      accessFault w c a 0x03 0 (BitVec.ofInt 64 a.addr)
    else
      let w := stageArea w c b 8
      let s : Staged := { cyc := a.cyc, str := a.str, lane := a.lane, seq := a.seq, home := a.home, st := st, key := key, off := off,
                          data := leBytes a.size a.data.toNat, atom := if atomic then some a.id else none,
                          pages := [(a.home, off, a.xl)], pv := a.pv }
      let w := w.setBlock c a.owner { b with staged := b.staged ++ [s] }
      let w := putTickets w b a.home st key a.size
      if atomic then setAcc (ensureCause w c (max a.due vcc) (.ticket c a.owner)) c { a with ticket := true } else doneAcc (watchLane w c a true off 0) c a vcc 0
  else if determ && atomic && ticketFault (w.die a.home) b g then accessFault w c a 0x08 0 0
  else actRecorded c b a st key off vcc (if determ then putTickets w b a.home st key a.size else w)

/-- Cycles before the memory cycle at which an access arrives at its owner: those of a die-space access (R38, R315). -/
def homeCycles : Nat := 440

/-- An access that cannot be made faults at its memory cycle; where that is found only later, at its named cycle P, which
the sash has not passed (R42, R312, R313). -/
def badAccess (w : World) (c : Nat) (a : Access) (code : Nat) : World :=
  let vcc := vccOf w c
  if vcc = a.cyc || decide (a.due ≤ vcc) then accessFault w c a code 0 (BitVec.ofInt 64 a.addr)
  else setAcc w c { a with xl := .bad code, cyc := a.due }

/-- An access of lane, die or fabric space at its memory cycle or later (R179, R313, R318, R321). -/
def applyDie (w : World) (c : Nat) (b : Block) (a : Access) : World :=
  let vcc := vccOf w c
  if a.xl = .need then
    -- it has arrived at its owner (R315)
    if vcc + homeCycles < a.cyc then w
    else
      let x := startXlate w c a.home (a.off b) a.kind.use false
      setAcc x.1 c { a with xl := x.2 }
  else match a.marks.find? fun m => !markMet w c vcc m with
  | some _ => setAcc w c { a with cyc := a.cyc + 1, due := a.due + 1 }
  | none =>
    if a.late then w
    else match a.xl with
    | .bad code => badAccess w c a code
    | .ok l =>
      let off := a.off b
      let arming := match a.kind with | .arm _ _ => true | .disarm => true | _ => false
      let p := l.place a.home off
      if !arming && l.refuses a.kind.use a.pv (decide (a.space = .lane)) then badAccess w c a 0x03
      else if l.host && !arming then setAcc w.step c { a with xl := .hostWait l (w.later 0) }
      else if decide (a.kind ≠ .store) && !arming && poisonedRead w b p.1 p.2 a.size a.cyc then setAcc w c { a with xl := .bad 0x09, cyc := max a.due vcc }
      else actAccess w c b a p.1 p.2 off vcc
    | .hostOk l =>
      let off := a.off b
      let p := l.place a.home off
      actAccess w c b a p.1 p.2 off vcc
    | _ => w

/-! ## Tile store and accumulator -/

/-- Order of the lanes of a core, and of the instructions of one lane (R180). -/
def accBefore (a b : Access) : Bool :=
  decide (a.cyc < b.cyc) || (decide (a.cyc = b.cyc) && (decide (a.str * 32 + a.lane < b.str * 32 + b.lane) ||
    (decide (a.str * 32 + a.lane = b.str * 32 + b.lane) && decide (a.seq ≤ b.seq))))

/-- Bank of a tile-store address (R188). -/
def bankOf (addr : Nat) : Nat := addr / 8 % 64

/-- Results of a course that are ready by a cycle and still to be delivered, put into a copy of it. -/
def Write.onCourse (k : Course) : Write → Course
  | .lane j x v => k.setReg x j v
  | .pred p mask vals => k.setPred p mask vals
  | .uni n v => k.setUni n v
  | _ => k

/-- The course as its lanes will read it in this cycle. -/
def settledCourse (kc : Core) (k : Course) (vcc : Nat) : Course :=
  (kc.results.filter fun r => decide (r.ready ≤ vcc) && decide (r.owner = k.owner) && decide (r.cr = k.cr)).foldl
    (fun k r => r.writes.foldl Write.onCourse k) k

/-- The bank of a lane's element, where the lane is enabled and the tile atomic does not fault. -/
def laneBank (kc : Core) (b : Block) (k : Course) (lanes : LaneMask) (h vcc : Nat) (f : Form) (j : Nat) : Option Nat :=
  if lanes.getLsbD j then (tatomAddr kc b h ((k.src j f.a).toNat % 2 ^ 32) ((k.src j f.b).toNat % 2 ^ 32) vcc).map bankOf else none

/-- Handle and index register of a tile atomic. -/
def tatomOf : Instr → Option (Nat × Nat)
  | .tatomAdd _ h b => some (h.toNat, b.toNat)
  | .tatomMin _ h b => some (h.toNat, b.toNat)
  | .tatomMax _ h b => some (h.toNat, b.toNat)
  | .tatomExch _ h b => some (h.toNat, b.toNat)
  | .tatomCas _ h b => some (h.toNat, b.toNat)
  | _ => none

/-- Every mark is met in this cycle. -/
def marksMet (w : World) (c owner : Nat) (ms : List Mark) : Bool := ms.all fun m => markMet w c (vccOf w c) m && !markStaged w c owner m

/-- Bank that a tile atomic which a string issues in this cycle reserves by its lane 0 (R199, R200). -/
def reservingIssue (w : World) (c s vcc : Nat) : Option Nat :=
  match readyTurn w c s with
  | none => none
  | some t =>
    let x := t.pth.slotWord
    if !t.pth.atHand || !t.pth.due || t.pth.holdReq || t.pth.stopNext || decide (x.2.2 ≠ 0) || decide (x.2.1 % 2 ≠ 0) then none
    else match decodeWord (w.module (modOf c)).faccept x.1 with
      | .ok i => match tatomOf i with
        | some (h, r) =>
          let k := settledCourse (w.core c) t.crs vcc
          let u := t.issuer vcc
          if !marksMet w c t.crs.owner t.pth.marks then none else
          laneBank (w.core c) t.blk k (k.enabled t.pth.mask u.pred u.neg) h vcc { op := .alu .mov, a := .reg (k.wb + r), b := .reg (k.wb + r + 1) } 0
        | none => none
      | .error _ => none

/-- A tile atomic whose lane has executed, and which begins its reservation in this cycle. -/
def Access.begins (w : World) (c vcc : Nat) (a : Access) : Bool :=
  (match a.kind with | .tread _ _ => true | _ => false) && a.done.isNone && !a.logged && decide (a.cyc ≤ vcc) && decide (a.xl ≠ .bad 0x09) &&
  marksMet w c a.owner a.marks && !((w.core c).faults ++ (w.core c).waiting).any fun f => decide (f.work = .access a.id) || f.also.contains a.id

/-- Banks that tile atomics of a string ask for in this cycle: their lanes execute in it, or have waited until it (R199, R200). A
mark that is not met holds a tile atomic, which asks for nothing. -/
def askedBanks (w : World) (c s vcc : Nat) : List Nat :=
  let kc := w.core c
  ((kc.accs.filter fun a => decide (a.str = s) && a.begins w c vcc).map fun a => bankOf a.addr.toNat) ++
  (kc.flights.filterMap fun f =>
    match f.form.op, w.block? c f.owner, w.course? c f.owner f.cr with
    | .tatom _ h, some b, some k0 =>
      let k := settledCourse kc k0 vcc
      if k.str = s && f.next < 32 && f.cyc + f.next = vcc && marksMet w c f.owner f.marks then
        laneBank kc b k (k.enabled (f.mask &&& k.live) f.pred f.neg) h vcc f.form f.next
      else none
    | _, _, _ => none) ++ (reservingIssue w c s vcc).toList

/-- A reservation covers a bank in a cycle. -/
def Reserve.covers (r : Reserve) (bank vcc : Nat) : Bool := decide (r.bank = bank) && decide (r.cyc ≤ vcc) && decide (vcc ≤ r.cyc + 2)

/-- Strings and banks of the reservations that begin in this cycle: a tile atomic that itself meets a reservation of
another string, or of an earlier string of this cycle, collides and reserves nothing (R200). -/
def reservingNow (w : World) (c vcc : Nat) : List (Nat × Nat) :=
  (List.range 8).foldl (fun l s => (askedBanks w c s vcc).foldl (fun l bank =>
    if ((w.core c).resv.any fun r => decide (r.str ≠ s) && r.covers bank vcc) || (l.any fun x => decide (x.1 ≠ s) && decide (x.2 = bank)) then l
    else l ++ [(s, bank)]) l) []

/-- Banks that an access touches: two where it straddles them. -/
def Access.banks (a : Access) : List Nat := [bankOf a.addr.toNat, bankOf (a.addr.toNat + a.size - 1)]

/-- An access to the tile store meets a reservation of another string (R200). Of two that begin in one cycle, the one
later in the order of strings collides. -/
def collides (w : World) (c : Nat) (a : Access) (vcc : Nat) : Bool :=
  let first := match a.kind with | .tread _ _ => true | _ => false
  a.banks.any fun bank =>
    ((w.core c).resv.any fun r => decide (r.str ≠ a.str) && r.covers bank vcc) ||
    (reservingNow w c vcc).any fun x => decide (x.2 = bank) && decide (x.1 ≠ a.str) && (!first || decide (x.1 < a.str))

/-- Store that backs a tile access. -/
def tileStore (a : Access) : Store := if a.space = .ts then .ts else .acc
/-- Key of a tile access's first byte. -/
def tileKey (c : Nat) (a : Access) : Nat := levelKey (if a.space = .ts then 0 else 1) c a.addr.toNat

/-- A tile atomic's new value and flags (R198). -/
def tatomEval (op : RmwOp) (fmt old v new : Nat) : Nat × FpFlags :=
  if fmt = 4 then
    match op with
    | .add => addF .f32 .rne (unpackF .f32 old) (unpackF .f32 v)
    | .min _ => minmaxF .f32 false old v
    | .max _ => minmaxF .f32 true old v
    | op => (rmwEval op 32 old v new, 0)
  else
    match op with
    | .min _ => (rmwEval (.min (decide (fmt = 1))) 32 old v new, 0)
    | .max _ => (rmwEval (.max (decide (fmt = 1))) 32 old v new, 0)
    | op => (rmwEval op 32 old v new, 0)

/-- Element bits of an access's handle, for its watch report. -/
def handleBits (w : World) (c : Nat) (b : Block) (a : Access) : Nat := fmtBits (descOf (w.core c) b a.handle).fmt

/-- A tile or accumulator access at its memory cycle (R180, R199, R200). -/
def applyTile (w : World) (c : Nat) (b : Block) (a : Access) : World :=
  let vcc := vccOf w c
  let st := tileStore a
  let key := tileKey c a
  match a.marks.find? fun m => !markMet w c vcc m || markStaged w c a.owner m with
  | some _ => setAcc w c { a with cyc := a.cyc + 1, due := a.due + 1 }
  | none =>
    let bank := bankOf a.addr.toNat
    if a.xl = .bad 0x09 then accessFault w c a 0x09 0 (BitVec.ofInt 64 a.addr)
    else if decide (a.space = .ts) && collides w c a vcc then
      if b.hdr.timed then accessFault w c a 0x02 3 0
      else setAcc w c { a with cyc := a.cyc + 1, due := a.due + 1 }
    else
      match a.kind with
      | .load =>
        if w.mem.poisoned st key a.size then accessFault w c a 0x09 0 (BitVec.ofInt 64 a.addr)
        else
          let w := watchLane w c a false 0 (handleBits w c b a)
          let w := landResult w c a (BitVec.ofNat 64 (leNat (w.mem.bytes st key a.size))) 0
          doneAcc (countAct w c a.owner (·.bytes a.size)) c a vcc 0
      | .store =>
        let w := watchLane (tileWrite w st key (leBytes a.size a.data.toNat)) c a true 0 (handleBits w c b a)
        doneAcc (countAct w c a.owner (·.bytes a.size)) c a vcc 0
      | .tread op fmt =>
        if w.mem.poisoned st key 4 then
          -- POISON comes at the data due cycle (R332); the bank is reserved all the same
          let w := w.modCore c fun k => { k with resv := k.resv ++ [{ bank := bank, cyc := vcc, str := a.str, lane := a.lane, seq := a.seq }] }
          setAcc w c { a with xl := .bad 0x09, cyc := max a.due vcc }
        else
          let prev := (sortBy accBefore ((w.core c).accs.filter fun x => decide (x.space = .ts) && decide (x.addr = a.addr) &&
            decide (x.str = a.str) && x.logged && x.done.isNone && decide (x.id ≠ a.id))).getLast?
          let old := match prev with
            | some x => x.data.toNat
            | none => leNat (w.mem.bytes st key 4)
          let r := tatomEval op fmt old a.data.toNat (a.data2.toNat % 2 ^ 32)
          let w := countAct (watchLane w c a true 0 32) c a.owner (·.bytes 8)
          let w := landResult w c a (BitVec.ofNat 64 old) r.2
          let w := w.modCore c fun k => { k with resv := k.resv ++ [{ bank := bank, cyc := vcc, str := a.str, lane := a.lane, seq := a.seq }] }
          setAcc w c { a with logged := true, data := BitVec.ofNat 64 r.1, cyc := vcc + 2 }
      | _ => w

/-- MEMORY_ACCESS_APPLY: an access is applied at its home (R179). -/
def applyAccess (c aid : Nat) (w : World) : World :=
  match (w.core c).accs.find? fun a => decide (a.id = aid) with
  | none => w
  | some a =>
    match w.block? c a.owner with
    | none => w.modCore c fun k => { k with accs := k.accs.filter fun (x : Access) => decide (x.id ≠ aid) }
    | some b =>
      if a.done.isSome then
        -- the old value of a crossing atomic is at hand
        if a.back ≠ 0 then clearCause (setAcc w c { a with back := 0 }) c (.access c aid) else w
      else match a.space with
      | .ts => applyTile w c b a
      | .acc => applyTile w c b a
      | .host => w
      | _ => applyDie w c b a

/-- TATOM_WRITE_HALF: the write half of a tile atomic (R199). -/
def tatomWrite (c aid : Nat) (w : World) : World :=
  match (w.core c).accs.find? fun a => decide (a.id = aid) with
  | none => w
  | some a =>
    if a.done.isSome || !a.logged then w
    else doneAcc (tileWrite w .ts (tileKey c a) (leBytes 4 a.data.toNat)) c a (vccOf w c) 0

/-! ## Host accesses (R186, R318) -/

/-- HOST_ACCESS_COMPLETE: a host access, or an access to a host-backed page, completes over the link. -/
def hostComplete (c aid : Nat) (refused : Bool) (w : World) : World :=
  match (w.core c).accs.find? fun a => decide (a.id = aid) with
  | none => w
  | some a =>
    match w.block? c a.owner with
    | none => w
    | some _ =>
      match a.space, a.xl with
      | .host, _ =>
        let key := hostKey (modOf c) (a.addr.toNat % 2 ^ 64)
        if a.marks.any fun m => !markMet w c (vccOf w c) m || markStaged w c a.owner m then setAcc w.step c { a with due := w.later 1 } else
        let fin := fun (w : World) => finishTag (setAcc w c { a with done := some (vccOf w c) }) c a.owner a.tag
        if refused then fin (accessFault w c a 0x03 0 (BitVec.ofInt 64 a.addr))
        else
          match a.kind with
          | .load =>
            let r := untimed w c a.owner a.cr a.lane (pcWord a.pc).toNat a.addr.toNat (leNat (w.mem.bytes .host key a.size))
            let v := r.2
            let w := touchSample r.1 c a.seq fun x => { x with level := 8 }
            fin (pushResult w c a.owner a.cr a.seq (vccOf w c) a.from_ (dstWrites a.dst a.lane (BitVec.ofNat 64 v)) 0)
          | _ => fin (outsideWrite w .host key (leBytes a.size a.data.toNat))
      | _, .hostWait l _ => clearCause (setAcc w c { a with xl := .hostOk l }) c (.access c a.id)
      | _, _ => w

/-! ## Causal and ticket releases -/

/-- The words by which a crossing write stands in its home's log: KIND 0x32, its core, the number from 1 of its die, and its
memory cycle with length 0. DESIGN CHOICE: R387 makes it an entry of that log and gives it no words (log entry 111). -/
def crossEntry (h : HeldWrite) : List Nat :=
  [0x32 * 2 ^ 24, targetWord h.core 0 0 0, 1 + dieOf h.core, 0, 0, 0] ++ lohi h.cyc ++ List.replicate 8 0

/-- Numbers of the log's records, from the replay's place on, that stand for a crossing write. -/
def crossRecs (w : World) (d : Nat) (h : HeldWrite) : List Nat :=
  let base := (w.die d).recBase
  let e := crossEntry h
  (ringNos w d base).filter fun n => decide ((w.die d).recPos ≤ n) &&
    ([0, 1, 2, 6, 7].all fun i => decide (ringWord w d base n i = (e[i]?).getD 0))

/-- In a replay a crossing write that the log holds is applied at its place in it (R388). -/
def crossTurn (w : World) (d : Nat) (h : HeldWrite) : Bool :=
  decide ((w.die d).recMode ≠ 2) || (match crossRecs w d h with
    | [] => true
    | n :: _ => decide ((replayEntry w d).map Prod.fst = some n))

/-- A crossing write is committed in its home's order: an entry of the log of a home that records, and a replay's next place
(R387, R388). -/
def crossCommit (w : World) (d : Nat) (h : HeldWrite) : World :=
  let x := w.die d
  if x.recMode = 1 then ringWrite w d x.recBase (crossEntry h)
  else if x.recMode = 2 then (match crossRecs w d h with
    | [] => w
    | n :: _ => w.modDie d fun x => { x with recPos := n + 1 })
  else w

/-- CAUSAL_APPLY: a die applies an arrived crossing write whose clock is met (R251). Where a shoot-down had it translated
again and that failed, the access faults and has no effect. -/
def causalApply (d hid : Nat) (w : World) : World :=
  match (w.die d).heldW.find? fun h => decide (h.id = hid) with
  | none => w
  | some h =>
    let w := w.modDie d fun x => { x with heldW := x.heldW.filter fun y => decide (y.id ≠ hid) }
    let w := applyCount d h.src h.clk h.mat w
    let acc := (w.core h.core).accs.find? fun a => decide (a.id = h.aid)
    match pageGate h.pages h.use h.pv with
    | .fail code _ _ => match acc with
      | some a => accessFault w h.core { a with sent := false } code 0 (BitVec.ofInt 64 a.addr)
      | none => w
    | _ =>
      let n := heldExtra w d h
      let w := heldPieces d h (crossCommit w d h)
      match acc with
      | some a => (setAcc w h.core { a with done := some a.cyc, extra := n }).modCore h.core fun k => k.logFree false a.id
      | none => w

/-- Order in which a block's staged writes are released (R258): memory cycle, string, lane, issue. -/
def Staged.before (a b : Staged) : Bool :=
  decide (a.cyc < b.cyc) || (decide (a.cyc = b.cyc) && (decide (a.str < b.str) || (decide (a.str = b.str) &&
    (decide (a.lane < b.lane) || (decide (a.lane = b.lane) && decide (a.seq ≤ b.seq))))))

/-- A staged write goes to its home: at once, or as a crossing write (R251, R258). One that a shoot-down had translated
again, and whose page is gone, faults and has no effect (DESIGN CHOICE: its record names no instruction; log entry 102). -/
def releaseWrite (w : World) (c : Nat) (b : Block) (s : Staged) : World :=
  let use : AccessUse := if s.str = 8 then .engineWrite else .write
  match pageGate s.pages use s.pv with
  | .fail code _ _ => takeFault w c (({ code := code, src := 7, owner := b.bind.owner, vcc := 0, info := BitVec.ofNat 64 s.off } : FaultRec).ofBlock b)
  | _ =>
    if crosses b c .fab s.home then crossSend w c b.bind.owner s.home 0 s.cyc use s.pv [(s.off, s.data, s.bad)] s.pages
    else poisonAt (homeWrite w c s.cyc s.st s.key s.data) s.st s.key s.bad

/-- A staged atomic acts, or has no effect and faults: where a shoot-down had it translated again and its page is gone or
refuses it (R313, R321), or a lower block has written the granule (R203). -/
def releaseAtomic (w : World) (c : Nat) (b : Block) (s : Staged) (a : Access) : World :=
  let a := { a with ticket := false }
  let fail := fun (code : Nat) (info : W64) => accessFault w c a code 0 info
  match pageGate s.pages .atomic s.pv with
  | .fail code _ _ => fail code (BitVec.ofInt 64 a.addr)
  | .hostPage => fail 0x03 (BitVec.ofInt 64 a.addr)
  | _ =>
    if ticketFault (w.die s.home) b (poisonKey s.st (s.key / 64)) then fail 0x08 0
    else match a.kind with
      | .rmw op _ =>
        if a.cross then
          -- it acts when its home has applied what precedes it, and its sash stands from its due cycle (R40)
          crossAtomic (addCause (setAcc w c a) c (max a.due (vccOf w c)) (.access c a.id)) c b a op s.st s.key
        else actAtomic w c b a op s.st s.key (vccOf w c)
      | _ => w

/-- TICKET_RELEASE: a block became the head, and its staged writes go to their homes (R258). An atomic to a
granule that a lower block has written faults with 0x08 (R203). -/
def ticketRelease (c o : Nat) (w : World) : World :=
  match w.block? c o with
  | none => w
  | some b =>
    let w := w.setBlock c o { b with staged := [] }
    let w := (sortBy Staged.before b.staged).foldl (fun w s =>
      match s.atom with
      | none => releaseWrite w c b s
      | some aid => match (w.core c).accs.find? fun a => decide (a.id = aid) with
        | none => w
        | some a => releaseAtomic w c b s a) w
    clearCause w c (.ticket c o)

end Sys2Proof.Machine
end

