-- ==== Sys2Proof/Machine/LaneExec.lean ====
section
/-! DEFINITION. What the lanes of an issued instruction do at their own cycles: LANE_EXECUTE (R16),
CHAIN_STEP and BRO_WRITE (R19), RESULT_READY (R9, R16, R73). -/

namespace Sys2Proof.Machine

/-- Replace a flight; one whose lanes are all done is dropped, but a chained one waits for BRO_WRITE. -/
def setFlight (w : World) (c : Nat) (f : Flight) : World :=
  let same := fun (x : Flight) => decide (x.seq = f.seq) && decide (x.stride = f.stride) && decide (x.redo = f.redo)
  let keep := fun (x : Flight) => (decide (x.next < 32) && (decide (x.redo = 0) || decide (x.next ≤ lowestLane x.redo))) || decide (x.stride = 4)
  w.modCore c fun k => { k with flights := (k.flights.map fun x => if same x then f else x).filter keep }

/-- A lane of a flight is active and enabled now (R16, R155). DESIGN CHOICE: a lane counts as active in the issuing path when
it was in the path at I and has not exited. One that leaves the path by a transfer or a `join` between I and I + j still
executes an ordinary instruction; the specification settles only an exit (R155) and a chained sweep (R171) (log entry 17). -/
def laneOn (k : Course) (f : Flight) (lane : Nat) : Bool := (k.enabled (f.mask &&& k.live) f.pred f.neg).getLsbD lane

/-- The draw of R72: lane is `%ln` + 32 per element. -/
def drawOf (b : Block) (f : Flight) (lane e : Nat) : Nat :=
  srDraw f.seed.toNat f.dii.toNat ((if b.hdr.compat then lane % 16 else lane) + 32 * e)

/-! ## Cross-lane results (R163 to R167, R178) -/

/-- Source position of a pick in a tile of width `w` (R164); none gives the lane its own value (R178). -/
def pickSource (op : XOp) (compat : Bool) (w l b : Nat) : Option Nat :=
  match op with
  | .pickAt => some (b % w)
  | .pickBack => if compat then (if b ≤ l then some (l - b) else none) else some ((l + w - b % w) % w)
  | .pickFwd => if compat then (if l + b < 16 then some (l + b) else none) else some ((l + b) % w)
  | _ => if compat then (if l ^^^ b < 16 then some (l ^^^ b) else none) else some ((l ^^^ b) % w)

/-- What an enabled lane receives from a collected cross-lane instruction. -/
def xValue (op : XOp) (compat : Bool) (w : Nat) (coll : List (Bool × W32 × W32)) (j : Nat) : W32 :=
  let entry := fun (n : Nat) => (coll[n]?).getD (false, 0, 0)
  let t := j / w * w
  let en := ((List.range w).map (t + ·)).filter fun n => (entry n).1
  let vals := en.map fun n => (entry n).2.1
  match op with
  | .pollAny _ => if vals.any (· ≠ 0) then 1 else 0
  | .pollAll _ => if vals.all (· ≠ 0) then 1 else 0
  | .pollMap _ =>
    let m := en.foldl (fun m n => if (entry n).2.1 ≠ 0 then m ||| laneBit n else m) (0 : LaneMask)
    if compat then BitVec.ofNat 32 (m.toNat / 2 ^ t) else m
  | .redAdd => vals.foldl (· + ·) 0
  | .redMin uns => vals.foldl (fun a b => if (if uns then decide (b.toNat < a.toNat) else decide (b.toInt < a.toInt)) then b else a) (vals.headD 0)
  | .redMax uns => vals.foldl (fun a b => if (if uns then decide (a.toNat < b.toNat) else decide (a.toInt < b.toInt)) then b else a) (vals.headD 0)
  | .first idx =>
    let n := en.headD j
    if idx then BitVec.ofNat 32 (if compat then n % 16 else n) else (entry n).2.1
  | op =>
    match pickSource op compat w (j - t) (entry j).2.2.toNat with
    | some x => (entry (t + x)).2.1
    | none => (entry j).2.1

/-- Record the results of a collected cross-lane instruction, lane j ready at I + j + 36 (R163). -/
def deliverCross (w : World) (c : Nat) (b : Block) (f : Flight) (op : XOp) : World :=
  (List.range 32).foldl (fun w j =>
    if ((f.coll[j]?).getD (false, 0, 0)).1 then
      let v := xValue op b.hdr.compat f.part f.coll j
      pushResult w c f.owner f.cr f.seq (f.cyc + j + f.form.lat) f.from_ (dstWrites f.form.dst j (v.zeroExtend 64)) 0
    else w) w

/-! ## One lane (R16) -/

/-- What the lanes of the walker's vector receive (R197). -/
def rlwWrites (dst : Dst) (x0 total : Nat) (starts : List (Nat × Nat)) (p : BitVec 3) (j : Nat) : List Write :=
  let x := x0 + j
  let bit := laneBit j
  match (starts.filter fun r => decide (r.1 ≤ x)).getLast? with
  | some r =>
    if x < total then
      dstWrites dst j (BitVec.ofNat 64 (x + r.2 * 2 ^ 32)) ++ [.pred p bit bit, .pred 6 bit (if x = r.1 then bit else 0)]
    else [.pred p bit 0, .pred 6 bit 0]
  | none => [.pred p bit 0, .pred 6 bit 0]

/-- Bytes of a size, as a lane memory operation uses it. -/
def rmwBytes (w64 : Bool) : Nat := if w64 then 8 else 4

/-- What an enabled lane of a flight does in its cycle. -/
def laneAct (w : World) (c : Nat) (b : Block) (k : Course) (f : Flight) (j : Nat) : World :=
  let e := vccOf w c
  let out := fun (w : World) (lat : Nat) (v : W64) (fl : FpFlags) => pushResult w c f.owner f.cr f.seq (e + lat) f.from_ (dstWrites f.form.dst j v) fl
  match f.form.op with
  | .alu op =>
    let r := aluEval op (k.src j f.form.a) (k.src j f.form.b) (k.src j f.form.c) (drawOf b f j)
    out w f.form.lat r.val r.flags
  | .mfs n =>
    let v := readSr w c b k n j f.dii
    let z := if n = 5 then untimed w c f.owner f.cr j (pcWord f.pc).toNat 0 v.toNat else (w, v.toNat)
    out z.1 f.form.lat (BitVec.ofNat 64 z.2) 0
  | .mts n =>
    -- the lowest-enabled-lane rule: the lowest active lane of the path, or none (R118, R148)
    if j ≠ lowestLane f.mask then w
    else
      let v := k.src j f.form.a
      if n = 0x12 && !pcGood v then laneFault w c f j 0x04 0 v
      else pushResult w c f.owner f.cr f.seq (e + 2) f.from_ [.sr n v] 0
  | .load sp sz off => formAccess w c e b k f j .load sp (sizeBytes sz) off 0 0
  | .store sp sz off => formAccess w c e b k f j .store sp (sizeBytes sz) off (k.src j f.form.b) 0
  | .mcast mask sz => formMcast w c e b k f j mask (sizeBytes sz) (k.src j f.form.b)
  | .tile ld lv h sz => formTile w c e b k f j ld lv h (sizeBytes sz)
  | .host ld tag sz => formHost w c e k f j ld tag (sizeBytes sz) (k.src j f.form.b)
  | .rmw sp op w64 => formAccess w c e b k f j (.rmw op w64) sp (rmwBytes w64) 0 (k.src j f.form.b) (k.src j f.form.c)
  | .tatom op h => formTatom w c e b k f j op h
  | .tdesc h =>
    let d := (descOf (w.core c) b h).bits
    if b.hdr.handles ≤ h then laneFault w c f j 0x05 0 (BitVec.ofNat 64 h)
    else
      let base := match f.form.dst with | .quad x => x | _ => 0
      pushResult w c f.owner f.cr f.seq (e + f.form.lat) f.from_ ((List.range 4).map fun i => .lane j (base + i) (BitVec.ofNat 32 (d / 2 ^ (32 * i)))) 0
  | .rlwNext x0 total starts p => pushResult w c f.owner f.cr f.seq (e + f.form.lat) f.from_ (rlwWrites f.form.dst x0 total starts p j) 0
  | _ => w

/-- Accesses of lanes that a core has outstanding (R331). -/
def outstanding (k : Core) : Nat := (k.accs.filter fun a => a.done.isNone && decide (a.space ≠ .host)).length

/-- Accesses that a lane of an instruction may make: one, or one for each replica (R187). -/
def LaneOp.width : LaneOp → Nat
  | .mcast mask _ => ((List.range 4).filter mask.getLsbD).length
  | _ => 1

/-- A host access instruction whose lanes have all executed and whose accesses have all completed sets its tag (R186). -/
def hostTagEnd (c : Nat) (f : Flight) (w : World) : World :=
  match f.form.op with
  | .host _ t _ => finishTag w c f.owner t
  | _ => w

/-- An enabled lane of an instruction reads a poisoned source (R332). `mts` reads its register only in the lowest active lane (R118,
R162). -/
def laneReadsPoison (k : Course) (f : Flight) (j : Nat) : Bool :=
  (srcPoisoned k j f.form.a || srcPoisoned k j f.form.b || srcPoisoned k j f.form.c) &&
  (match f.form.op with | .mts _ => decide (j = lowestLane f.mask) | _ => true)

/-- LANE_EXECUTE: lane `j` of an issued instruction executes (R16). -/
def laneExecute (c seq j : Nat) (w : World) : World :=
  match (w.core c).flights.find? fun f => decide (f.seq = seq) && decide (f.stride = 1) && decide (f.next = j) with
  | none => w
  | some f =>
    match w.block? c f.owner, w.course? c f.owner f.cr with
    | some b, some k =>
      let on := laneOn k f j
      if on && isMemOp f.form.op && decide (Config.operandLog < outstanding (w.core c) + f.form.op.width) then setFlight w c { f with cyc := f.cyc + 1 }
      else
        let e := vccOf w c
        let w := touchSample w c f.seq fun x => { x with read := e - f.issue, exec := e - f.issue }
        let w := if on then countAct w c f.owner (·.lane f.form.col) else w
        match f.form.op with
        | .xlane op =>
          let v := match op with
            | .pollAny q => if (k.pred q).getLsbD j then 1 else 0
            | .pollAll q => if (k.pred q).getLsbD j then 1 else 0
            | .pollMap q => if (k.pred q).getLsbD j then 1 else 0
            | _ => (k.src j f.form.a).truncate 32
          let f' := { f with coll := f.coll ++ [(on, v, (k.src j f.form.b).truncate 32)], next := j + 1 }
          let w := setFlight w c f'
          let w := if j = 31 then deliverCross w c b f' op else w
          -- a pick reads the source of every lane, enabled or not (R164)
          let picks := match op with | .pickAt => true | .pickBack => true | .pickFwd => true | .pickXor => true | _ => false
          if ((on || picks) && srcPoisoned k j f.form.a) || (on && srcPoisoned k j f.form.b) then laneFault w c f j 0x09 0 0 else w
        | _ =>
          let w := setFlight w c { f with next := j + 1 }
          hostTagEnd c f (if !on then w
          else if laneReadsPoison k f j then laneFault w c f j 0x09 0 0
          else laneAct w c b k f j)
    | _, _ => w.modCore c fun k => { k with flights := k.flights.filter fun (x : Flight) => decide (x.seq ≠ seq) }

/-! ## The chain column (R19) -/

/-- CHAIN_STEP: lane `j` of a chained sweep. -/
def chainStep (c seq j : Nat) (w : World) : World :=
  match (w.core c).flights.find? fun f => decide (f.seq = seq) && decide (f.stride = 4) && decide (f.next = j) with
  | none => w
  | some f =>
    match f.form.op, w.course? c f.owner f.cr with
    | .chain op seg br, some k =>
      let e := vccOf w c
      let w := touchSample w c f.seq fun x => { x with read := e - f.issue, exec := e - f.issue }
      let first := decide (j % f.part = 0) || (seg && (k.pred 6).getLsbD j)
      let p := if first && !(decide (j = 0) && br) then 0 else f.link
      let on := laneOn k f j
      let w := if on then countAct w c f.owner (·.lane .chain) else w
      if on && (srcPoisoned k j f.form.a || srcPoisoned k j f.form.b) then
        laneFault (setFlight w c { f with link := p, next := j + 1 }) c { f with link := p } j 0x09 0 0
      else if on then
        let r := chainEval op (k.src j f.form.a) (k.src j f.form.b) p
        let w := pushResult w c f.owner f.cr f.seq (e + f.form.lat) f.from_ (dstWrites f.form.dst j r.val) r.flags
        setFlight w c { f with link := linkBits op r.val, last := linkBits op r.val, any := true, next := j + 1 }
      else setFlight w c { f with link := p, next := j + 1 }
    | .chain _ _ _, none =>
      -- the course has exited and given up its slot (R340): no lane is active (R155)
      if (w.block? c f.owner).isSome then setFlight w c { f with next := j + 1 }
      else w.modCore c fun x => { x with flights := x.flights.filter fun (y : Flight) => decide (y.seq ≠ seq) }
    | _, _ => w.modCore c fun x => { x with flights := x.flights.filter fun (y : Flight) => decide (y.seq ≠ seq) }

/-- BRO_WRITE: `%bro` at the end of a chained sweep, with the value of the last active lane, or `%bri` of I
where no lane was active (R19). DESIGN CHOICE: a sweep whose course exits goes on, its link passing through the exited
lanes (R155), and writes `%bro` at I + 128 as R19 says; R155's "the value last written" is then that one (log entry 18). -/
def broWrite (c seq : Nat) (w : World) : World :=
  match (w.core c).flights.find? fun f => decide (f.seq = seq) && decide (f.stride = 4) && decide (32 ≤ f.next) with
  | none => w
  | some f =>
    let w := w.modCore c fun x => { x with flights := x.flights.filter fun (y : Flight) => decide (y.seq ≠ seq) }
    let w := touchSample w c f.seq fun x => { x with wb := vccOf w c - f.issue }
    match w.course? c f.owner f.cr with
    | some k => w.setCourse c f.owner f.cr { k with bro := f.last }
    | none => w.modBlock c f.owner fun b => { b with bros := b.bros.put f.cr f.last }

/-! ## RESULT_READY -/

/-- A 64-bit write of an aligned register granule clears its poison (R332). -/
def clearGranule (k : Course) (ws : List Write) : Write → Course
  | .lane j x _ =>
    if x % 2 = 0 && ws.any fun y => match y with | .lane j2 x2 _ => j2 = j && x2 = x + 1 | _ => false
    then { k with poison := Tab.set false k.poison (x / 2 * 32 + j) false } else k
  | _ => k

/-- Deliver one write to a live lane, a predicate, a uniform register or a special register. -/
def deliverWrite (c o r : Nat) (w : World) (x : Write) : World :=
  match x with
  | .lane j n v => w.modCourse c o r fun k => if k.live.getLsbD j then k.setReg n j v else k
  | .pred p m v => w.modCourse c o r fun k => k.setPred p (m &&& k.live) v
  | .uni n v => w.modCourse c o r fun k => k.setUni n v
  | .sr n v =>
    match n with
    | 0x0A => w.modCourse c o r fun k => { k with seed := v }
    | 0x0D => w.modBlock c o fun b => { b with bseed := v }
    | 0x11 => w.modCourse c o r fun k => { k with fpst := (v.truncate 5 : BitVec 5).zeroExtend 32 }
    | 0x12 => w.modCourse c o r fun k => { k with tpc := v }
    | _ => w

/-- The lane of a result is still in the course: only then does it raise its flags (R73, R155). -/
def resultLive (k : Course) (ws : List Write) : Bool :=
  match ws with
  | .lane j _ _ :: _ => k.live.getLsbD j
  | .pred _ m _ :: _ => decide (m &&& k.live ≠ 0)
  | _ => true

/-- RESULT_READY: a result lands, and its flags are set (R9, R16, R73). -/
def resultReady (c rid : Nat) (w : World) : World :=
  match (w.core c).results.find? fun r => decide (r.id = rid) with
  | none => w
  | some r =>
    let w := w.modCore c fun k => { k with results := k.results.filter fun (x : Result) => decide (x.id ≠ rid) }
    let w := touchSample w c r.seq fun x => { x with wb := max x.wb (r.ready - x.issue) }
    let w := r.writes.foldl (deliverWrite c r.owner r.cr) w
    w.modCourse c r.owner r.cr fun k =>
      let k := r.writes.foldl (fun k x => clearGranule k r.writes x) k
      if resultLive k r.writes then k.raise r.flags else k

/-! ## The steps -/

/-- LANE_EXECUTE (R16). -/
def execLaneExecute (c seq lane : Nat) (s : State) : Host.Outcome State Fault Refusal := runEvent (laneExecute c seq lane) s

/-- CHAIN_STEP (R19). -/
def execChainStep (c seq lane : Nat) (s : State) : Host.Outcome State Fault Refusal := runEvent (chainStep c seq lane) s

/-- BRO_WRITE (R19). -/
def execBroWrite (c seq : Nat) (s : State) : Host.Outcome State Fault Refusal := runEvent (broWrite c seq) s

/-- RESULT_READY (R9, R16, R73). -/
def execResultReady (c rid : Nat) (s : State) : Host.Outcome State Fault Refusal := runEvent (resultReady c rid) s

/-- MEMORY_ACCESS_APPLY (R179). -/
def execMemoryAccessApply (c aid : Nat) (s : State) : Host.Outcome State Fault Refusal := runEvent (applyAccess c aid) s

/-- TATOM_WRITE_HALF (R199). -/
def execTatomWriteHalf (c aid : Nat) (s : State) : Host.Outcome State Fault Refusal := runEvent (tatomWrite c aid) s

/-- TICKET_RELEASE (R258). -/
def execTicketRelease (c owner : Nat) (s : State) : Host.Outcome State Fault Refusal := runEvent (ticketRelease c owner) s

end Sys2Proof.Machine
end

