-- ==== Sys2Proof/Machine/MemInstr.lean ====
section
/-! DEFINITION. The issue of memory instructions (R179 to R207): loads, stores, multicast, host accesses,
atomics, tile atomics, fences, and the arming of monitors. LANE_EXECUTE forms the accesses. -/

namespace Sys2Proof.Machine

/-- Marks that still hold something back. -/
def liveMarks (w : World) (c owner : Nat) (l : List Mark) : List Mark :=
  l.filter fun m => !markMet w c (vccOf w c) m || markStaged w c owner m

/-- Put a mark on the issuing path's later accesses. -/
def addMark (t : Site) (m : Mark) (w : World) : World :=
  modPath w t.i.core t.i.owner t.i.cr t.i.slot fun p => { p with marks := liveMarks w t.i.core t.i.owner p.marks ++ [m] }

/-- Send a memory instruction over its lanes, with the marks of its path, and those that its own ORD sets at a
scope in a free launch (R182). -/
def startMem (sc : Scope) (f : Form) (t : Site) (w : World) : World :=
  let acq := f.acq && !t.timed
  let rel := f.rel && !t.timed
  let marks := liveMarks w t.i.core t.i.owner t.p.marks ++ (if rel then [.performed t.seq sc t.ids] else [])
  let w := startLanes { f with acq := acq, rel := rel } 1 (fun x => { x with marks := marks }) t w
  if acq then addMark t (.applied t.seq) w else w

/-- A memory instruction of a space. -/
def issueMem (sp : Space) (f : Form) (s : State) : Host.Outcome State Fault Refusal :=
  issue false f.top (fun _ => none) (startMem (spaceScope sp) f) s

/-- A multicast store orders at `.mod` (R182). -/
def issueMcast (f : Form) (s : State) : Host.Outcome State Fault Refusal :=
  issue false f.top (fun _ => none) (startMem .mod f) s

/-- A host access clears its tag at I (R186); a tag beyond the block's TAGS raises BOUND. -/
def issueHost (tag : Nat) (f : Form) (s : State) : Host.Outcome State Fault Refusal :=
  issue false f.top (fun _ => none) (fun t w =>
    if t.b.hdr.tags ≤ tag then siteFault { t with p := { t.p with mask := t.enabled } } 0x0B 0 0 0 0 ((lanesOf t.enabled).flatMap fun j => dstWrites (f.dst.resolve t.k.wb) j 0) w
    else startMem .blk f t (clearTag w t.i.core t.i.owner tag true)) s

/-- Byte offset of an immediate in units of the access size (R183). -/
def immOff (off : BitVec 7) (sz : Size) : Int := off.toInt * sizeBytes sz

/-- Form of a load, and of a store, of a size. -/
def ldForm (op : LaneOp) (sz : Size) (d : Reg) (a : Src) (ord : Bool) : Form :=
  { op := op, dst := laneDst (sz == .b64) d, a := a, acq := ord }
def stForm (op : LaneOp) (sz : Size) (d : Reg) (a : Src) (ord : Bool) : Form :=
  { op := op, a := a, b := laneSrc (sz == .b64) d, rel := ord }

/-- Form of an atomic (R201): `cas` has its new value after the compared one. -/
def atomForm (sp : Space) (op : RmwOp) (w64 : Bool) (d a b : Reg) (ord : Bool) : Form :=
  { op := .rmw sp op w64, dst := laneDst w64 d, a := .pair a.toNat, b := laneSrc w64 b,
    c := if op = .cas then cSrc false w64 b else .none, acq := ord, rel := ord }

/-- Form of a tile atomic (R198): vD carries the operand in and the old value out. -/
def tatomForm (op : RmwOp) (two : Bool) (d : Reg) (h : BitVec 8) (b : Reg) : Form :=
  { op := .tatom op h.toNat, dst := .reg d.toNat, a := .reg b.toNat, b := .reg (b.toNat + 1),
    c := if two then .pair d.toNat else .reg d.toNat }

/-- `mon.arm` and `mon.disarm` (R205, R207): they act at the memory cycle of their space. -/
def issueMonitor (arm : Bool) (p : BitVec 3) (a : Reg) (fab uni : Bool) (s : State) : Host.Outcome State Fault Refusal :=
  issue false (if uni then 0 else a.toNat + 2) (fun _ => none) (fun t w =>
    if t.once then
      let src : Src := if uni then .uniPair a.toNat else .pair (t.k.wb + a.toNat)
      if srcPoisoned t.k (lowestLane t.p.mask) src then siteFault t 0x09 0 1 0 0 (if arm then [.pred p t.p.mask 0] else []) w else
      let x := (t.k.src (lowestLane t.p.mask) src).toNat / 8 * 8
      let sp : Space := if fab then .fab else .die
      let r := route w t.i.core t.i.cyc t.b t.i.cr 0 sp (x : Int)
      let f := t.flight { op := .mts 0 } t.i.cyc 1
      let a := baseAccess f t.k.str (lowestLane t.p.mask) (w.core t.i.core).nextId (if arm then .arm t.p.mask p else .disarm) sp (x : Int) 8 r.cyc r.due r.home
      addAccess w t.i.core { a with xl := r.xl, pv := t.b.bind.priv, marks := [], data := t.p.mask.zeroExtend 64 } r.off .read (!fab)
    else w) s

/-- `ld.ln` (R183, R184). -/
def execLdLn (d a : Reg) (off : BitVec 7) (ord : Bool) (sz : Size) (s : State) : Host.Outcome State Fault Refusal :=
  issueMem (.lane) (ldForm (.load .lane sz (immOff off sz)) sz d (.reg a.toNat) ord) s

/-- `st.ln` (R183, R184). -/
def execStLn (d a : Reg) (off : BitVec 7) (ord : Bool) (sz : Size) (s : State) : Host.Outcome State Fault Refusal :=
  issueMem (.lane) (stForm (.store .lane sz (immOff off sz)) sz d (.reg a.toNat) ord) s

/-- `ld.die` (R183, R184). -/
def execLdDie (d a : Reg) (off : BitVec 7) (ord : Bool) (sz : Size) (s : State) : Host.Outcome State Fault Refusal :=
  issueMem (.die) (ldForm (.load .die sz (immOff off sz)) sz d (.pair a.toNat) ord) s

/-- `st.die` (R183, R184). -/
def execStDie (d a : Reg) (off : BitVec 7) (ord : Bool) (sz : Size) (s : State) : Host.Outcome State Fault Refusal :=
  issueMem (.die) (stForm (.store .die sz (immOff off sz)) sz d (.pair a.toNat) ord) s

/-- `ld.fab` (R183, R184). -/
def execLdFab (d a : Reg) (off : BitVec 7) (ord : Bool) (sz : Size) (s : State) : Host.Outcome State Fault Refusal :=
  issueMem (.fab) (ldForm (.load .fab sz (immOff off sz)) sz d (.pair a.toNat) ord) s

/-- `st.fab` (R183, R184). -/
def execStFab (d a : Reg) (off : BitVec 7) (ord : Bool) (sz : Size) (s : State) : Host.Outcome State Fault Refusal :=
  issueMem (.fab) (stForm (.store .fab sz (immOff off sz)) sz d (.pair a.toNat) ord) s

/-- `st.mc` (R187). -/
def execStMc (d a : Reg) (mask : BitVec 4) (ord : Bool) (sz : Size) (s : State) : Host.Outcome State Fault Refusal :=
  issueMcast (stForm (.mcast mask sz) sz d (.pair a.toNat) ord) s

/-- `ld.host` (R186). -/
def execLdHost (d a : Reg) (tag : BitVec 6) (sz : Size) (s : State) : Host.Outcome State Fault Refusal :=
  issueHost tag.toNat (ldForm (.host true tag.toNat sz) sz d (.pair a.toNat) false) s

/-- `st.host` (R186). -/
def execStHost (d a : Reg) (tag : BitVec 6) (sz : Size) (s : State) : Host.Outcome State Fault Refusal :=
  issueHost tag.toNat (stForm (.host false tag.toNat sz) sz d (.pair a.toNat) false) s

/-- `ld.ts` (R189, R190). -/
def execLdTs (d : Reg) (h : BitVec 8) (b : Reg) (w : Size) (s : State) : Host.Outcome State Fault Refusal :=
  issueMem .ts { op := .tile true .ts h.toNat w, dst := laneDst (w == .b64) d, a := .reg b.toNat, b := .reg (b.toNat + 1) } s

/-- `st.ts` (R189, R190). -/
def execStTs (d : Reg) (h : BitVec 8) (b : Reg) (w : Size) (s : State) : Host.Outcome State Fault Refusal :=
  issueMem .ts { op := .tile false .ts h.toNat w, a := .reg b.toNat, b := .reg (b.toNat + 1), c := laneSrc (w == .b64) d } s

/-- `ld.acc` (R189, R190). -/
def execLdAcc (d : Reg) (h : BitVec 8) (b : Reg) (w : Size) (s : State) : Host.Outcome State Fault Refusal :=
  issueMem .acc { op := .tile true .acc h.toNat w, dst := laneDst (w == .b64) d, a := .reg b.toNat, b := .none } s

/-- `st.acc` (R189, R190). -/
def execStAcc (d : Reg) (h : BitVec 8) (b : Reg) (w : Size) (s : State) : Host.Outcome State Fault Refusal :=
  issueMem .acc { op := .tile false .acc h.toNat w, a := .reg b.toNat, b := .none, c := laneSrc (w == .b64) d } s

/-- `atom.add` (R201, R202). -/
def execAtomAdd (d a b : Reg) (w64 ord : Bool) (s : State) : Host.Outcome State Fault Refusal :=
  issueMem .die (atomForm .die .add w64 d a b ord) s

/-- `atom.and` (R201, R202). -/
def execAtomAnd (d a b : Reg) (w64 ord : Bool) (s : State) : Host.Outcome State Fault Refusal :=
  issueMem .die (atomForm .die .and w64 d a b ord) s

/-- `atom.or` (R201, R202). -/
def execAtomOr (d a b : Reg) (w64 ord : Bool) (s : State) : Host.Outcome State Fault Refusal :=
  issueMem .die (atomForm .die .or w64 d a b ord) s

/-- `atom.xor` (R201, R202). -/
def execAtomXor (d a b : Reg) (w64 ord : Bool) (s : State) : Host.Outcome State Fault Refusal :=
  issueMem .die (atomForm .die .xor w64 d a b ord) s

/-- `atom.exch` (R201, R202). -/
def execAtomExch (d a b : Reg) (w64 ord : Bool) (s : State) : Host.Outcome State Fault Refusal :=
  issueMem .die (atomForm .die .exch w64 d a b ord) s

/-- `atom.min` (R201, R202). -/
def execAtomMin (d a b : Reg) (w64 uns ord : Bool) (s : State) : Host.Outcome State Fault Refusal :=
  issueMem .die (atomForm .die (.min uns) w64 d a b ord) s

/-- `atom.max` (R201, R202). -/
def execAtomMax (d a b : Reg) (w64 uns ord : Bool) (s : State) : Host.Outcome State Fault Refusal :=
  issueMem .die (atomForm .die (.max uns) w64 d a b ord) s

/-- `atom.cas` (R201, R202). -/
def execAtomCas (d a b : Reg) (w64 ord : Bool) (s : State) : Host.Outcome State Fault Refusal :=
  issueMem .die (atomForm .die .cas w64 d a b ord) s

/-- `fatom.add` (R201, R202). -/
def execFatomAdd (d a b : Reg) (w64 ord : Bool) (s : State) : Host.Outcome State Fault Refusal :=
  issueMem .fab (atomForm .fab .add w64 d a b ord) s

/-- `fatom.and` (R201, R202). -/
def execFatomAnd (d a b : Reg) (w64 ord : Bool) (s : State) : Host.Outcome State Fault Refusal :=
  issueMem .fab (atomForm .fab .and w64 d a b ord) s

/-- `fatom.or` (R201, R202). -/
def execFatomOr (d a b : Reg) (w64 ord : Bool) (s : State) : Host.Outcome State Fault Refusal :=
  issueMem .fab (atomForm .fab .or w64 d a b ord) s

/-- `fatom.xor` (R201, R202). -/
def execFatomXor (d a b : Reg) (w64 ord : Bool) (s : State) : Host.Outcome State Fault Refusal :=
  issueMem .fab (atomForm .fab .xor w64 d a b ord) s

/-- `fatom.exch` (R201, R202). -/
def execFatomExch (d a b : Reg) (w64 ord : Bool) (s : State) : Host.Outcome State Fault Refusal :=
  issueMem .fab (atomForm .fab .exch w64 d a b ord) s

/-- `fatom.min` (R201, R202). -/
def execFatomMin (d a b : Reg) (w64 uns ord : Bool) (s : State) : Host.Outcome State Fault Refusal :=
  issueMem .fab (atomForm .fab (.min uns) w64 d a b ord) s

/-- `fatom.max` (R201, R202). -/
def execFatomMax (d a b : Reg) (w64 uns ord : Bool) (s : State) : Host.Outcome State Fault Refusal :=
  issueMem .fab (atomForm .fab (.max uns) w64 d a b ord) s

/-- `fatom.cas` (R201, R202). -/
def execFatomCas (d a b : Reg) (w64 ord : Bool) (s : State) : Host.Outcome State Fault Refusal :=
  issueMem .fab (atomForm .fab .cas w64 d a b ord) s

/-- `tatom.add` (R198, R199). -/
def execTatomAdd (d : Reg) (h : BitVec 8) (b : Reg) (s : State) : Host.Outcome State Fault Refusal :=
  issueMem .ts (tatomForm .add false d h b) s

/-- `tatom.min` (R198, R199). -/
def execTatomMin (d : Reg) (h : BitVec 8) (b : Reg) (s : State) : Host.Outcome State Fault Refusal :=
  issueMem .ts (tatomForm (.min false) false d h b) s

/-- `tatom.max` (R198, R199). -/
def execTatomMax (d : Reg) (h : BitVec 8) (b : Reg) (s : State) : Host.Outcome State Fault Refusal :=
  issueMem .ts (tatomForm (.max false) false d h b) s

/-- `tatom.exch` (R198, R199). -/
def execTatomExch (d : Reg) (h : BitVec 8) (b : Reg) (s : State) : Host.Outcome State Fault Refusal :=
  issueMem .ts (tatomForm .exch false d h b) s

/-- `tatom.cas` (R198, R199). -/
def execTatomCas (d : Reg) (h : BitVec 8) (b : Reg) (s : State) : Host.Outcome State Fault Refusal :=
  issueMem .ts (tatomForm .cas true d h b) s

/-- `fence` (R204): later accesses of the path wait for the earlier ones; a timed launch shifts nothing. One beyond the core
ends the chunk of a recording core, whose sash pauses for the commit H cycles later (R42, R387; log entry 118). -/
def execFence (sc : Scope) (s : State) : Host.Outcome State Fault Refusal :=
  issuePlain (fun t w =>
    if t.once && !t.timed then
      let w := addMark t (.performed t.seq sc t.ids) w
      if scopeWide sc && decide ((w.die (dieOf t.i.core)).recMode = 1) then addCause w t.i.core (t.i.cyc + Config.horizon) (.chunk t.i.core) else w
    else w) s

/-- `mon.arm` (R205). -/
def execMonArm (p : BitVec 3) (a : Reg) (fab uni : Bool) (s : State) : Host.Outcome State Fault Refusal :=
  issueMonitor true p a fab uni s

/-- `mon.disarm` (R207). -/
def execMonDisarm (a : Reg) (fab uni : Bool) (s : State) : Host.Outcome State Fault Refusal :=
  issueMonitor false 0 a fab uni s

end Sys2Proof.Machine
end

