-- ==== Sys2Proof/Machine/Tiles.lean ====
section
/-! DEFINITION. Tile handles and the row-length walker (R191 to R197): `talloc`, `tfree`, `tdesc`, `rlw.set`,
`rlw.next`. -/

namespace Sys2Proof.Machine

/-- First unit and units of a block's area of a level (R108, R301): units of 256 bytes. -/
def areaOf (b : Block) (lv : Nat) : Nat × Nat :=
  match lv with
  | 0 => (b.bind.tsbb, (b.hdr.tsb + 255) / 256)
  | 1 => (b.bind.accb, 4 * b.hdr.acc)
  | _ => (b.bind.trnb, 4 * b.hdr.trn)

/-- The VALID handles of a block with their numbers. -/
def validHandles (k : Core) (b : Block) : List (Nat × Desc) :=
  (List.range b.hdr.handles).filterMap fun n =>
    let d := descOf k b n
    if d.valid then some (n, d) else none

/-- The level takes the format (R193). -/
def levelTakes (lv fmt : Nat) : Bool :=
  match lv with
  | 0 => true
  | 1 => fmt == 4 || fmt == 5 || fmt == 0
  | _ => fmt == 14 || fmt == 8 || fmt == 9 || fmt == 6 || fmt == 7

/-- Shape of the scale handle that a tile needs (R76, R78): format, rows, columns. -/
def scaleShape (fmt rows cols : Nat) (sblk : Bool) : Nat × Nat × Nat :=
  if fmt = 14 then (13, (rows + 127) / 128 * ((cols + 127) / 128), 260)
  else
    let s := if sblk then 32 else 16
    (15, (rows + s - 1) / s, (cols + s - 1) / s)

/-- The scale rules of R193. -/
def scaleOk (k : Core) (b : Block) (d : Desc) : Bool :=
  if d.fmt = 14 && !d.scv then false
  else if !d.scv then true
  else if d.fmt = 14 || d.fmt = 8 || d.fmt = 9 then
    let x := descOf k b d.scale
    decide (d.scale < b.hdr.handles) && x.valid && decide (x.level = 0) &&
      decide ((x.fmt, x.rows, x.cols) = scaleShape d.fmt d.rows d.cols d.sblk)
  else false

/-- The lowest unit of an area at which `n` free units start: the area's first unit, or the end of a handle. -/
def findRun (k : Core) (b : Block) (lv n : Nat) : Option Nat :=
  let area := areaOf b lv
  let runs := (validHandles k b).filterMap fun x => if x.2.level = lv then some (x.2.base, x.2.base + x.2.area / 256) else none
  let fits := fun (u : Nat) => decide (area.1 ≤ u) && decide (u + n ≤ area.1 + area.2) && runs.all fun r => decide (u + n ≤ r.1) || decide (r.2 ≤ u)
  (sortBy (fun x y => decide (x ≤ y)) (area.1 :: runs.map Prod.snd)).find? fits

/-- The descriptor of a successful allocation (R193). -/
def allocDesc (k : Core) (b : Block) (n : Nat) (d : Desc) : Option Desc :=
  let bits := fmtBits d.fmt
  if (descOf k b n).valid then none
  else if d.rows = 0 ∨ 65535 < d.rows ∨ d.cols = 0 ∨ 65535 < d.cols then none
  else if !levelTakes d.level d.fmt then none
  else if d.level = 2 ∧ (128 < d.cols ∨ 262144 < d.rows * bits) then none
  else if d.fmt = 14 ∧ (d.rows % 8 ≠ 0 ∨ d.cols % 8 ≠ 0) then none
  else if !scaleOk k b d then none
  else (findRun k b d.level (d.area / 256)).map fun u => { d with base := u, owner := b.bind.owner, valid := true }

/-- `talloc` (R192, R193). The descriptor is VALID from I for `rlw.set` as well: it is no lane access (log entry 98). -/
def execTalloc (fmt : BitVec 4) (p : BitVec 3) (h : BitVec 8) (b : Reg) (lv : Level) (s : State) :
    Host.Outcome State Fault Refusal :=
  issuePlain (fun t w =>
    if !t.once then w
    else if t.b.hdr.handles ≤ h.toNat then
      siteFault t 0x05 0 1 (BitVec.ofNat 64 h.toNat) 8 [.pred p t.p.mask 0] w
    else
      let sw := (t.k.uni (b.toNat + 2)).toNat
      let want : Desc := {
        rows := (t.k.uni b.toNat).toNat
        cols := (t.k.uni (b.toNat + 1)).toNat
        fmt := fmt.toNat
        level := levelNo lv
        scale := sw % 2 ^ 8
        scv := decide (sw / 2 ^ 8 % 2 = 1)
        sblk := decide (sw / 2 ^ 9 % 2 = 1)
        save := decide (sw / 2 ^ 10 % 2 = 1)
        since := t.i.cyc + 8 }
      match allocDesc (w.core t.i.core) t.b h.toNat want with
      | some d =>
        let w := w.modCore t.i.core fun k => { k with tiles := k.tiles.put (t.b.bind.hb + h.toNat) d }
        onceResult t 8 [.pred p t.p.mask 0xFFFFFFFF] w
      | none => onceResult t 8 [.pred p t.p.mask 0] w) s

/-- A handle of a block is named by an engine command that has not ended (R224). -/
def handleInUse (k : Core) (owner h : Nat) : Bool :=
  k.cmds.any fun x => decide (x.owner = owner) && decide (x.st ≠ .ended) &&
    (match x.op with
      | .launch => false
      | .tsend => decide (x.hx = h)
      | .tland => decide (x.hx = h)
      | .drain => decide (x.hx = h)
      | .tt => decide (x.hx = h) || decide (x.hy = h)
      | .host _ => decide (x.hx = h)
      | .gth _ => decide (x.hx = h) || decide (x.hy = h)
      | .acc _ => decide (x.hx = h) || decide (x.hy = h)
      | .mx _ => decide (x.hx = h) || decide (x.hy = h) || decide (x.hz = h)
      | .trn true => decide (x.hx = h) || decide (x.hy = h)
      | _ => decide (x.hx = h) || (x.mxv && (decide (x.hy = h) || decide (x.hz = h))))

/-- `tfree` (R194). A watch entry on the handle goes with it (R381). DESIGN CHOICE: the rule speaks of lane accesses before and
after I; one that executes at I itself finds the handle as the order of the cycle has it: the lanes of that cycle come before
the strings' issues, but lane 0 of an instruction issued at I by a later string comes after (log entry 98). -/
def execTfree (h : BitVec 8) (s : State) : Host.Outcome State Fault Refusal :=
  issuePlain (fun t w =>
    if !t.once then w
    else
      let n := h.toNat
      let k := w.core t.i.core
      let d := descOf k t.b n
      let scales := (validHandles k t.b).any fun x => x.2.scv && decide (x.2.scale = n)
      if decide (t.b.hdr.handles ≤ n) || !d.valid || handleInUse k t.i.owner n || d.land || scales then
        siteFault t 0x05 0 1 (BitVec.ofNat 64 n) 0 [] w
      else w.modCore t.i.core fun k => { k with
        tiles := k.tiles.put (t.b.bind.hb + n) { d with valid := false, watch := false }
        watches := k.watches.filter fun (x : Nat × Watch) => !(decide (x.2.owner = t.i.owner) && !x.2.die && decide (x.2.handle = n)) }) s

/-- `tdesc` (R195). -/
def execTdesc (d : Reg) (h : BitVec 8) (uni : Bool) (s : State) : Host.Outcome State Fault Refusal :=
  if uni then
    issuePlain (fun t w =>
      let words := fun (v : Nat) => (List.range 4).map fun i => Write.uni (d.toNat + i) (BitVec.ofNat 32 (v / 2 ^ (32 * i)))
      if !t.once then w
      else if t.b.hdr.handles ≤ h.toNat then siteFault t 0x05 0 1 (BitVec.ofNat 64 h.toNat) 2 (words 0) w
      else onceResult t 2 (words (descOf (w.core t.i.core) t.b h.toNat).bits) w) s
  else issueLane { op := .tdesc h.toNat, dst := .quad d.toNat, lat := 2 } s

/-! ## The row-length walker (R196, R197) -/

/-- The first `n` elements of a table of row lengths, unsigned, in row-major order. -/
def lengthsOf (w : World) (c : Nat) (d : Desc) (n : Nat) : List Nat :=
  let m := fmtBits d.fmt / 8
  (List.range n).map fun i => leNat (w.mem.bytes .ts (levelKey 0 c (256 * d.base + i * m)) m)

/-- Tile-store address of the first poisoned granule of a stretch (R325, R332). -/
def firstBad (w : World) (c a n : Nat) : Nat :=
  (((List.range n).map (a + ·)).find? fun x => w.mem.poisoned .ts (levelKey 0 c x) 1).getD a

/-- `rlw.set` (R196). DESIGN CHOICE: the scan takes four lengths a cycle, and the specification names no cycle of its reads:
the model reads all of them at I; and it takes a handle as VALID from I of its `talloc`, as the checks of an engine command
and of `talloc` do (R193) (log entry 98). -/
def execRlwSet (a b : Reg) (s : State) : Host.Outcome State Fault Refusal :=
  issuePlain (fun t w =>
    if !t.once then w
    else
      let n := (t.k.uni a.toNat).toNat % 2 ^ 8
      let nr := (t.k.uni (a.toNat + 1)).toNat
      let d := descOf (w.core t.i.core) t.b n
      if decide (t.b.hdr.handles ≤ n) || !d.valid || decide (d.level ≠ 0) || !(d.fmt == 0 || d.fmt == 1 || d.fmt == 10 || d.fmt == 11) then
        siteFault t 0x05 0 1 (BitVec.ofNat 64 n) 0 [] w
      else if nr = 0 ∨ d.rows * d.cols < nr then siteFault t 0x0B 0 1 0 0 [] w
      else if w.mem.poisoned .ts (levelKey 0 t.i.core (256 * d.base)) (nr * (fmtBits d.fmt / 8)) then
        siteFault t 0x09 0 1 (BitVec.ofNat 64 (firstBad w t.i.core (256 * d.base) (nr * (fmtBits d.fmt / 8)))) 0 [] w
      else w.modCore t.i.core fun k => k.setStr t.k.str { k.str t.k.str with walker := {
        valid := true
        owner := t.i.owner
        cr := t.i.cr
        t := n
        nr := nr
        pos := (t.k.uni b.toNat).toNat
        ready := t.i.cyc + 2 + (nr + 3) / 4
        lens := lengthsOf w t.i.core d nr } }) s

/-- Starts of the rows that have a length, with their numbers, and the total, modulo 2^32 (R196). -/
def rowStarts (lens : List Nat) : List (Nat × Nat) × Nat :=
  let r := lens.foldl (fun (x : List (Nat × Nat) × Nat × Nat) l =>
    (if l = 0 then x.1 else (x.2.1, x.2.2) :: x.1, (x.2.1 + l) % 2 ^ 32, x.2.2 + 1)) ([], 0, 0)
  (r.1.reverse, r.2.1)

/-- What the enabled lanes of a faulting `rlw.next` receive under the ignore policy. -/
def rlwZero (t : Site) (d : Reg) (p : BitVec 3) : List Write :=
  .pred p t.enabled 0 :: .pred 6 t.enabled 0 :: (lanesOf t.enabled).flatMap fun j => dstWrites ((Dst.pair d.toNat).resolve t.k.wb) j 0

/-- `rlw.next` (R197): the position moves on at I, and the lanes are shifted to the walker's ready cycle. -/
def execRlwNext (d : Reg) (p : BitVec 3) (s : State) : Host.Outcome State Fault Refusal :=
  issue false (d.toNat + 2) (fun _ => none) (fun t w =>
    let k := w.core t.i.core
    let x := (k.str t.k.str).walker
    if !x.valid || decide (x.owner ≠ t.i.owner) then
      siteFault { t with p := { t.p with mask := t.enabled } } 0x05 0 0 0 2 (rlwZero t d p) w
    else
      let r := rowStarts x.lens
      let w := w.modCore t.i.core fun k => k.setStr t.k.str { k.str t.k.str with walker := { x with pos := (x.pos + 32) % 2 ^ 32 } }
      let f : Form := { op := .rlwNext x.pos r.2 r.1 p, dst := .pair d.toNat, lat := 2 }
      startLanes f 1 (fun y => { y with cyc := max y.cyc x.ready }) t w) s

end Sys2Proof.Machine
end

