-- ==== Sys2Proof/Machine/Sync.lean ====
section
/-! DEFINITION. Waiting and handing over (R33, R206, R208 to R211, R235, R244): phasers, the matrix key, register
blocks, monitor waits and tag waits, with WAIT_WAKE, MON_WAIT_TIMEOUT and PATH_FILL_COMPLETE. -/

namespace Sys2Proof.Machine

/-! ## Phasers (R209) -/

/-- A phaser of a block. -/
def Block.phaser (b : Block) (n : Nat) : Phaser := (b.phasers.find n).getD {}
/-- Change a phaser; a phase completes as soon as its conditions hold. -/
def Block.setPhaser (b : Block) (n : Nat) (x : Phaser) : Block := { b with phasers := b.phasers.put n x.finish }

/-- Set SIG and WAIT of a course. -/
def Phaser.register (x : Phaser) (r : Nat) (sig wait : Bool) : Phaser :=
  let bit := laneBit r
  { x with
    sig := if sig then x.sig ||| bit else x.sig &&& ~~~bit
    arr := if sig then x.arr else x.arr &&& ~~~bit
    wait := if wait then x.wait ||| bit else x.wait &&& ~~~bit
    wph := if wait then x.wph.put r x.phase else x.wph }

/-- PHASE > WPH of a course, both 32-bit counts. -/
def Phaser.ahead (x : Phaser) (r : Nat) : Bool := decide (((x.wph.find r).getD 0).toNat < x.phase.toNat)
/-- One more phase waited for. -/
def Phaser.waited (x : Phaser) (r : Nat) : Phaser := { x with wph := x.wph.put r ((x.wph.find r).getD 0 + 1) }

/-- Bytes that an engine delivery lands count against BAL (R209, R223). -/
def phaserDelivery (w : World) (c o n bytes : Nat) : World :=
  w.modBlock c o fun b =>
    let x := b.phaser n
    b.setPhaser n { x with bal := x.bal - BitVec.ofNat 32 bytes }

/-- Carry out a release: the course's arrival, or the passing of the key (R209, R210). -/
def doRelease (c : Nat) (p : Pend) (o : Nat) (w : World) : World :=
  match w.block? c o with
  | none => w
  | some b =>
    if p.key then
      if b.key = p.cr then w.setBlock c o { b with key := (nextHolder w c b p.cr).getD b.key } else w
    else
      let x := b.phaser p.ph
      let bit := laneBit p.cr
      if x.sig &&& bit = 0 then w else w.setBlock c o (b.setPhaser p.ph { x with arr := x.arr ||| bit })

/-- A release waits until the path's earlier accesses are performed at `.blk` (R244); a timed one does not. -/
def releaseAt (t : Site) (key : Bool) (n : Nat) (w : World) : World :=
  let m : Mark := .performed t.seq .blk t.ids
  let p : Pend := { key := key, ph := n, cr := t.i.cr, mark := m, anc := t.ids }
  if t.timed || markMet w t.i.core t.i.cyc m then doRelease t.i.core p t.i.owner w
  else w.modBlock t.i.core t.i.owner fun b => { b with pends := b.pends ++ [p] }

/-- The course has arrived in this phase, or its arrival waits for earlier accesses. -/
def arrived (b : Block) (n r : Nat) : Bool :=
  (b.phaser n).arr.getLsbD r || b.pends.any fun p => !p.key && decide (p.ph = n) && decide (p.cr = r)

/-! ## Waiting (R33, R54) -/

/-- The path waits in a free launch; a timed launch raises TIMING with subcode 5 (R54). -/
def waitOr (t : Site) (x : Wait) (lat : Nat) (zero : List Write) (w : World) : World :=
  if t.timed then siteFault t 0x02 5 1 0 lat zero w
  else modPath w t.i.core t.i.owner t.i.cr t.i.slot fun p => { p with st := .waiting x }

/-- A phaser instruction on phaser n (R208). -/
def issuePhaser (n : Nat) (act : Site → World → World) (s : State) : Host.Outcome State Fault Refusal :=
  issuePlain (fun t w =>
    if !t.once then w
    else if t.b.hdr.phasers ≤ n then siteFault t 0x0B 0 1 0 0 [] w
    else act t w) s

/-- `ph.reg` (R208, R209). -/
def execPhReg (n : BitVec 4) (role : BitVec 2) (s : State) : Host.Outcome State Fault Refusal :=
  issuePhaser n.toNat (fun t w => w.modBlock t.i.core t.i.owner fun b =>
    b.setPhaser n.toNat ((b.phaser n.toNat).register t.i.cr (role.getLsbD 0) (role.getLsbD 1))) s

/-- `ph.arrive` (R209, R244). -/
def execPhArrive (n : BitVec 4) (s : State) : Host.Outcome State Fault Refusal :=
  issuePhaser n.toNat (fun t w =>
    if !(t.b.phaser n.toNat).sig.getLsbD t.i.cr then w
    else if arrived t.b n.toNat t.i.cr then waitOr t (.phArrive n.toNat) 0 [] w
    else releaseAt t false n.toNat w) s

/-- `ph.wait` (R209). -/
def execPhWait (n : BitVec 4) (s : State) : Host.Outcome State Fault Refusal :=
  issuePhaser n.toNat (fun t w =>
    let x := t.b.phaser n.toNat
    if !x.wait.getLsbD t.i.cr then w
    else if x.ahead t.i.cr then w.modBlock t.i.core t.i.owner fun b => b.setPhaser n.toNat (x.waited t.i.cr)
    else waitOr t (.phWait n.toNat) 0 [] w) s

/-- `ph.expect` (R209). -/
def execPhExpect (n : BitVec 4) (b : Reg) (s : State) : Host.Outcome State Fault Refusal :=
  issuePhaser n.toNat (fun t w => w.modBlock t.i.core t.i.owner fun y =>
    let x := y.phaser n.toNat
    y.setPhaser n.toNat { x with bal := x.bal + t.k.uni b.toNat }) s

/-! ## The matrix key (R11, R210) -/

/-- `key.take` (R210). -/
def execKeyTake (s : State) : Host.Outcome State Fault Refusal :=
  issuePlain (fun t w => if !t.once || decide (t.b.key = t.i.cr) then w else waitOr t .key 0 [] w) s

/-- `key.pass` (R210, R244). -/
def execKeyPass (s : State) : Host.Outcome State Fault Refusal :=
  issuePlain (fun t w =>
    if !t.once then w
    else if t.b.key ≠ t.i.cr then siteFault t 0x06 0 1 0 0 [] w
    else releaseAt t true 0 w) s

/-! ## Register blocks (R211) -/

/-- `rb.give` (R211). -/
def execRbGive (c : BitVec 4) (s : State) : Host.Outcome State Fault Refusal :=
  issuePlain (fun t w =>
    let n := 32 * c.toNat
    if !t.once then w
    else if t.k.allot < n + 32 ∨ t.k.allot - n ≤ t.k.wb then siteFault t 0x0B 0 1 0 0 [] w
    else
      let w := onCourse t w fun k => { k with allot := k.allot - n, grow := none }
      w.modBlock t.i.core t.i.owner fun b => { b with pools := b.pools.put t.k.str ((b.pools.find t.k.str).getD 0 + n) }) s

/-- Take words from a pool: they read zero and can be named two cycles later (R211). -/
def takeWords (c o r n cyc : Nat) (w : World) : World :=
  match w.course? c o r with
  | none => w
  | some k =>
    let w := w.modBlock c o fun b => { b with pools := b.pools.put k.str ((b.pools.find k.str).getD 0 - n) }
    w.setCourse c o r { k with
      allot := k.allot + n
      grow := some (cyc + 2, k.allot)
      regs := k.regs.filter fun (x : Nat × W32) => decide (x.1 / 32 < k.allot) || decide (k.allot + n ≤ x.1 / 32)
      poison := k.poison.filter fun (x : Nat × Bool) => decide (x.1 / 32 * 2 < k.allot) }

/-- The pool of a course's string holds enough words. -/
def poolHas (b : Block) (k : Course) (n : Nat) : Bool := decide (n ≤ (b.pools.find k.str).getD 0)

/-- `rb.claim` (R211). -/
def execRbClaim (c : BitVec 4) (s : State) : Host.Outcome State Fault Refusal :=
  issuePlain (fun t w =>
    let n := 32 * c.toNat
    if !t.once then w
    else if 512 < t.k.allot + n then siteFault t 0x0B 0 1 0 0 [] w
    else if poolHas t.b t.k n then takeWords t.i.core t.i.owner t.i.cr n t.i.cyc w
    else waitOr t (.claim n) 0 [] w) s

/-! ## Monitor waits (R206) -/

/-- One of a course's monitor entries, on any die, is triggered. -/
def monHit (w : World) (c o r : Nat) : Bool :=
  w.mach.dies.any fun x => x.2.mons.any fun m => decide (m.core = c) && decide (m.owner = o) && decide (m.cr = r) && m.trig

/-- Clear the triggers of a course. -/
def monClear (w : World) (c o r : Nat) : World :=
  { w with mach := { w.mach with dies := w.mach.dies.map fun (x : Nat × Die) =>
      (x.1, { x.2 with mons := x.2.mons.map fun (m : Monitor) =>
        if m.core = c && m.owner = o && m.cr = r then { m with trig := false } else m }) } }

/-- `mon.wait` (R206). -/
def execMonWait (p : BitVec 3) (b : Reg) (s : State) : Host.Outcome State Fault Refusal :=
  issuePlain (fun t w =>
    let limit := (t.k.uni b.toNat).toNat
    if !t.once then w
    else if monHit w t.i.core t.i.owner t.i.cr then
      onceResult t 2 [.pred p t.p.mask 0xFFFFFFFF] (monClear w t.i.core t.i.owner t.i.cr)
    else if limit = 0 then onceResult t 2 [.pred p t.p.mask 0] w
    else waitOr t (.mon p (t.i.cyc + limit)) 2 [.pred p t.p.mask 0] w) s

/-! ## Tag waits (R235) -/

/-- The condition of a tag wait over `mask ∧ %tags`. -/
def tagCond (all : Bool) (mask tags : W64) : Bool :=
  if all then decide (mask &&& ~~~tags = 0) else decide (mask = 0) || decide (mask &&& tags ≠ 0)

/-- The lowest set tag, or 64. -/
def firstTag (v : W64) : Nat := ((List.range 64).find? fun n => v.getLsbD n).getD 64

/-- A wait mask holds a host tag (R386). -/
def hostMask (w : World) (c : Nat) (b : Block) (mask : W64) : Bool :=
  decide (mask &&& blockTags { w.core c with tags := (w.core c).hostTags } b ≠ 0)

/-- The tags with which a tag wait ends now, if it does. A replay ends a wait on host tags at its logged cycle, with
its logged outcome, and a timed launch's wait that the log does not end fails (R386, R388). -/
def tagOutcome (w : World) (c : Nat) (b : Block) (cr : Nat) (pm : LaneMask) (pc : Nat) (all : Bool) (mask tags : W64) : Option W64 :=
  let plain := if tagCond all mask tags then some (mask &&& tags) else none
  if decide ((w.die (dieOf c)).recMode = 2) && hostMask w c b mask then
    match replayInput w c b.bind.owner cr (lowestLane pm) (pcWord pc).toNat mask.toNat with
    | some r => if r.2.1 ≤ vccOf w c && tagCond all mask (BitVec.ofNat 64 r.2.2) then some (BitVec.ofNat 64 r.2.2) else none
    | none => if b.hdr.timed then none else plain
  else plain

/-- A tag wait: the mask is read at I, and a bit at or above TAGS raises BOUND. -/
def issueTags (a : Reg) (all : Bool) (x : W64 → Wait) (zero : List Write) (out : Nat → List Write) (s : State) :
    Host.Outcome State Fault Refusal :=
  issuePlain (fun t w =>
    let mask := t.k.uniPair a.toNat
    let tags := blockTags (w.core t.i.core) t.b
    if !t.once then w
    else if mask.toNat / 2 ^ t.b.hdr.tags ≠ 0 then siteFault t 0x0B 0 1 0 2 zero w
    else
      match tagOutcome w t.i.core t.b t.i.cr t.p.mask t.i.pc all mask tags with
      | some v =>
        let z := if hostMask w t.i.core t.b mask then untimed w t.i.core t.i.owner t.i.cr (lowestLane t.p.mask) (pcWord t.i.pc).toNat mask.toNat v.toNat
          else (w, v.toNat)
        onceResult t 2 (out (firstTag (BitVec.ofNat 64 z.2))) z.1
      | none =>
        -- the failed wait of a timed launch is an outcome too (R386)
        let w := if t.timed && hostMask w t.i.core t.b mask then
            (untimed w t.i.core t.i.owner t.i.cr (lowestLane t.p.mask) (pcWord t.i.pc).toNat mask.toNat (mask &&& tags).toNat).1 else w
        waitOr t (x mask) 2 zero w) s

/-- `twany` (R235). -/
def execTwany (a : Reg) (s : State) : Host.Outcome State Fault Refusal := issueTags a false .tagAny [] (fun _ => []) s

/-- `twall` (R235). -/
def execTwall (a : Reg) (s : State) : Host.Outcome State Fault Refusal := issueTags a true .tagAll [] (fun _ => []) s

/-- `twfirst` (R235). -/
def execTwfirst (d a : Reg) (s : State) : Host.Outcome State Fault Refusal :=
  issueTags a false (.tagFirst d.toNat) [.uni d.toNat 0] (fun n => [.uni d.toNat (BitVec.ofNat 32 n)]) s

/-! ## Waking -/

/-- The condition of a wait holds now. -/
def waitMet (w : World) (c : Nat) (b : Block) (k : Course) (p : Path) : Wait → Bool
  | .tagAny m => (tagOutcome w c b k.cr p.mask (p.pc - 1) false m (blockTags (w.core c) b)).isSome
  | .tagAll m => (tagOutcome w c b k.cr p.mask (p.pc - 1) true m (blockTags (w.core c) b)).isSome
  | .tagFirst _ m => (tagOutcome w c b k.cr p.mask (p.pc - 1) false m (blockTags (w.core c) b)).isSome
  | .mon _ _ => monHit w c k.owner k.cr
  | .key => decide (b.key = k.cr)
  | .claim n => poolHas b k n
  | .phArrive n => !arrived b n k.cr
  | .phWait n => (b.phaser n).ahead k.cr || !(b.phaser n).wait.getLsbD k.cr

/-- What a wait does as it ends. -/
def wakeEffect (c : Nat) (b : Block) (k : Course) (p : Path) (x : Wait) (w : World) : World :=
  let vcc := vccOf w c
  let wake := fun (all : Bool) (m : W64) =>
    let v := (tagOutcome w c b k.cr p.mask (p.pc - 1) all m (blockTags (w.core c) b)).getD 0
    if hostMask w c b m then untimed w c k.owner k.cr (lowestLane p.mask) (pcWord (p.pc - 1)).toNat m.toNat v.toNat else (w, v.toNat)
  match x with
  | .tagAny m => (wake false m).1
  | .tagAll m => (wake true m).1
  | .tagFirst d m =>
    let z := wake false m
    pushResult z.1 c k.owner k.cr (w.core c).seq (vcc + 2) p.from_ [.uni d (BitVec.ofNat 32 (firstTag (BitVec.ofNat 64 z.2)))] 0
  | .mon q _ => pushResult (monClear w c k.owner k.cr) c k.owner k.cr (w.core c).seq (vcc + 2) p.from_ [.pred q p.mask 0xFFFFFFFF] 0
  | .claim n => takeWords c k.owner k.cr n vcc w
  | .phArrive n =>
    let m : Mark := .performed (w.core c).seq .blk (p.id :: (p.merged ++ p.anc))
    let r : Pend := { key := false, ph := n, cr := k.cr, mark := m, anc := [] }
    if markMet w c vcc m then doRelease c r k.owner w else w.modBlock c k.owner fun b => { b with pends := b.pends ++ [r] }
  | .phWait n => if (b.phaser n).wait.getLsbD k.cr
      then w.modBlock c k.owner fun y => y.setPhaser n ((y.phaser n).waited k.cr) else w
  | _ => w

/-- The path with a path-table index is ready again; the turns it waited are not counted (R8, R33). -/
def wakePath (w : World) (c o r ix : Nat) : World :=
  modPath w c o r ix fun p => { p with st := .ready, turns := 0 }

/-- A release of a course whose accesses are performed. -/
def duePend (w : World) (c : Nat) (b : Block) (r : Nat) : Option Pend :=
  b.pends.find? fun p => decide (p.cr = r) && markMet w c (vccOf w c) p.mark

/-- WAIT_WAKE: a waiting path becomes ready (R33), or, where no path of that index waits, a release of the course
that was held for earlier accesses takes place (R244). -/
def waitWake (c o r ix : Nat) (w : World) : World :=
  match w.block? c o, w.course? c o r with
  | some b, some k =>
    match duePend w c b r with
    | some p => doRelease c p o (w.setBlock c o { b with pends := b.pends.erase p })
    | none =>
      match k.path? ix with
      | some p =>
        match p.st with
        | .waiting x => if waitMet w c b k p x then wakeEffect c b k p x (wakePath w c o r ix) else w
        | _ => w
      | none => w
  | _, _ => w

/-- MON_WAIT_TIMEOUT: the timeout of a `mon.wait` has passed (R206). -/
def monTimeout (c o r ix : Nat) (w : World) : World :=
  match w.course? c o r with
  | some k =>
    match k.path? ix with
    | some p =>
      match p.st with
      | .waiting (.mon q _) => pushResult (wakePath w c o r ix) c o r (w.core c).seq (vccOf w c + 2) p.from_ [.pred q p.mask 0] 0
      | _ => w
    | none => w
  | none => w

/-- PATH_FILL_COMPLETE: the transfers of a slot are over: the course's stack area holds what its spills wrote (R27), and
the slot's turns are usable (R24, R25). -/
def pathFill (c o r slot : Nat) (w : World) : World :=
  let w := stackTransfer c o r slot (w.modCourse c o r fun k => if slot = 0 then { k with win0 := 0 } else { k with win1 := 0 })
  w.modCourse c o r fun k => { k with filling := k.filling.filter (· ≠ slot) }

/-- WAIT_WAKE (R33). -/
def execWaitWake (c owner cr slot : Nat) (s : State) : Host.Outcome State Fault Refusal := runEvent (waitWake c owner cr slot) s

/-- MON_WAIT_TIMEOUT (R206). -/
def execMonWaitTimeout (c owner cr slot : Nat) (s : State) : Host.Outcome State Fault Refusal := runEvent (monTimeout c owner cr slot) s

/-- PATH_FILL_COMPLETE (R25). -/
def execPathFillComplete (c owner cr slot : Nat) (s : State) : Host.Outcome State Fault Refusal := runEvent (pathFill c owner cr slot) s

end Sys2Proof.Machine
end

