-- ==== Sys2Proof/Machine/Engine.lean ====
section
/-! DEFINITION. The issue of engine commands (R212 to R217, R220, R225 to R230, R232, R233, R238): descriptors,
their checks in the order of R216, and the end of a command. -/

namespace Sys2Proof.Machine

/-- SCOPE of W0; values 5 to 7 are refused before it is used (R213). -/
def scopeOf : Nat → Scope
  | 0 => .crs
  | 1 => .blk
  | 2 => .die
  | 3 => .mod
  | _ => .grp

/-- Field `[hi:lo]` of a word. -/
def field (v hi lo : Nat) : Nat := v / 2 ^ lo % 2 ^ (hi + 1 - lo)
/-- Bit of a word. -/
def flag (v n : Nat) : Bool := decide (v / 2 ^ n % 2 = 1)

/-- Start cycle that W1 names (R217): an offset of 0 means on issue in a free launch. -/
def startCycle (t : Site) (w1 : Nat) : Nat :=
  let v := t.b.v0 + w1
  if t.timed then v else if w1 = 0 then t.i.cyc else max t.i.cyc v

/-- The command that a slot's eight descriptor words make, read at I (R212, R213). -/
def cmdOf (t : Site) (op : CmdOp) (d a b : Reg) (id : Nat) : Cmd :=
  let u := fun (n : Nat) => (t.k.uni n).toNat
  let w0 := u d.toNat
  let w1 := u (d.toNat + 1)
  let w2 := u (d.toNat + 2)
  let w3 := u (d.toNat + 3)
  let acq := flag w0 24 && !t.timed
  let rel := flag w0 23 && !t.timed
  let sc := scopeOf (field w0 22 20)
  { id := id, seq := t.seq, owner := t.i.owner, cr := t.i.cr, str := t.k.str, path := t.p.id, pathIx := t.i.slot,
    mask := t.p.mask, pc := t.i.pc, word := t.i.word, op := op, tag := field w0 31 26, tgv := flag w0 25,
    acq := acq, rel := rel, sc := sc, xp := field w0 19 18, phv := flag w0 17, ph := field w0 16 13,
    in0 := field w0 12 7, in0v := flag w0 6, w1 := w1, start := startCycle t w1, mxv := flag w2 31, mxp := field w2 30 28,
    fv := flag w2 27, fid := field w2 26 25, side := flag w2 24, hz := field w2 23 16, hy := field w2 15 8, hx := field w2 7 0,
    nrows := field w3 31 16, row0 := field w3 15 0, addr := (t.k.uniPair a.toNat).toNat, w6 := u b.toNat, w7 := u (b.toNat + 1),
    kd := d.toNat, pv := t.b.bind.priv, issue := t.i.cyc, seed := t.k.seed, dii := t.k.dii,
    marks := if acq || rel then [.performed t.seq sc t.ids] else [] }

/-! ## Checks -/

/-- A copy, which takes beats or moves over the host port (R214). -/
def CmdOp.copies : CmdOp → Bool
  | .mx _ => false
  | .tsend => false
  | .tland => false
  | .launch => false
  | _ => true
/-- The row of R214 allows a follow-on. -/
def CmdOp.follows : CmdOp → Bool
  | .fill => true
  | .fab false => true
  | .trn false => true
  | _ => false
/-- XP must be 0 (R213). -/
def CmdOp.plain : CmdOp → Bool
  | .gth _ => true
  | .acc _ => true
  | .mx _ => true
  | .tsend => true
  | .tland => true
  | _ => false
/-- A copy between a handle and memory, with a pitch (R220). -/
def CmdOp.pitched : CmdOp → Bool
  | .fill => true
  | .drain => true
  | .host _ => true
  | .fab _ => true
  | .trn false => true
  | _ => false

/-- A descriptor value that raises UNDEF with subcode 4 (R213, R214, R228); `scope` is the raw field. -/
def cmdUndef (k : Core) (b : Block) (c : Cmd) (scope : Nat) : Bool :=
  if c.op = .launch then !c.tgv
  else
    decide (4 < scope) || decide (c.xp = 3) || (c.op.plain && decide (c.xp ≠ 0)) ||
    (c.mxv && (!c.op.follows || decide (5 < c.mxp))) ||
    (!c.tgv && (c.op.copies || (match c.op with | .mx _ => true | _ => false))) ||
    (decide (c.op = .tsend) && c.phv) ||
    (match c.op with
      | .acc rm => (descOf k b c.hx).valid && decide (c.hx < b.hdr.handles) && decide ((descOf k b c.hx).fmt = 4) && decide (rm ≠ .det .rne)
      | _ => false)

/-- The handles that a command names, with the levels that R214 allows: a list of level numbers. HY of a `tsend` is a handle number
of the receiving block and is not checked against the sender's HANDLES (DESIGN CHOICE: log entry 119; R216, R232). -/
def cmdHandles (c : Cmd) : List (Nat × List Nat) :=
  let follow := if c.mxv then [(c.hy, [0, 1, 2]), (c.hz, [0, 1, 2])] else []
  match c.op with
  | .tt => [(c.hx, [0, 1]), (c.hy, [0, 1])]
  | .gth _ => [(c.hx, [0]), (c.hy, [0])]
  | .trn true => [(c.hx, [2]), (c.hy, [0])]
  | .trn false => (c.hx, [2]) :: follow
  | .acc _ => [(c.hx, [0]), (c.hy, [1])]
  | .mx pr => [(c.hx, [1]), (c.hy, [0]), (c.hz, if pr = .f64 ∨ pr = .f32 then [0] else [0, 2])]
  | .launch => []
  | _ => (c.hx, [0, 1]) :: follow

/-- Formats of A, B and C of a pairing (R230). -/
def mxFormats : MxPair → List Nat × List Nat × Nat
  | .f64 => ([5], [5], 5)
  | .f32 => ([4], [4], 4)
  | .bf16 => ([7], [7], 4)
  | .f16 => ([6], [6], 4)
  | .fp8 => ([8, 9], [8, 9], 4)
  | .qn4 => ([7], [14], 4)
/-- K per cycle group (R80). -/
def mxKpc : MxPair → Nat
  | .f64 => 4
  | .f32 => 8
  | .bf16 => 32
  | .f16 => 32
  | .fp8 => 64
  | .qn4 => 128
/-- The pairing that MXP names (R230). -/
def mxPairOf : Nat → MxPair
  | 0 => .f64
  | 1 => .f32
  | 2 => .bf16
  | 3 => .f16
  | 4 => .fp8
  | _ => .qn4

/-- Pairing, accumulator, A and B of a matrix command or of a copy's follow-on (R229, R230). -/
def mxOf (c : Cmd) : MxPair × Nat × Nat × Nat :=
  match c.op with
  | .mx pr => (pr, c.hx, c.hy, c.hz)
  | _ => (mxPairOf c.mxp, c.hz, if c.side then c.hy else c.hx, if c.side then c.hx else c.hy)

/-- HANDLE, then BOUND, of a matrix command's operands (R230): the handle number for HANDLE. -/
def mxCheck (k : Core) (b : Block) (c : Cmd) : Option (Nat × Nat) :=
  let m := mxOf c
  let f := mxFormats m.1
  let dc := descOf k b m.2.1
  let da := descOf k b m.2.2.1
  let db := descOf k b m.2.2.2
  let narrow := !(m.1 = .f64 || m.1 = .f32)
  if !dc.valid || decide (dc.level ≠ 1) || decide (dc.fmt ≠ f.2.2) then some (0x05, m.2.1)
  else if !da.valid || decide (da.level ≠ 0) || !f.1.contains da.fmt then some (0x05, m.2.2.1)
  else if !db.valid || !(db.level == 0 || (narrow && db.level == 2)) || !f.2.1.contains db.fmt then some (0x05, m.2.2.2)
  else if da.cols ≠ db.rows ∨ 128 < db.cols ∨ dc.rows ≠ da.rows ∨ dc.cols ≠ db.cols then some (0x0B, 0)
  else none

/-- Bits that a transposing copy exchanges by (R225). -/
def xpBits (c : Cmd) : Nat := 8 * c.xp

/-- A format or shape that the command's own rule refuses (R225 to R228, R233): the handle number. -/
def cmdShape (k : Core) (b : Block) (c : Cmd) : Option Nat :=
  let x := descOf k b c.hx
  let y := descOf k b c.hy
  match c.op with
  | .tt =>
    if c.xp = 0 then (if x.fmt = y.fmt ∧ x.cols = y.cols then none else some c.hx)
    else
      let swapped := decide (x.fmt = y.fmt) && decide (x.rows = y.cols) && decide (x.cols = y.rows)
      let kind := if y.fmt = 14 then decide (c.xp = 1)
        else decide (fmtBits y.fmt = xpBits c) && (x.scv == y.scv) && (!y.scv || (x.sblk == y.sblk))
      if swapped && kind then none else some c.hx
  | .gth _ => if y.fmt = 0 ∨ y.fmt = 1 then none else some c.hy
  | .trn true => if c.xp = 0 ∧ x.fmt = y.fmt ∧ x.rows = y.rows ∧ x.cols = y.cols then none else some c.hy
  | .acc _ =>
    if y.fmt ≠ 4 then some c.hy
    else if x.rows = y.rows && x.cols = y.cols && (x.fmt == 4 || x.fmt == 6 || x.fmt == 7 || x.fmt == 8 || x.fmt == 9) && !x.scv then none
    else some c.hx
  | .tland => if x.land then some c.hx else none
  | op => if op.pitched && decide (c.xp ≠ 0) && (decide (x.fmt = 14) || decide (fmtBits x.fmt ≠ xpBits c)) then some c.hx else none

/-- Bytes of an element, one for QN4 (R220). -/
def elemBytes (d : Desc) : Nat := max 1 (fmtBits d.fmt / 8)

/-- The handle whose rows a copy counts. -/
def rowHandle (c : Cmd) : Nat :=
  match c.op with
  | .tt => c.hy
  | .acc _ => c.hy
  | _ => c.hx

/-- Rows of the memory side and their bytes under XP (R225): columns of the handle become rows. -/
def xpRowBytes (d : Desc) (c : Cmd) : Nat := d.rows * (xpBits c / 8)

/-- Row bytes of the memory side. -/
def memRowBytes (d : Desc) (c : Cmd) : Nat := if c.xp = 0 then d.rowBytes else xpRowBytes d c

/-- Rows that a copy moves (R220, R226): none when it has none to move. -/
def rowCount (k : Core) (b : Block) (c : Cmd) : Nat :=
  match c.op with
  | .gth _ => c.w7
  | _ =>
    let total := (descOf k b (rowHandle c)).copyRows
    if c.nrows = 0 then total - c.row0 else c.nrows

/-- Count, pitch and range conditions that raise BOUND (R220, R225, R226, R232). -/
def cmdBound (k : Core) (b : Block) (c : Cmd) : Bool :=
  let x := descOf k b c.hx
  let y := descOf k b c.hy
  let n := rowCount k b c
  let total := (descOf k b (rowHandle c)).copyRows
  match c.op with
  | .gth _ => decide (c.w7 = 0) || decide (65535 < c.w7) || decide (y.rows * y.cols < c.w7) || decide (x.copyRows < c.row0 + c.w7)
  | .tsend => decide (65536 < x.bytes)
  | .tland => false
  | .launch => false
  | .mx _ => false
  | op =>
    (if c.xp ≠ 0 then decide (c.row0 ≠ 0) || decide (c.nrows ≠ 0)
      else decide (total < c.row0) || decide (total < c.row0 + n) || (decide (op = .tt) && decide (x.copyRows < c.row0 + n))) ||
    (op.pitched && decide (c.w6 ≠ 0) && decide (c.w6 < memRowBytes x c))

/-- Alignment (R220, R226): the address and a pitch, or the base and the row stride, in elements of HX. -/
def cmdAlign (k : Core) (b : Block) (c : Cmd) : Bool :=
  let e := elemBytes (descOf k b c.hx)
  match c.op with
  | .gth _ => decide (c.addr % e ≠ 0) || decide (c.w6 % e ≠ 0)
  | op => op.pitched && (decide (c.addr % e ≠ 0) || decide (c.w6 % e ≠ 0))

/-- Another live arm of the core waits for the same message (R233). -/
def armTwin (k : Core) (sender hnum stamp : Nat) : Bool :=
  k.arms.any fun a => decide (a.sender = sender) && decide (a.hnum = hnum) && decide (a.stamp = stamp)

/-- The checks of R216, in order, after those of UNDEF: the code, subcode and INFO of the first that holds. -/
def cmdFault (w : World) (t : Site) (c : Cmd) (sender stamp : Nat) : Option (Nat × Nat × W64) :=
  let k := w.core t.i.core
  let b := t.b
  let hs := cmdHandles c
  let bound : Option (Nat × Nat × W64) := some (0x0B, 0, 0)
  let handle := fun (n : Nat) => (some (0x05, 0, BitVec.ofNat 64 n) : Option (Nat × Nat × W64))
  if (c.tgv && decide (b.hdr.tags ≤ c.tag)) || (decide (c.op ≠ .launch) && c.in0v && decide (b.hdr.tags ≤ c.in0)) then bound
  else if decide (c.op ≠ .launch) && c.phv && decide (b.hdr.phasers ≤ c.ph) then bound
  else match hs.find? fun h => decide (b.hdr.handles ≤ h.1) with
  | some h => handle h.1
  | none =>
    match hs.find? fun h => !(descOf k b h.1).valid || !h.2.contains (descOf k b h.1).level with
    | some h => handle h.1
    | none =>
      match cmdShape k b c with
      | some h => handle h
      | none =>
        match (match c.op with | .mx _ => mxCheck k b c | _ => none) with
        | some r => some (r.1, 0, BitVec.ofNat 64 r.2)
        | none =>
          if c.op = .tland ∧ armTwin k sender c.hx stamp then handle c.hx
          else if cmdBound k b c then bound
          else if cmdAlign k b c then some (0x04, 0, BitVec.ofNat 64 c.addr)
          else if (match c.op with | .gth _ => b.bind.gchan.isNone | _ => false) then some (0x07, 0, 0)
          else if (match c.op with | .mx _ => decide (b.key ≠ c.cr) | _ => false) then some (0x06, 0, 0)
          else if t.timed && (if c.op = .tland then decide (b.v0 + stamp < t.i.cyc + 32) else decide (c.start < t.i.cyc)) then some (0x02, 1, 0)
          else none

/-- A fault record about a command (R325). -/
def cmdRecord (b : Block) (c : Cmd) (code sub src : Nat) (info : W64) (work : Work) : FaultRec :=
  ({ code := code, sub := sub, src := src, owner := c.owner, cr := c.cr, path := c.pathIx, mask := c.mask, pc := pcWord c.pc,
     word := c.word, tag := c.tag, tgv := c.tgv, vcc := 0, info := info, seq := c.seq, work := work } : FaultRec).ofBlock b

/-- A command faults after its issue. -/
def cmdFails (w : World) (core : Nat) (c : Cmd) (code sub src : Nat) (info : W64) (work : Work) : World :=
  match w.block? core c.owner with
  | none => w
  | some b => takeFault w core { cmdRecord b c code sub src info work with path := pathNow w core c.owner c.cr c.path c.pathIx }

/-- Issue an engine command: the descriptor's faults, then `act`. `failed` follows a fault at I. DESIGN CHOICE: UNDEF subcode
4 of a descriptor's value (R213, R214) is no fault of the word, so it is not raised in decode: the issue counts in `%dii`, and
nothing is raised where the lowest active lane is disabled; R113 leaves it open (log entry 98). -/
def issueCmd (op : CmdOp) (d a b : Reg) (failed act : Site → Cmd → World → World) (s : State) :
    Host.Outcome State Fault Refusal :=
  issuePlain (fun t w =>
    if !t.once then w
    else
      let c := cmdOf t op d a b (w.core t.i.core).nextId
      let w1 := (t.k.uni (d.toNat + 1)).toNat
      let scope := field (t.k.uni d.toNat).toNat 22 20
      let sender := (groupCore w.mach c.addr).getD (2 ^ 40 + c.addr % 2 ^ 32)
      let work : Work := .once t.i.cr t.i.slot true t.i.cyc []
      let fault := fun (code sub : Nat) (info : W64) => failed t c (takeFault w t.i.core (cmdRecord t.b c code sub 2 info work))
      if cmdUndef (w.core t.i.core) t.b c scope then fault 0x01 4 0
      else match cmdFault w t c sender w1 with
        | some r => fault r.1 r.2.1 r.2.2
        | none => act t c w) s

/-! ## Commands in the core -/

/-- Replace a command record. -/
def setCmd (w : World) (core : Nat) (c : Cmd) : World :=
  w.modCore core fun k => { k with cmds := k.cmds.map fun (x : Cmd) => if x.id = c.id then c else x }
/-- The command with an identity. -/
def cmdAt (w : World) (core id : Nat) : Option Cmd := (w.core core).cmds.find? fun c => decide (c.id = id)

/-! ## Rails (R91, R351) -/

/-- Level that a command asks of the rails: a matrix command, or the follow-on of a copy once it is in the array (R213),
whose own FID is stricter than the header's. -/
def cmdFid (k : Core) (b : Block) (c : Cmd) : Option Nat :=
  let matrix := match c.op with | .mx _ => true | _ => c.mxv && k.arr.runs.any fun r => decide (r.cmd = c.id)
  if matrix && c.fv && decide (c.fid < b.hdr.fid) && decide (c.st ≠ .ended) then some c.fid else none

/-- The strictest level that a quadrant's own level and its matrix commands ask for. -/
def railWanted (w : World) (d q : Nat) : Nat :=
  (List.range Config.coresPerQuad).foldl (fun l i =>
    let c := d * Config.coresPerDie + q * Config.coresPerQuad + i
    (w.core c).cmds.foldl (fun l x =>
      match (w.block? c x.owner).bind fun b => cmdFid (w.core c) b x with
      | some f => min l f
      | none => l) l) ((w.die d).quad q).level

/-- Matrix runs of a quadrant see a level from the next array cycle on, whose work has still to be done: the present one where the
change comes before the work of the cycle (`now`) or the sash stands there (R17, R43, R91). -/
def noteLevel (w : World) (d q level : Nat) (now : Bool) : World :=
  (List.range Config.coresPerQuad).foldl (fun w i =>
    let c := d * Config.coresPerDie + q * Config.coresPerQuad + i
    let k := w.core c
    if k.arr.runs.any fun r => r.s'.isSome then
      w.setCore c { k with arr := { k.arr with runs := k.arr.runs.map fun (r : MxRun) =>
        if r.s'.isSome then { r with levels := r.levels ++ [(vccOf w c + (if now || !running w c then 0 else 1), level)] } else r } }
    else w) w

/-- Bring a quadrant's rails toward what is wanted: a lowering at once, a raising by the real cycle at which it
completes (R351). -/
def steerRails (w : World) (d q : Nat) : World :=
  let x := (w.die d).quad q
  let l := railWanted w d q
  if l = x.rail then modQuad w d q fun y => { y with raise := none }
  else if x.rail < l then noteLevel (modQuad w d q fun y => { y with rail := l, raise := none }) d q l false
  else
    match x.raise with
    | some r => if r.1 = l then w else modQuad w d q fun y => { y with raise := some (l, r.2) }
    | none =>
      let limit := if x.rail = 3 then 4000 else 2000
      modQuad w.step d q fun y => { y with raise := some (l, w.mach.clock + Config.realDelay w.free % (limit + 1)) }

/-! ## The end of a command -/

/-- LEVEL of R385 for a command: the farthest store that its accesses reach. DESIGN CHOICE: the specification gives the codes and
not which one a command takes that touches several stores; a copy takes that of its memory side, a matrix command and `cp.acc`
that of the accumulators, `launch` that of the record it reads, and `tsend` and `tland` that of the tiles (log entry 121). -/
def cmdLevel (w : World) (core : Nat) (c : Cmd) : Nat :=
  match c.op with
  | .host _ => 8
  | .fab _ | .gth true => match fabOwner w c.addr with
    | some d => if d = dieOf core then 5 else if d / 4 = modOf core then 6 else 7
    | none => 5
  | .fill | .drain | .gth false | .trn false | .launch => 4
  | .mx _ | .acc _ => 2
  | .tt | .trn true | .tsend | .tland => 1

/-- A command has completed: a profile of it learns its level and its last performed cycle (R385), it leaves the core, its tag
is set (R216), and a rail raise it asked for ends (R91). -/
def endCmd (w : World) (core : Nat) (c : Cmd) : World :=
  let level := cmdLevel w core c
  let w := touchSample w core c.seq fun x => { x with level := level, wb := max x.wb (vccOf w core - x.issue) }
  let w := w.modCore core fun k => { k with cmds := k.cmds.filter fun (x : Cmd) => decide (x.id ≠ c.id) }
  let w := if c.tgv then finishTag w core c.owner c.tag else w
  if c.fv then steerRails w (dieOf core) (quadOf core) else w

/-- Put a command into the core: its tag clears at I (R216). -/
def addCmd (t : Site) (c : Cmd) (w : World) : World :=
  let host := match c.op with | .host _ => true | _ => false
  let w := if c.tgv then clearTag w t.i.core t.i.owner c.tag host else w
  let w := w.modCore t.i.core fun k => { k with cmds := k.cmds ++ [c], nextId := k.nextId + 1 }
  match c.op with
  | .mx _ => if c.fv then steerRails w (dieOf t.i.core) (quadOf t.i.core) else w
  | _ => w

/-- A copy or a matrix command enters its queue or the array's list (R219, R231). -/
def issueEngine (op : CmdOp) (d a b : Reg) (s : State) : Host.Outcome State Fault Refusal :=
  issueCmd op d a b (fun _ _ w => w) addCmd s

/-- `cp.fill` (R214, R220). -/
def execCpFill (d a b : Reg) (s : State) : Host.Outcome State Fault Refusal := issueEngine .fill d a b s
/-- `cp.drain` (R214, R220). -/
def execCpDrain (d a b : Reg) (s : State) : Host.Outcome State Fault Refusal := issueEngine .drain d a b s
/-- `cp.tt` (R214, R225). -/
def execCpTt (d a b : Reg) (s : State) : Host.Outcome State Fault Refusal := issueEngine .tt d a b s
/-- `cp.host` (R186, R214). -/
def execCpHost (d a b : Reg) (fromHandle : Bool) (s : State) : Host.Outcome State Fault Refusal := issueEngine (.host fromHandle) d a b s
/-- `cp.fab` (R214, R220). -/
def execCpFab (d a b : Reg) (fromHandle : Bool) (s : State) : Host.Outcome State Fault Refusal := issueEngine (.fab fromHandle) d a b s
/-- `cp.gth` (R226). -/
def execCpGth (d a b : Reg) (fab : Bool) (s : State) : Host.Outcome State Fault Refusal := issueEngine (.gth fab) d a b s
/-- `cp.trn` (R227). -/
def execCpTrn (d a b : Reg) (fromTs : Bool) (s : State) : Host.Outcome State Fault Refusal := issueEngine (.trn fromTs) d a b s
/-- `cp.acc` (R228). -/
def execCpAcc (d a b : Reg) (rm : CvtRound) (s : State) : Host.Outcome State Fault Refusal := issueEngine (.acc rm) d a b s
/-- `mx` (R230). -/
def execMx (d a b : Reg) (pair : MxPair) (s : State) : Host.Outcome State Fault Refusal := issueEngine (.mx pair) d a b s

/-- `launch` (R238): the request leaves at its start cycle. -/
def execLaunch (d a b : Reg) (s : State) : Host.Outcome State Fault Refusal := issueEngine .launch d a b s

end Sys2Proof.Machine
end

