-- ==== Sys2Proof/Machine/Copy.lean ====
section
/-! DEFINITION. The copy engine (R217 to R229): COMMAND_START, COPY_BEAT, BEAT_SOURCE_READ, BEAT_DEST_WRITE, host
copies over the link, and the follow-on of a copy. -/

namespace Sys2Proof.Machine

/-- Where a beat reads or writes: a byte of a level's store of the core, of a die, or an address no die owns. -/
inductive Loc where
  | tile (lv a : Nat)
  | mem (d off : Nat)
  | host (a : Nat)
  | bad (va : Nat)
  deriving DecidableEq, Repr

/-- A stretch of a source row that one beat carries (R220): the row counted from the first, offset and bytes; in a
transposing `cp.tt` rows of the scale handle follow the element rows (R225). -/
structure Leg where
  row : Nat
  off : Nat
  n   : Nat
  scale : Bool
  deriving DecidableEq, Repr

/-! ## Geometry -/

/-- First byte of a copy row of a handle in its level's store (R188, R220). -/
def Desc.rowStart (d : Desc) (r : Nat) : Nat := 256 * d.base + r * d.rowBytes

/-- Source rows and their bytes (R220, R225). -/
def srcShape (k : Core) (b : Block) (c : Cmd) : Nat × Nat :=
  let x := descOf k b c.hx
  let y := descOf k b c.hy
  match c.op with
  | .acc _ => (rowCount k b c, y.cols * 4)
  | .tt => (if c.xp = 0 then rowCount k b c else y.copyRows, y.rowBytes)
  | .drain => (if c.xp = 0 then rowCount k b c else x.rows, x.rowBytes)
  | .fab true => (if c.xp = 0 then rowCount k b c else x.rows, x.rowBytes)
  | .host true => (if c.xp = 0 then rowCount k b c else x.rows, x.rowBytes)
  | _ => if c.xp = 0 then (rowCount k b c, x.rowBytes) else (x.cols, xpRowBytes x c)

/-- Rows and row bytes of the scale handle that a transposing `cp.tt` copies too (R225). -/
def scaleShapeOf (k : Core) (b : Block) (c : Cmd) : Nat × Nat :=
  let y := descOf k b c.hy
  if c.op = .tt && decide (c.xp ≠ 0) && y.scv then
    let s := descOf k b y.scale
    (s.rows, s.cols)
  else (0, 0)

/-- Beats of a command. -/
def beatCount (k : Core) (b : Block) (c : Cmd) : Nat :=
  let s := srcShape k b c
  let z := scaleShapeOf k b c
  s.1 * ((s.2 + 127) / 128) + z.1 * ((z.2 + 127) / 128)

/-- The stretch that a beat carries. -/
def legOf (k : Core) (b : Block) (c : Cmd) (no : Nat) : Leg :=
  let s := srcShape k b c
  let m := (s.2 + 127) / 128
  if no < s.1 * m then { row := no / m, off := no % m * 128, n := min 128 (s.2 - no % m * 128), scale := false }
  else
    let z := scaleShapeOf k b c
    let m2 := (z.2 + 127) / 128
    let i := no - s.1 * m
    { row := i / m2, off := i % m2 * 128, n := min 128 (z.2 - i % m2 * 128), scale := true }

/-- A memory address of a command: die space of the issuing die, fabric space or host space (R184). -/
def memLoc (w : World) (core : Nat) (c : Cmd) (a : Nat) : Loc :=
  let fab := if a < 2 ^ 57 then (match fabOwner w a with
      | some o => if fabOpen w (dieOf core) o then Loc.mem o (a % 2 ^ 46) else .bad a
      | none => .bad a) else .bad a
  match c.op with
  | .host _ => .host (a % 2 ^ 64)
  | .fab _ => fab
  | .gth true => fab
  | _ => if a < 2 ^ 46 then .mem (dieOf core) a else .bad a

/-- Address of byte `o` of row `i` of the memory side (R220, R225, R226). -/
def memAddr (k : Core) (b : Block) (c : Cmd) (i o : Nat) : Nat :=
  match c.op with
  | .gth _ => c.addr + c.idx.getD i 0 * c.w6 + o
  | _ =>
    let p := if c.w6 = 0 then memRowBytes (descOf k b c.hx) c else c.w6
    c.addr + i * p + o

/-- The engine reads memory and writes a handle. -/
def readsMem : CmdOp → Bool
  | .fill => true
  | .fab false => true
  | .host false => true
  | .trn false => true
  | .gth _ => true
  | _ => false
/-- The engine writes memory. -/
def writesMem : CmdOp → Bool
  | .drain => true
  | .fab true => true
  | .host true => true
  | _ => false

/-- Source of a leg. -/
def legSource (w : World) (core : Nat) (b : Block) (c : Cmd) (l : Leg) : Loc :=
  let k := w.core core
  let x := descOf k b c.hx
  let y := descOf k b c.hy
  if readsMem c.op then memLoc w core c (memAddr k b c l.row l.off)
  else if l.scale then .tile 0 ((descOf k b y.scale).rowStart l.row + l.off)
  else
    let r := if c.xp = 0 then c.row0 + l.row else l.row
    match c.op with
    | .tt => .tile y.level (y.rowStart r + l.off)
    | .trn _ => .tile y.level (y.rowStart r + l.off)
    | .acc _ => .tile y.level (256 * y.base + r * (y.cols * 4) + l.off)
    | _ => .tile x.level (x.rowStart r + l.off)

/-- A piece of a beat's destination: place, bytes, and the positions among them that carry poison. -/
abbrev Piece := Loc × List Byte × List Nat

/-- Positions of poison in `n` bytes from `o` of a beat. -/
def badIn (bad : List Nat) (o n : Nat) : List Nat := (bad.filter fun i => decide (o ≤ i) && decide (i < o + n)).map (· - o)

/-- The codes of a QN4 block, transposed (R79, R225). -/
def blockTranspose (bs : List Byte) : List Byte :=
  let code := fun (r c : Nat) => (((bs[4 * r + c / 2]?).getD 0).toNat / (if c % 2 = 0 then 1 else 16)) % 16
  (List.range 32).map fun i =>
    let r := i / 4
    let c := i % 4 * 2
    BitVec.ofNat 8 (code c r + 16 * code (c + 1) r)

/-- Destination of byte `o` of row `s` of a transposed scale handle (R79, R225). -/
def scaleTarget (k : Core) (b : Block) (c : Cmd) (s o : Nat) : Nat :=
  let x := descOf k b c.hx
  let y := descOf k b c.hy
  let z := descOf k b x.scale
  if y.fmt = 14 then
    let nsc := (y.cols + 127) / 128
    let nsc' := (x.cols + 127) / 128
    let o' := if o < 256 then 16 * (o % 16) + o / 16 else o
    z.rowStart (s % nsc * nsc' + s / nsc) + o'
  else z.rowStart o + s

/-- One element of `cp.acc`, converted under R138. -/
def accElement (c : Cmd) (rm : CvtRound) (fmt elem v : Nat) : List Byte :=
  let f : FFmt := match fmt with
    | 6 => .f16
    | 7 => .bf16
    | 8 => .e4m3
    | _ => .e5m2
  if fmt = 4 then leBytes 4 v
  else
    let u := srDraw c.seed.toNat c.dii.toNat elem
    leBytes (fmtWidth f / 8) (cvtF f rm u (unpackF .f32 v)).1

/-- The pieces that a beat writes. -/
def legPieces (w : World) (core : Nat) (b : Block) (c : Cmd) (l : Leg) (data : List Byte) (bad : List Nat) : List Piece :=
  let k := w.core core
  let x := descOf k b c.hx
  let y := descOf k b c.hy
  let units := fun (g : Nat) (place : Nat → Loc) =>
    (List.range (l.n / g)).map fun i => ((place (l.off / g + i), (data.drop (i * g)).take g, badIn bad (i * g) g) : Piece)
  if c.xp ≠ 0 then
    let g := c.xp
    if l.scale then units 1 fun o => .tile 0 (scaleTarget k b c l.row o)
    else if y.fmt = 14 && decide (c.op = .tt) then
      (List.range (l.n / 32)).map fun i =>
        let bc := l.off / 32 + i
        ((.tile x.level (256 * x.base + 32 * (bc * (x.cols / 8) + l.row)), blockTranspose ((data.drop (32 * i)).take 32),
          if (badIn bad (32 * i) 32).isEmpty then [] else List.range 32) : Piece)
    else if readsMem c.op then units g fun r => .tile x.level (x.addr r l.row)
    else if writesMem c.op then units g fun q => memLoc w core c (memAddr k b c q (l.row * g))
    else units g fun q => .tile x.level (x.addr q l.row)
  else
    match c.op with
    | .acc rm =>
      let m := max 1 (fmtBits x.fmt / 8)
      let r := c.row0 + l.row
      [(.tile x.level (256 * x.base + (r * x.cols + l.off / 4) * m),
        (List.range (l.n / 4)).flatMap fun i => accElement c rm x.fmt (r * x.cols + l.off / 4 + i) (leNat ((data.drop (4 * i)).take 4)),
        (List.range (l.n / 4)).flatMap fun i => if (badIn bad (4 * i) 4).isEmpty then [] else (List.range m).map (i * m + ·))]
    | op =>
      if writesMem op then [(memLoc w core c (memAddr k b c l.row l.off), data, bad)]
      else [(.tile x.level (x.rowStart (c.row0 + l.row) + l.off), data, bad)]

/-! ## Cycles (R221) -/

/-- Latency L of a memory location (R38): 448 for die space. -/
def locLat (w : World) (core : Nat) (c : Cmd) : Loc → Nat
  | .mem d _ => match c.op with
    | .fab _ => (fabLat w.mach (dieOf core) d).getD 460
    | .gth true => (fabLat w.mach (dieOf core) d).getD 460
    | _ => 448
  | _ => match c.op with
    | .fab _ => 460
    | .gth true => 460
    | _ => 448

/-- r and w of a beat. -/
def beatCycles (w : World) (core : Nat) (b : Block) (c : Cmd) (l : Leg) : Nat × Nat :=
  match c.op with
  | .tt => (0, 8)
  | .trn true => (0, 8)
  | .acc _ => (0, 10)
  | op =>
    if readsMem op then
      let lat := locLat w core c (legSource w core b c l)
      (lat - 8, lat)
    else
      let dst := ((legPieces w core b c l (List.replicate l.n 0) []).map Prod.fst).headD (.bad 0)
      (0, locLat w core c dst - 8)

/-! ## Order (R217, R244) -/

/-- Cycles from a lane's execution until its access is performed at a scope, where it is known. -/
def execPerf (sc : Scope) : LaneOp → Option Nat
  | .load sp _ _ => if sp = .fab then none else some 440
  | .store sp _ _ => if sp = .fab then none else some (if scopeWide sc then 448 else 440)
  | .mcast _ _ => none
  | .tile ld lv _ _ => some (match ld, lv with
      | true, .ts => 8
      | true, _ => 10
      | false, .ts => 6
      | false, _ => 8)
  | .rmw sp _ _ => if sp = .fab then none else some (if scopeWide sc then 448 else 440)
  | .tatom _ _ => some 2
  | .host _ _ _ => none
  | _ => some 0

/-- The later of two cycles, where both are known. -/
def latest (a b : Option Nat) : Option Nat := match a, b with
  | some x, some y => some (max x y)
  | _, _ => none

/-- When an access under way is applied, and performed at narrow and at wide scopes (R247), as far as it is known now. -/
structure Bound where
  seq  : Nat
  path : Nat
  applied : Option Nat
  narrow : Option Nat
  wide : Option Nat
  deriving DecidableEq, Repr

/-- The cycle by which everything a mark names is done, by the bounds of what it names. -/
def Mark.bound (l : List Bound) : Mark → Option Nat
  | .applied seq => (l.filter fun x => decide (x.seq = seq)).foldl (fun r x => latest r x.applied) (some 0)
  | .performed seq sc ids => (l.filter fun x => decide (x.seq < seq) && ids.contains x.path).foldl
      (fun r x => latest r (if scopeWide sc then x.wide else x.narrow)) (some 0)

/-- The bound of an access that its marks let act by a cycle `m` at the earliest. -/
def Access.bound (w : World) (core : Nat) (a : Access) (m : Option Nat) : Bound :=
  let mk := fun (x y z : Option Nat) => ({ seq := a.seq, path := a.path, applied := x, narrow := y, wide := z } : Bound)
  match a.done with
  | some d => mk (some d) (some d) (some (if a.later then d + a.extra else d))
  | none =>
    if a.space = .host then mk none none none
    else
      let e := latest (some a.cyc) m
      let ext := match a.kind with
        | .store => if a.space = .ts || a.space = .acc then 0 else if a.space = .fab then perfExtra w.mach (dieOf core) a.home else 8
        | .rmw _ _ => perfExtra w.mach (dieOf core) a.home
        | _ => 0
      match a.kind with
      | .tread _ _ => let e := if a.logged then some a.cyc else latest (some (a.cyc + 2)) (m.map (· + 2))
        mk e e e
      -- when a crossing write is performed is known once its home has applied it (R247, R251)
      | .store => mk e e (if a.cross then none else e.map (· + ext))
      | _ => mk e e (e.map (· + ext))

/-- The bound of the lanes of an instruction that have not executed. -/
def Flight.bound (w : World) (core : Nat) (f : Flight) (m : Option Nat) : Bound :=
  let at_ := fun (sc : Scope) => match execPerf sc f.form.op, w.course? core f.owner f.cr with
    | some p, some c => match ((lanesOf (c.enabled (f.mask &&& c.live) f.pred f.neg)).filter fun j => decide (f.next ≤ j)).getLast? with
      | some j => latest (some (f.cyc + j + p)) (m.map (· + p))
      | none => some 0
    | _, _ => none
  { seq := f.seq, path := f.path, applied := at_ .crs, narrow := at_ .crs, wide := at_ .die }

/-- The bounds of the accesses of a core, in issue order: an access that marks hold acts after everything that they name (R182,
R204, R253). -/
def coreBounds (w : World) (core : Nat) : List Bound :=
  let k := w.core core
  let accs := k.accs.map fun a => (a.seq, a.marks, fun (m : Option Nat) => a.bound w core m)
  let lanes := (k.flights.filter fun f => isMemOp f.form.op && decide (f.next < 32)).map fun f =>
    (f.seq, f.marks, fun (m : Option Nat) => f.bound w core m)
  (sortBy (fun a b => decide (a.1 ≤ b.1)) (accs ++ lanes)).foldl (fun l x =>
    l ++ [x.2.2 (x.2.1.foldl (fun r m => latest r (m.bound l)) (some 0))]) []

/-- The cycle by which everything a mark names is performed, as far as it is known now; none where it is not. -/
def markBound (w : World) (core : Nat) (m : Mark) : Option Nat := m.bound (coreBounds w core)

/-- The marks of a command let it act by a cycle. -/
def marksBy (w : World) (core : Nat) (ms : List Mark) (cyc : Nat) : Bool :=
  ms.all fun m => match markBound w core m with
    | some n => decide (n ≤ cyc)
    | none => false

/-- A command with REL whose block has staged writes: it writes nothing before earlier ones are released, and its tag is not set
before its own are too; the block's sash stands until then (R258). -/
def relStaged (w : World) (core : Nat) (c : Cmd) (own : Bool) : Bool :=
  c.rel && scopeWide c.sc && stagedOpen w core c.owner (if own then c.seq + 1 else c.seq) c.sc

/-- Writes that a command with REL releases are staged, or will be: a host copy, a timed send or a matrix command does not begin
before they are released (R258). -/
def relOpen (w : World) (core : Nat) (c : Cmd) : Bool :=
  c.rel && ((w.block? core c.owner).map fun b => c.marks.any (markOpen w core b)).getD false

/-! ## COMMAND_START (R217) -/

/-- The input tag of a command is set (R217). -/
def inputSet (w : World) (core : Nat) (c : Cmd) : Bool :=
  !c.in0v || ((w.block? core c.owner).map fun b => (blockTags (w.core core) b).getLsbD c.in0).getD true

/-- The index list of a gather, read at S (R226). -/
def gatherList (w : World) (core : Nat) (b : Block) (c : Cmd) : List Nat :=
  let y := descOf (w.core core) b c.hy
  (List.range c.w7).map fun i => leNat (w.mem.bytes .ts (levelKey 0 core (256 * y.base + 4 * i)) 4)

/-- A timed command finds its input tag unset (R54, R217): it has no effect, and its own tag is set at S. -/
def inputFault (w : World) (core : Nat) (c : Cmd) : World :=
  cmdFails (endCmd w core c) core c 0x02 2 3 0 (.command c)

/-! ## COPY_BEAT (R219) -/

/-- The head of a queue: the oldest copy of the string that has not left (R219); a host copy leaves when it moves to the
link. -/
def queueHead (w : World) (core q : Nat) : Option Cmd :=
  let k := w.core core
  k.cmds.find? fun c => c.op.copies && decide (c.str = q) &&
    (match c.st with
      | .waiting => true
      | .started => ((w.block? core c.owner).map fun b => decide (c.beats < beatCount k b c)).getD false
      | _ => false)

/-- The copy runs over the host link and takes no beats (R219). -/
def CmdOp.hostCopy : CmdOp → Bool
  | .host _ => true
  | _ => false

/-- The head is ready (R217, R219). -/
def headReady (w : World) (core : Nat) (c : Cmd) : Bool :=
  decide (c.st = .started) && !c.failed && !c.op.hostCopy &&
  (match w.block? core c.owner with
    | none => false
    | some b =>
      let vcc := vccOf w core
      let rw := beatCycles w core b c (legOf (w.core core) b c c.beats)
      (!c.acq || marksBy w core c.marks (vcc + rw.1)) && (!c.rel || marksBy w core c.marks (vcc + rw.2)))

/-- A host copy that has started stands at the head of its queue, and the accesses that ACQ or REL name are performed: it
moves to the host link (R217, R219, R237). -/
def hostHeadReady (w : World) (core : Nat) (c : Cmd) : Bool :=
  c.op.hostCopy && decide (c.st = .started) && !c.failed && decide ((queueHead w core c.str).map Cmd.id = some c.id) &&
  ((!c.acq && !c.rel) || marksBy w core c.marks (vccOf w core))

/-- COMMAND_START: a copy, matrix command or launch starts. A copy without beats completes at once. -/
def commandStart (core cid : Nat) (w : World) : World :=
  match cmdAt w core cid with
  | none => w
  | some c =>
    match w.block? core c.owner with
    | none => w
    | some b =>
      if c.s.isSome then
        -- a host copy at the head of its queue moves to the link
        if !hostHeadReady w core c || relOpen w core c then w
        else (setCmd w core { c with st := .away, endAt := some (w.later 0) }).step
      else if !inputSet w core c && decide (c.op ≠ .launch) then inputFault w core c
      else
        let vcc := vccOf w core
        let c := { c with s := some vcc, st := .started }
        match c.op with
        | .mx _ =>
          let w := setCmd w core { c with st := .away }
          w.modCore core fun k => { k with arr := { k.arr with runs := k.arr.runs ++ [{ cmd := c.id, s := vcc }] } }
        | .launch =>
          let w := setCmd w core { c with st := .away }
          let dl : DevLaunch := { core := core, cid := c.id, due := w.later 0 }
          w.step.modModule (modOf core) fun m => { m with devs := m.devs ++ [dl] }
        | .gth _ => setCmd w core { c with idx := gatherList w core b c }
        | _ => if beatCount (w.core core) b c = 0 then endCmd w core c else setCmd w core c

/-- The queue that the engine serves in this cycle: the first ready one after the queue served last. -/
def servedQueue (w : World) (core : Nat) : Option Nat :=
  let k := w.core core
  if k.beatAt = some (vccOf w core) then none
  else ((List.range 8).map fun i => (k.q + 1 + i) % 8).find? fun q => ((queueHead w core q).map fun c => headReady w core c).getD false

/-- The pages of die memory that a list of locations touches: home die, and the lowest offset touched in the page. -/
def locPages (ls : List (Loc × Nat)) : List (Nat × Nat) :=
  (ls.flatMap fun l => match l.1 with
    | .mem d off => if l.2 = 0 then [] else (d, off) :: (if off / 2 ^ 14 = (off + l.2 - 1) / 2 ^ 14 then [] else [(d, (off + l.2 - 1) / 2 ^ 14 * 2 ^ 14)])
    | _ => []).foldl (fun r p =>
      let same := fun (q : Nat × Nat) => decide (q.1 = p.1) && decide (q.2 / 2 ^ 14 = p.2 / 2 ^ 14)
      if r.any same then r.map fun q => if same q then (q.1, min q.2 p.2) else q else r ++ [p]) []

/-- Begin the translations of the pages a beat touches (R314 to R316). -/
def startPages (w : World) (core : Nat) (pages : List (Nat × Nat)) (use : AccessUse) (l1 : Bool) : World × List (Nat × Nat × Xlate) :=
  pages.foldl (fun r p =>
    let x := startXlate r.1 core p.1 p.2 use (l1 && decide (p.1 = dieOf core))
    (x.1, r.2 ++ [(p.1, p.2, x.2)])) (w, [])

/-- The pages of a beat of a command: those of fabric space wait for its arrival at their owner (R315). -/
def beatPages (w : World) (core : Nat) (c : Cmd) (pages : List (Nat × Nat)) (use : AccessUse) : World × List (Nat × Nat × Xlate) :=
  if c.op.fabric then (w, pages.map fun p => (p.1, p.2, .need)) else startPages w core pages use true

/-- An address of a list that no die owns. -/
def badLoc (ls : List (Loc × Nat)) : Option Nat :=
  ls.findSome? fun l => match l.1 with | .bad va => some va | _ => none

/-- COPY_BEAT: the engine performs one beat. -/
def copyBeat (core queue : Nat) (w : World) : World :=
  match queueHead w core queue with
  | none => w
  | some c =>
    match w.block? core c.owner with
    | none => w
    | some b =>
      let k := w.core core
      let vcc := vccOf w core
      let l := legOf k b c c.beats
      let rw := beatCycles w core b c l
      let src := [(legSource w core b c l, l.n)]
      let dst := (legPieces w core b c l (List.replicate l.n 0) []).map fun p => (p.1, p.2.1.length)
      let mem := readsMem c.op || writesMem c.op
      let r := beatPages w core c (locPages src) .engineRead
      let s := beatPages r.1 core c (locPages dst) .engineWrite
      let mark := fun (ls : List (Loc × Nat)) (x : List (Nat × Nat × Xlate)) => match badLoc ls with
        | some va => (dieOf core, va, Xlate.bad 0x03) :: x
        | none => x
      let x : Beat := { id := (s.1.core core).nextId, cmd := c.id, no := c.beats, t := vcc, rd := vcc + rw.1, wr := vcc + rw.2,
                        xr := mark src r.2, xw := mark dst s.2 }
      let w := if mem then charge s.1 { cyc := if readsMem c.op then x.rd else x.wr, agent := agentNo w core 8 0, bytes := l.n, core := core, beat := true, id := x.id } else s.1
      let w := setCmd w core { c with beats := c.beats + 1 }
      w.modCore core fun k => { k with beats := k.beats ++ [x], nextId := k.nextId + 1, q := queue, beatAt := some vcc }

/-! ## Beats (R221 to R223) -/

/-- Replace a beat record. -/
def setBeat (w : World) (core : Nat) (x : Beat) : World :=
  w.modCore core fun k => { k with beats := k.beats.map fun (y : Beat) => if y.id = x.id then x else y }

/-- A beat's host-backed pages go over the link: they complete at a real cycle of its own (R318). -/
def beatHostWait (w : World) (core : Nat) (x : Beat) (rd : Bool) : World :=
  let due := w.later 0
  let f := fun (p : Nat × Nat × Xlate) => match p.2.2 with
    | .ok l => if l.host then (p.1, p.2.1, Xlate.hostWait l due) else p
    | _ => p
  setBeat w.step core (if rd then { x with xr := x.xr.map f } else { x with xw := x.xw.map f })

/-- A free write to another die of the module carries a clock (R250, R251). -/
def beatCrosses (b : Block) (core : Nat) (c : Cmd) (d : Nat) : Bool := crosses b core .fab d && c.op.fabric

/-- Bytes of a stretch of DRAM or host memory as a beat of a command reads them at its read cycle. -/
def beatRead (w : World) (core : Nat) (b : Block) (seq cyc : Nat) (st : Store) (key n : Nat) : World × List Byte :=
  if recording w core b.hdr.timed && decide (st = .dram) && decide (key / Config.dramSpan = dieOf core) then
    chunkReads w core seq key n
  else
    let bs := w.mem.bytes st key n
    (w, bs.mapIdx fun i v => ((stagedAt b st (key + i) cyc).map Prod.fst).getD v)

/-- Element stretches of a handle that `n` bytes from a store address touch (R382). -/
def touchedRuns (d : Desc) (a n : Nat) : List (Nat × Nat) :=
  let o := a - 256 * d.base
  if d.fmt = 14 then
    (List.range n).map fun i =>
      let blk := (o + i) / 32
      let m := (o + i) % 32
      let e := (8 * (blk / (d.cols / 8)) + m / 4) * d.cols + 8 * (blk % (d.cols / 8)) + m % 4 * 2
      (e, e + 1)
  else
    let bits := max 1 (fmtBits d.fmt)
    [(o * 8 / bits, ((o + n) * 8 - 1) / bits)]

/-- Watch reports of an engine access (R382). -/
def watchEngine (w : World) (core : Nat) (c : Cmd) (write die : Bool) (handle : Nat) (runs : List (Nat × Nat)) : World :=
  if (w.core core).watches.isEmpty then w
  else
    let gone := ((w.course? core c.owner c.cr).map Course.gone).getD true
    watchAccess w core c.owner c.cr write die handle runs
      (fun e at_ => { kind := 4, ent := e, engine := true, issr := gone, tag := c.tag, tgv := c.tgv, mask := c.mask, pc := (pcWord c.pc).toNat, addr := at_ }) c.pathIx

/-- Handle that a beat's source, or its destination, belongs to. -/
def beatHandle (k : Core) (b : Block) (c : Cmd) (l : Leg) (dst : Bool) : Nat :=
  let h := if dst then c.hx else (match c.op with
    | .tt => c.hy
    | .acc _ => c.hy
    | .trn true => c.hy
    | _ => c.hx)
  if l.scale then (descOf k b h).scale else h

/-- The address of a place in the space of a command (R184). -/
def locAddr (w : World) (c : Cmd) : Loc → Nat
  | .mem d off => if c.op.fabric then fabVa w d off else off
  | .bad va => va
  | .host a => a
  | .tile _ a => a

/-- A beat that cannot be performed at its named cycle is recorded in the operand log (R330), with the address of its first
byte of memory. -/
def holdBeat (w : World) (core : Nat) (x : Beat) : World :=
  match cmdAt w core x.cmd with
  | none => w
  | some c => match w.block? core c.owner with
    | none => w
    | some b =>
      let l := legOf (w.core core) b c x.no
      let at_ := if x.data.isNone then legSource w core b c l else ((legPieces w core b c l (List.replicate l.n 0) []).map Prod.fst).headD (.bad 0)
      logRecord w core true x.id (x.record c (locAddr w c at_) (if x.data.isNone then x.rd else x.wr))

/-- A beat faults: the copy performs no further beat (R222). -/
def beatFails (w : World) (core : Nat) (c : Cmd) (x : Beat) (code : Nat) (va : Nat) : World :=
  let w := holdBeat (setCmd w core { c with failed := true }) core x
  let w := clearCause w core (.beat core x.id)
  cmdFails w core c code 0 3 (BitVec.ofNat 64 va) (.beat x.id)

/-- The address that a fault of a beat's page reports (R325): of the first byte of the page that the beat touches, in the
space of the command; or the address that no die owns. -/
def beatAddr (w : World) (c : Cmd) (ls : List (Loc × Nat)) (d off : Nat) : Nat :=
  match badLoc ls with
  | some va => va
  | none => if c.op.fabric then fabVa w d off else off

/-- Positions of `n` bytes that lie in poisoned granules. -/
def poisonedAt (w : World) (st : Store) (key n : Nat) : List Nat :=
  (List.range n).filter fun i => w.mem.poisoned st (key + i) 1

/-- The same of memory that a block reads, with its staged bytes over it (R257). -/
def poisonedOver (w : World) (b : Block) (st : Store) (key n cyc : Nat) : List Nat :=
  (List.range n).filter fun i => poisonedRead w b st (key + i) 1 cyc

/-- The translations of a beat's pages begin as it arrives at their owner (R315). -/
def arriveBeat (w : World) (core : Nat) (x : Beat) : World :=
  let go := fun (u : AccessUse) (xs : List (Nat × Nat × Xlate)) (w : World) => xs.foldl (fun (r : World × List (Nat × Nat × Xlate)) y =>
    if y.2.2 = .need then
      let z := startXlate r.1 core y.1 y.2.1 u false
      (z.1, r.2 ++ [(y.1, y.2.1, z.2)])
    else (r.1, r.2 ++ [y])) (w, [])
  let r := go .engineRead x.xr w
  let s := go .engineWrite x.xw r.1
  setBeat s.1 core { x with xr := r.2, xw := s.2 }

/-- Some page of the beat waits for its arrival. -/
def Beat.away (x : Beat) : Bool := (x.xr ++ x.xw).any fun y => decide (y.2.2 = .need)

/-- A beat's access to memory ends the chunk of a recording core (R387): it crosses to another die, or it is the first one of a
command with ACQ or REL beyond the core. -/
def beatEnds (core : Nat) (c : Cmd) (x : Beat) (write : Bool) (home : Nat) : Bool :=
  decide (home ≠ dieOf core) || (scopeWide c.sc && decide (x.no = 0) && (if write then c.rel else c.acq))

/-- A beat's access in a recording core: at a commit of its own, or in the chunk, committed first where it has no room. -/
def beatRecorded (core : Nat) (b : Block) (c : Cmd) (x : Beat) (write : Bool) (home n : Nat) (gs : List Nat) (act : World → World) (w : World) : World :=
  if !recording w core b.hdr.timed then act w
  else if beatEnds core c x write home then actsAtCommit core gs act w
  else
    let ch := theChunk w core
    let full := if write then decide (Config.stagingBytes < ch.writes.length + n) else decide (chunkCopies < ch.copies.length + 3)
    act (if full then flushChunk w core else w)

/-- BEAT_SOURCE_READ: a beat reads its source. -/
def beatSourceRead (core bid : Nat) (w : World) : World :=
  match (w.core core).beats.find? fun x => decide (x.id = bid) with
  | none => w
  | some x =>
    match cmdAt w core x.cmd with
    | none => w
    | some c =>
      match w.block? core c.owner with
      | none => w
      | some b =>
        if x.away then arriveBeat w core x
        else if x.data.isSome || x.late then w else
        let k := w.core core
        let l := legOf k b c x.no
        match legSource w core b c l with
        | .tile lv a =>
          let h := beatHandle k b c l false
          let key := levelKey lv core a
          let w := setBeat w core { x with data := some (w.mem.bytes (levelStore lv) key l.n), bad := poisonedAt w (levelStore lv) key l.n }
          watchEngine w core c false false h (touchedRuns (descOf k b h) a l.n)
        | .mem d off =>
          match pageGate x.xr .engineRead c.pv with
          | .fail code d off => beatFails w core c x code (beatAddr w c [(legSource w core b c l, l.n)] d off)
          | .hostPage => beatHostWait w core x true
          | .wait => w
          | .clear =>
            let clk := if x.clk.isEmpty then matRow (w.die (dieOf core)).causal (d % 4) else x.clk
            if beatCrosses b core c d && !clockMet (w.die d) clk then setBeat w core { x with clk := clk }
            else beatRecorded core b c x false d l.n [] (fun w =>
              let w := if beatCrosses b core c d then w.modDie (dieOf core) fun y => { y with causal := matMerge y.causal (w.die d).causal } else w
              let n1 := min l.n (2 ^ 14 - off % 2 ^ 14)
              let p1 := pagePlace x.xr d off
              let p2 := pagePlace x.xr d (off + n1)
              let r1 := beatRead w core b c.seq x.rd p1.1 p1.2 n1
              let r2 := beatRead r1.1 core b c.seq x.rd p2.1 p2.2 (l.n - n1)
              let bad := poisonedOver r2.1 b p1.1 p1.2 n1 x.rd ++ (poisonedOver r2.1 b p2.1 p2.2 (l.n - n1) x.rd).map (n1 + ·)
              let z1 := if p1.1 = .host then untimedBytes core c.owner c.cr (lowestLane c.mask) (pcWord c.pc).toNat 16 p1.2 r1.2 r2.1 else (r2.1, r1.2)
              let z2 := if p2.1 = .host then untimedBytes core c.owner c.cr (lowestLane c.mask) (pcWord c.pc).toNat 16 p2.2 r2.2 z1.1 else (z1.1, r2.2)
              let w := setBeat (clearCause z2.1 core (.beat core bid)) core { x with data := some (z1.2 ++ z2.2), bad := bad }
              if decide (d = dieOf core) && !beatCrosses b core c d then watchEngine w core c false true 0 [(off, off + l.n - 1)] else w) w
        | .bad va => beatFails w core c x 0x03 va
        | .host _ => w

/-- Other dies of the module that pieces of a beat cross to (R251), unless the block stages them (R256). -/
def beatSends (w : World) (core : Nat) (b : Block) (c : Cmd) (ps : List Piece) : List Nat :=
  (ps.filterMap fun p => match p.1 with
    | .mem d _ => if beatCrosses b core c d && !(b.hdr.determ && stages w core b) then some d else none
    | _ => none).eraseDups

/-- Write the pieces of a beat at the present cycle; poison goes with the bytes (R332). The writes of a block that is not the
head are staged, and those to another die of the module cross (R251, R256). -/
def writePieces (w : World) (core : Nat) (b : Block) (c : Cmd) (x : Beat) (ps : List Piece) : World :=
  let agent := agentNo w core 8 0
  let put := fun (w : World) (d off : Nat) (bs : List Byte) (bad : List Nat) =>
    if bs.isEmpty then w
    else
      let a := pagePlace x.xw d off
      let st := a.1
      let key := a.2
      if b.hdr.timed then timedWrite w core x.wr b.bind.lid (x.wr - b.v0) agent d st key bs bad
      else
        let w := if b.hdr.determ then putTickets w b d st key bs.length else w
        if b.hdr.determ && stages w core b then
          w.modBlock core c.owner fun y => { y with staged := y.staged ++
            [{ cyc := x.wr, str := 8, lane := 0, seq := c.seq, home := d, st := st, key := key, off := off, data := bs, bad := bad, pages := x.xw, pv := c.pv }] }
        else if recording w core b.hdr.timed && decide (st = .dram) && !beatEnds core c x true d then poisonAt (chunkWrite w core x.wr c.seq key bs) st key bad
        else poisonAt (homeWrite w core x.wr st key bs) st key bad
  let homes := beatSends w core b c ps
  let w := homes.foldl (fun w d =>
    let mine := ps.filterMap fun p => match p.1 with | .mem e off => if e = d then some (off, p.2.1, p.2.2) else none | _ => none
    let w := if b.hdr.determ then mine.foldl (fun w q => let a := pagePlace x.xw d q.1; putTickets w b d a.1 a.2 q.2.1.length) w else w
    crossSend w core c.owner d x.id x.wr .engineWrite c.pv mine x.xw) w
  ps.foldl (fun w p =>
    match p.1 with
    | .tile lv a => poisonAt (tileWrite w (levelStore lv) (levelKey lv core a) p.2.1) (levelStore lv) (levelKey lv core a) p.2.2
    | .mem d off =>
      if homes.contains d then w
      else
        let n1 := min p.2.1.length (2 ^ 14 - off % 2 ^ 14)
        put (put w d off (p.2.1.take n1) (badIn p.2.2 0 n1)) d (off + n1) (p.2.1.drop n1) (badIn p.2.2 n1 (p.2.1.length - n1))
    | _ => w) w

/-- The 64-byte granules of DRAM that a stretch of a die touches under a list of translations. -/
def granulesHit (pages : List (Nat × Nat × Xlate)) (d off n : Nat) : List Nat :=
  let a := pagePlace pages d off
  if n = 0 || a.1 ≠ .dram then [] else (List.range ((a.2 + n - 1) / 64 + 1 - a.2 / 64)).map (a.2 / 64 + ·)

/-- Cycles after its write until a beat is performed at a command's scope (R247), where REL holds the tag. -/
def beatExtra (w : World) (core : Nat) (c : Cmd) (ps : List Piece) : Nat :=
  if !c.rel || !scopeWide c.sc then 0
  else ps.foldl (fun n p => match p.1 with
    | .mem d _ => max n (perfExtra w.mach (dieOf core) d)
    | _ => n) 0

/-- The copy is complete, or its follow-on enters the array (R222, R229). A follow-on that fails its checks has no
effect, and the copy completes. -/
def copyDone (core : Nat) (c : Cmd) (w : World) : World :=
  if !c.mxv then endCmd w core c
  else
    match w.block? core c.owner with
    | none => w
    | some b =>
      let bad := match mxCheck (w.core core) b c with
        | some r => some (r.1, BitVec.ofNat 64 r.2)
        | none =>
          let gone := ((w.course? core c.owner c.cr).map Course.gone).getD true
          if gone || decide (b.key ≠ c.cr) then some (0x06, (0 : W64)) else none
      match bad with
      | some r => cmdFails (setCmd w core { c with failed := true }) core c r.1 0 4 r.2 (.follow c.id)
      | none =>
        let w := setCmd w core { c with st := .away }
        let w := w.modCore core fun k => { k with arr := { k.arr with runs := k.arr.runs ++ [{ cmd := c.id, s := vccOf w core, follow := true }] } }
        if c.fv then steerRails w (dieOf core) (quadOf core) else w

/-- Beats of a copy are on their way to another die (R251). -/
def beatsSent (k : Core) (cid : Nat) : Bool := k.beats.any fun x => decide (x.cmd = cid) && x.sent

/-- Drop a beat record. -/
def dropBeat (w : World) (core bid : Nat) : World := w.modCore core fun k => { k with beats := k.beats.filter fun (y : Beat) => decide (y.id ≠ bid) }

/-- A beat has landed at its write cycle: it counts against its phaser the bytes that it reads, of a `cp.acc` those before its
conversion (DESIGN CHOICE: log entry 119; R223), and the last one completes the copy, or
with REL begins the wait for its writes to be performed (R217, R222). `sent` says that it is on its way to another die. -/
def beatLanded (core : Nat) (b : Block) (c : Cmd) (x : Beat) (ps : List Piece) (sent : Bool) (w : World) : World :=
  let l := legOf (w.core core) b c x.no
  let w := if c.phv then phaserDelivery w core c.owner c.ph l.n else w
  let c := { c with landed := c.landed + 1, endAt := some (max (c.endAt.getD 0) (vccOf w core + beatExtra w core c ps)) }
  let w := setCmd w core c
  let w := if sent && c.rel && scopeWide c.sc then setBeat w core { x with sent := true } else dropBeat w core x.id
  if c.landed < beatCount (w.core core) b c then w
  else if c.endAt.getD 0 ≤ vccOf w core && !relStaged w core c true && !beatsSent (w.core core) c.id then copyDone core c w
  else w.modCore core fun k => { k with
    beats := k.beats ++ [{ id := k.nextId, cmd := c.id, no := c.beats, t := vccOf w core, rd := 0, wr := 0, fin := some (c.endAt.getD 0) }]
    nextId := k.nextId + 1 }

/-- BEAT_DEST_WRITE: a beat writes its destination; the record that stands for the end of a copy completes it (R217, R222). -/
def beatDestWrite (core bid : Nat) (w : World) : World :=
  match (w.core core).beats.find? fun x => decide (x.id = bid) with
  | none => w
  | some x =>
    match cmdAt w core x.cmd with
    | none => w
    | some c =>
      match w.block? core c.owner with
      | none => w
      | some b =>
        if x.away then arriveBeat w core x
        else if x.fin.isSome then
          if relStaged w core c true then w else copyDone core c (dropBeat w core bid)
        else match x.data with
          | none => w
          | some data =>
            if x.late || x.sent then w
            else
            let k := w.core core
            let l := legOf k b c x.no
            let ps := legPieces w core b c l data x.bad
            if writesMem c.op then
              match pageGate x.xw .engineWrite c.pv with
              | .fail code d off => beatFails w core c x code (beatAddr w c (ps.map fun p => (p.1, p.2.1.length)) d off)
              | .hostPage => beatHostWait w core x false
              | .wait => w
              | .clear =>
                let home := (ps.findSome? fun p => match p.1 with | .mem d _ => some d | _ => none).getD (dieOf core)
                let staged := b.hdr.determ && stages w core b
                if staged && ctxRefused w (dieOf core) (b.bind.ctx + (ctxMap b.hdr).stage + stagedBytes b) l.n true then
                  beatFails w core c x 0x03 (beatAddr w c (ps.map fun p => (p.1, p.2.1.length)) home
                    ((ps.findSome? fun p => match p.1 with | .mem _ off => some off | _ => none).getD 0))
                else
                  let w := if staged then stageArea w core b l.n else w
                  let w := countAct w core c.owner fun a => { a with engine := a.engine + l.n }
                  let offs := ps.filterMap fun p => match p.1 with | .mem _ off => some (off, p.2.1.length) | _ => none
                  let gs := if home = dieOf core then (offs.flatMap fun q => granulesHit x.xw home q.1 q.2).eraseDups else []
                  let sent := !(beatSends w core b c ps).isEmpty
                  beatRecorded core b c x true home l.n gs (fun w =>
                    let w := writePieces w core b c x ps
                    let w := if home = dieOf core then watchEngine w core c true true 0 (offs.map fun q => (q.1, q.1 + q.2 - 1)) else w
                    beatLanded core b c x ps sent (clearCause w core (.beat core bid))) w
            else
              let h := beatHandle k b c l true
              let runs := ps.flatMap fun p => match p.1 with
                | .tile _ a => touchedRuns (descOf k b h) a p.2.1.length
                | _ => []
              let w := watchEngine (writePieces w core b c x ps) core c true false h runs
              let w := countAct w core c.owner fun a => { a with engine := a.engine + l.n }
              beatLanded core b c x ps false w

/-! ## Host copies and held beats -/

/-- One beat of a host copy passes over the link, or is refused (R186). A poisoned source cannot leave (R332). -/
def hostCopyBeat (core : Nat) (b : Block) (c : Cmd) (refused : Bool) (w : World) : World :=
  let k := w.core core
  let l := legOf k b c c.beats
  let fail := fun (code va : Nat) => cmdFails (setCmd w core { c with failed := true, endAt := none }) core c code 0 3 (BitVec.ofNat 64 va) (.hostCopy c.id)
  let out := writesMem c.op
  let src := legSource w core b c l
  let bytes : List Byte := match src with
    | .host a => w.mem.bytes .host (hostKey (modOf core) a) l.n
    | .tile lv a => w.mem.bytes (levelStore lv) (levelKey lv core a) l.n
    | _ => []
  let bad := match src with
    | .tile lv a => poisonedAt w (levelStore lv) (levelKey lv core a) l.n
    | _ => []
  let hostAddr := match src with | .host a => a | _ => memAddr k b c l.row l.off
  if refused then fail 0x03 hostAddr
  else if out && !bad.isEmpty then fail 0x09 hostAddr
  else
    let z := if out then (w, bytes) else untimedBytes core c.owner c.cr (lowestLane c.mask) (pcWord c.pc).toNat 16 hostAddr bytes w
    let w := z.1
    let ps := legPieces w core b c l z.2 []
    let w := ps.foldl (fun w p => match p.1 with
      | .host a => outsideWrite w .host (hostKey (modOf core) a) p.2.1
      | .tile lv a => tileWrite w (levelStore lv) (levelKey lv core a) p.2.1
      | _ => w) w
    let h := beatHandle k b c l (!out)
    let runs := (if out then [(src, l.n)] else ps.map fun p => (p.1, p.2.1.length)).flatMap fun p => match p.1 with
      | .tile _ a => touchedRuns (descOf k b h) a p.2
      | _ => []
    let w := watchEngine w core c (!out) false h runs
    let w := if c.phv then phaserDelivery w core c.owner c.ph l.n else w
    let c := { c with beats := c.beats + 1, landed := c.landed + 1, endAt := some (w.later 0) }
    if c.landed < beatCount (w.core core) b c then (setCmd w core c).step else endCmd w core c

/-- HOST_ACCESS_COMPLETE of a beat to host-backed pages, or of a host copy. -/
def engineHostComplete (core id : Nat) (refused : Bool) (w : World) : World :=
  match (w.core core).beats.find? fun x => decide (x.id = id) with
  | some x =>
    let f := fun (p : Nat × Nat × Xlate) => match p.2.2 with
      | .hostWait l _ => (p.1, p.2.1, Xlate.hostOk l)
      | _ => p
    clearCause (setBeat w core { x with xr := x.xr.map f, xw := x.xw.map f }) core (.beat core id)
  | none =>
    match cmdAt w core id with
    | none => w
    | some c =>
      match w.block? core c.owner, c.op, c.st with
      | some b, .host _, .away => if c.failed then w else hostCopyBeat core b c refused w
      | _, _, _ => w

/-- A lane access, a beat or a host copy completes over the host link (R186, R318). -/
def hostCompleteAny (core id : Nat) (refused : Bool) (w : World) : World :=
  let w := w.step
  if (w.core core).accs.any fun a => decide (a.id = id) then hostComplete core id refused w else engineHostComplete core id refused w

/-- CAUSAL_APPLY: a held crossing write of a lane or of a beat is applied (R251). A copy with REL ends when its writes are
performed (R217). -/
def causalAny (d hid : Nat) (w : World) : World :=
  match (w.die d).heldW.find? fun h => decide (h.id = hid) with
  | none => w
  | some h =>
    match (w.core h.core).beats.find? fun x => decide (x.id = h.aid) with
    | none => causalApply d hid w
    | some x =>
      let n := h.cyc + heldExtra w d h
      let bad := match pageGate h.pages h.use h.pv with | .fail code dd off => some (code, dd, off) | _ => none
      let w := dropBeat (causalApply d hid w) h.core h.aid
      match cmdAt w h.core x.cmd with
      | none => w
      | some c =>
        match bad with
        | some y => beatFails w h.core c x y.1 (if c.op.fabric then fabVa w y.2.1 y.2.2 else y.2.2)
        | none =>
          let e := max (c.endAt.getD 0) n
          let w := setCmd w h.core { c with endAt := some e }
          w.modCore h.core fun k => { k with beats := k.beats.map fun (y : Beat) => if y.cmd = c.id && y.fin.isSome then { y with fin := some e } else y }

/-! ## The steps -/

/-- COMMAND_START (R217). -/
def execCommandStart (c cid : Nat) (s : State) : Host.Outcome State Fault Refusal := runEvent (commandStart c cid) s

/-- COPY_BEAT (R219). -/
def execCopyBeat (c queue : Nat) (s : State) : Host.Outcome State Fault Refusal := runEvent (copyBeat c queue) s

/-- BEAT_SOURCE_READ (R221). -/
def execBeatSourceRead (c bid : Nat) (s : State) : Host.Outcome State Fault Refusal := runEvent (beatSourceRead c bid) s

/-- BEAT_DEST_WRITE (R221). -/
def execBeatDestWrite (c bid : Nat) (s : State) : Host.Outcome State Fault Refusal := runEvent (beatDestWrite c bid) s

/-- HOST_ACCESS_COMPLETE (R186, R318). -/
def execHostAccessComplete (c aid : Nat) (refused : Bool) (s : State) : Host.Outcome State Fault Refusal :=
  runEvent (hostCompleteAny c aid refused) s

/-- CAUSAL_APPLY (R251). -/
def execCausalApply (die wid : Nat) (s : State) : Host.Outcome State Fault Refusal := runEvent (causalAny die wid) s

end Sys2Proof.Machine
end

