-- ==== Sys2Proof/Machine/Matrix.lean ====
section
/-! DEFINITION. The matrix array (R80 to R93, R229 to R231, R333): the arithmetic of a command, slice by slice, and
MATRIX_ARRAY_START and MATRIX_WRITE. -/

namespace Sys2Proof.Machine

/-! ## Exact values (R82, R83) -/

/-- Exact product under IEEE 754. -/
def mulExact (a b : FVal) : FVal :=
  match a, b with
  | .nan _, _ => .nan false
  | _, .nan _ => .nan false
  | .inf s, .inf t => .inf (s != t)
  | .inf s, .num t m _ => if m = 0 then .nan false else .inf (s != t)
  | .num s m _, .inf t => if m = 0 then .nan false else .inf (s != t)
  | .num s m e, .num t n g => .num (s != t) (m * n) (e + g)

/-- Exact sum; an exact zero is +0. -/
def sumExact (a b : FVal) : FVal :=
  match a, b with
  | .nan _, _ => .nan false
  | _, .nan _ => .nan false
  | .inf s, .inf t => if s = t then .inf s else .nan false
  | .inf s, _ => .inf s
  | _, .inf t => .inf t
  | .num s m e, .num t n g =>
    let r := addExact s m e t n g
    .num (decide (r.1 < 0)) r.1.natAbs r.2

/-- Round an exact value to FP32 with RNE. -/
def roundExact : FVal → Nat
  | .nan _ => canonNan .f32
  | .inf s => infBits .f32 s
  | .num s m e => if m = 0 then 0 else (roundF .f32 .rne s m e).1

/-- floor(log2 |p|) of a non-zero value. -/
def expOf : FVal → Int
  | .num _ m e => log2Nat m + e
  | _ => 0

/-- A product cut into the 48-bit window whose unit is 2^(emax − 41), as two's complement (R83). -/
def windowBits (emax : Int) : FVal → Nat
  | .num s m e =>
    let k := e - (emax - 41)
    let q := if 0 ≤ k then m * 2 ^ k.toNat else m / 2 ^ (-k).toNat
    if s then (2 ^ 48 - q % 2 ^ 48) % 2 ^ 48 else q % 2 ^ 48
  | _ => 0

/-! ## Slices (R85 to R88) -/

/-- What the slices of one chunk deliver: the chunk sum and the mismatches of S1 and S0. -/
structure ChunkOut where
  sum : FVal
  miss1 : Bool := false
  miss0 : Bool := false
  deriving DecidableEq, Repr

/-- The register of a slice: a soft error replaces it (R87), and an undervolted slice holds what the rail leaves
(R88; free value). -/
def sliceReg (soft : Option Nat) (under : Bool) (place true_ : Nat) : Nat :=
  match soft with
  | some v => v % 2 ^ 22
  | none => if under then Config.railValue place true_ % 2 ^ 22 else true_

/-- `chunksum` of R83 at a fidelity level. `size` is the chunk's size m, `place` its place among free values. -/
def chunkSum (level size place : Nat) (soft1 soft0 : Option Nat) (ps : List FVal) : ChunkOut :=
  let infs := ps.filter isInf
  if ps.any isNan || (infs.any signBit && infs.any fun x => !signBit x) then { sum := .nan false }
  else match infs.head? with
  | some x => { sum := .inf (signBit x) }
  | none =>
    let nz := ps.filter fun p => !isZero p
    match nz.head? with
    | none => { sum := .num false 0 0 }
    | some x =>
      let emax := nz.foldl (fun m p => max m (expOf p)) (expOf x)
      let ws := ps.map (windowBits emax)
      let part := fun (lo : Nat) => (ws.map fun v => v / 2 ^ lo % 2 ^ 16)
      let p2 : Int := (part 32).foldl (fun s v => s + toSigned 16 v) 0
      let t1 := (part 16).foldl (· + ·) 0
      let t0 := (part 0).foldl (· + ·) 0
      let r1 := sliceReg soft1 (decide (2 ≤ level)) (2 * place) t1
      let r0 := if level = 3 then 0 else sliceReg soft0 (decide (1 ≤ level)) (2 * place + 1) t0
      let cap := fun (v : Nat) => min v (65535 * size)
      let total : Int := p2 * 2 ^ 32 + cap r1 * 2 ^ 16 + cap r0
      { sum := .num (decide (total < 0)) total.natAbs (emax - 41)
        miss1 := decide (t1 % 3 ≠ r1 % 3)
        miss0 := decide (level ≠ 3) && decide (t0 % 3 ≠ r0 % 3) }

/-! ## Operands -/

/-- Element (r, c) of a tile whose bytes are given (R188). -/
def elemIn (d : Desc) (bs : List Byte) (r c : Nat) : Nat :=
  let a := d.addr r c - 256 * d.base
  if d.fmt = 14 then ((bs[a]?).getD 0).toNat / (if c % 2 = 0 then 1 else 16) % 16
  else leNat ((bs.drop a).take (fmtBits d.fmt / 8))

/-- Bytes of a handle as they stand now. -/
def tileBytes (w : World) (core : Nat) (d : Desc) : List Byte :=
  w.mem.bytes (levelStore d.level) (levelKey d.level core (256 * d.base)) d.bytes

/-- Floating-point format of an operand. -/
def opFmt : Nat → FFmt
  | 5 => .f64
  | 6 => .f16
  | 7 => .bf16
  | 8 => .e4m3
  | 9 => .e5m2
  | _ => .f32

/-- E8M0 scale of an element of an FP8 tile; 2^0 where the tile names no scale handle (R78, R84). -/
def fp8Scale (d sd : Desc) (sb : List Byte) (r c : Nat) : FVal :=
  if d.scv then
    let s := if d.sblk then 32 else 16
    e8m0Val (elemIn sd sb (r / s) (c / s))
  else .num false 1 0

/-- S_b of the QN4 block that holds an element, as an FP32 pattern (R76, R77). -/
def qn4Scale (d : Desc) (sb : List Byte) (r c : Nat) : Nat :=
  let nsc := (d.cols + 127) / 128
  let o := 260 * (r / 128 * nsc + c / 128)
  let q := ((sb[o + 16 * (r % 128 / 8) + c % 128 / 8]?).getD 0).toNat
  blockScale q (leNat ((sb.drop (o + 256)).take 4))

/-- Descriptors and bytes that a command works on, as they stood at S'. -/
structure MxOperands where
  pair : MxPair
  da : Desc
  db : Desc
  dc : Desc
  sda : Desc
  sdb : Desc
  a : List Byte
  b : List Byte
  c : List Byte
  sa : List Byte
  sb : List Byte
  deriving DecidableEq, Repr

/-- Cycle groups G of a command (R231). -/
def mxGroups (p : MxPair) (k : Nat) : Nat := (k + mxKpc p - 1) / mxKpc p

/-- Elements of a chunk (R80). -/
def chunkSize (p : MxPair) : Nat := if p = .qn4 then 8 else 16
/-- Chunks of a cycle group. -/
def chunksPer (p : MxPair) : Nat := mxKpc p / chunkSize p

/-- Scale of a chunk (R84), as an exact value. -/
def chunkScale (o : MxOperands) (i n k : Nat) : FVal :=
  match o.pair with
  | .fp8 => mulExact (fp8Scale o.da o.sda o.sa i k) (fp8Scale o.db o.sdb o.sb k n)
  | .qn4 => unpackF .f32 (qn4Scale o.db o.sb k n)
  | _ => .num false 1 0

/-- Products of a chunk: of the codes for QN4 (R83); missing ones are zero (R82). -/
def chunkProducts (o : MxOperands) (i n k0 : Nat) : List FVal :=
  (List.range (chunkSize o.pair)).map fun j =>
    let k := k0 + j
    if o.da.cols ≤ k then .num false 0 0
    else
      let bv := elemIn o.db o.b k n
      mulExact (unpackF (opFmt o.da.fmt) (elemIn o.da o.a i k)) (if o.pair = .qn4 then qn4Val bv else unpackF (opFmt o.db.fmt) bv)

/-- The chunk's contribution where its scale is NaN or infinite: the sum of the products of the operand values (R84). -/
def specialChunk (o : MxOperands) (i n k0 : Nat) : FVal :=
  (List.range (chunkSize o.pair)).foldl (fun g j =>
    let k := k0 + j
    if o.da.cols ≤ k then g
    else
      let av := unpackF (opFmt o.da.fmt) (elemIn o.da o.a i k)
      let bv := elemIn o.db o.b k n
      let b := match o.pair with
        | .qn4 => qn4Element bv (qn4Scale o.db o.sb k n)
        | _ => mulExact (unpackF (opFmt o.db.fmt) bv) (fp8Scale o.db o.sdb o.sb k n)
      let a := match o.pair with
        | .fp8 => mulExact av (fp8Scale o.da o.sda o.sa i k)
        | _ => av
      sumExact g (mulExact a b)) (.num false 0 0)

/-- Where a run's levels stand at an array cycle. -/
def levelAt (ls : List (Nat × Nat)) (cyc : Nat) : Nat :=
  (((ls.filter fun l => decide (l.1 ≤ cyc)).getLast?).map Prod.snd).getD 0

/-- One element of D with the mismatches it met: of S1, of S0, and those reported as soft errors (R82, R87). -/
structure ElemOut where
  val : Nat
  miss1 : Nat := 0
  miss0 : Nat := 0
  soft : Nat := 0
  deriving DecidableEq, Repr

/-- The step of R82 for one cycle group of one element. Each mismatch that R87 reports is one soft error. For a chunk
whose scale is NaN or infinite R84 replaces the slices' sum; whether the residue checkers run there the spec leaves open,
and the model skips slices and checkers (log entry 96). -/
def groupStep (o : MxOperands) (run : MxRun) (place i n : Nat) (x : ElemOut) (g : Nat) : ElemOut :=
  let gs := mxGroups o.pair o.da.cols
  let cs := chunksPer o.pair
  let level := levelAt run.levels (run.s'.getD 0 + i * gs + g)
  let r := (List.range cs).foldl (fun (r : FVal × ElemOut) h =>
    let k0 := (g * cs + h) * chunkSize o.pair
    let no := ((i * o.db.cols + n) * gs + g) * cs + h
    let soft := fun (z : Nat) => (run.soft.find? fun y => decide (y.1 = 2 * no + z)).map Prod.snd
    if o.da.cols ≤ k0 then r
    else
      let sc := chunkScale o i n k0
      if isNan sc || isInf sc then (sumExact r.1 (specialChunk o i n k0), r.2)
      else
        let q := chunkSum level (chunkSize o.pair) (place + no) (soft 0) (soft 1) (chunkProducts o i n k0)
        let bad := (if level ≤ 1 ∧ q.miss1 then 1 else 0) + (if level = 0 ∧ q.miss0 then 1 else 0)
        (sumExact r.1 (mulExact q.sum sc),
          { r.2 with miss1 := r.2.miss1 + (if q.miss1 then 1 else 0)
                     miss0 := r.2.miss0 + (if q.miss0 then 1 else 0)
                     soft := r.2.soft + bad })) (.num false 0 0, x)
  { r.2 with val := (addF .f32 .rne (unpackF .f32 r.2.val) (unpackF .f32 (roundExact r.1))).1 }

/-- Element (i, n) of D (R81, R82). -/
def mxElement (o : MxOperands) (run : MxRun) (place i n : Nat) : ElemOut :=
  let c := elemIn o.dc o.c i n
  if o.pair = .f64 ∨ o.pair = .f32 then
    let f := opFmt o.da.fmt
    { val := (List.range o.da.cols).foldl (fun d k =>
        (fmaF f .rne (unpackF f (elemIn o.da o.a i k)) (unpackF f (elemIn o.db o.b k n)) (unpackF f d)).1) c }
  else (List.range (mxGroups o.pair o.da.cols)).foldl (groupStep o run place i n) { val := c }

/-! ## The array (R231) -/

/-- Order in which the array takes commands: start cycle, owning block, string. -/
def runBefore (k : Core) (a b : MxRun) : Bool :=
  let key := fun (r : MxRun) => match k.cmds.find? fun c => decide (c.id = r.cmd) with
    | some c => c.owner * 8 + c.str
    | none => 0
  decide (a.s < b.s) || (decide (a.s = b.s) && decide (key a ≤ key b))

/-- The command that the array takes next. -/
def nextRun (k : Core) : Option MxRun := (sortBy (runBefore k) (k.arr.runs.filter fun r => r.s'.isNone)).head?

/-- Earliest array start of a run by the array itself (R231). -/
def runStart (k : Core) (r : MxRun) : Nat := max r.s (k.arr.prevS + k.arr.prevLen)

/-- Mr × G of a command (R231). -/
def runLength (k : Core) (b : Block) (c : Cmd) : Nat :=
  let m := mxOf c
  let da := descOf k b m.2.2.1
  da.rows * mxGroups m.1 da.cols

/-- The rails have reached the level that a command names (R91). -/
def railsReady (w : World) (core : Nat) (b : Block) (c : Cmd) : Bool :=
  match cmdFid (w.core core) b c with
  | some f => decide (((w.die (dieOf core)).quad (quadOf core)).rail ≤ f)
  | none => true

/-- Array starts of the commands that wait for the array, as they stand now: those in its list, and timed matrix commands
whose start is still to come (R91, R231). -/
def arrayStarts (w : World) (core : Nat) (k : Core) : List (Nat × Nat) :=
  let coming := k.cmds.filterMap fun y => match y.op with
    | .mx _ => if y.s.isNone && timedBlock w core y.owner && !(k.arr.runs.any fun r => decide (r.cmd = y.id)) then some ({ cmd := y.id, s := y.start } : MxRun) else none
    | _ => none
  let place := fun (x : List (Nat × Nat) × Nat) (r : MxRun) =>
    let s := max r.s x.2
    let len := match k.cmds.find? fun y => decide (y.id = r.cmd) with
      | some y => ((w.block? core y.owner).map fun b => runLength k b y).getD 0
      | none => 0
    (x.1 ++ [(r.cmd, s)], s + len)
  ((sortBy (runBefore k) (k.arr.runs.filter (fun r => r.s'.isNone) ++ coming)).foldl place ([], k.arr.prevS + k.arr.prevLen)).1

/-- The first timed command whose rails are not ready H cycles before its array start, or where that start is fixed later
than that, with the start (R91): none where its cause stands already. -/
def railCheck (w : World) (core : Nat) (k : Core) : Option (Nat × Nat) :=
  (arrayStarts w core k).find? fun x =>
    match k.cmds.find? fun y => decide (y.id = x.1) with
    | some y => match w.block? core y.owner with
      | some b => b.hdr.timed && decide (x.2 ≤ vccOf w core + Config.horizon) && !railsReady w core b y &&
          !(((sashOf w core).map fun s => s.causes.any fun z => decide (z.src = .rail core x.1) && decide (z.p = x.2)).getD true)
      | none => false
    | none => false

/-- Operands of a run from the bytes read at S'. -/
def runOperands (k : Core) (b : Block) (c : Cmd) (ops : List (List Byte)) : MxOperands :=
  let m := mxOf c
  let da := descOf k b m.2.2.1
  let db := descOf k b m.2.2.2
  { pair := m.1, da := da, db := db, dc := descOf k b m.2.1, sda := descOf k b da.scale, sdb := descOf k b db.scale,
    a := ops.getD 0 [], b := ops.getD 1 [], c := ops.getD 2 [], sa := ops.getD 3 [], sb := ops.getD 4 [] }

/-- Change a run of a core's array. -/
def modRun (w : World) (core cid : Nat) (f : MxRun → MxRun) : World :=
  w.modCore core fun k => { k with arr := { k.arr with runs := k.arr.runs.map fun r => if r.cmd = cid then f r else r } }

/-- Drop a run. -/
def dropRun (w : World) (core cid : Nat) : World :=
  w.modCore core fun k => { k with arr := { k.arr with runs := k.arr.runs.filter fun (r : MxRun) => decide (r.cmd ≠ cid) } }

/-- MATRIX_ARRAY_START: the operands are read as they stand after the writes of S' (R231). A poisoned operand
element raises POISON (R332). -/
def arrayStart (core cid : Nat) (w : World) : World :=
  match cmdAt w core cid with
  | none => dropRun w core cid
  | some c =>
    match w.block? core c.owner with
    | none => dropRun w core cid
    | some b =>
      let k := w.core core
      let vcc := vccOf w core
      let m := mxOf c
      let da := descOf k b m.2.2.1
      let db := descOf k b m.2.2.2
      let dc := descOf k b m.2.1
      let scale := fun (d : Desc) => if d.scv then [(d.scale, descOf k b d.scale)] else []
      let hs := [(m.2.2.1, da), (m.2.2.2, db), (m.2.1, dc)] ++ scale da ++ scale db
      -- INFO is the address of the first poisoned operand byte in its store (R325)
      let bad := hs.findSome? fun h => ((List.range h.2.bytes).find? fun i =>
        w.mem.poisoned (levelStore h.2.level) (levelKey h.2.level core (256 * h.2.base + i)) 1).map (256 * h.2.base + ·)
      match (if hs.any fun h => w.mem.poisoned (levelStore h.2.level) (levelKey h.2.level core (256 * h.2.base)) h.2.bytes then bad else none) with
      | some a => cmdFails (dropRun w core cid) core c 0x09 0 5 (BitVec.ofNat 64 a) (.array cid)
      | none =>
        let len := runLength k b c
        let w := hs.foldl (fun w h => watchEngine w core c false false h.1 [(0, h.2.rows * h.2.cols - 1)]) w
        let ops := [tileBytes w core da, tileBytes w core db, tileBytes w core dc,
          if da.scv then tileBytes w core (descOf k b da.scale) else [], if db.scv then tileBytes w core (descOf k b db.scale) else []]
        let rail := ((w.die (dieOf core)).quad (quadOf core)).rail
        let w := modRun w core cid fun r => { r with s' := some vcc, e := vcc + len + 16, ops := ops, levels := [(vcc, rail)] }
        let w := match c.op with | .mx p => countAct w core c.owner (·.cycles p len) | _ => w
        w.modCore core fun k => { k with arr := { k.arr with prevS := vcc, prevLen := len } }

/-- MATRIX_WRITE: every element of D is written at E, the counts follow R93, and the tag is set (R231). A plain command with PHV
counts all bytes of D against its phaser (DESIGN CHOICE: log entry 119; R223). -/
def matrixWrite (core cid : Nat) (w : World) : World :=
  match (w.core core).arr.runs.find? fun r => decide (r.cmd = cid), cmdAt w core cid with
  | some run, some c =>
    match w.block? core c.owner with
    | none => dropRun w core cid
    | some b =>
      let o := runOperands (w.core core) b c run.ops
      let place := w.free * 2 ^ 40
      let m := fmtBits o.dc.fmt / 8
      let row := fun (i : Nat) => (List.range o.dc.cols).map fun n => mxElement o run place i n
      let outs := (List.range o.dc.rows).map row
      let key := levelKey 1 core (256 * o.dc.base)
      let w := tileWrite w.step .acc key (outs.flatMap fun r => r.flatMap fun x => leBytes m x.val)
      let soft := fun (r : List ElemOut) => r.foldl (fun s x => s + x.soft) 0
      -- a reported residue mismatch poisons the row of its cycle group (R333)
      let w := (outs.mapIdx fun i r => (i, soft r)).foldl (fun w p =>
        if p.2 = 0 then w
        else
          let a := key + p.1 * o.dc.cols * m
          (List.range ((a + o.dc.cols * m + 7) / 8 - a / 8)).foldl (fun w g => w.poison .acc (a / 8 + g)) w) w
      let total := outs.foldl (fun s r => s + soft r) 0
      let w := if total = 0 then w else w.modDie (dieOf core) fun x => { x with resid := min (x.resid + total) 0xFFFFFFFF }
      let n1 := outs.foldl (fun s r => r.foldl (fun s x => s + x.miss1) s) 0
      let n0 := outs.foldl (fun s r => r.foldl (fun s x => s + x.miss0) s) 0
      let sat := fun (v : W32) (n : Nat) => BitVec.ofNat 32 (min (v.toNat + n) 0xFFFFFFFF)
      let w := w.modBlock core c.owner fun b => { b with mxe1 := sat b.mxe1 n1, mxe0 := sat b.mxe0 n0 }
      let w := watchEngine w core c true false (mxOf c).2.1 [(0, o.dc.rows * o.dc.cols - 1)]
      let plain := match c.op with | .mx _ => true | _ => false
      let w := if c.phv && plain then phaserDelivery w core c.owner c.ph (o.dc.rows * o.dc.cols * m) else w
      endCmd (dropRun w core cid) core c
  | _, _ => w

/-- MATRIX_ARRAY_START (R231). -/
def execMatrixArrayStart (c cid : Nat) (s : State) : Host.Outcome State Fault Refusal := runEvent (arrayStart c cid) s

/-- MATRIX_WRITE (R231). -/
def execMatrixWrite (c cid : Nat) (s : State) : Host.Outcome State Fault Refusal := runEvent (matrixWrite c cid) s

end Sys2Proof.Machine
end

