-- ==== Sys2Proof/Machine/Message.lean ====
section
/-! DEFINITION. Timed sends and landings (R47 to R53, R232 to R234): `tsend`, `tland`, the departure, the credit,
the message or cancel on its way, the check 32 cycles before a landing, and the commit. -/

namespace Sys2Proof.Machine

/-- The core that a send's DCORE names, in the time group and open to the sender's partition (R232, R368). -/
def destCore (w : World) (core : Nat) (c : Cmd) : Option Nat :=
  (groupCore w.mach (c.addr % 2 ^ 32)).bind fun r => if fabOpen w (dieOf core) (dieOf r) then some r else none

/-- The route latency of a message between two cores (R47). -/
def coreLat (w : World) (a b : Nat) : Nat := (msgLat w.mach (dieOf a) (dieOf b)).getD 0

/-- The landing stamp that a send forms: W1 + lambda in both kinds of launch (R47, R234). -/
def sendStamp (w : World) (core r : Nat) (c : Cmd) : Nat := c.w1 + coreLat w core r

/-- Put a message or cancel on its way; the specification gives its flight no physical time. -/
def postMsg (w : World) (r : Nat) (m : Msg) : World :=
  let due := w.later 0
  w.step.modCore r fun k => { k with msgs := k.msgs ++ [{ m with id := k.nextId, due := due }], nextId := k.nextId + 1 }

/-- The launch that a block belongs to, for the messages it sends. -/
def lidOf (w : World) (core owner : Nat) : W32 := ((w.block? core owner).map fun b => b.bind.lid).getD 0

/-- A send without effect sends a cancel where its DCORE allows (R53). -/
def sendCancel (core : Nat) (c : Cmd) (w : World) : World :=
  match destCore w core c with
  | none => w
  | some r =>
    postMsg w r { id := 0, sender := core, hnum := c.hy, stamp := sendStamp w core r c, cancel := true, data := [], due := 0,
                  lid := lidOf w core c.owner }

/-- `tsend` (R232). -/
def execTsend (d a b : Reg) (s : State) : Host.Outcome State Fault Refusal :=
  issueCmd .tsend d a b (fun t c w => sendCancel t.i.core c w) addCmd s

/-- The credit that a send needs: held from its physical arrival (R50, R233). -/
def creditHeld (w : World) (core : Nat) (c : Cmd) : Bool :=
  match destCore w core c with
  | none => true
  | some r => (w.core core).credits.any fun x =>
      x.held && decide (x.recv = r) && decide (x.hnum = c.hy) && decide (x.stamp = sendStamp w core r c)

/-- CREDIT_CHECK: 32 cycles before its departure a timed send looks for its credit (R50). -/
def creditCheck (core cid : Nat) (w : World) : World :=
  match cmdAt w core cid with
  | none => w
  | some c =>
    let w := setCmd w core { c with checked := true }
    if creditHeld w core c then w else sureCause w core c.start (.credit core cid)

/-- CREDIT_ARRIVE: the sender holds a credit; sends that stand for it go on. -/
def creditArrive (core xid : Nat) (w : World) : World :=
  let w := w.modCore core fun k => { k with credits := k.credits.map fun (x : Credit) => if x.id = xid then { x with held := true } else x }
  (w.core core).cmds.foldl (fun w c =>
    if decide (c.op = .tsend) && creditHeld w core c then clearCause w core (.credit core c.id) else w) w

/-- TSEND_DEPART: the source is read in one snapshot, before the writes of this cycle, and the message leaves
(R47, R232). A send that fails here sends a cancel, and its tag is set. -/
def tsendDepart (core cid : Nat) (w : World) : World :=
  match cmdAt w core cid with
  | none => w
  | some c =>
    match w.block? core c.owner with
    | none => w
    | some b =>
      match destCore w core c with
      | none => cmdFails (endCmd w core c) core c 0x03 0 3 (BitVec.ofNat 64 (c.addr % 2 ^ 32)) (.command c)
      | some r =>
        if !inputSet w core c then sendCancel core c (inputFault w core c)
        else
          let stamp := sendStamp w core r c
          let x := descOf (w.core core) b c.hx
          let a := levelKey x.level core (256 * x.base)
          let st := levelStore x.level
          let snap := bytesBefore w core st a x.bytes
          let w := watchEngine w core c false false c.hx (touchedRuns x (256 * x.base) x.bytes)
          let w := w.modCore core fun k => { k with credits := k.credits.filter fun (y : Credit) =>
            !(decide (y.recv = r) && decide (y.hnum = c.hy) && decide (y.stamp = stamp)) }
          let w := postMsg w r { id := 0, sender := core, hnum := c.hy, stamp := stamp, cancel := false, data := snap.1,
                                 bad := snap.2, due := 0, lid := b.bind.lid }
          endCmd w core c

/-! ## Arms -/

/-- An arm whose reservation holds sends its credit to the sender over the reverse route (R233). -/
def sendCredit (w : World) (core : Nat) (a : Arm) : World :=
  if 2 ^ 40 ≤ a.sender then w
  else
    let due := w.mach.clock + coreLat w core a.sender
    w.modCore a.sender fun k => { k with
      credits := k.credits ++ [{ id := k.nextId, recv := core, hnum := a.hnum, stamp := a.stamp, due := due }]
      nextId := k.nextId + 1 }

/-- A message on a core belongs to the blocks that its sender's launch has had there, or, when it has had none, to all
blocks there; it is lost once they have all ended (R52, R329). `skip` is a block that is just ending. -/
def msgLost (w : World) (core : Nat) (skip : Option Nat) (m : Msg) : Bool :=
  let k := w.core core
  let live := k.live.filter fun b => decide (some b.1 ≠ skip)
  let ends := fun (lid : W32) => match skip with
    | some o => decide (((k.blocks.find o).map fun b => b.bind.lid) = some lid)
    | none => false
  if live.any fun b => decide (b.2.bind.lid = m.lid) then false
  else if k.past.contains m.lid || ends m.lid then true
  else live.isEmpty && (k.hadBlock || skip.isSome) &&
    (match launchOf w core m.lid with | some l => decide (l.2.grid ≤ l.2.bound) | none => true)

/-- Some arm of a core awaits this message. -/
def hasArm (k : Core) (m : Msg) : Bool :=
  k.arms.any fun a => decide (m.sender = a.sender) && decide (m.hnum = a.hnum) && decide (m.stamp = a.stamp)

/-- The sender of an arm has ended: the last block of the arm's launch on the sending core (R53), or the sending core's
blocks, one of them by containment, where the arm's launch is bound and has none there (R329). -/
def orphaned (w : World) (a : Arm) : Bool :=
  let k := w.core a.sender
  decide (a.sender < 2 ^ 40) && !(k.live.any fun b => decide (b.2.bind.lid = a.lid)) &&
  (k.past.contains a.lid || (k.live.isEmpty && k.killed &&
    (match launchOf w a.sender a.lid with | some l => decide (l.2.grid ≤ l.2.bound) | none => true)))

/-- Arms of a core whose sender has ended without a message are released as by a cancel (R53, R329). -/
def releaseArms (core : Nat) (w : World) : World :=
  (w.core core).arms.foldl (fun w a =>
    if orphaned w a && !((w.core core).msgs.any fun m => decide (m.sender = a.sender) && decide (m.hnum = a.hnum) && decide (m.stamp = a.stamp)) then
      postMsg w core { id := 0, sender := a.sender, hnum := a.hnum, stamp := a.stamp, cancel := true, data := [], due := 0, lid := a.lid }
    else w) w

/-- Change the descriptor of handle `n` of a block. -/
def modDesc (w : World) (core : Nat) (b : Block) (n : Nat) (f : Desc → Desc) : World :=
  w.modCore core fun k => { k with tiles := k.tiles.put (b.bind.hb + n) (f (descOf k b n)) }

/-- The arm of a `tland` that passed its checks (R48, R50, R233). -/
def armLanding (t : Site) (c : Cmd) (w : World) : World :=
  let core := t.i.core
  let k := w.core core
  let size := (descOf k t.b c.hx).bytes
  let room := decide (k.landUsed + size ≤ Config.landingBytes)
  if t.timed && !room then takeFault w core (cmdRecord t.b c 0x02 5 2 0 (.once t.i.cr t.i.slot true t.i.cyc []))
  else
    let a : Arm := { id := k.nextId + 1, cmd := c.id, owner := t.i.owner, hnum := c.hx,
                     sender := (groupCore w.mach c.addr).getD (2 ^ 40 + c.addr % 2 ^ 32), stamp := c.w1, size := size, room := room,
                     issue := t.i.cyc, lid := t.b.bind.lid }
    let w := addCmd t { c with st := .away, s := some t.i.cyc } w
    let w := w.modCore core fun k => { k with
      arms := k.arms ++ [a]
      nextId := k.nextId + 1
      landUsed := if room then k.landUsed + size else k.landUsed }
    let w := modDesc w core t.b c.hx fun d => { d with land := true, stamp := c.w1 }
    releaseArms core (if room then sendCredit w core a else w)

/-- `tland` (R233). -/
def execTland (d a b : Reg) (s : State) : Host.Outcome State Fault Refusal := issueCmd .tland d a b (fun _ _ w => w) armLanding s

/-- The message or cancel that matches an arm and has arrived (R48, R53). -/
def matchOf (k : Core) (a : Arm) : Option Msg :=
  k.msgs.find? fun m => decide (m.sender = a.sender) && decide (m.hnum = a.hnum) && decide (m.stamp = a.stamp) && m.arrived.isSome

/-- MESSAGE_ARRIVE: a message or cancel is complete in the landing buffer; a receiver that stands for it goes on. -/
def messageArrive (core xid : Nat) (w : World) : World :=
  let vcc := vccOf w core
  let w := w.modCore core fun k => { k with msgs := k.msgs.map fun (m : Msg) => if m.id = xid then { m with arrived := some vcc } else m }
  let k := w.core core
  match k.msgs.find? fun (m : Msg) => decide (m.id = xid) with
  | none => w
  | some m =>
    if !hasArm k m && msgLost w core none m then
      w.modCore core fun k => { k with msgs := k.msgs.filter fun (x : Msg) => decide (x.id ≠ xid), ldisc := min (k.ldisc + 1) 0xFFFFFFFF }
    else k.arms.foldl (fun w a => if (matchOf (w.core core) a).isSome then clearCause w core (.landing core a.id) else w) w

/-- The stamp of an arm in the receiver's virtual time (R47). -/
def landCycle (w : World) (core : Nat) (a : Arm) : Nat := ((w.block? core a.owner).map Block.v0).getD 0 + a.stamp

/-- LANDING_CHECK: 32 cycles before the stamp the landing unit looks for the message (R49). -/
def landingCheck (core arm : Nat) (w : World) : World :=
  match (w.core core).arms.find? fun a => decide (a.id = arm) with
  | none => w
  | some a =>
    let ok := (matchOf (w.core core) a).isSome
    let w := w.modCore core fun k => { k with arms := k.arms.map fun (x : Arm) =>
      if x.id = arm then { x with checked := true, caused := !ok } else x }
    if ok then w else sureCause w core (landCycle w core a) (.landing core arm)

/-- Room was freed: waiting arms reserve it, the oldest first, and send their credits (R50). -/
def grantRoom (core : Nat) (w : World) : World :=
  (w.core core).arms.foldl (fun w a =>
    if !a.room && decide ((w.core core).landUsed + a.size ≤ Config.landingBytes) then
      let w := w.modCore core fun k => { k with
        landUsed := k.landUsed + a.size
        arms := k.arms.map fun (x : Arm) => if x.id = a.id then { x with room := true } else x }
      sendCredit w core a
    else w) w

/-- An arm ends: LAND clears, its room is free, its message is gone, its command completes (R48, R53). -/
def endArm (w : World) (core : Nat) (a : Arm) : World :=
  let w := match w.block? core a.owner with
    | some b => modDesc w core b a.hnum fun d => { d with land := false }
    | none => w
  let w := w.modCore core fun k => { k with
    arms := k.arms.filter fun (x : Arm) => decide (x.id ≠ a.id)
    msgs := match matchOf k a with
      | some m => k.msgs.filter fun (x : Msg) => decide (x.id ≠ m.id)
      | none => k.msgs
    landUsed := if a.room then k.landUsed - a.size else k.landUsed }
  let w := clearCause w core (.landing core a.id)
  let w := match cmdAt w core a.cmd with
    | some c => endCmd w core c
    | none => w
  grantRoom core w

/-- CANCEL_RELEASE: an arm is released without commit, with HANDLE at the stamp (R53). -/
def cancelRelease (core arm : Nat) (w : World) : World :=
  match (w.core core).arms.find? fun a => decide (a.id = arm) with
  | none => w
  | some a =>
    let c := cmdAt w core a.cmd
    let w := endArm w core a
    match c, w.block? core a.owner with
    | some c, some b => takeFault w core { cmdRecord b c 0x05 0 6 (BitVec.ofNat 64 a.hnum) (.landing arm) with pc := 0, path := pathNow w core c.owner c.cr c.path c.pathIx }
    | _, _ => w

/-- Count a message that never commits (R52). -/
def discard (w : World) (core owner n : Nat) : World :=
  (w.modCore core fun k => { k with ldisc := min (k.ldisc + n) 0xFFFFFFFF }).modBlock core owner fun b => { b with ldisc := b.ldisc + n }

/-- LANDING_COMMIT: a matched message replaces the bytes of its handle (R48, R233). One of another size is
discarded and counted, and the arm is released. -/
def landingCommit (core arm : Nat) (w : World) : World :=
  match (w.core core).arms.find? fun a => decide (a.id = arm) with
  | none => w
  | some a =>
    match matchOf (w.core core) a, w.block? core a.owner with
    | some m, some b =>
      if m.cancel then cancelRelease core arm w
      else if m.data.length ≠ a.size then cancelRelease core arm (discard w core a.owner 1)
      else
        let x := descOf (w.core core) b a.hnum
        let st := levelStore x.level
        let key := levelKey x.level core (256 * x.base)
        let w := tileWrite w st key m.data
        let w := (m.bad.map fun i => (key + i) / 8).eraseDups.foldl (fun w g => w.poison st g) w
        let w := countAct w core a.owner fun y => { y with landed := y.landed + a.size }
        let w := match cmdAt w core a.cmd with
          | some c =>
            let w := watchEngine w core c true false a.hnum (touchedRuns x (256 * x.base) x.bytes)
            if c.phv then phaserDelivery w core a.owner c.ph a.size else w
          | none => w
        endArm w core a
    | _, _ => w

/-! ## Ends of blocks (R52, R53) -/

/-- A block ends: arrived messages that match no arm and belong to no other block are discarded and counted. -/
def dropMessages (core owner : Nat) (w : World) : World :=
  let k := w.core core
  let stray := fun (m : Msg) => m.arrived.isSome && !hasArm k m && msgLost w core (some owner) m
  let n := (k.msgs.filter stray).length
  if n = 0 then w
  else discard (w.modCore core fun k => { k with msgs := k.msgs.filter fun (m : Msg) => !stray m }) core owner n

/-- A block has ended on a core: the arms anywhere that it leaves without a message are released. -/
def releaseOrphans (w : World) : World := w.mach.cores.foldl (fun w x => releaseArms x.1 w) w

/-- The record of a block that ended on a core. -/
def noteEnd (core : Nat) (lid : W32) (byKill : Bool) (w : World) : World :=
  w.modCore core fun k => { k with
    past := if k.past.contains lid then k.past else k.past ++ [lid]
    hadBlock := true
    killed := k.killed || byKill }

/-! ## The steps -/

/-- TSEND_DEPART (R47, R232). -/
def execTsendDepart (c cid : Nat) (s : State) : Host.Outcome State Fault Refusal := runEvent (tsendDepart c cid) s
/-- CREDIT_CHECK (R50). -/
def execCreditCheck (c cid : Nat) (s : State) : Host.Outcome State Fault Refusal := runEvent (creditCheck c cid) s
/-- CREDIT_ARRIVE (R50, R233). -/
def execCreditArrive (c xid : Nat) (s : State) : Host.Outcome State Fault Refusal := runEvent (creditArrive c xid) s
/-- MESSAGE_ARRIVE (R48). -/
def execMessageArrive (c xid : Nat) (s : State) : Host.Outcome State Fault Refusal := runEvent (messageArrive c xid) s
/-- LANDING_CHECK (R49). -/
def execLandingCheck (c arm : Nat) (s : State) : Host.Outcome State Fault Refusal := runEvent (landingCheck c arm) s
/-- LANDING_COMMIT (R48). -/
def execLandingCommit (c arm : Nat) (s : State) : Host.Outcome State Fault Refusal := runEvent (landingCommit c arm) s
/-- CANCEL_RELEASE (R53). -/
def execCancelRelease (c arm : Nat) (s : State) : Host.Outcome State Fault Refusal := runEvent (cancelRelease c arm) s

end Sys2Proof.Machine
end

