-- ==== Sys2Proof/Machine/Pause.lean ====
section
/-! DEFINITION. Pauses (R42 to R46): the check at the horizon, the stop and the restart of a sash; the fetch of
clauses (R96); asynchronous traps (R176); the budget fault (R32). -/

namespace Sys2Proof.Machine

/-! ## The horizon (R42) -/

/-- Every port that the route between two modules crosses is trained (R342). -/
def routeUp (w : World) (a b : Nat) : Bool :=
  if a = b then true
  else match w.mach.routes.find? fun r => decide (r.src = a) && decide (r.dst = b) with
    | some r => r.ports.all fun p => !(((w.module p.1).ports.find p.2).map Port.lost).getD true
    | none => false

/-- A block that a pre-emption has cut: its work stands until it is saved (R337). -/
def cutOff (k : Core) (vcc o : Nat) : Bool :=
  match k.blocks.find o with
  | some b => (match b.preempt with | .cut p => decide (p ≤ vcc) | _ => false)
  | none => true

/-- A fault record about an access waits for its containment. -/
def faulted (k : Core) (a : Access) : Bool := (k.faults ++ k.waiting).any fun f => decide (f.work = .access a.id) || f.also.contains a.id

/-- A crossing access that asks its home for an answer: a load or an atomic (R251). -/
def Access.asks (a : Access) : Bool := a.cross && (match a.kind with | .load => true | .rmw _ _ => true | _ => false)

/-- The home has applied every write that a crossing access names, or would name if it asked now (R251). -/
def homeMet (w : World) (c : Nat) (a : Access) : Bool :=
  clockMet (w.die a.home) (if a.clk.isEmpty then matRow (w.die (dieOf c)).causal (a.home % 4) else a.clk)

/-- A read of a stretch by an agent at a memory cycle comes after an earlier one of its sash that has not taken its value yet:
a load, or an atomic, which acts before the loads of its cycle (R180, R243, R248). -/
def readWaits (w : World) (c home off n cyc agent : Nat) : Bool :=
  match sashOf w c with
  | none => false
  | some s => s.cores.any fun x => (w.core x).accs.any fun y =>
      (decide (y.space = .die) || decide (y.space = .lane) || decide (y.space = .fab)) && y.done.isNone && !y.logged && decide (y.home = home) &&
      (match y.kind with
        | .load => decide (y.cyc < cyc) || (decide (y.cyc = cyc) && decide (agentNo w x y.str y.lane < agent))
        | .rmw _ _ => decide (y.cyc ≤ cyc)
        | _ => false) &&
      ((w.block? x y.owner).map fun z => decide (y.off z < off + n) && decide (off < y.off z + y.size)).getD false

/-- A load waits for an earlier read of its location. -/
def Access.waitsRead (w : World) (c : Nat) (a : Access) : Bool :=
  decide (a.kind = .load) && !(decide (a.space = .ts) || decide (a.space = .acc)) &&
  ((w.block? c a.owner).map fun b => readWaits w c a.home (a.off b) a.size a.cyc (agentNo w c a.str a.lane)).getD false

/-- Bytes that a block stages before an access of it, of the accesses and beats that are under way (R256). -/
def stagesBefore (k : Core) (b : Block) (a : Access) : Nat :=
  8 * (k.accs.filter fun x => decide (x.owner = a.owner) && x.changes && x.beyond && x.done.isNone && !x.ticket && !x.logged &&
    decide (x.id ≠ a.id) && accBefore x a).length +
  (k.beats.foldl (fun n x => match k.cmds.find? fun y => decide (y.id = x.cmd) with
    | some y => if decide (y.owner = a.owner) && writesMem y.op && x.fin.isNone && decide (x.wr < a.cyc) then n + max 8 (legOf k b y x.no).n else n
    | none => n) 0)

/-- The block's staging area has room for `n` more bytes (R256). -/
def hasRoom (b : Block) (n : Nat) : Bool := decide (stagedBytes b + n ≤ Config.stagingBytes)

/-- In a free-deterministic launch an access waits for its block to become the head, or for the release of what it staged: by a
fence or a release, for want of room, or behind the staged writes of a new head (R256, R258). -/
def Access.ticketHeld (w : World) (c : Nat) (a : Access) : Bool :=
  match w.block? c a.owner with
  | none => false
  | some b =>
    b.hdr.determ && !b.hdr.timed && !a.ticket &&
    ((a.marks.any (markOpen w c b)) ||
     (a.changes && a.beyond && (headOwes w c b || (stages w c b && !hasRoom b (stagesBefore (w.core c) b a + 8)))))

/-- The access may act in this cycle under the same rules. -/
def Access.ticketLets (w : World) (c : Nat) (a : Access) : Bool :=
  match w.block? c a.owner with
  | none => true
  | some b => !b.hdr.determ || b.hdr.timed ||
    (!(a.marks.any fun m => markStaged w c a.owner m) && !(a.changes && a.beyond && (headOwes w c b || (stages w c b && !hasRoom b 8))))

/-- An access that its home could take in this cycle, but for the accesses that it follows. -/
def accOpen (w : World) (c : Nat) (k : Core) (a : Access) : Bool :=
  a.done.isNone && !a.logged && !a.late && !a.ticket && !(a.sent && decide (a.kind = .store)) && decide (a.space ≠ .host) &&
  (a.sent || !cutOff k (vccOf w c) a.owner) &&
  decide (a.cyc ≤ vccOf w c) && !faulted k a && routeUp w (modOf c) (if a.space = .ts || a.space = .acc then modOf c else a.home / 4) &&
  (match a.xl with
    | .need => false
    | .wait _ _ => false
    | .hostWait _ _ => false
    | _ => true) &&
  (a.clk.isEmpty || clockMet (w.die a.home) a.clk) && a.ticketLets w c && chunkLets w c a && !a.waitsRead w c

/-- An access is applied only after another one of its path, however late that one is: an acquire, what precedes a release
or a fence beyond the core (R246, R248), and a crossing read before a later crossing access (R250). -/
def Access.follows (a x : Access) : Bool :=
  x.done.isNone && decide (x.id ≠ a.id) && !x.ticket && decide (x.space ≠ .host) &&
  ((a.marks.any fun m => match m with
      | .applied seq => decide (x.seq = seq)
      | .performed seq sc ids => scopeWide sc && decide (x.seq < seq) && ids.contains x.path) ||
    (a.cross && x.asks && decide (x.owner = a.owner) && decide (x.cr = a.cr) && decide (x.cyc < a.cyc)))

/-- The accesses that an access follows and that are not applied. -/
def Access.waitsFor (a : Access) (k : Core) : List Access := if a.marks.isEmpty && !a.cross then [] else k.accs.filter a.follows

/-- An access that its home could take in this cycle. -/
def accReady (w : World) (c : Nat) (k : Core) (a : Access) : Bool := accOpen w c k a && (a.waitsFor k).all (accOpen w c k)

/-- No access of a die is under way that can add to a row of its matrix before a cycle of a core (R251). -/
def dieQuiet (w : World) (d c cyc : Nat) : Bool :=
  w.mach.cores.all fun x => decide (dieOf x.1 ≠ d) ||
    (x.2.accs.all fun a => !a.cross || a.done.isSome || (decide (x.1 = c) && decide (cyc ≤ a.cyc))) &&
    (x.2.cmds.all fun y => !y.op.fabric || decide (y.st = .ended)) && (x.2.blocks.all fun b => b.2.staged.isEmpty)

/-- A read of a home from another die of the module is not assured: the home may have to wait for writes that its row will
name (R42, R251). -/
def rowOpen (w : World) (c home cyc : Nat) (clk : List Nat) : Bool :=
  !clockMet (w.die home) (if clk.isEmpty then matRow (w.die (dieOf c)).causal (home % 4) else clk) || (clk.isEmpty && !dieQuiet w (dieOf c) c cyc)

/-- An access that is not assured for a cause of its own: a translation outstanding, a host-backed page, an exhausted byte
budget, a lost route, the tickets of its launch, or writes that a crossing load or atomic waits for at its home (R42, R251,
R258, R342, R355). -/
def Access.unmet (w : World) (c : Nat) (a : Access) : Bool :=
  let die := decide (a.space = .die) || decide (a.space = .lane) || decide (a.space = .fab)
  let arming := match a.kind with | .arm _ _ => true | .disarm => true | _ => false
  die && a.done.isNone && !a.logged &&
  (a.late || a.ticketHeld w c || (match a.xl with
    | .need => true
    | .wait _ _ => true
    | .hostWait _ _ => true
    | .ok l => l.host && !arming && !l.refuses a.kind.use a.pv (decide (a.space = .lane))
    | _ => false) ||
    !routeUp w (modOf c) (a.home / 4) || (a.asks && !a.ticket && !homeMet w c a))

/-- An access that is not assured (R42): for a cause of its own, or of an access that it follows; or one that crosses, and whose
home may yet have to wait. -/
def Access.unsure (w : World) (c : Nat) (a : Access) : Bool :=
  a.unmet w c || (a.asks && a.done.isNone && !a.logged && !a.ticket && rowOpen w c a.home a.cyc a.clk) || (a.done.isNone && !a.logged && !a.ticket && !(a.sent && decide (a.kind = .store)) && (a.waitsFor (w.core c)).any fun x => x.unmet w c)

/-- A second cause of an atomic, at its due cycle: its old value may return late from another die (R40, R251), or its block
stages it until it becomes the head (R258). -/
def Access.tail (w : World) (c : Nat) (a : Access) : Option (Nat × CauseBy) :=
  match a.kind with
  | .rmw _ _ =>
    if a.done.isSome || a.logged || a.ticket || !a.beyond then none
    else if ((w.block? c a.owner).map fun b => stages w c b).getD false then some (a.due, .ticket c a.owner)
    else if a.cross then some (a.due, .access c a.id) else none
  | _ => none

/-- Named cycle of a beat: that of the half it has still to perform (R221). -/
def Beat.point (x : Beat) : Nat := if x.data.isSome then x.wr else x.rd

/-- The ports between a core and the homes of a beat's pages are trained (R342). -/
def beatRoute (w : World) (c : Nat) (pages : List (Nat × Nat × Xlate)) : Bool := pages.all fun y => routeUp w (modOf c) (y.1 / 4)

/-- A beat's write waits for its block to become the head, or for the release of what it staged (R256, R258). -/
def beatTicket (w : World) (c : Nat) (b : Block) (y : Cmd) (n : Nat) : Bool :=
  b.hdr.determ && !b.hdr.timed && writesMem y.op &&
  (headOwes w c b || (stages w c b && !hasRoom b (max 8 n)) || (decide (y.landed = 0) && relStaged w c y false))

/-- A beat that is not assured. -/
def Beat.unsure (w : World) (c : Nat) (x : Beat) : Bool :=
  let half := if x.data.isSome then x.xw else x.xr
  let k := w.core c
  let own := match k.cmds.find? fun y => decide (y.id = x.cmd) with
    | none => false
    | some y => match w.block? c y.owner with
      | none => false
      | some b =>
        if x.data.isSome then beatTicket w c b y (legOf k b y x.no).n
        else x.xr.any fun p => beatCrosses b c y p.1 && rowOpen w c p.1 x.rd x.clk
  !x.sent && (match x.fin with
    | some _ => ((k.cmds.find? fun y => decide (y.id = x.cmd)).map fun y => relStaged w c y true).getD false
    | none => x.late || own || !beatRoute w c half || half.any fun y => match y.2.2 with
      | .need => true
      | .wait _ _ => true
      | .hostWait _ _ => true
      | .ok l => l.host
      | _ => false)

/-- The last write of a command with REL of a block that stages is named for its completion too: it is performed when it is
released (R217, R258). -/
def Beat.tail (w : World) (c : Nat) (x : Beat) : Option (Nat × CauseBy) :=
  let k := w.core c
  match k.cmds.find? fun y => decide (y.id = x.cmd) with
  | none => none
  | some y => match w.block? c y.owner with
    | none => none
    | some b =>
      if y.rel && scopeWide y.sc && writesMem y.op && stages w c b && x.data.isSome && x.fin.isNone && decide (x.no + 1 = beatCount k b y) then
        let ps := legPieces w c b y (legOf k b y x.no) (List.replicate (legOf k b y x.no).n 0) []
        some (max (y.endAt.getD 0) (x.wr + beatExtra w c y ps), .ticket c y.owner)
      else none

/-- The sash of a core has a cause of an agent that takes effect by a cycle. -/
def hasCause (w : World) (c p : Nat) (src : CauseBy) : Bool :=
  ((sashOf w c).map fun s => s.causes.any fun x => decide (x.p ≤ p) && decide (x.src = src) && !x.met).getD true

/-- The sash of a core stands for a cause. -/
def standsFor (w : World) (c : Nat) (x : CauseBy) : Bool :=
  ((sashOf w c).map fun s => s.paused && s.causes.any fun y => decide (y.src = x) && decide (y.p ≤ s.vcc)).getD false

/-- A cause of an access or a beat that a standing sash need not wait for any more: what was not assured has been found, or has
passed with what it waited for (R44). -/
def causeSpent (w : World) : CauseBy → Bool
  | .access c id => match (w.core c).accs.find? fun a => decide (a.id = id) with
    | none => true
    | some a => decide (a.back = 0) && !a.unsure w c
  | .beat c id => match (w.core c).beats.find? fun x => decide (x.id = id) with
    | none => true
    | some x => !x.unsure w c
  | .fetch c o r id => match (w.course? c o r).bind fun k => k.paths.find? fun x => decide (x.2.id = id) with
    | none => true
    | some x => x.2.atHand || (match x.2.fetch with | .bad _ => true | _ => false)
  | _ => false

/-- A recording core's beat may act: in its place in a replay, and where it ends the chunk or finds it full at its cycle, which
its sash has stood at (R387, R388). -/
def beatLets (w : World) (c : Nat) (y : Cmd) (x : Beat) (write : Bool) : Bool :=
  !recording w c (timedBlock w c y.owner) || decide ((w.die (dieOf c)).recMode ≠ 2) ||
  !((if write then x.xw else x.xr).any fun p => beatEnds c y x write p.1) || replaysAct w c

/-- Accesses and beats to the memory of a recording core's own die, as they come: memory cycle, named cycle, whether the chunk
must be committed for it, the granules it reads, and the bytes it writes (R387). -/
def chunkWork (w : World) (c : Nat) (k : Core) : List (Nat × Nat × Bool × List Nat × Nat) :=
  let accs := (k.accs.filter fun a => a.chunked && a.done.isNone && !a.logged && !a.ticket && !a.sent && !timedBlock w c a.owner).map fun a =>
    let key := match a.xl, k.blocks.find a.owner with
      | .ok l, some b => let p := l.place a.home (a.off b)
        if p.1 = .dram then [p.2 / 64] else []
      | _, _ => []
    (a.cyc, a.point, endsChunk w c a, if a.kind = .load then key else [], if a.kind = .store && !key.isEmpty then a.size else 0)
  let beats := k.beats.filterMap fun x => match k.cmds.find? fun y => decide (y.id = x.cmd) with
    | none => none
    | some y => match k.blocks.find y.owner with
      | none => none
      | some b =>
        let l := legOf k b y x.no
        let pages := if x.data.isNone then x.xr else x.xw
        if x.fin.isSome || x.sent || y.failed || b.hdr.timed || pages.isEmpty then none
        else
          let off := ((pages.map fun p => p.2.1).min?).getD 0
          some (x.point, x.point, pages.any fun p => beatEnds c y x x.data.isSome p.1,
            if x.data.isNone then granulesHit x.xr (dieOf c) off l.n else [], if x.data.isSome then l.n else 0)
  sortBy (fun a b => decide (a.1 ≤ b.1)) (accs ++ beats)

/-- The next cycle within the horizon for which the chunk of a recording core has to be committed: of an access or beat that ends
it or that it has no room for, or its last (R387). -/
def chunkPoint (w : World) (c : Nat) (k : Core) : Option Nat :=
  match k.chunk with
  | none => none
  | some ch =>
    if (w.die (dieOf c)).recMode ≠ 1 then none
    else
      let vcc := vccOf w c
      let lim := vcc + Config.horizon
      let step := fun (r : Option Nat × List Nat × Nat) (x : Nat × Nat × Bool × List Nat × Nat) =>
        if r.1.isSome then r
        else
          let gs := (r.2.1 ++ x.2.2.2.1).eraseDups
          let n := r.2.2 + x.2.2.2.2
          if x.2.2.1 || decide (chunkCopies < gs.length) || decide (Config.stagingBytes < n) then (some x.2.1, r.2)
          else (none, gs, n)
      let p := ((chunkWork w c k).foldl step (none, ch.copies.map Prod.fst, ch.writes.length)).1
      let p := min (p.getD (ch.start + 65536)) (ch.start + 65536)
      if vcc < p && p ≤ lim then some p else none

/-- CHUNK_COMMIT (R387): a recording core opens its chunk; its sash is to pause at a cycle for which the chunk must be committed;
standing there it asks, and is committed in order of request. A replay commits the chunk that has run to its end (R388). -/
def chunkCommit (c : Nat) (w : World) : World :=
  let mode := (w.die (dieOf c)).recMode
  match (w.core c).chunk with
  | none => if mode = 1 then w.modCore c fun k => { k with chunk := some { start := vccOf w c } } else commitChunk c [] w
  | some ch =>
    if mode ≠ 1 then clearCause (commitChunk c [] w) c (.chunk c)
    else if standsFor w c (.chunk c) then
      if ch.asked.isNone then w.modCore c fun k => { k with chunk := some { ch with asked := some w.mach.clock } }
      else clearChunk (if ch.fresh (vccOf w c) then w.modCore c fun k => { k with chunk := some { ch with asked := none } } else commitChunk c [] w) c
    else match chunkPoint w c (w.core c) with
      | some p => ensureCause w c p (.chunk c)
      | none => w

/-- CHUNK_COMMIT (R387). -/
def execChunkCommit (c : Nat) (s : State) : Host.Outcome State Fault Refusal := runEvent (chunkCommit c) s

/-- What waits in the cycle for the release of staged writes and names no cycle of its own: a tile access behind a fence, or with
REL a host copy, a timed send or a matrix command (R204, R258). -/
def ticketAsks (w : World) (c : Nat) (k : Core) : Option (Nat × Nat) :=
  ((k.accs.find? fun a => (decide (a.space = .ts) || decide (a.space = .acc)) && a.done.isNone && a.marks.any fun m => markStaged w c a.owner m).map
    fun a => (a.id, a.owner))
  <|> ((k.cmds.find? fun y => relOpen w c y && (hostHeadReady w c y || (decide (y.op = .tsend) && y.s.isNone && decide (y.start ≤ vccOf w c) && inputSet w c y) ||
    decide ((nextRun k).map MxRun.cmd = some y.id))).map fun y => (y.id, y.owner))

/-- An access to a host-backed page goes over the link, to complete at a real cycle of its own (R318). -/
def hostPage (a : Access) (due : Nat) (x : Xlate) : Xlate :=
  let arming := match a.kind with | .arm _ _ => true | .disarm => true | _ => false
  match x with
  | .ok l => if l.host && !arming && !l.refuses a.kind.use a.pv (decide (a.space = .lane)) then .hostWait l due else x
  | x => x

/-- A cause of an access that is not assured. It is held in the operand log, and a profile of it learns of the pause, where it
is known not to be performed at its cycle (R330, R385). -/
def causeAccess (c : Nat) (a : Access) (w : World) : World :=
  let due := w.later 0
  let w := setAcc w.step c { a with caused := true, xl := hostPage a due a.xl }
  let w := if a.unmet w c then holdAccess (touchSample w c a.seq fun x => { x with caused := true }) c a else w
  addCause w c a.point (.access c a.id)

/-- A cause of a beat that is not assured. -/
def causeBeat (c : Nat) (x : Beat) (w : World) : World :=
  let x' := { x with caused := true }
  let w := beatHostWait (setBeat w c x') c x' x.data.isNone
  let w := match cmdAt w c x.cmd with
    | some y => touchSample w c y.seq fun z => { z with caused := true }
    | none => w
  addCause (if x.fin.isSome then w else holdBeat w c x) c (x.fin.getD x.point) (.beat c x.id)

/-- PAUSE_HORIZON_CHECK: an access, a beat or a rail that is not assured H cycles before its named cycle raises a
cause effective there (R42, R91). Of a sash that stands it clears a cause that is spent (R44). -/
def horizonCheck (c id : Nat) (w : World) : World :=
  let k := w.core c
  let spent := fun (x : CauseBy) => standsFor w c x && causeSpent w x
  if spent (.access c id) then clearCause w c (.access c id)
  else if spent (.beat c id) then clearCause w c (.beat c id)
  else if (ticketAsks w c k).map Prod.fst = some id then
    addCause w c (vccOf w c + Config.horizon) (.ticket c (((ticketAsks w c k).map Prod.snd).getD 0))
  else match k.accs.find? fun a => decide (a.id = id) with
  | some a => if a.unsure w c && !hasCause w c a.point (.access c id) then causeAccess c a w
    else match a.tail w c with
      | some t => addCause w c t.1 t.2
      | none => w
  | none =>
    match k.beats.find? fun x => decide (x.id = id) with
    | some x => if x.unsure w c && !hasCause w c (x.fin.getD x.point) (.beat c id) then causeBeat c x w
      else match x.tail w c with
        | some t => addCause w c t.1 t.2
        | none => w
    | none =>
      match (arrayStarts w c k).find? fun r => decide (r.1 = id) with
      | some r =>
        let w := w.modCore c fun k => { k with arr := { k.arr with runs := k.arr.runs.map fun (y : MxRun) => if y.cmd = id then { y with caused := true } else y } }
        -- a cause raised before the array start was fixed moves with it
        addCause (dropCause w c (.rail c id)) c r.2 (.rail c id)
      | none => w

/-! ## Stop and restart (R43, R44) -/

/-- The cause still holds a sash that stopped at `stop`: a run of a given length ends by itself. -/
def Cause.holds (stop gcc : Nat) (x : Cause) : Bool :=
  match x.src with
  | .refresh n => decide (gcc < stop + n)
  | .throttle n => decide (gcc < stop + n)
  | .replay n => decide (gcc < stop + n)
  | _ => !x.met

/-- Causes effective at or before the sash's cycle that still hold. -/
def Sash.held (s : Sash) (gcc : Nat) : Bool :=
  s.causes.any fun x => decide (x.p ≤ s.vcc) && (!s.paused || x.holds s.stopGcc gcc)

/-- GCC that a sash sees. -/
def sashGcc (w : World) (s : Sash) : Nat := (w.module (s.die / 4)).gcc

/-- The die of a sash replays a log. -/
def replays (w : World) (s : Sash) : Bool := decide ((w.die s.die).recMode = 2)

/-- A free core of a replay stands while another core's chunk runs, or a crossing write is to be committed (R388). -/
def turnHeld (w : World) (s : Sash) : Bool :=
  s.timed.isNone && (replayEntry w s.die).isSome && (match replayChunk w s.die with
    | some r => !s.cores.contains r.2.1
    | none => true)

/-- The pause that the log gives a sash of a timed launch at its present cycle: its record and its GCC length. -/
def replayPause (w : World) (s : Sash) : Option (Nat × Nat) :=
  if replays w s && s.timed.isSome then
    let x := w.die s.die
    ((ringNos w s.die x.recBase).find? fun n => !x.recUsed.contains n && decide (ringWord w s.die x.recBase n 0 / 2 ^ 24 = 0x30) &&
        decide (ringWord w s.die x.recBase n 3 = s.num.toNat) && decide (ringPair w s.die x.recBase n 6 = s.vcc)).map
      fun n => (n, ringPair w s.die x.recBase n 10 - ringPair w s.die x.recBase n 8)
  else none

/-- A cause of the replay itself. -/
def Cause.logged (x : Cause) : Bool := match x.src with | .replay _ => true | _ => false

/-- Length of the logged pause for which a sash stands, without the 24 cycles of the restart. -/
def Sash.logLen (s : Sash) : Option Nat := s.causes.findSome? fun x => match x.src with | .replay n => if x.p ≤ s.vcc then some n else none | _ => none

/-- A sash of a replay stands off the log: for a cause that the log does not hold, or longer than the log says. -/
def offLog (w : World) (s : Sash) : Bool :=
  s.paused && !(s.resume.any fun r => decide (r ≤ w.mach.clock)) && (match s.logLen with
    | some n => decide (s.stopGcc + n + Config.resumeCycles ≤ sashGcc w s)
    | none => true)

/-- In a replay what stands off the log stops every sash of its launch together (R388). -/
def groupHeld (w : World) (s : Sash) : Bool :=
  replays w s && s.timed.isSome && w.mach.sashes.any fun x =>
    decide (x.2.timed = s.timed) && decide (x.2.num ≠ s.num ∨ x.2.die ≠ s.die) && offLog w x.2

/-- Something of its own holds a sash at its present cycle. -/
def sashHeld (w : World) (s : Sash) : Bool := s.held (sashGcc w s) || turnHeld w s

/-- The real cycle at which a sash whose causes have cleared restarts: 24 ahead (R44). One that stands only with the others of its
launch restarts with them. -/
def restartAt (w : World) (s : Sash) : Nat :=
  if groupHeld w s && !(s.causes.any fun x => decide (x.p ≤ s.vcc)) then 0 else w.mach.clock + Config.resumeCycles

/-- The sash stands at its present cycle for a throttle hold or for lateness of the byte budget (R358). -/
def throttleCause (w : World) (s : Sash) : Bool :=
  s.causes.any fun x => decide (x.p ≤ s.vcc) && (match x.src with
    | .throttle _ => true
    | .access c a => (w.core c).accs.any fun y => decide (y.id = a) && y.late
    | .beat c b => (w.core c).beats.any fun y => decide (y.id = b) && y.late
    | _ => false)

/-- PAUSE_STOP: every core of the sash stops at its present cycle (R43). -/
def pauseStop (i : Nat) (w : World) : World :=
  match w.sash? i with
  | none => w
  | some s =>
    match replayPause w s with
    | none =>
      let s := if throttleCause w s then { s with throttled := some (sashGcc w s) } else s
      w.setSash i (s.stop (sashGcc w s))
    | some r =>
      let s := s.cause s.vcc (.replay (r.2 - Config.resumeCycles))
      (useRecord w s.die r.1).setSash i (s.stop (sashGcc w s))

/-- The pause goes into the replay log of a recording die (R386). -/
def logPause (w : World) (s : Sash) : World :=
  if s.timed.isSome && decide ((w.die s.die).recMode = 1) then
    ringWrite w s.die (w.die s.die).recBase ([0x30 * 2 ^ 24, 0, 0, s.num.toNat, 0, 0] ++ lohi s.vcc ++ lohi s.stopGcc ++ lohi (sashGcc w s) ++ [0, 0, 0, 0])
  else w

/-- GCC cycles for which a sash of a replay stood off the log, as it restarts. -/
def Sash.extra (s : Sash) (d : Nat) : Nat :=
  if s.resume = some 0 then 0 else match s.logLen with | some n => d - (n + Config.resumeCycles) | none => d

/-- Logged pauses for which other sashes of a launch stand last as much longer as one of them stood off the log (R388). -/
def lengthen (i : Nat) (s : Sash) (n : Nat) (w : World) : World :=
  let longer := fun (y : Cause) => ({ y with src := match y.src with | .replay m => CauseBy.replay (m + n) | q => q } : Cause)
  { w with mach := { w.mach with sashes := w.mach.sashes.map fun (x : Nat × Sash) =>
    if x.2.timed = s.timed && x.1 ≠ i && x.2.paused then (x.1, { x.2 with causes := x.2.causes.map longer }) else x } }

/-- SASH_RESUME: when the last cause has cleared, the restart is fixed 24 real cycles ahead; at that cycle virtual
time goes on (R44). -/
def sashResume (i : Nat) (w : World) : World :=
  match w.sash? i with
  | none => w
  | some s =>
    if !s.paused || sashHeld w s then w
    else match s.resume with
      | none => w.setSash i { s with resume := some (restartAt w s) }
      | some _ =>
        if groupHeld w s then w
        else
          let w := logPause w s
          let d := sashGcc w s - s.stopGcc
          let w := if replays w s && s.timed.isSome then lengthen i s (s.extra d) w else w
          let w := s.cores.foldl (fun w c => w.modCore c fun k => { k with samples := k.samples.map fun (x : Sample) => { x with paused := x.paused + d } }) w
          let throttled := if throttleCause w s then some (sashGcc w s) else s.throttled
          w.setSash i { s with paused := false, resume := none, scanned := none, throttled := throttled, causes := s.causes.filter fun x => decide (s.vcc < x.p) }

/-- DRAM_REFRESH: a refresh that rotation cannot hide stops a sash for some cycles at a cycle (R42). The controller knows
it H cycles ahead; while the sash stands any later cycle will do (R45). -/
def dramRefresh (i p dur : Nat) (w : World) : World :=
  match w.sash? i with
  | none => w
  | some s =>
    if p < s.vcc + (if s.paused then 0 else Config.horizon) then w
    else w.setSash i (s.cause p (.refresh dur))

/-! ## Fetch (R94 to R97) -/

/-- Change the fetch state of a path. -/
def setFetch (w : World) (c o r ix : Nat) (f : Fetch) : World := modPath w c o r ix fun p => { p with fetch := f }

/-- Die offset of a clause. -/
def clauseOff (n : Nat) : Nat := 16 * n

/-- A clause as it stands at a place of memory. -/
def readClause (w : World) (c n : Nat) (a : Store × Nat) : Clause :=
  let word := fun (i : Nat) => BitVec.ofNat 32 (leNat (w.mem.bytes a.1 (a.2 + 4 * i) 4))
  { idx := n, ctl := word 0, w1 := word 1, w2 := word 2, w3 := word 3, got := vccOf w c }

/-- Clauses that a path keeps beside the present one (log entry 101). -/
def keptClauses : Nat := 31

/-- Clauses that are fetched ahead of the present one (log entry 101). -/
def aheadClauses : Nat := 12

/-- A clause arrives: the present one and those before it are kept (R96). -/
def Path.take (p : Path) (cl : Clause) : Path :=
  { p with buf := some cl, ahead := ((p.buf.toList ++ p.ahead).filter fun x => decide (x.idx ≠ cl.idx)).take keptClauses }

/-- Clause that is to be fetched ahead for a path whose clause is at hand: the first of those to come that is not (R96). -/
def Path.nextAhead (p : Path) : Option Nat :=
  if !p.atHand || p.coming.isSome then none
  else (List.range aheadClauses).findSome? fun i => if (p.clause? (p.pc / 3 + 1 + i)).isSome then none else some (p.pc / 3 + 1 + i)

/-- The clause to be fetched ahead, with the leaf through which it can be: one that the core's L1 TLB holds (DESIGN CHOICE: log
entry 101), while the die's translation is enabled (R308). -/
def aheadLeaf (w : World) (c : Nat) (b : Block) (p : Path) : Option (Nat × Leaf) :=
  if !bit64 (w.die (dieOf c)).tbase 0 then none
  else p.nextAhead.bind fun n =>
    if 2 ^ 46 ≤ clauseOff n then none
    else match (tlbLook (w.core c).tlb (clauseOff n)).1 with
      | some l => if l.refuses .fetch b.bind.priv false then none else some (n, l)
      | none => none

/-- Usable turns that the path has still to pass before it issues. The DELAY is that of the clause in memory where the
clause is not at hand, and 0 where it cannot be read (log entry 101). -/
def Path.turnsLeft (w : World) (c : Nat) (p : Path) : Nat :=
  if p.fresh then 0
  else
    let d := if p.atHand then p.delay
      else match placeNow w (dieOf c) (clauseOff (p.pc / 3)) with
        | some a => ({ p with buf := some (readClause w c (p.pc / 3) a) } : Path).delay
        | none => 0
    d - p.turns

/-- The issue cycle I of a resident path's next instruction, as its turns stand (R8, R14, R23, R24). -/
def issueCycle (w : World) (c : Nat) (k : Course) (ix : Nat) (p : Path) : Option Nat :=
  if !k.issues p ix || k.drot = 0 then none
  else
    let vcc := vccOf w c
    let t := max (if ((w.core c).str k.str).last = some vcc then vcc + 1 else vcc) (k.window ix)
    let t := t + (k.rot + k.drot * t - t) % k.drot
    let first := match k.div with
      | none => if ix = 0 then some (t, k.drot) else none
      | some _ => some (if k.turnSlot t = ix then t else t + k.drot, 2 * k.drot)
    first.map fun x => x.1 + x.2 * p.turnsLeft w c

/-- The issue cycle I of a path whose clause was not at hand 32 cycles before it, where the sash is still to pause for that
(R96): the clause is not at hand with I within the horizon, or it came less than 32 cycles before I. -/
def lateClause (w : World) (c : Nat) (k : Course) (ix : Nat) (p : Path) : Option Nat :=
  let due := fun (i : Nat) => decide (i ≤ vccOf w c + Config.horizon) && !hasFetch i
  match p.clause? (p.pc / 3), p.fetch with
  | some cl, _ => if cl.paid || decide (cl.got + Config.horizon ≤ vccOf w c) then none else (issueCycle w c k ix p).filter fun i => decide (i < cl.got + Config.horizon)
  | none, .bad _ => none
  | none, _ => (issueCycle w c k ix p).filter due
where
  /-- The sash has the path's cause at I. -/
  hasFetch (i : Nat) : Bool :=
    ((sashOf w c).map fun s => s.causes.any fun y => decide (y.src = .fetch c k.owner k.cr p.id) && decide (y.p = i)).getD true

/-- A path with a clause that is late (R42, R96). -/
def fetchCheck (w : World) (c : Nat) (k : Core) : Option (Nat × Nat × Nat) :=
  k.courses.findSome? fun x =>
    if !((k.blocks.find x.2.owner).map fun b => b.issues (vccOf w c)).getD false then none
    else ([0, 1].find? fun ix => ((x.2.path? ix).bind fun p => lateClause w c x.2 ix p).isSome).map fun ix => (x.2.owner, x.2.cr, ix)

/-- The sash pauses at I for the clause at hand of a path, which came too late for it. -/
def Path.pay (p : Path) : Path :=
  let f := fun (x : Clause) => if x.idx = p.pc / 3 then { x with paid := true } else x
  { p with buf := p.buf.map f, ahead := p.ahead.map f }

/-- The sash of a core has a path's cause at a cycle. -/
def fetchCause (w : World) (c : Nat) (src : CauseBy) (i : Option Nat) : Bool :=
  ((sashOf w c).map fun s => s.causes.any fun y => decide (y.src = src) && decide (some y.p = i)).getD false

/-- Read the clause that a path needs through a leaf. A cause that was raised for it at its slot's issue cycle still stops the sash
there; one at another cycle is taken back. -/
def fillClause (w : World) (c : Nat) (k : Course) (ix : Nat) (p : Path) (l : Leaf) : World :=
  let a := l.place (dieOf c) (clauseOff (p.pc / 3))
  if w.mem.poisoned a.1 a.2 16 then setFetch w c k.owner k.cr ix (.bad 0x09)
  else
    let src := CauseBy.fetch c k.owner k.cr p.id
    let cl := readClause w c (p.pc / 3) a
    let paid := fetchCause w c src (issueCycle w c k ix { p with buf := some cl })
    let w := modPath w c k.owner k.cr ix fun p => { p.take { cl with paid := paid } with fetch := .idle }
    if paid then clearCause w c src else dropCause w c src

/-- The clause fetched ahead arrives; a poisoned one is left to its need. -/
def fillAhead (w : World) (c o r ix n : Nat) (l : Leaf) : World :=
  let a := l.place (dieOf c) (clauseOff n)
  modPath w c o r ix fun p =>
    if w.mem.poisoned a.1 a.2 16 then { p with coming := none }
    else { p with coming := none, ahead := (readClause w c n a :: p.ahead.filter fun x => decide (x.idx ≠ n)).take keptClauses }

/-- A fetch that cannot be made faults at I; the slot is passed over, or fetched again (R96, R328). -/
def fetchFault (code : Nat) (t : Turn) (w : World) : World :=
  let w := dropCause (setFetch w t.core t.crs.owner t.crs.cr t.slot .idle) t.core (.fetch t.core t.crs.owner t.crs.cr t.pth.id)
  let i := t.issuer (vccOf w t.core)
  faultIssue code 0 (BitVec.ofNat 64 (clauseOff (t.pth.pc / 3))) { w with mach := { w.mach with cur := some { i with word := 0 } } }

/-- The turn of a path in this cycle. -/
def turnFor (w : World) (c : Nat) (k : Course) (ix : Nat) : Option Turn :=
  (readyTurn w c k.str).bind fun t => if t.crs.owner = k.owner ∧ t.crs.cr = k.cr ∧ t.slot = ix then some t else none

/-- The fetch of the clause that a path needs begins (R96): a fetch ahead of it that is on its way serves it. -/
def beginFetch (w : World) (c o r ix : Nat) (b : Block) (p : Path) : World :=
  let off := clauseOff (p.pc / 3)
  match p.coming with
  | some (n, l, due) =>
    if n = p.pc / 3 then modPath w c o r ix fun p => { p with coming := none, fetch := .coming l due }
    else modPath w c o r ix fun p => { p with coming := none }
  | none =>
    if 2 ^ 46 ≤ off then setFetch w c o r ix (.bad 0x03)
    else
      let x := startXlate w c (dieOf c) off .fetch true
      match x.2 with
      | .ok l =>
        if l.refuses .fetch b.bind.priv false then setFetch x.1 c o r ix (.bad 0x03)
        else setFetch x.1.step c o r ix (.coming l (x.1.later 0))
      | .wait d wid => setFetch x.1 c o r ix (.walk d wid)
      | .bad code => setFetch x.1 c o r ix (.bad code)
      | _ => x.1

/-- A fetch cause for which the sash stands and that is spent: its path is there no more, its clause is at hand, or its fetch has
failed. -/
def spentFetch (w : World) (c o r : Nat) : Option CauseBy :=
  (sashOf w c).bind fun s => s.causes.findSome? fun y => match y.src with
    | .fetch c2 o2 r2 _ => if s.paused && decide (y.p ≤ s.vcc) && decide (c2 = c ∧ o2 = o ∧ r2 = r) && causeSpent w y.src then some y.src else none
    | _ => none

/-- The clause of a path is late for I: the sash is to pause there (R96). -/
def raiseFetch (w : World) (c : Nat) (k : Course) (ix i : Nat) (p : Path) : World :=
  let src := CauseBy.fetch c k.owner k.cr p.id
  let w := sureCause (dropCause w c src) c i src
  if p.atHand then clearCause (modPath w c k.owner k.cr ix Path.pay) c src else w

/-- CLAUSE_FETCH: a fetch begins, a clause arrives, or the clause of an instruction that issues within the horizon was not
at hand 32 cycles before, which pauses the sash at I; a fetch that cannot be made faults at I (R96). -/
def clauseFetch (c o r ix : Nat) (w : World) : World :=
  match spentFetch w c o r with
  | some src => clearCause w c src
  | none =>
  match w.block? c o, w.course? c o r with
  | some b, some k =>
    match k.path? ix with
    | none => w
    | some p =>
      let late := if b.issues (vccOf w c) then lateClause w c k ix p else none
      if p.atHand then
        match late, p.coming with
        | some i, _ => raiseFetch w c k ix i p
        | none, some (n, l, due) => if due ≤ w.mach.clock then fillAhead w c o r ix n l else w
        | none, none => match aheadLeaf w c b p with
          | some (n, l) =>
            let due := w.later 0
            let w := w.modCore c fun k => { k with tlb := (tlbLook k.tlb (clauseOff n)).2 }
            modPath w.step c o r ix fun q => { q with coming := some (n, l, due) }
          | none => w
      else
        let check := match late with
          | some i => raiseFetch w c k ix i p
          | none => w
        match p.fetch with
        | .idle => beginFetch w c o r ix b p
        | .coming l due =>
          if !l.covers (clauseOff (p.pc / 3)) then setFetch w c o r ix .idle
          else if due ≤ w.mach.clock then fillClause w c k ix p l
          else check
        | .walk _ _ => check
        | .bad code => match turnFor w c k ix with
          | some t => fetchFault code t w
          | none => dropCause w c (.fetch c o r p.id)
  | _, _ => w

/-! ## Asynchronous traps (R176) -/

/-- The pending trap that a course takes first: its KIND and CODE. -/
def Course.pendingTrap (k : Course) : Option (Nat × Nat) :=
  match k.shutter, k.stepT, k.watchT with
  | some s, _, _ => some (3, if s then 1 else 0)
  | none, some n, _ => some (4, n)
  | none, none, some n => some (5, n)
  | _, _, _ => none

/-- Forget the pending trap of a KIND. -/
def Course.dropTrap (k : Course) (kind : Nat) : Course :=
  if kind = 3 then { k with shutter := none } else if kind = 4 then { k with stepT := none } else { k with watchT := none }

/-- The ready resident path with the lower slot number. -/
def Course.trapSlot (k : Course) : Option Nat :=
  if (k.slot0.map fun p => k.usable 0 p).getD false then some 0
  else if (k.slot1.map fun p => k.usable 1 p).getD false then some 1
  else none

/-- ASYNC_TRAP_TAKE: a pending trap is taken at a turn, which issues nothing; without a handler it is recorded and
the turn goes on (R176, R326). -/
def asyncTrap (c o r slot : Nat) (w : World) : World :=
  match w.block? c o, w.course? c o r with
  | some b, some k =>
    match k.pendingTrap, k.path? slot with
    | some x, some p =>
      if k.handler.isSome then w
      else if !b.hdr.traph then
        (w.setCourse c o r (k.dropTrap x.1)).modCore c fun k => k.recordTrap x.1 x.2 slot (pcWord p.pc)
      else
        let k' := ((k.dropTrap x.1).enterTrap b slot x.1 x.2 p.pc)
        let w := w.setCourse c o r k'
        let w := modPath w c o r slot fun p => { p with turns := p.turns + 1, fetch := .idle }
        let w := w.modCore c fun y => y.setStr k.str { y.str k.str with last := some (vccOf w c) }
        releaseExited w c o
    | _, _ => w
  | _, _ => w

/-! ## The budget fault (R32) -/

/-- BUDGET_FAULT: the region of a block has exhausted a budget; at most once a round (R325). -/
def budgetFault (c o : Nat) (w : World) : World :=
  match w.block? c o with
  | none => w
  | some b =>
    let n := ((w.module (modOf c)).roundNo.find ((partOf w (dieOf c)).getD 0)).getD 0
    let w := w.setBlock c o { b with budgetRound := some n }
    takeFault w c (({ code := 0x0A, src := 7, owner := o, vcc := 0 } : FaultRec).ofBlock b)

/-! ## The steps -/

/-- PAUSE_HORIZON_CHECK (R42). -/
def execPauseHorizonCheck (c aid : Nat) (s : State) : Host.Outcome State Fault Refusal := runEvent (horizonCheck c aid) s
/-- PAUSE_STOP (R43). -/
def execPauseStop (sash : Nat) (s : State) : Host.Outcome State Fault Refusal := runEvent (pauseStop sash) s
/-- SASH_RESUME (R44). -/
def execSashResume (sash : Nat) (s : State) : Host.Outcome State Fault Refusal := runEvent (sashResume sash) s
/-- DRAM_REFRESH (R42). -/
def execDramRefresh (sash at_ dur : Nat) (s : State) : Host.Outcome State Fault Refusal := runEvent (dramRefresh sash at_ dur) s
/-- CLAUSE_FETCH (R96). -/
def execClauseFetch (c owner cr slot : Nat) (s : State) : Host.Outcome State Fault Refusal := runEvent (clauseFetch c owner cr slot) s
/-- ASYNC_TRAP_TAKE (R176). -/
def execAsyncTrapTake (c owner cr slot : Nat) (s : State) : Host.Outcome State Fault Refusal := runEvent (asyncTrap c owner cr slot) s
/-- BUDGET_FAULT (R32). -/
def execBudgetFault (c owner : Nat) (s : State) : Host.Outcome State Fault Refusal := runEvent (budgetFault c owner) s

end Sys2Proof.Machine
end

