-- ==== Sys2Proof/Machine/Translate.lean ====
section
/-! DEFINITION. Page walks, page requests and their verdicts (R312, R316, R317), and shoot-downs (R321 to R323). -/

namespace Sys2Proof.Machine

/-! ## Walks -/

/-- Change a walk of a die. -/
def modWalk (w : World) (d wid : Nat) (f : Walk → Walk) : World :=
  w.modDie d fun x => { x with walks := x.walks.map fun (k : Walk) => if k.wid = wid then f k else k }

/-- A free request slot of a die: 16, one for each walker (R317). -/
def freeSlot (x : Die) : Option Nat := (List.range 16).find? fun n => (x.reqs.find n).isNone

/-- PAGE_WALK: a walk ends in a translation, a request for an absent page, or a fault code (R312, R317). -/
def pageWalk (d wid : Nat) (w : World) : World :=
  match (w.die d).walks.find? fun k => decide (k.wid = wid) with
  | none => w
  | some k =>
    match walkOut w d k.off with
    | .bad code =>
      -- accesses to the page that wait are one walk, and end as one (R316)
      let k := { k with large := k.large || (match leafSlot w d k.off with | .ok (_, large) => large | .error _ => false) }
      w.modDie d fun x => { x with walks := x.walks.map fun (y : Walk) =>
        if y.wid = wid || (k.samePage y.off && y.slot.isNone && y.found.isNone && decide (y.code = 0)) then { y with code := code, due := min y.due w.mach.clock } else y }
    | .leaf l =>
      -- walks for other parts of the page that wait are one walk with this one (R316)
      let w := (keepDirs w d k.off).step.modDie d fun x => { x with walks := x.walks.map fun (y : Walk) =>
        if y.wid = wid || (l.covers y.off && y.slot.isNone && y.found.isNone && decide (y.code = 0)) then { y with found := some l } else y }
      w.modDie d fun x => { x with tlb := tlbPut x.tlb Config.memTlb (Config.tlbVictim w.free) l }
    | .absent level large =>
      let k := { k with large := large }
      let w := modWalk (keepDirs w d k.off) d wid fun y => { y with large := large }
      match ((w.die d).walks.find? fun y => decide (y.wid ≠ wid) && y.slot.isSome && (y.samePage k.off || k.samePage y.off)).bind Walk.slot, freeSlot (w.die d) with
      | some n, _ => modWalk w d wid fun k => { k with slot := some n }
      | none, none =>
        let due := w.later 1
        modWalk w.step d wid fun k => { k with due := due }
      | none, some n =>
        let mc := if bit64 ((w.module (d / 4)).faccept.zeroExtend 64) 9 then (Config.pageService w.free).map fun fail => (w.later 1, fail) else none
        let r : PageReq := { gcc := BitVec.ofNat 64 (w.module (d / 4)).gcc, use := k.use, level := level, va := k.va, wid := wid, mc := mc }
        raiseMsix (modWalk (w.step.step.modDie d fun x => { x with reqs := x.reqs.put n r }) d wid fun k => { k with slot := some n }) (d / 4) 1

/-- What a translation that a walk answers becomes. -/
def answer (d wid : Nat) (r : Xlate) (x : Xlate) : Xlate := if x = .wait d wid then r else x

/-- The same in a list of pages. -/
def answerPages (d wid : Nat) (r : Xlate) (xs : List (Nat × Nat × Xlate)) : List (Nat × Nat × Xlate) :=
  xs.map fun y => (y.1, y.2.1, answer d wid r y.2.2)

/-- A staged write whose pages a walk answers lies where they say now (R321). -/
def answerStaged (d wid : Nat) (r : Xlate) (s : Staged) : Staged :=
  if s.pages.any fun y => decide (y.2.2 = .wait d wid) then
    let pages := answerPages d wid r s.pages
    let a := pagePlace pages s.home s.off
    { s with pages := pages, st := a.1, key := a.2 }
  else s

/-- A walk answers the accesses, beats and fetches of one core that wait on it; its own die's translations enter
the L1 TLB (R314). -/
def answerCore (d wid : Nat) (r : Xlate) (c : Nat) (w : World) : World :=
  let k := w.core c
  let waits := fun (x : Xlate) => decide (x = .wait d wid)
  let hitAcc := k.accs.filter fun a => waits a.xl
  let hitBeat := k.beats.filter fun x => (x.xr ++ x.xw).any fun y => waits y.2.2
  let hitPath := k.courses.flatMap fun x => x.2.paths.filterMap fun y =>
    if y.2.fetch = .walk d wid then some (x.2.owner, x.2.cr, y.1) else none
  let w := if k.blocks.any fun b => !b.2.staged.isEmpty then
      w.modCore c fun k => { k with blocks := k.blocks.map fun (b : Nat × Block) => (b.1, { b.2 with staged := b.2.staged.map (answerStaged d wid r) }) }
    else w
  if hitAcc.isEmpty && hitBeat.isEmpty && hitPath.isEmpty then w
  else
    let local1 := decide (d = dieOf c) && ((hitAcc.any fun a => decide (a.space ≠ .fab)) || !hitPath.isEmpty ||
      hitBeat.any fun x => match k.cmds.find? fun y => decide (y.id = x.cmd) with
        | some y => !y.op.fabric
        | none => false)
    let due := w.later 0
    let victim := Config.tlbVictim (w.free + 1)
    let w := w.step.step
    let host := fun (y : Nat × Nat × Xlate) => match answer d wid r y.2.2 with
      | .ok l => (y.1, y.2.1, if l.host && waits y.2.2 then Xlate.hostWait l due else .ok l)
      | v => (y.1, y.2.1, v)
    let w := w.modCore c fun k => { k with
      accs := k.accs.map fun (a : Access) => if waits a.xl then { a with xl := hostPage a due r } else a
      beats := k.beats.map fun (x : Beat) => { x with xr := x.xr.map host, xw := x.xw.map host }
      tlb := match r with
        | .ok l => if local1 then tlbPut k.tlb Config.l1Tlb victim l else k.tlb
        | _ => k.tlb }
    let w := hitPath.foldl (fun w p =>
      match w.block? c p.1, w.course? c p.1 p.2.1 with
      | some b, some x =>
        match x.path? p.2.2 with
        | none => w
        | some q =>
          let w := match r with
            | .ok l =>
              if !l.covers (q.pc / 3 * 16) then setFetch w c p.1 p.2.1 p.2.2 .idle
              else if l.refuses .fetch b.bind.priv false then setFetch w c p.1 p.2.1 p.2.2 (.bad 0x03)
              else setFetch w c p.1 p.2.1 p.2.2 (.coming l w.mach.clock)
            | .bad code => setFetch w c p.1 p.2.1 p.2.2 (.bad code)
            | _ => w
          clearCause w c (.fetch c p.1 p.2.1 q.id)
      | _, _ => w) w
    let w := hitBeat.foldl (fun w x => match (w.core c).beats.find? fun y => decide (y.id = x.id) with
      | some y => if y.unsure w c then w else clearCause w c (.beat c x.id)
      | none => w) w
    hitAcc.foldl (fun w a => match (w.core c).accs.find? fun y => decide (y.id = a.id) with
      | some y => if y.unsure w c then w else clearCause w c (.access c a.id)
      | none => w) w

/-- A walk answers the hardware's own accesses to context areas (R313, R317): each takes place, or raises its fault; a block
whose save fails stays. -/
def answerCtx (d wid : Nat) (r : Xlate) (c : Nat) (w : World) : World :=
  let hit := (w.core c).ctxs.filter fun a => decide (a.page = .wait d wid)
  if hit.isEmpty then w
  else
    let w := w.modCore c fun k => { k with ctxs := k.ctxs.filter fun (a : CtxAcc) => decide (a.page ≠ .wait d wid) }
    hit.foldl (fun w a =>
      let w := clearCause w c (.ctx c a.id)
      match w.block? c a.owner with
      | none => w
      | some b =>
        let w := match a.at_, r with
          | none, .bad _ => w.setBlock c a.owner { b with preempt := .none }
          | _, _ => w
        match r with
        | .ok l => if l.refuses (if a.write then .write else .read) true true then ctxFault w c b a.off
            else if a.write then let p := l.place d a.off; outsideWrite w p.1 p.2 a.bytes
            else w
        | .bad code => ctxFault w c b a.off code
        | _ => w) w

/-- TRANSLATION_COMPLETE: everything that waits on a walk has its translation, or its fault code (R316). -/
def translationComplete (d wid : Nat) (w : World) : World :=
  match (w.die d).walks.find? fun k => decide (k.wid = wid) with
  | none => w
  | some k =>
    let r : Option Xlate := match k.found with
      | some l => some (.ok l)
      | none => if k.code ≠ 0 then some (.bad k.code) else none
    match r with
    | none => w
    | some r =>
      let w := w.modDie d fun x => { x with
        walks := x.walks.filter fun (y : Walk) => decide (y.wid ≠ wid)
        heldW := x.heldW.map fun (h : HeldWrite) => { h with pages := answerPages d wid r h.pages } }
      let saved := fun (v : Saved) => if v.pages.isEmpty then v else { v with pages := answerPages d wid r v.pages }
      let w := { w with mach := { w.mach with mods := w.mach.mods.map fun (x : Nat × Module) => (x.1, { x.2 with saved := x.2.saved.map saved }) } }
      w.mach.cores.foldl (fun w x => answerCore d wid r x.1 (answerCtx d wid r x.1 w)) w

/-! ## Verdicts (R317, R361) -/

/-- A verdict on a request slot, for every walk that joined the request; one on a slot that holds no request is ignored. -/
def verdict (fail : Bool) (d slot : Nat) (w : World) : World :=
  match (w.die d).reqs.find slot with
  | none => w
  | some _ =>
    let w := w.modDie d fun x => { x with reqs := x.reqs.erase slot }
    let joined := fun (w : World) (f : Walk → Walk) =>
      w.modDie d fun x => { x with walks := x.walks.map fun (k : Walk) => if k.slot = some slot then f k else k }
    if fail then joined w fun k => { k with slot := none, code := 0x03, due := w.mach.clock }
    else
      let due := w.later 0
      joined w.step fun k => { k with slot := none, due := due }

/-! ## Shoot-down (R308, R321) -/

/-- The SDCMD word of a shoot-down. -/
def sdWord (size : Nat) (page : BitVec 32) : W64 := BitVec.ofNat 64 (2 ^ 63 + size * 2 ^ 61 + page.toNat * 2 ^ 14)

/-- A write of SDCMD: with GO it starts a shoot-down, which completes within 512 cycles; while BUSY it is ignored. -/
def sdWrite (d : Nat) (v : W64) (w : World) : World :=
  let x := w.die d
  if x.busy.isSome then w
  else if bit64 v 63 then
    w.step.setDie d { x with sdcmd := v, busy := some (v, w.mach.clock + Config.realDelay w.free % 513) }
  else w.setDie d { x with sdcmd := v }

/-- The entries that a command drops. -/
def sdDrops (v : W64) (l : Leaf) : Bool :=
  let size := v.toNat / 2 ^ 61 % 4
  let off := v.toNat / 2 ^ 14 % 2 ^ 32 * 2 ^ 14
  let small := !l.large && decide (l.base / 2 ^ 14 = off / 2 ^ 14)
  let large := l.large && decide (l.base / 2 ^ 20 = off / 2 ^ 20)
  match size with
  | 0 => small
  | 1 => large
  | 2 => small || large
  | _ => true

/-- A translation of a die that a command drops. -/
def Xlate.dropped (d : Nat) (v : W64) (home : Nat) : Xlate → Bool
  | .ok l => decide (home = d) && sdDrops v l
  | .hostWait l _ => decide (home = d) && sdDrops v l
  | .hostOk l => decide (home = d) && sdDrops v l
  | _ => false

/-- Translate the pages of a list again whose translations are gone, as `p` says of a home and what stands there (R321). -/
def redoPages (p : Nat → Xlate → Bool) (c : Nat) (u : AccessUse) (xs : List (Nat × Nat × Xlate)) (w : World) : World × List (Nat × Nat × Xlate) :=
  xs.foldl (fun r y =>
    if p y.1 y.2.2 then
      let z := startXlate r.1 c y.1 y.2.1 u false
      (z.1, r.2 ++ [(y.1, y.2.1, z.2)])
    else (r.1, r.2 ++ [y])) (w, [])

/-- Staged writes of a block, translated again (R321). -/
def redoStaged (p : Nat → Xlate → Bool) (c o : Nat) (w : World) : World :=
  match w.block? c o with
  | none => w
  | some b =>
    let r := b.staged.foldl (fun (r : World × List Staged) s =>
      let z := redoPages p c (if s.str = 8 then .engineWrite else if s.atom.isSome then .atomic else .write) s.pages r.1
      (z.1, r.2 ++ [{ s with pages := z.2 }])) (w, [])
    r.1.modBlock c o fun b => { b with staged := r.2 }

/-- Accesses, beats, staged writes and fetches of a core that a dropped entry translated, and that are not applied, are
translated again by the memory-side TLB (R321). -/
def sdRetry (d : Nat) (v : W64) (c : Nat) (w : World) : World :=
  let k := w.core c
  let gone := fun (home : Nat) (x : Xlate) => x.dropped d v home
  let w := k.accs.foldl (fun w a =>
    if a.done.isNone && !a.logged && !(a.sent && decide (a.kind = .store)) && a.xl.dropped d v a.home then
      match w.block? c a.owner with
      | none => w
      | some b =>
        let x := startXlate w c d (a.off b) a.kind.use false
        setAcc x.1 c { a with xl := x.2 }
    else w) w
  let w := k.beats.foldl (fun w x =>
    let a := if x.data.isNone then redoPages gone c .engineRead x.xr w else (w, x.xr)
    let b := if x.sent || x.fin.isSome then (a.1, x.xw) else redoPages gone c .engineWrite x.xw a.1
    if a.2 = x.xr ∧ b.2 = x.xw then w else setBeat b.1 c { x with xr := a.2, xw := b.2 }) w
  let w := k.blocks.foldl (fun w b => if b.2.staged.isEmpty then w else redoStaged gone c b.1 w) w
  if d = dieOf c then
    w.modCore c fun k => { k with
      tlb := k.tlb.filter fun (l : Leaf) => !sdDrops v l
      courses := k.courses.map fun (x : Nat × Course) => (x.1, x.2.mapPaths fun (p : Path) =>
        let p := match p.fetch with
          | .coming l _ => if sdDrops v l then { p with fetch := .idle } else p
          | _ => p
        match p.coming with
          | some (_, l, _) => if sdDrops v l then { p with coming := none } else p
          | none => p) }
  else w

/-- Writes that a core of the die buffers in a chunk go to their homes before a shoot-down completes, by the mapping under which
they were made (R321, R387): the chunk is committed, and in a replay its writes are applied. -/
def sdChunk (d c : Nat) (w : World) : World :=
  match (w.core c).chunk with
  | none => w
  | some ch =>
    if dieOf c ≠ d || ch.writes.isEmpty then w
    else if (w.die d).recMode = 1 then flushChunk w c
    else (ch.writes.foldl (fun w y => homeWrite w c 0 .dram y.1 [y.2]) w).modCore c fun k => { k with chunk := some { ch with writes := [] } }

/-- SHOOTDOWN_COMPLETE: every port and the memory-side TLB have acknowledged (R321, R322). Crossing writes on their way, and the
accesses and staged writes of saved blocks, are translated again too. -/
def sdComplete (d : Nat) (w : World) : World :=
  match (w.die d).busy with
  | none => w
  | some b =>
    let w := w.mach.cores.foldl (fun w x => sdChunk d x.1 w) w
    let w := w.modDie d fun x => { x with
      busy := none
      doneN := (x.doneN + 1) % 2 ^ 31
      epoch := x.epoch + 1
      dirs := []
      tlb := x.tlb.filter fun (l : Leaf) => !sdDrops b.1 l
      walks := x.walks.map fun (k : Walk) => match k.found with
        | some l => if sdDrops b.1 l then { k with found := none } else k
        | none => k }
    let w := w.mach.cores.foldl (fun w x => sdRetry d b.1 x.1 w) w
    let w := (w.die d).heldW.foldl (fun w h =>
      let r := redoPages (fun home x => x.dropped d b.1 home) h.core h.use h.pages w
      r.1.modDie d fun x => { x with heldW := x.heldW.map fun (y : HeldWrite) => if y.id = h.id then { y with pages := r.2 } else y }) w
    let staged := fun (s : Staged) => ({ s with pages := s.pages.map fun y => if y.2.2.dropped d b.1 y.1 then (y.1, y.2.1, .need) else y } : Staged)
    let again := fun (v : Saved) => ({ v with
      accs := v.accs.map fun (a : Access) => if a.xl.dropped d b.1 a.home then { a with xl := .need } else a
      block := { v.block with staged := v.block.staged.map staged } } : Saved)
    { w with mach := { w.mach with mods := w.mach.mods.map fun x => (x.1, { x.2 with saved := x.2.saved.map again }) } }

/-! ## The steps -/

/-- PAGE_WALK (R312). -/
def execPageWalk (die wid : Nat) (s : State) : Host.Outcome State Fault Refusal := runEvent (pageWalk die wid) s
/-- TRANSLATION_COMPLETE (R316). -/
def execTranslationComplete (die wid : Nat) (s : State) : Host.Outcome State Fault Refusal := runEvent (translationComplete die wid) s
/-- PAGE_VERDICT_RETRY (R317). -/
def execPageVerdictRetry (die slot : Nat) (s : State) : Host.Outcome State Fault Refusal := runEvent (verdict false die slot) s
/-- PAGE_VERDICT_FAIL (R317). -/
def execPageVerdictFail (die slot : Nat) (s : State) : Host.Outcome State Fault Refusal := runEvent (verdict true die slot) s
/-- SHOOTDOWN_SMALL (R321). -/
def execShootdownSmall (die : Nat) (page : BitVec 32) (s : State) : Host.Outcome State Fault Refusal := runEvent (sdWrite die (sdWord 0 page)) s
/-- SHOOTDOWN_LARGE (R321). -/
def execShootdownLarge (die : Nat) (page : BitVec 32) (s : State) : Host.Outcome State Fault Refusal := runEvent (sdWrite die (sdWord 1 page)) s
/-- SHOOTDOWN_BOTH (R321). -/
def execShootdownBoth (die : Nat) (page : BitVec 32) (s : State) : Host.Outcome State Fault Refusal := runEvent (sdWrite die (sdWord 2 page)) s
/-- SHOOTDOWN_ALL (R321). -/
def execShootdownAll (die : Nat) (s : State) : Host.Outcome State Fault Refusal := runEvent (sdWrite die (sdWord 3 0)) s
/-- SHOOTDOWN_COMPLETE (R321). -/
def execShootdownComplete (die : Nat) (s : State) : Host.Outcome State Fault Refusal := runEvent (sdComplete die) s

end Sys2Proof.Machine
end

