-- ==== Sys2Proof/Machine/Power.lean ====
section
/-! DEFINITION. The drift unit and the ports (R342 to R347), the `drift` instructions (R346), byte budgets and
throttling (R354 to R358), rails (R91, R351), soft errors (R332). -/

namespace Sys2Proof.Machine

/-! ## Periodic events -/

/-- A periodic event of a module has not yet taken place at this GCC. -/
def periodDue (m : Module) (key period : Nat) : Bool :=
  m.formed && decide (0 < m.gcc) && decide (m.gcc % period = 0) && decide ((m.seen.find key).getD 0 ≠ m.gcc)
/-- Note that a periodic event took place. -/
def markSeen (w : World) (m key : Nat) : World := w.modModule m fun x => { x with seen := x.seen.put key x.gcc }

/-! ## Drift (R343, R346, R347) -/

/-- A `drift` instruction sends a command to the target's drift unit; a target outside the group raises XLATE. -/
def issueDrift (set : Bool) (a b : Reg) (s : State) : Host.Outcome State Fault Refusal :=
  issue true 0 (fun _ => none) (fun t w =>
    let num := (t.k.uni a.toNat).toNat % 2 ^ 9
    let v := (t.k.uni b.toNat).toNat
    if !t.once then w
    else match moduleByNum w.mach num with
      | none => siteFault t 0x03 0 1 (BitVec.ofNat 64 num) 0 [] w
      | some m =>
        let c : DriftCmd := { set := set, value := if set then v else v % 2 ^ 8, src := modOf t.i.core, due := w.later 0 }
        w.step.modModule m fun x => { x with drifts := x.drifts ++ [c] }) s

/-- `drift.set` (R346). -/
def execDriftSet (a b : Reg) (s : State) : Host.Outcome State Fault Refusal := issueDrift true a b s
/-- `drift.step` (R346). -/
def execDriftStep (a b : Reg) (s : State) : Host.Outcome State Fault Refusal := issueDrift false a b s

/-- A RATE above the largest is held as the largest (R343). -/
def heldRate (v : Nat) : W32 := BitVec.ofNat 32 (min v Config.maxRate.toNat)

/-- The first drift command that has arrived: commands take effect in order of arrival (R346); one that comes over a lost
port waits (R342). -/
def arrivedDrift (w : World) (m : Nat) : Option DriftCmd :=
  (sortBy (fun (a b : DriftCmd) => decide (a.due ≤ b.due))
    ((w.module m).drifts.filter fun c => decide (c.due < w.mach.clock) && (c.came || routeUp w c.src m))).head?

/-- Drift commands that have arrived stay so, whatever the ports lose from now on (R342, R346). -/
def noteDrifts (w : World) : World :=
  let note := fun (m : Nat) (c : DriftCmd) => { c with came := c.came || (decide (c.due ≤ w.mach.clock) && routeUp w c.src m) }
  { w with mach := { w.mach with mods := w.mach.mods.map fun x => (x.1, { x.2 with drifts := x.2.drifts.map (note x.1) }) } }

/-- A drift command takes effect (R346). -/
def driftApply (set : Bool) (m : Nat) (w : World) : World :=
  let x := w.module m
  match arrivedDrift w m with
  | none => w
  | some c =>
    if c.set ≠ set then w
    else
      let x := { x with drifts := x.drifts.erase c }
      w.setModule m (if set then { x with rate := heldRate c.value } else { x with step := min 255 (x.step + c.value) })

/-- DRIFT_HOLD_CYCLE: no counter and no core of the module advances in this cycle (R35, R347). -/
def driftHold (m : Nat) (w : World) : World :=
  w.modModule m fun x => if x.hold then { x with hold := false, frozen := true } else x

/-! ## Ports (R342, R344) -/

/-- Change a port of a module. -/
def modPort (w : World) (m p : Nat) (f : Port → Port) : World :=
  w.modModule m fun x => match x.ports.find p with
    | some y => { x with ports := x.ports.put p (f y) }
    | none => x

/-- Half the difference of two pairs that the ends of a cable have measured: positive when the local GCC is ahead (R344). -/
def phase (own theirs : Int) : Int := (own - theirs) / 2

/-- A port and its neighbour are trained (R342). -/
def linkUp (w : World) (y : Port) : Bool :=
  y.trained && !y.lost && !(((w.module y.peer).ports.find y.peerPort).map Port.lost).getD true

/-- A timing flit that has come to a port of a module. -/
def flitDue (w : World) (y : Port) : Option (Nat × Nat) := if linkUp w y then y.flits.find? fun f => decide (f.1 ≤ w.mach.clock) else none

/-- A timing flit has come: the port takes its arrival GCC less the stamp, measured with a free part below one cycle, and PHERR from
its own pair and the neighbour's (R344). -/
def flitComes (m port : Nat) (y : Port) (f : Nat × Nat) (w : World) : World :=
  let own : Int := 256 * (((w.module m).gcc : Int) - f.2) + y.lat % 256 + Config.phaseError w.free % 256
  let w := modPort w.step m port fun z => { z with pair := some own, flits := z.flits.erase f }
  match ((w.module y.peer).ports.find y.peerPort).bind Port.pair with
  | none => w
  | some theirs =>
    let e := phase own theirs
    (modPort w m port fun z => { z with pherr := e }).modModule m fun x => { x with
      maxabs := max x.maxabs e.natAbs
      alarm := x.alarm || decide (1024 < e.natAbs)
      mean := if y.peer = x.parent && decide ((groupMaster w.mach).map Prod.fst ≠ some m) then e else x.mean }

/-- TIMING_FLIT: a flit comes to a port; or the port sends one with its GCC at the departure, which takes the cable's latency (R344). -/
def timingFlit (m port : Nat) (w : World) : World :=
  match (w.module m).ports.find port with
  | none => markSeen w m (100 + port)
  | some y =>
    match flitDue w y with
    | some f => flitComes m port y f w
    | none =>
      let w := markSeen w m (100 + port)
      if linkUp w y then
        modPort w y.peer y.peerPort fun z => { z with flits := z.flits ++ [(w.mach.clock + y.lat / 256, (w.module m).gcc)] }
      else w

/-- The 32 bytes of a drift report (R344). -/
def driftBytes (x : Module) : List Byte :=
  leBytes 32 ((if x.alarm then 2 ^ 32 else 0) + (x.repSeq.toNat + 1) % 2 ^ 32
    + (BitVec.ofInt 32 x.mean).toNat * 2 ^ 64 + x.maxabs % 2 ^ 32 * 2 ^ 96 + x.step % 2 ^ 8 * 2 ^ 128
    + x.rate.toNat * 2 ^ 160 + x.gcc % 2 ^ 64 * 2 ^ 192)

/-- Drift reports of a module that a lost port held go on when their route is up (R342). -/
def sendReports (m : Nat) (w : World) : World :=
  let x := w.module m
  let go := fun (r : Nat × Nat × List Byte) => routeUp w m r.1
  let w := w.modModule m fun x => { x with reports := x.reports.filter fun r => !go r }
  (x.reports.filter go).foldl (fun w r => dieWrite w (4 * r.1) r.2.1 r.2.2) w

/-- DRIFT_REPORT: a module writes its report to the master's die 0 by fabric store (R344), which waits for a lost port
(R342). -/
def driftReport (m : Nat) (w : World) : World :=
  let x := w.module m
  let w := markSeen w m 0
  let w := match groupMaster w.mach with
    | some y => sendReports m (w.modModule m fun z => { z with reports := z.reports ++ [(y.1, x.report + 32 * x.num, driftBytes x)] })
    | none => w
  w.modModule m fun x => { x with maxabs := 0, alarm := false, repSeq := x.repSeq + 1 }

/-- Accesses and beats of a core that are assured now stand its sash no longer (R42). -/
def clearAssured (c : Nat) (w : World) : World :=
  let k := w.core c
  let w := k.accs.foldl (fun w a => if a.caused && !a.unsure w c then clearCause w c (.access c a.id) else w) w
  k.beats.foldl (fun w x => if x.caused && !x.unsure w c then clearCause w c (.beat c x.id) else w) w

/-- PORT_LINK_LOSS: a port loses training, and its flits wait (R342). -/
def portLoss (m port : Nat) (w : World) : World := modPort (noteDrifts w) m port fun y => { y with lost := true }

/-- PORT_RETRAINED: the flits that waited for a port go on (R342): drift commands and reports arrive now, and what waited for
nothing else is assured. -/
def portRetrained (m port : Nat) (w : World) : World :=
  let before := w
  let w := modPort w m port fun y => { y with lost := false }
  let now := fun (d : Nat) (c : DriftCmd) => if c.came || routeUp before c.src d || !routeUp w c.src d then c else { c with due := max c.due w.mach.clock }
  let after := w.mach.mods.map fun x => (x.1, { x.2 with drifts := x.2.drifts.map (now x.1) })
  let w := { w with mach := { w.mach with mods := after } }
  let w := w.mach.mods.foldl (fun w x => sendReports x.1 w) w
  w.mach.cores.foldl (fun w x => clearAssured x.1 w) w

/-! ## Byte budgets (R355) -/

/-- Core keys of a quadrant. -/
def quadCores (d q : Nat) : List Nat :=
  (List.range Config.coresPerQuad).map fun i => d * Config.coresPerDie + q * Config.coresPerQuad + i

/-- The late accesses and beats of a core. -/
def lateUses (w : World) (c : Nat) : List Charge :=
  let k := w.core c
  (k.accs.filter Access.late).map (fun a => { cyc := a.cyc, agent := agentNo w c a.str a.lane, bytes := a.size, core := c, beat := false, id := a.id }) ++
  (k.beats.filter Beat.late).map fun x =>
    let n := match cmdAt w c x.cmd with
      | some y => ((w.block? c y.owner).map fun b => (legOf k b y x.no).n).getD 0
      | none => 0
    { cyc := x.point, agent := agentNo w c 8 0, bytes := n, core := c, beat := true, id := x.id }

/-- What was late is charged first in the new interval, whatever it comes to, and is late no more: the lateness of its sash passes
now (R355, R358). -/
def clearLate (u : Charge) (w : World) : World :=
  let w := modQuad w (dieOf u.core) (quadOf u.core) fun x => { x with used := min (x.used + u.units) (2 ^ 24 - 1) }
  let w := modSashOf w u.core fun s => { s with throttled := some (sashGcc w s) }
  let k := w.core u.core
  if u.beat then
    match k.beats.find? fun x => decide (x.id = u.id) with
    | none => w
    | some x =>
      let x := { x with late := false }
      let w := setBeat w u.core x
      if x.unsure w u.core then w else clearCause w u.core (.beat u.core x.id)
  else
    match k.accs.find? fun a => decide (a.id = u.id) with
    | none => w
    | some a =>
      let a := { a with late := false }
      let w := setAcc w u.core a
      if a.unsure w u.core then w else clearCause w u.core (.access u.core a.id)

/-- BYTE_BUDGET_INTERVAL: a quadrant's USED is cleared, and late accesses are charged first, in the order of their memory
cycles over the quadrant, with ties in agent order (R355). -/
def budgetInterval (d q : Nat) (w : World) : World :=
  let w := markSeen w (d / 4) (16 + 4 * (d % 4) + q)
  let w := modQuad w d q fun x => { x with used := 0 }
  let us := (quadCores d q).flatMap fun c => if (w.mach.cores.find c).isSome then lateUses w c else []
  (sortBy Charge.le us).foldl (fun w u => clearLate u w) w

/-! ## The cap and throttling (R356, R357) -/

/-- PCAP: 3,000 W, or lower as the host sets it or the cold plate requires (R356). -/
def Module.limit (x : Module) : Nat := min x.cap x.pcap

/-- Energy in microjoules that a 1 ms window may hold: the limit less what the last window took too much, and the window's
ballast energy up to 60 mJ (R356, R357). -/
def Module.allowed (x : Module) : Nat := 1000 * x.limit - x.excess + min x.ballast 60000

/-- POWER_WINDOW: a 1 ms window ends. What it used above the limit is taken from the next one's allowance, and the power
controller chooses BUD and HOLD (free values), and the cold plate's limit (R356, R357). -/
def powerWindow (m : Nat) (w : World) : World :=
  let w := markSeen w m 2
  let w := (List.range 16).foldl (fun w i =>
    let h := Config.powerChoice w.free
    let b := Config.powerChoice (w.free + 1)
    modQuad w.step.step (4 * m + i / 4) (i % 4) fun x => { x with hold := h % 2 ^ 8, bud := b % 2 ^ 24 }) w
  let cap := Config.plateLimit w.free
  w.step.modModule m fun x => { x with excess := x.spent - 1000 * x.limit, spent := 0, ballast := 0, cap := min cap 3000 }

/-- HOLD of a sash: the largest among its quadrants (R356). -/
def sashHold (w : World) (s : Sash) : Nat :=
  s.cores.foldl (fun n c => max n ((w.die (dieOf c)).quad (quadOf c)).hold) 0

/-- The GCC at which the next of the HOLD runs of 16,384 GCC cycles is announced. -/
def nextRunAt (g h : Nat) : Nat :=
  let start := g / 16384 * 16384
  let n := (g - start) * h / 16384 + 1
  if h ≤ n then start + 16384 else start + (n * 16384 + h - 1) / h

/-- THROTTLE_HOLD: a run of 64 cycles is announced 32 cycles ahead (R356). The sash stands until 24 cycles after the cause
has cleared, so the cause lasts 40. While the sash stands for an earlier run, the new one follows it, at the same cycle or
as many cycles on as lie between their ends. -/
def throttleHold (i : Nat) (w : World) : World :=
  match w.sash? i with
  | none => w
  | some s =>
    let h := sashHold w s
    if h = 0 then w
    else
      let g := sashGcc w s
      let next := nextRunAt g h
      let run := (s.causes.filterMap fun x => match x.src with
        | .throttle n => if s.paused && decide (x.p ≤ s.vcc) then some n else none
        | _ => none).foldl max 0
      let over_ := s.stopGcc + run + Config.resumeCycles
      if run = 0 then w.setSash i { s.cause (s.vcc + Config.horizon) (.throttle 40) with nextHold := next }
      else if g + Config.horizon ≤ over_ then w.setSash i { s.cause s.vcc (.throttle (run + 64)) with nextHold := next, throttled := some g }
      else w.setSash i { s.cause (s.vcc + (g + Config.horizon - over_)) (.throttle 40) with nextHold := next }

/-! ## Rails (R91, R351) -/

/-- Commands of a quadrant whose rails are ready stand for them no longer (R91). -/
def clearRails (w : World) (d q : Nat) : World :=
  (quadCores d q).foldl (fun w c =>
    if (w.mach.cores.find c).isNone then w
    else (w.core c).cmds.foldl (fun w y =>
      match w.block? c y.owner with
      | some b => if b.hdr.timed && railsReady w c b y then clearCause w c (.rail c y.id) else w
      | none => w) w) w

/-- RAIL_LEVEL_REACHED: a raise of a quadrant's rails completes; commands that stand for it go on. -/
def railReached (d q : Nat) (w : World) : World :=
  match ((w.die d).quad q).raise with
  | none => w
  | some r => clearRails (noteLevel (modQuad w d q fun x => { x with rail := r.1, raise := none }) d q r.1 true) d q

/-! ## The shutter (R358) -/

/-- A sash is shuttered until 1 ms of GCC has passed without a throttle hold or byte-budget lateness. -/
def shuttered (w : World) (s : Sash) : Bool :=
  match s.throttled with
  | some g => decide (sashGcc w s < g + 940000)
  | none => false

/-- The lowest-numbered course of a block that has not exited. -/
def firstCourse (w : World) (c o : Nat) : Option Course :=
  (List.range 32).findSome? fun r => (w.course? c o r).bind fun k => if k.gone then none else some k

/-- SHUTTER_CHANGE: the shutter of a free block changes: a pending trap where it is armed, a trap record where the
kernel has a handler but is not armed (R176, R358). -/
def shutterChange (c o : Nat) (w : World) : World :=
  match w.block? c o, sashOf w c with
  | some b, some s =>
    let v := shuttered w s
    let w := w.setBlock c o { b with shutter := v }
    match firstCourse w c o with
    | none => w
    | some k =>
      if b.hdr.timed || !b.hdr.traph then w
      else if bit64 (BitVec.ofNat 64 b.hdr.feat) 7 then w.setCourse c o k.cr { k with shutter := some v }
      else
        match k.trapSlot.bind fun n => (k.path? n).map fun p => (n, p) with
        | some x => w.modCore c fun y => y.recordTrap 3 (if v then 1 else 0) x.1 (pcWord x.2.pc)
        | none => w.modCore c fun y => y.recordTrap 3 (if v then 1 else 0) 0 ((k.paths.head?.map fun x => pcWord x.2.pc).getD 0)
  | _, _ => w

/-! ## Soft errors (R332, R349) -/

/-- Saturating 32-bit counter. -/
def satInc (n : Nat) : Nat := min (n + 1) (2 ^ 32 - 1)

/-- UNCORRECTABLE_ERROR: a granule is poisoned and counted. Stores 0 to 4 are those of `storeNo`; store 5 is a
register file, granule ((core * 2048 + 32 * owner + cr) * 256 + word / 2) * 32 + lane; store 6 is a partial sum of
a running matrix command (R87), granule (core * 2^40 + place) * 2^40 + value; an error in any other structure is
only counted. -/
def uncorrectable (store g : Nat) (w : World) : World :=
  let count := fun (d : Nat) (w : World) => w.modDie d fun (x : Die) => { x with uncorr := satInc x.uncorr }
  let coreStore := fun (span : Nat) => 8 * g / span
  match store with
  | 0 => count (8 * g / Config.dramSpan) (w.poison .dram g)
  | 2 => count (dieOf (coreStore Config.tsSpan)) (w.poison .ts g)
  | 3 => count (dieOf (coreStore Config.accSpan)) (w.poison .acc g)
  | 4 => count (dieOf (coreStore Config.trnSpan)) (w.poison .trn g)
  | 5 =>
    let c := g / 32 / 256 / 2048
    let k := g / 32 / 256 % 2048
    count (dieOf c) (w.modCourse c (k / 32) (k % 32) fun (x : Course) => { x with poison := Tab.set false x.poison (g / 32 % 256 * 32 + g % 32) true })
  | 6 =>
    let c := g / 2 ^ 80
    w.modCore c fun (k : Core) => { k with arr := { k.arr with runs := k.arr.runs.map fun (r : MxRun) =>
      if r.s'.isSome then { r with soft := r.soft ++ [(g / 2 ^ 40 % 2 ^ 40, g % 2 ^ 40)] } else r } }
  | _ => count (g % 2048) w

/-- SCRUB: the memory controllers meet a correctable error, correct it and count it. -/
def scrub (d : Nat) (w : World) : World := w.modDie d fun x => { x with corr := satInc x.corr }

/-! ## The steps -/

/-- DRIFT_HOLD_CYCLE (R343, R347). -/
def execDriftHoldCycle (m : Nat) (s : State) : Host.Outcome State Fault Refusal := runEvent (driftHold m) s
/-- DRIFT_SET_APPLY (R346). -/
def execDriftSetApply (m : Nat) (s : State) : Host.Outcome State Fault Refusal := runEvent (driftApply true m) s
/-- DRIFT_STEP_APPLY (R346). -/
def execDriftStepApply (m : Nat) (s : State) : Host.Outcome State Fault Refusal := runEvent (driftApply false m) s
/-- TIMING_FLIT (R344). -/
def execTimingFlit (m port : Nat) (s : State) : Host.Outcome State Fault Refusal := runEvent (timingFlit m port) s
/-- DRIFT_REPORT (R344). -/
def execDriftReport (m : Nat) (s : State) : Host.Outcome State Fault Refusal := runEvent (driftReport m) s
/-- PORT_LINK_LOSS (R342): the port's flits wait. -/
def execPortLinkLoss (m port : Nat) (s : State) : Host.Outcome State Fault Refusal := runEvent (portLoss m port) s
/-- PORT_RETRAINED (R342): the port's flits go on. -/
def execPortRetrained (m port : Nat) (s : State) : Host.Outcome State Fault Refusal := runEvent (portRetrained m port) s
/-- BYTE_BUDGET_INTERVAL (R355). -/
def execByteBudgetInterval (die quad : Nat) (s : State) : Host.Outcome State Fault Refusal := runEvent (budgetInterval die quad) s
/-- POWER_WINDOW (R356). -/
def execPowerWindow (m : Nat) (s : State) : Host.Outcome State Fault Refusal := runEvent (powerWindow m) s
/-- THROTTLE_HOLD (R356). -/
def execThrottleHold (sash : Nat) (s : State) : Host.Outcome State Fault Refusal := runEvent (throttleHold sash) s
/-- RAIL_LEVEL_REACHED (R351). -/
def execRailLevelReached (die quad : Nat) (s : State) : Host.Outcome State Fault Refusal := runEvent (railReached die quad) s
/-- SHUTTER_CHANGE (R358). -/
def execShutterChange (c owner : Nat) (s : State) : Host.Outcome State Fault Refusal := runEvent (shutterChange c owner) s
/-- UNCORRECTABLE_ERROR (R332). -/
def execUncorrectableError (store granule : Nat) (s : State) : Host.Outcome State Fault Refusal := runEvent (uncorrectable store granule) s
/-- SCRUB (R332). -/
def execScrub (die : Nat) (s : State) : Host.Outcome State Fault Refusal := runEvent (scrub die) s

end Sys2Proof.Machine
end

