-- ==== Sys2Proof/Machine/Sched.lean ====
section
/-! DEFINITION. The management cores (R291 to R306, R352, R353): the region tree and its pools, the taking of launch
records, placement and bind records, the start and the end of blocks, device launches and energy charges. -/

namespace Sys2Proof.Machine

/-! ## Region control blocks (R291, R292) -/

/-- Word `i` and the 64-bit field at words `i`, `i + 1` of a record in die space. -/
def recWord (w : World) (d at_ i : Nat) : Nat := dieWord w d (at_ + 4 * i)
def recPair (w : World) (d at_ i : Nat) : Nat := recWord w d at_ i + 2 ^ 32 * recWord w d at_ (i + 1)

/-- A region and its ancestors, from itself to the root. -/
def regionPath (w : World) (d : Nat) : Nat → Nat → List Nat
  | 0, _ => []
  | n + 1, rcb => rcb :: (if recPair w d rcb 0 = 0 then [] else regionPath w d n (recPair w d rcb 0))

/-- Region control blocks that a die has room for: no path and no tree is longer (R291). -/
def maxRegions : Nat := Config.dieDram / 128
/-- The path of a region. -/
def pathOf (w : World) (d rcb : Nat) : List Nat := regionPath w d maxRegions rcb

/-- Regions of a tree: a region, those below its CHILD, then those behind its SIBLING. DESIGN CHOICE: R293 and R297 give no
order in which one round takes the lists of several regions; the model takes them in this one (log entry 113). -/
def walkTree (w : World) (d : Nat) : Nat → List Nat → List Nat
  | 0, _ => []
  | _, [] => []
  | n + 1, r :: rest => r :: walkTree w d n (([recPair w d r 2, recPair w d r 4].filter fun x => decide (x ≠ 0)) ++ rest)

/-- OWN bit `k` of a region; a field of the root is its own. -/
def owns (w : World) (d k : Nat) (path : List Nat) : Bool :=
  match path with
  | [_] => true
  | r :: _ => flag (recWord w d r 9) k
  | [] => false

/-- Tails of a path: each region with its ancestors. -/
def tails {α : Type} : List α → List (List α)
  | [] => []
  | x :: r => (x :: r) :: tails r

/-- The region whose field `k` is effective. -/
def effOwner (w : World) (d k : Nat) (path : List Nat) : Nat :=
  ((tails path).findSome? fun t => if owns w d k t then t.head? else none).getD 0

/-- Effective priority, policy and retry count (R292, R327). -/
def effPrio (w : World) (d : Nat) (path : List Nat) : Nat := field (recWord w d (effOwner w d 0 path) 10) 31 28
def polOf (w : World) (d : Nat) (path : List Nat) : Nat := field (recWord w d (effOwner w d 1 path) 10) 27 26
def retryOf (w : World) (d : Nat) (path : List Nat) : Nat := field (recWord w d (effOwner w d 1 path) 10) 25 22

/-- Effective PRIV: its own and every ancestor's; the root's is set by the host (R292). -/
def effPriv (w : World) (d : Nat) (rootPriv : Bool) (path : List Nat) : Bool :=
  rootPriv && path.dropLast.all fun r => flag (recWord w d r 10) 21

/-- The budgets: courses, TSB, ACC, TRN, WALL, ENERGY, gather channels, by OWN bit (R291). -/
def limitOf (w : World) (d r k : Nat) : Option Nat :=
  let all := fun (bits v : Nat) => if v = 2 ^ bits - 1 then none else some v
  match k with
  | 7 => all 64 (recPair w d r 16)
  | 8 => all 5 (field (recWord w d r 10) 20 16)
  | k => all 32 (recWord w d r (9 + k))

/-- What a region has charged to a budget. -/
def Region.used (r : Region) : Nat → Nat
  | 2 => r.courses
  | 3 => r.tsb
  | 4 => r.acc
  | 5 => r.trn
  | 6 => r.wused
  | 7 => r.eused
  | _ => r.gch

/-- Charges of a region's subtree (R292, R353). -/
def subtree (w : World) (m d rcb : Nat) (f : Region → Nat) : Nat :=
  (w.module m).regions.foldl (fun n r => if decide (r.die = d) && (pathOf w d r.rcb).contains rcb then n + f r else n) 0

/-- Every pool on a path has room for a charge (R292). -/
def poolsRoom (w : World) (m d : Nat) (path : List Nat) (k need : Nat) : Bool :=
  (tails path).all fun t => match t.head? with
    | some r => !owns w d k t || (match limitOf w d r k with
        | some l => decide (subtree w m d r (fun x => x.used k) + need ≤ l)
        | none => true)
    | none => true

/-- Some WALL or ENERGY pool on a path is exhausted (R32, R353). -/
def exhausted (w : World) (m d : Nat) (path : List Nat) : Bool :=
  [6, 7].any fun k => (tails path).any fun t => match t.head? with
    | some r => owns w d k t && (match limitOf w d r k with
        | some l => decide (l * 1000 ≤ subtree w m d r (fun x => x.used k))
        | none => false)
    | none => false

/-- Change the record that a management core keeps of a region. -/
def modRegion (w : World) (m d rcb : Nat) (f : Region → Region) : World :=
  let is := fun (r : Region) => decide (r.die = d) && decide (r.rcb = rcb)
  w.modModule m fun x =>
    let l := if x.regions.any is then x.regions.map fun r => if is r then f r else r else x.regions ++ [f { die := d, rcb := rcb }]
    { x with regions := l }

/-- The lead die of a partition: its lowest (R368). -/
def leadDie (w : World) (m part : Nat) : Option Nat :=
  ((List.range 4).find? fun d => partOf w (4 * m + d) = some part).map (4 * m + ·)

/-! ## Launch records (R294 to R296) -/

/-- Read a kernel header (R108). -/
def readHdr (w : World) (d a : Nat) : Hdr :=
  let v := fun (i : Nat) => recWord w d a i
  { magic := field (v 0) 31 16, version := field (v 0) 15 12, fid := field (v 0) 5 4, traph := flag (v 0) 3, compat := flag (v 0) 2,
    determ := flag (v 0) 1, timed := flag (v 0) 0, allot := field (v 1) 8 4, rot := field (v 1) 1 0, courses := field (v 2) 21 16,
    part := field (v 2) 2 0, tsb := v 3, trn := field (v 4) 31 16, acc := field (v 4) 15 0, handles := field (v 5) 24 16,
    phasers := field (v 5) 12 8, tags := field (v 5) 6 0, hoff := field (v 6) 31 16, feat := field (v 6) 15 8, gch := flag (v 6) 0,
    entry := v 7 }

/-- D_rot of a header. -/
def Hdr.drot (h : Hdr) : Nat := 2 ^ h.rot

/-- The reason of R109 for which a header is rejected; 0 when there is none. -/
def hdrReason (h : Hdr) (accept : W32) : Nat :=
  if h.magic ≠ 0x464C ∨ h.version ≠ 1 then 0x01
  else if h.timed && h.determ then 0x02
  else if h.allot = 0 ∨ 16 < h.allot ∨ 512 < h.drot * 32 * h.allot then 0x03
  else if h.courses = 0 ∨ 32 < h.courses ∨ 8 * h.drot < h.courses then 0x04
  else if !h.compat ∧ (h.part < 1 ∨ 5 < h.part) then 0x05
  else if 524288 < h.tsb ∨ 4096 < h.trn ∨ 1024 < h.acc ∨ 256 < h.handles ∨ 16 < h.phasers ∨ 64 < h.tags then 0x06
  else if h.entry < 32 ∨ h.entry % 16 ≠ 0 then 0x07
  else if (BitVec.ofNat 32 h.feat) &&& ~~~accept ≠ 0 then 0x08
  else 0

/-- Quotient that leaves a resource of size 0 unlimited. -/
def perCore (total each : Nat) : Nat := if each = 0 then 64 else total / each

/-- Blocks of a kernel that one empty core holds. -/
def blocksPerCore (h : Hdr) : Nat :=
  let strs := if h.timed then 8 / max 1 ((h.courses + h.drot - 1) / h.drot) else 8 * h.drot / max 1 h.courses
  [64, strs, perCore 256 h.handles, perCore 64 h.tags, perCore 2048 ((h.tsb + 255) / 256), perCore 1024 h.acc,
    perCore 4096 h.trn, if h.gch then 16 else 64].foldl min 64

/-- What one block charges to a budget (R292). -/
def blockCharge (h : Hdr) (k : Nat) : Nat :=
  match k with
  | 2 => h.courses
  | 3 => (h.tsb + 1023) / 1024
  | 4 => h.acc
  | 5 => h.trn
  | 8 => if h.gch then 1 else 0
  | _ => 0

/-- The budgets that binding charges. -/
def bindBudgets : List Nat := [2, 3, 4, 5, 8]

/-- Core keys of a partition's dies. -/
def partCores (w : World) (m part : Nat) : List Nat :=
  (List.range 4).flatMap fun i =>
    if partOf w (4 * m + i) = some part then (List.range Config.coresPerDie).map fun c => (4 * m + i) * Config.coresPerDie + c else []

/-- The core that block `bk` of a launch must go to, where PLACE says (R294). -/
def placeCore (w : World) (l : Launch) (bk : Nat) : Option Nat := groupCore w.mach (recWord w l.die l.place bk)

/-- The core that the log of a die of the partition names next for a block of a free launch, in a replay (R388). -/
def loggedCore (w : World) (m : Nat) (l : Launch) (bk : Nat) : Option Nat :=
  if l.hdr.timed then none
  else (((List.range 4).map fun i => m * 4 + i).filter fun d => decide (partOf w d = some l.part)).findSome? fun d =>
    (placeNext w d l.lid (BitVec.ofNat 32 bk)).map fun e => e.2.1

/-- Cores that a launch may use for a block; a replay's log names it for a free one. DESIGN CHOICE: R294 does not say what a record with both PLACE and DV asks for;
PLACE, which names every block, wins (log entry 114). -/
def coresFor (w : World) (m : Nat) (l : Launch) (bk : Nat) : List Nat :=
  match loggedCore w m l bk with
  | some c => [c]
  | none =>
  if l.place ≠ 0 then (placeCore w l bk).toList
  else match l.dv with
    | some d => (List.range Config.coresPerDie).map fun c => d * Config.coresPerDie + c
    | none => partCores w m l.part

/-- No timed block of another launch stands on a core. -/
def coreOpen (w : World) (lid : W32) (c : Nat) : Bool :=
  (w.core c).blocks.all fun b => !b.2.hdr.timed || decide (b.2.bind.lid = lid)

/-- Some index below `n` has a property. -/
def anyBelow (f : Nat → Bool) : Nat → Bool
  | 0 => false
  | n + 1 => f n || anyBelow f n

/-- The blocks below an index fit the cores that PLACE names: so many on each core, and the die's 16 gather channels
(R294, R296). The table counts blocks by core, and by die from 2^32 on. -/
def placeFits (w : World) (l : Launch) (ok : Nat → Bool) : Nat → Tab Nat → Bool
  | 0, _ => true
  | n + 1, t =>
    match placeCore w l n with
    | none => placeFits w l ok n t
    | some c =>
      let onCore := (t.find c).getD 0
      let onDie := (t.find (2 ^ 32 + dieOf c)).getD 0
      if ok c && decide (onCore < blocksPerCore l.hdr) && (!l.hdr.gch || decide (onDie < 16)) then
        placeFits w l ok n ((t.put c (onCore + 1)).put (2 ^ 32 + dieOf c) (onDie + 1))
      else false

/-- Blocks of a kernel that a number of empty cores of one die hold. -/
def blocksPerDie (h : Hdr) (cores : Nat) : Nat := let n := cores * blocksPerCore h; if h.gch then min 16 n else n

/-- The whole grid of a timed launch has room on cores that `ok` admits. -/
def gridFits (w : World) (m : Nat) (l : Launch) (ok : Nat → Bool) : Bool :=
  if l.place ≠ 0 then placeFits w l ok l.grid []
  else
    let cs := (coresFor w m l 0).filter ok
    decide (l.grid ≤ (((cs.map dieOf).eraseDups).map fun d => blocksPerDie l.hdr (cs.filter fun c => decide (dieOf c = d)).length).foldl (· + ·) 0)

/-- The reason of R296 for which a record is rejected; 0 when it is accepted. DESIGN CHOICE: a GRID above 2^31, which R294
rules out and R296 does not list, is rejected with 0x0A; and 0x0F is judged by the cores that hold no timed block of another
launch at the taking, as R296 does not say how the cycle START is foreseen (log entry 114). -/
def takeReason (w : World) (m : Nat) (l : Launch) (npred : Nat) (regionEnded : Bool) : Nat :=
  let x := w.module m
  let path := pathOf w l.die l.rcb
  let h := hdrReason l.hdr x.faccept
  let live := x.launches.any fun y => decide (y.lid = l.lid) && decide (y.part = l.part)
  let known := fun (v : W32) => (x.launches.any fun y => decide (y.lid = v) && decide (y.part = l.part)) ||
    ((x.retired.filter fun y => decide (y.part = l.part)).take 4096).any fun y => decide (y.lid = v)
  let inPart := fun (d : Nat) => if d / 4 = m then decide (partOf w d = some l.part) else fabOpen w l.die d
  let placeBad := fun (_ : Unit) => (decide (l.place ≠ 0) && anyBelow (fun b => match placeCore w l b with
      | some c => !inPart (dieOf c)
      | none => true) l.grid) ||
    (match l.dv with | some d => !inPart d | none => false)
  let big := fun (n : Nat) => bindBudgets.any fun k => (tails path).any fun t => match t.head? with
    | some r => owns w l.die k t && (match limitOf w l.die r k with
        | some lim => decide (lim < n * blockCharge l.hdr k)
        | none => false)
    | none => false
  if h ≠ 0 then h
  else if l.hdr.gch && decide (field (recWord w l.die (effOwner w l.die 8 path) 10) 20 16 = 0) then 0x09
  else if l.grid = 0 ∨ 2 ^ 31 < l.grid ∨ 112 < l.nparam ∨ 16 < npred then 0x0A
  else if live then 0x0B
  else if (l.preds.any fun v => !known v) then 0x0C
  else if placeBad () then 0x0D
  else if (if l.hdr.timed then (big l.grid || !gridFits w m l (fun _ => true)) else (big 1 || decide (blocksPerCore l.hdr = 0))) then 0x0E
  else if l.hdr.timed && decide (l.start ≠ 0) && (decide (l.start % 8 ≠ 0) || decide (l.start < x.gcc + 65536) || !gridFits w m l (coreOpen w l.lid)) then 0x0F
  else if regionEnded then 0x13
  else 0

/-- A launch status word (R295). -/
def statusWord (state reason fault : Nat) : Nat := state * 2 ^ 28 + reason * 2 ^ 8 + fault

/-- Write the status word of a launch record. -/
def putStatus (w : World) (l : Launch) : World :=
  dieWrite w l.die (l.recAt + 64) (leBytes 4 (statusWord l.state (if l.state = 4 then l.reason else 0) (if l.state = 5 then l.fault else 0)))

/-- A launch joins the retired ones of its partition, of which 4,096 can be named (R296). -/
def addRetired (x : Retired) (l : List Retired) : List Retired :=
  x :: (l.filter fun y => decide (y.part = x.part)).take 4095 ++ l.filter fun y => decide (y.part ≠ x.part)

/-- A launch that is live no more: those that name it as a predecessor learn its state (R303). -/
def retire (w : World) (m : Nat) (l : Launch) : World :=
  let w := putStatus w l
  w.modModule m fun x => { x with
    launches := (x.launches.filter fun (y : Launch) => !(decide (y.lid = l.lid) && decide (y.part = l.part))).map fun (y : Launch) =>
      if y.part = l.part then { y with predSt := List.zipWith (fun v s => if v = l.lid && decide (s < 3) then l.state else s) y.preds y.predSt } else y
    retired := addRetired { part := l.part, lid := l.lid, state := l.state } x.retired }

/-- Replace a live launch. -/
def setLaunch (w : World) (m : Nat) (l : Launch) : World :=
  w.modModule m fun x => { x with launches := x.launches.map fun (y : Launch) => if y.lid = l.lid && y.part = l.part then l else y }

/-- A device launch whose record was taken learns its status (R306). -/
def tellDevice (w : World) (m d recAt status : Nat) : World :=
  let f := fun (y : DevLaunch) => if y.recAt = some (d, recAt) then { y with status := some (BitVec.ofNat 32 status) } else y
  w.modModule m fun x => { x with devs := x.devs.map f }

/-- Take one launch record (R293 to R296). -/
def takeRecord (w : World) (m part d rcb recAt : Nat) : World :=
  let x := w.module m
  let v := fun (i : Nat) => recWord w d recAt i
  let hdrAt := recPair w d recAt 0
  let npred := field (v 3) 23 16
  let root := ((x.roots.find part).map Root.priv).getD false
  let l : Launch := { lid := BitVec.ofNat 32 (v 13), die := d, rcb := rcb, recAt := recAt, part := part, hdrAt := hdrAt, hdr := readHdr w d hdrAt,
                      grid := v 2, nparam := field (v 3) 6 0, param := recPair w d recAt 4, start := recPair w d recAt 6,
                      preds := (List.range (min npred 16)).map fun i => BitVec.ofNat 32 (recWord w d (recPair w d recAt 8) i),
                      place := recPair w d recAt 10,
                      taken := x.gcc
                      dv := if flag (v 12) 31 then some (((moduleByNum w.mach (field (v 12) 20 12)).getD 512) * 4 + field (v 12) 11 10) else none,
                      bseed := BitVec.ofNat 64 (recPair w d recAt 14), state := 1, round := (x.roundNo.find part).getD 0,
                      priv := effPriv w d root (pathOf w d rcb) }
  let stateOf := fun (p : W32) =>
    if x.launches.any fun y => decide (y.lid = p) && decide (y.part = part) then 0
    else ((x.retired.find? fun y => decide (y.lid = p) && decide (y.part = part)).map Retired.state).getD 0
  let l := { l with predSt := l.preds.map stateOf }
  let ended := x.regions.any fun r => decide (r.die = d) && decide (r.rcb = rcb) && r.ended
  let reason := takeReason w m l npred ended
  if reason = 0 then
    let w := putStatus (w.modModule m fun x => { x with launches := x.launches ++ [l] }) l
    tellDevice w m d recAt (statusWord 1 0 0)
  else
    let l := { l with state := 4, reason := reason }
    let w := putStatus w l
    let w := if reason = 0x0B then w else w.modModule m fun x => { x with retired := addRetired { part := part, lid := l.lid, state := 4 } x.retired }
    tellDevice w m d recAt (statusWord 4 reason 0)

/-- Take what stands in a region's list (R293). -/
def takeList (w : World) (m part d rcb : Nat) : World :=
  let q := recWord w d rcb 8
  let head := q / 2 ^ 16
  let size := 2 ^ (min 12 (q % 16))
  let tail := recWord w d rcb 9 / 2 ^ 16
  let n := min ((tail + 2 ^ 16 - head) % 2 ^ 16) size
  (List.range n).foldl (fun w i =>
    let w := takeRecord w m part d rcb (recPair w d rcb 6 + 80 * ((head + i) % 2 ^ 16 % size))
    dieWrite w d (rcb + 34) (leBytes 2 ((head + i + 1) % 2 ^ 16))) w

/-! ## Placement (R297 to R304) -/

/-- The lowest base at which `n` units fit beside used runs. -/
def fitBase (used : List (Nat × Nat)) (n limit : Nat) : Option Nat :=
  if n = 0 then some 0
  else
    let ok := fun (b : Nat) => decide (b + n ≤ limit) && used.all fun u => decide (u.2 = 0) || decide (b + n ≤ u.1) || decide (u.1 + u.2 ≤ b)
    (sortBy (fun a b => decide (a ≤ b)) (0 :: used.map fun u => u.1 + u.2)).find? ok

/-- Where a block goes on a core: the entries of its courses and its areas. -/
structure Fit where
  core  : Nat
  owner : Nat
  spots : List (Nat × Nat)
  hb    : Nat
  tagb  : Nat
  tsbb  : Nat
  accb  : Nat
  trnb  : Nat
  gchan : Option Nat
  deriving DecidableEq, Repr

/-- Rotation positions of a string that a free block may take. -/
def freeSpots (k : Core) (rot s : Nat) : List (Nat × Nat) :=
  let res := (List.range 8).filterMap fun r => k.slots.find (8 * s + r)
  if res.all fun b => decide (b.rot = rot) then
    ((List.range (2 ^ rot)).filter fun r => (k.slots.find (8 * s + r)).isNone).map fun r => (s, r)
  else []

/-- Entries for the courses of a block (R13, R15, R302). -/
def spotsFor (k : Core) (h : Hdr) : Option (List (Nat × Nat)) :=
  if h.timed then
    let strs := (List.range 8).filter fun s => (List.range 8).all fun r => (k.slots.find (8 * s + r)).isNone
    let need := (h.courses + h.drot - 1) / h.drot
    if strs.length < need then none
    else some ((List.range h.courses).map fun c => (strs.getD (c / h.drot) 0, c % h.drot))
  else
    let all := (List.range 8).flatMap fun s => freeSpots k h.rot s
    if all.length < h.courses then none else some (all.take h.courses)

/-- Find room for a block on a core, with the lowest OWNER that no bound block holds (R295, R389). -/
def fitOn (w : World) (c : Nat) (h : Hdr) : Option Fit :=
  let k := w.core c
  let bs := k.live.map Prod.snd
  let run := fun (f : Block → Nat × Nat) => bs.map f
  match spotsFor k h, (List.range 64).find? fun o => (k.live.find o).isNone,
      fitBase (run fun b => (b.bind.hb, b.hdr.handles)) h.handles 256,
      fitBase (run fun b => (b.bind.tagb, b.hdr.tags)) h.tags 64,
      fitBase (run fun b => (b.bind.tsbb, (b.hdr.tsb + 255) / 256)) ((h.tsb + 255) / 256) 2048,
      fitBase (run fun b => (b.bind.accb, 4 * b.hdr.acc)) (4 * h.acc) 4096,
      fitBase (run fun b => (b.bind.trnb, 4 * b.hdr.trn)) (4 * h.trn) 16384 with
  | some sp, some o, some hb, some tg, some ts, some ac, some tr =>
    let g := if h.gch then (List.range 16).find? fun n => !((w.die (dieOf c)).gch.contains n) else some 16
    match g with
    | none => none
    | some g => some { core := c, owner := o, spots := sp, hb := hb, tagb := tg, tsbb := ts, accb := ac, trnb := tr,
                       gchan := if h.gch then some g else none }
  | _, _, _, _, _, _, _ => none

/-- A core may take a block of a launch (R30, R300). -/
def coreAdmits (w : World) (c : Nat) (l : Launch) : Bool :=
  let k := w.core c
  if l.hdr.timed then
    k.blocks.all (fun b => decide (b.2.bind.lid = l.lid)) &&
      (match sashOf w c with | some s => decide (s.timed = some l.lid) || k.blocks.isEmpty | none => true)
  else k.live.all (fun b => decide (b.2.bind.lid = l.lid)) &&
      (match sashOf w c with | some s => s.timed.isNone || k.blocks.isEmpty | none => true)

/-- A launch that waits has claimed a core, which is emptied for it: launch and core. -/
abbrev Claims := List (W32 × Nat)

/-- No other launch has claimed a core in this round (R298, R299). -/
def unclaimed (cl : Claims) (l : Launch) (c : Nat) : Bool := cl.all fun x => decide (x.2 ≠ c) || decide (x.1 = l.lid)

/-- Some block is bound in a quadrant. -/
def quadBusy (w : World) (c : Nat) : Bool :=
  (quadCores (dieOf c) (quadOf c)).any fun x => !((w.core x).live.isEmpty)

/-- Preference of R304: rails at the kernel's FID, no bound kernel, a looser level, a stricter one. -/
def fidRank (w : World) (c fid : Nat) : Nat :=
  let q := (w.die (dieOf c)).quad (quadOf c)
  if q.rail = fid then 0 else if !quadBusy w c then 1 else if fid < q.level then 2 else 3

/-- The place that a management core chooses: the first core, in the order of R304, with room. -/
def choose (w : World) (m : Nat) (cl : Claims) (l : Launch) (bk : Nat) : Option Fit :=
  let cs := (coresFor w m l bk).filter fun c => coreAdmits w c l && unclaimed cl l c
  (List.range 4).findSome? fun r => (cs.filter fun c => decide (fidRank w c l.hdr.fid = r)).findSome? fun c => fitOn w c l.hdr

/-- A core leaves its sash, which is dissolved with its last core (R300). -/
def leaveSash (c : Nat) (w : World) : World :=
  match (w.core c).sash with
  | none => w
  | some i =>
    let w := w.modCore c fun k => { k with sash := none }
    match w.sash? i with
    | none => w
    | some s =>
      let cores := s.cores.filter (· ≠ c)
      if cores.isEmpty then w.dropSash i else w.setSash i { s with cores := cores }

/-- A sash number from `n` on that no live sash of a die bears (R31). -/
def freshNum (w : World) (d n : Nat) : W32 :=
  let used := (w.mach.sashes.filter fun x => decide (x.2.die = d)).map fun x => x.2.num
  (((List.range (used.length + 1)).map fun i => BitVec.ofNat 32 (n + i)).find? fun v => !used.contains v).getD 0

/-- A sash of one core is formed, with Δ = 0 (R31, R300). -/
def newSash (c : Nat) (timed : Option W32) (w : World) : World :=
  let w := leaveSash c w
  let i := w.mach.nextSash
  let s : Sash := { num := freshNum w (dieOf c) (w.module (modOf c)).nextSash, die := dieOf c, cores := [c], vcc := gccOf w c, timed := timed }
  let w := { w with mach := { w.mach with nextSash := i + 1 } }
  ((w.setSash i s).modCore c fun k => { k with sash := some i, q := 7 }).modModule (modOf c) fun m => { m with nextSash := m.nextSash + 1 }

/-- The sash of a core for a block of a launch, formed where there is none (R300, R31). A core that comes from a sash without
blocks on it, be it one that stands still for another reason, leaves that one. -/
def formSash (w : World) (c : Nat) (lid : W32) (timed : Bool) : World :=
  if timed then
    match w.mach.sashes.find? fun x => decide (x.2.timed = some lid) && decide (x.2.die = dieOf c) with
    | some x =>
      if x.2.cores.contains c then w
      else ((leaveSash c w).setSash x.1 { x.2 with cores := x.2.cores ++ [c] }).modCore c fun k => { k with sash := some x.1, q := 7 }
    | none => newSash c (some lid) w
  else match sashOf w c with
    | some s => if s.timed.isNone then w else newSash c none w
    | none => newSash c none w

/-- The level of a quadrant: the strictest FID of its bound kernels (R91). The rails are brought to it before a bind record is
written, so at once here; a raise on its way to a level that a command asks for goes on. -/
def setLevel (w : World) (c : Nat) : World :=
  let d := dieOf c
  let q := quadOf c
  let fids := (quadCores d q).flatMap fun x => (w.core x).live.map fun b => b.2.hdr.fid
  let l := fids.foldl min 3
  let old := (w.die d).quad q
  let w := modQuad w d q fun x => { x with level := l, sleep := fids.isEmpty }
  let w := if l < old.rail then clearRails (noteLevel (modQuad w d q fun x => { x with rail := l }) d q l true) d q else w
  steerRails w d q

/-- Wall time is charged up to now, while a block of the region is bound (R292). -/
def Region.wallTo (r : Region) (clock : Nat) : Region :=
  match r.since with
  | none => r
  | some t => { r with since := some clock, wcyc := r.wcyc + (clock - t), wused := (r.wcyc + (clock - t)) / 940 }

/-- Add or release what a block charges (R292). -/
def chargeBlock (w : World) (m d rcb : Nat) (h : Hdr) (add : Bool) : World :=
  let f := fun (a b : Nat) => if add then a + b else a - b
  modRegion w m d rcb fun r =>
    let r := r.wallTo w.mach.clock
    let courses := f r.courses (blockCharge h 2)
    { r with
      courses := courses
      tsb := f r.tsb (blockCharge h 3)
      acc := f r.acc (blockCharge h 4)
      trn := f r.trn (blockCharge h 5)
      gch := f r.gch (blockCharge h 8)
      since := if courses = 0 then none else some w.mach.clock }

/-! ## Context areas (R185, R334) -/

/-- Bytes of a block's context area. -/
def ctxSize (h : Hdr) : Nat := (ctxMap h).lane + 512 * 1024 * h.courses

/-- Context areas in use on a die, bound and saved blocks', as first byte and end. -/
def ctxUsed (w : World) (d : Nat) : List (Nat × Nat) :=
  let span := fun (b : Block) => (b.bind.ctx, b.bind.ctx + ctxSize b.hdr)
  (w.mach.cores.flatMap fun x => if dieOf x.1 = d then x.2.blocks.map fun b => span b.2 else []) ++
    ((w.module (d / 4)).saved.filter fun v => decide (v.die = d)).map fun v => span v.block

/-- In the DRAM that a die's management cores keep (`reserveAt`): the L2 directory of the context areas, their leaf tables,
one for 8 MiB, and their frames. -/
def areaDir (d : Nat) : Nat := reserveAt d + 2 ^ 30
def areaLeaf (d off : Nat) : Nat := reserveAt d + 2 ^ 30 + 2 ^ 24 + 4096 * (off / 2 ^ 23 % 2 ^ 12)
def areaFrame (d off : Nat) : Nat := reserveAt d + 2 ^ 30 + 2 ^ 25 + off % 2 ^ 35 / 2 ^ 14 * 2 ^ 14

/-- An entry of the L1 directory of a die. -/
def l1Entry (w : World) (d i : Nat) : W64 :=
  match tableEntry w d (l1Offset (w.die d) (i * 2 ^ 35)) with
  | .ok e => e
  | .error _ => 0

/-- The L1 directory index under which the context areas of a die stand: the one in use, or one that maps nothing (R334; free
value). -/
def areaSlot (w : World) (d : Nat) : Nat :=
  let mine := fun (i : Nat) => let e := l1Entry w d i; bit64 e 63 && decide (e.toNat / 2 ^ 15 % 2 ^ 31 * 2 ^ 15 = areaDir d)
  match (w.die d).mcDir with
  | some i => if mine i then i else other
  | none => other
where other := (((List.range 2048).map fun j => (Config.ctxPlace w.free + j) % 2048).find? fun i => !bit64 (l1Entry w d i) 63).getD 0

/-- Where the management core puts a context area: a place of its choice, under a directory entry of its own, that no other area
on the die overlaps (R334; free value). -/
def ctxAt (w : World) (d : Nat) (h : Hdr) : Nat :=
  let used := ctxUsed w d
  let n := ctxSize h
  let base := areaSlot w d * 2 ^ 35
  let ok := fun (a : Nat) => decide (base ≤ a) && decide (a + n ≤ base + 2 ^ 35) && used.all fun u => decide (a + n ≤ u.1) || decide (u.2 ≤ a)
  (((base + 4096 * (Config.ctxPlace w.free % 2 ^ 22)) :: base :: used.map fun u => padTo u.2 4096).find? ok).getD base

/-- A table entry that the management core writes, unless it stands so. -/
def putEntry (d at_ v : Nat) (w : World) : World :=
  match tableEntry w d at_ with
  | .ok e => if e.toNat = v then w else w.write .dram (dramKey d at_) (leBytes 8 v)
  | .error _ => w.write .dram (dramKey d at_) (leBytes 8 v)

/-- The management core maps pages from `page` on, on frames of its own: present, readable, writable, and PV = 1 (R185, R311). -/
def mapPages (d page : Nat) : Nat → World → World
  | 0, w => w
  | n + 1, w =>
    let off := 2 ^ 14 * page
    let w := putEntry d (areaDir d + 8 * (off / 2 ^ 23 % 2 ^ 12)) (2 ^ 63 + areaLeaf d off) w
    let w := putEntry d (areaLeaf d off + 8 * (off / 2 ^ 14 % 2 ^ 9)) (2 ^ 63 + 2 ^ 61 + 2 ^ 59 + 2 ^ 58 + areaFrame d off) w
    mapPages d (page + 1) n w

/-- The management core maps a context area with PV = 1 (R185). With translation disabled there is no directory to map it in. -/
def mapPrivate (d ctx n : Nat) (w : World) : World :=
  if !bit64 (w.die d).tbase 0 then w
  else
    let i := ctx / 2 ^ 35 % 2048
    let w := w.modDie d fun x => { x with mcDir := some i }
    let w := putEntry d (l1Offset (w.die d) ctx) (2 ^ 63 + areaDir d) w
    mapPages d (ctx / 2 ^ 14) ((ctx + n + 2 ^ 14 - 1) / 2 ^ 14 - ctx / 2 ^ 14) w

/-- Zero a stretch of a die's space, page by page, where it is mapped. -/
def spaceZero (d : Nat) : Nat → Nat → Nat → World → World
  | 0, _, _, w => w
  | k + 1, off, n, w =>
    if n = 0 then w
    else
      let m := min n (2 ^ 14 - off % 2 ^ 14)
      let w := match placeNow w d off with
        | some p => w.zero p.1 p.2 m
        | none => w
      spaceZero d k (off + m) (n - m) w

/-- The model's own index of a block that has ended while accesses of it are still on their way: above 63, so that its OWNER
is free for another block (R295). -/
def ghostOf (k : Core) (o : Nat) : Nat := o + 64 * (1 + k.blocks.foldl (fun n x => max n (x.1 / 64)) 0)

/-- A fault record of a block under another index. -/
def FaultRec.ownedBy (g : Nat) (f : FaultRec) : FaultRec :=
  { f with owner := g, work := match f.work with | .lanes x => .lanes { x with owner := g } | y => y }

/-- What remains of a block that has ended makes room for another one under its OWNER. -/
def ghostBlock (c o : Nat) (w : World) : World :=
  match w.block? c o with
  | none => w
  | some b =>
    let k := w.core c
    let g := ghostOf k o
    let old := k.courses.filter fun x => decide (x.2.owner = o)
    let rest := k.courses.filter fun x => decide (x.2.owner ≠ o)
    let rec_ := fun (l : List FaultRec) => l.map fun (f : FaultRec) => if f.owner = o then f.ownedBy g else f
    w.modCore c fun k => { k with
      blocks := (k.blocks.erase o).put g { b with bind := { b.bind with owner := g } }
      courses := old.foldl (fun t x => t.put (32 * g + x.2.cr) { x.2 with owner := g }) rest
      flights := k.flights.map fun (f : Flight) => if f.owner = o then { f with owner := g } else f
      accs := k.accs.map fun (a : Access) => if a.owner = o then { a with owner := g } else a
      ctxs := k.ctxs.map fun (a : CtxAcc) => if a.owner = o then { a with owner := g } else a
      faults := rec_ k.faults
      waiting := rec_ k.waiting
      pardons := rec_ k.pardons
      passed := rec_ k.passed }

/-- Bind records of a block in the slot table (R301, R302). The management core has mapped and cleared the lane space of its
context area before its entries are VALID, so that it reads zero at the start (R185). -/
def bindBlock (w : World) (m : Nat) (l : Launch) (bk : Nat) (f : Fit) : World :=
  let c := f.core
  let d := dieOf c
  let w := formSash (ghostBlock c f.owner w) c l.lid l.hdr.timed
  let num := ((sashOf w c).map Sash.num).getD 0
  let hdr := readHdr w d l.hdrAt
  let ctx := ctxAt w d hdr
  let w := mapPrivate d ctx (ctxSize hdr) w.step
  let w := spaceZero d (32 * hdr.courses + 2) (ctx + (ctxMap hdr).lane) (512 * 1024 * hdr.courses) w
  let br : BindRec := { priv := l.priv, owner := f.owner, cr := 0, last := hdr.courses - 1, allot := hdr.allot, rot := hdr.rot, hb := f.hb,
                        tagb := f.tagb, gchan := f.gchan, accb := f.accb, tsbb := f.tsbb, trnb := f.trnb, sash := num, bk := BitVec.ofNat 32 bk,
                        start := if hdr.timed then l.start else 0, hdr := l.hdrAt, param := l.param, nparam := l.nparam, lid := l.lid, rcb := l.rcb, ctx := ctx, bseed := l.bseed }
  let b : Block := { bind := br, hdr := hdr, v0 := l.start, bseed := l.bseed }
  let w := f.spots.zipIdx.foldl (fun w p => w.modCore c fun k => { k with
    slots := k.slots.put (8 * p.1.1 + p.1.2) { br with cr := p.2 }
    courses := k.courses.put (32 * f.owner + p.2)
      { owner := f.owner, cr := p.2, str := p.1.1, rot := p.1.2, drot := hdr.drot, allot := 32 * hdr.allot,
        part := if hdr.compat then 16 else 2 ^ hdr.part } }) w
  let w := w.setBlock c f.owner b
  let w := match f.gchan with
    | some g => w.modDie d fun x => { x with gch := x.gch ++ [g] }
    | none => w
  logPlace (setLevel (chargeBlock w m l.die l.rcb l.hdr true) c) c f.owner

/-- Binding is permitted: every pool has room for one block, or for the whole grid of a timed launch (R298). -/
def permitted (w : World) (m : Nat) (l : Launch) : Bool :=
  let n := if l.hdr.timed then l.grid else 1
  bindBudgets.all fun k => poolsRoom w m l.die (pathOf w l.die l.rcb) k (n * blockCharge l.hdr k)

/-- Effective priority (R298). -/
def effective (w : World) (l : Launch) : Nat := min 15 (effPrio w l.die (pathOf w l.die l.rcb) + l.waited / 64)

/-- Effective priority of a launch by what stands on a core: a block that is bound waits no more, so w does not count for it
(R298, R299; log entry 115). -/
def standing (w : World) (l : Launch) : Nat := min 15 (effPrio w l.die (pathOf w l.die l.rcb))

/-- Bind the blocks of a free launch in ascending index while there is room (R298). -/
def bindFree (m : Nat) (cl : Claims) : Nat → Launch → World → World × Launch
  | 0, l, w => (w, l)
  | n + 1, l, w =>
    if l.grid ≤ l.bound || !permitted w m l then (w, l)
    else match choose w m cl l l.bound with
      | none => (w, l)
      | some f => bindFree m cl n { l with bound := l.bound + 1, state := 2 } (bindBlock w m l l.bound f)

/-- Bind every block of a timed launch; none where one finds no place (R298). -/
def bindTimed (m : Nat) (cl : Claims) : Nat → Launch → World → Option (World × Launch)
  | 0, l, w => if l.grid ≤ l.bound then some (w, l) else none
  | n + 1, l, w =>
    if l.grid ≤ l.bound then some (w, l)
    else match choose w m cl l l.bound with
      | none => none
      | some f => bindTimed m cl n { l with bound := l.bound + 1, state := 2 } (bindBlock w m l l.bound f)

/-- A free block that makes room for a launch of higher effective priority: it can be pre-empted, or is being so (R298,
R337, R378). For its first block a launch is weighed against what stands there without w, so that R299 keeps its bound. -/
def yields (w : World) (m : Nat) (y : Launch) (c : Nat) (b : Block) : Bool :=
  decide (b.preempt ≠ .none) || (!b.hdr.timed && b.started && !b.ending &&
  (match launchOf w c b.bind.lid with
    | some l => decide (l.1 = m) && decide (l.2.lid ≠ y.lid) && decide ((if y.bound = 0 then standing w l.2 else effective w l.2) < effective w y)
    | none => false) &&
  !((w.core c).courses.any fun x => decide (x.2.owner = b.bind.owner) && x.2.paths.any fun p => p.2.held))

/-- Every core that a launch may use: for the next block of a free one, for all blocks of a timed one. -/
def launchCores (w : World) (m : Nat) (l : Launch) : List Nat :=
  if l.hdr.timed && decide (l.place ≠ 0) then ((List.range l.grid).filterMap fun b => placeCore w l b).eraseDups else coresFor w m l l.bound

/-- Ask for the pre-emption of free blocks that stand in a launch's way (R298, R299): of all blocks of one core for a free
launch, of as many cores as a timed one still needs. A core that is being emptied already comes first. No launch that comes
later in the round takes what these cores give. -/
def displace (w : World) (m : Nat) (cl : Claims) (l : Launch) : World × Claims :=
  let chan := fun (c : Nat) => !l.hdr.gch || decide ((w.die (dieOf c)).gch.length < 16) || (w.core c).live.any fun b => b.2.bind.gchan.isSome
  let mayUse := launchCores w m l
  let cs := mayUse.filter fun c => unclaimed cl l c && !(w.core c).live.isEmpty && ((w.core c).live.all fun b => yields w m l c b.2) && chan c
  let going := fun (c : Nat) => (w.core c).live.all fun b => decide (b.2.preempt ≠ .none)
  let empty := mayUse.filter fun c => (w.core c).live.isEmpty && coreAdmits w c l && unclaimed cl l c
  let all := (l.grid + blocksPerCore l.hdr - 1) / max 1 (blocksPerCore l.hdr)
  let need := if !l.hdr.timed then 1 else if l.place ≠ 0 then cs.length else all - empty.length
  let take := (cs.filter going ++ cs.filter fun c => !going c).take need
  let kept := if l.hdr.timed then (if l.place ≠ 0 then empty else empty.take all) else []
  (take.foldl (fun w c =>
    (w.core c).live.foldl (fun w b => w.modBlock c b.1 fun b => if b.preempt = .none then { b with preempt := .asked } else b) w) w,
   cl ++ (take ++ kept).map fun c => (l.lid, c))

/-- START of a timed launch that binds now: as asked for, or the earliest that R300 and R302 allow. -/
def startOf (now : Nat) (l : Launch) : Nat := if l.start = 0 then padTo (max (l.taken + 65536) (now + 4096)) 8 else l.start

/-- A waiting launch binds as soon as it has room: its predecessors have completed, or it is timed and its entries can still
be written 4,096 cycles before START (R302, R303). -/
def mayBind (w : World) (m : Nat) (l : Launch) : Bool :=
  let now := (w.module m).gcc
  permitted w m l && (if l.hdr.timed then decide (l.state = 1) && decide (now + 4096 ≤ startOf now l) else l.predSt.all fun v => decide (v = 3))

/-- A launch as its management core holds it now. -/
def launchNow (w : World) (m : Nat) (l : Launch) : Option Launch :=
  (w.module m).launches.find? fun y => decide (y.lid = l.lid) && decide (y.part = l.part)

/-- A round in which a launch has waited with binding permitted counts in its w (R298). -/
def countWait (w : World) (m : Nat) (l : Launch) : World :=
  if permitted w m l then setLaunch w m { l with waited := l.waited + 1 } else w

/-- Bind up to `n` blocks of a free launch, and make room where one finds none. -/
def placeFree (m n : Nat) (cl : Claims) (w : World) (l : Launch) : World × Claims :=
  let r := bindFree m cl n l w
  let w := putStatus (setLaunch r.1 m r.2) r.2
  if r.2.bound < min r.2.grid (l.bound + n) && permitted w m r.2 then displace w m cl r.2 else (w, cl)

/-- The first block of a free launch that has reached e = 15: it comes before further blocks of launches that hold some (R299). -/
def placeFirst (m : Nat) (r : World × Claims) (x : Launch) : World × Claims :=
  match launchNow r.1 m x with
  | none => r
  | some l => if !l.hdr.timed && decide (l.bound = 0) && decide (effective r.1 l = 15) && mayBind r.1 m l then placeFree m 1 r.2 r.1 l else r

/-- Place one waiting launch in a round. -/
def placeLaunch (m : Nat) (r : World × Claims) (x : Launch) : World × Claims :=
  let w := r.1
  match launchNow w m x with
  | none => r
  | some l =>
    if l.hdr.timed then
      if l.state ≠ 1 then r
      else if !mayBind w m l then (countWait w m l, r.2)
      else match bindTimed m r.2 l.grid { l with start := startOf (w.module m).gcc l } w with
        | some z => (putStatus (setLaunch z.1 m { z.2 with sashes := [] }) z.2, r.2)
        | none => displace (countWait w m l) m r.2 l
    else if (l.predSt.any fun v => decide (v = 4) || decide (v = 5)) then
      (retire w m { l with state := 4, reason := 0x10 }, r.2)
    else if (l.predSt.any fun v => decide (v ≠ 3)) then (countWait w m l, r.2)
    else
      let z := placeFree m (l.grid - l.bound) r.2 w l
      match launchNow z.1 m l with
      | some y => if y.bound < y.grid && permitted w m l then (setLaunch z.1 m { y with waited := y.waited + 1 }, z.2) else z
      | none => z

/-- Order of placement: descending effective priority, round of acceptance, LID (R298). -/
def placeBefore (w : World) (a b : Launch) : Bool :=
  let x := effective w a
  let y := effective w b
  decide (y < x) || (decide (x = y) && (decide (a.round < b.round) || (decide (a.round = b.round) && decide (a.lid.toNat ≤ b.lid.toNat))))

/-- A waiting launch of higher effective priority wants a core: a saved block does not go back to it (R298, R299). What a
round has claimed, `Claims` keeps from the launches that come later in it. -/
def contested (w : World) (m : Nat) (l : Launch) (c : Nat) : Bool :=
  (w.module m).launches.any fun y => decide (y.part = l.part) && (decide (y.state = 1) || (decide (y.state = 2) && decide (y.bound < y.grid))) &&
    decide (effective w l < effective w y) && mayBind w m y && (launchCores w m y).contains c

/-- Cores that a saved block can go back to: on its die, and the one it left where a course of it is in handler state
(R305). -/
def coresBack (w : World) (m : Nat) (l : Launch) (v : Saved) : List Nat :=
  if !permitted w m l then []
  else ((List.range Config.coresPerDie).map fun c => v.die * Config.coresPerDie + c).filter fun c =>
    (decide (c = v.core) || v.courses.all fun x => x.handler.isNone) && coreAdmits w c l && !contested w m l c &&
    ((loggedCore w m l v.block.bind.bk.toNat).map fun n => decide (n = c)).getD true

/-- Saved blocks that a core of their die can hold again are marked for their restore (R292, R305, R338). -/
def markRestores (w : World) (m part : Nat) : World :=
  let f := fun (v : Saved) =>
    if partOf w v.die = some part then
      match (w.module m).launches.find? fun l => decide (l.lid = v.lid) && decide (l.part = part) with
      | some l => { v with again := (coresBack w m l v).any fun c => (fitOn w c v.block.hdr).isSome }
      | none => v
    else v
  w.modModule m fun x => { x with saved := x.saved.map f }

/-- Write the account of a region: each field covers its subtree, and THROT counts a round once (R353). The reserved words
are written 0. -/
def writeAccount (m : Nat) (w : World) (r : Region) : World :=
  let f := fun (g : Region → Nat) => subtree w m r.die r.rcb g
  let sat := fun (bits v : Nat) => min v (2 ^ bits - 1)
  dieWrite w r.die (r.rcb + 80) (wordBytes (lohi (sat 64 (f Region.eused)) ++ lohi (sat 64 (f Region.wused)) ++
    [sat 32 (f Region.mxe1), sat 32 (f Region.mxe0), sat 32 (f Region.ldisc), sat 32 (f Region.faults), sat 32 r.throt, 0, 0, 0]))

/-- The sash of a core has met a throttle hold or byte-budget lateness since the last round of its partition. -/
def coreThrottled (w : World) (c : Nat) : Bool :=
  let last := ((w.module (modOf c)).roundAt.find ((partOf w (dieOf c)).getD 0)).getD 0
  match sashOf w c with
  | some s => (match s.throttled with | some g => decide (last ≤ g) | none => false)
  | none => false

/-- A block of a region itself met one in this round: one that is bound, or one that has left its core since. -/
def regionThrottled (w : World) (m : Nat) (r : Region) : Bool :=
  r.throtRound || w.mach.cores.any fun x => decide (modOf x.1 = m) && (x.2.live.any fun b => decide (b.2.bind.rcb = r.rcb) &&
      (match launchOf w x.1 b.2.bind.lid with | some l => decide (l.2.die = r.die) | none => false)) && coreThrottled w x.1

/-- The round's part in the accounts of a die's regions: wall time, and rounds in which a block of a subtree was throttled. -/
def accountRound (w : World) (m d : Nat) : World :=
  let mine := (w.module m).regions.filter fun r => decide (r.die = d)
  let hit := (mine.filter (regionThrottled w m)).map fun r => pathOf w d r.rcb
  let w := mine.foldl (fun w r => modRegion w m d r.rcb fun r =>
    { r.wallTo w.mach.clock with throt := if hit.any fun p => p.contains r.rcb then r.throt + 1 else r.throt, throtRound := false }) w
  ((w.module m).regions.filter fun r => decide (r.die = d)).foldl (writeAccount m) w

/-- A timed sash whose core holds no block lets the core go, and is dissolved with its last one (R300); one that stands goes
on standing until its causes have cleared (R329). -/
def dissolve (c : Nat) (w : World) : World :=
  match (w.core c).sash with
  | none => w
  | some i =>
    match w.sash? i with
    | none => w
    | some s =>
      if s.timed.isSome && (w.core c).blocks.isEmpty && !(s.paused && !s.causes.isEmpty) then
        leaveSash c w
      else w

/-- SCHEDULING_ROUND: the management cores of a partition take its lists, place what waits, and write accounts
(R297). -/
def schedulingRound (m part : Nat) (w : World) : World :=
  match leadDie w m part, (w.module m).roots.find part with
  | some d, some root =>
    let w := w.modModule m fun x => { x with
      rounds := x.rounds.put part (w.mach.clock + Config.roundCycles)
      roundNo := x.roundNo.put part ((x.roundNo.find part).getD 0 + 1) }
    let w := ((partCores w m part).filter fun c => (w.core c).blocks.isEmpty).foldl (fun w c => dissolve c w) w
    let tree := walkTree w d maxRegions [root.rcb]
    let w := tree.foldl (fun w r => modRegion w m d r id) w
    let w := tree.foldl (fun w r => takeList w m part d r) w
    let waiting := (w.module m).launches.filter fun l => decide (l.part = part) && (decide (l.state = 1) || (decide (l.state = 2) && decide (l.bound < l.grid)))
    let order := sortBy (placeBefore w) waiting
    let w := (order.foldl (placeLaunch m) (order.foldl (placeFirst m) (w, []))).1
    let w := markRestores w m part
    let w := accountRound w m d
    w.modModule m fun x => { x with roundAt := x.roundAt.put part x.gcc }
  | _, _ => w

/-! ## The start of a block (R302) -/

/-- The clauses that a block's path has at hand at its start, with their page: its first and those fetched ahead of it while the
block was bound, where the die's tables give an executable page for them (R96, R97; DESIGN CHOICE: log entry 101). -/
def entryClauses (w : World) (c : Nat) (b : Block) : Option (Leaf × List Clause) :=
  let n := (b.bind.hdr + b.hdr.entry) / 16
  match if bit64 (w.die (dieOf c)).tbase 0 then walkOut w (dieOf c) (clauseOff n) else .bad 0x03 with
  | .leaf l =>
    if l.host || l.refuses .fetch b.bind.priv false then none
    else
      let clause := fun (i : Nat) =>
        let a := l.place (dieOf c) (clauseOff (n + i))
        if l.covers (clauseOff (n + i)) && !w.mem.poisoned a.1 a.2 16 then some { readClause w c (n + i) a with paid := true } else none
      some (l, (List.range (aheadClauses + 1)).filterMap clause)
  | _ => none

/-- Start state of a block at a cycle: parameters in k0 onward, registers and store areas zero, the block's tags
set, the core's trap count cleared (R193, R216, R302, R326). -/
def startBlock (c o : Nat) (w : World) : World :=
  match w.block? c o with
  | none => w
  | some b =>
    let vcc := vccOf w c
    let v0 := if b.hdr.timed then b.bind.start else vcc
    let ks : Tab W32 := (List.range b.bind.nparam).foldl (fun t i => Tab.set 0 t i (BitVec.ofNat 32 (recWord w (dieOf c) b.bind.param i))) []
    let code := entryClauses w c b
    let w := (List.range b.hdr.courses).foldl (fun w r => w.modCourse c o r fun k => { k with
      k := ks
      slot0 := some { id := 0, mask := 0xFFFFFFFF, pc := 3 * ((b.bind.hdr + b.hdr.entry) / 16), fresh := true, ahead := (code.map Prod.snd).getD [] } }) w
    let w := match code with
      | some (l, _) => w.step.modCore c fun k => { k with tlb := tlbPut k.tlb Config.l1Tlb (Config.tlbVictim w.free) l }
      | none => w
    let w := w.zero .ts (levelKey 0 c (256 * b.bind.tsbb)) b.hdr.tsb
    let w := w.zero .acc (levelKey 1 c (256 * b.bind.accb)) (b.hdr.acc * 1024)
    let w := w.zero .trn (levelKey 2 c (256 * b.bind.trnb)) (b.hdr.trn * 1024)
    let w := w.modCore c fun k => { k with
      tags := k.tags ||| BitVec.ofNat 64 ((2 ^ b.hdr.tags - 1) * 2 ^ b.bind.tagb)
      tiles := k.tiles.filter fun (x : Nat × Desc) => decide (x.1 < b.bind.hb) || decide (b.bind.hb + b.hdr.handles ≤ x.1)
      trap := { k.trap with count := 0 } }
    w.setBlock c o { b with started := true, v0 := v0, key := 0 }

/-- BLOCK_START: a free block starts when all its entries are VALID (R302). -/
def blockStart (c o : Nat) (w : World) : World :=
  match w.block? c o with
  | some b => if b.started || b.hdr.timed then w else startBlock c o w
  | none => w

/-- A fault of a block at v+0, with no instruction. -/
def startFault (c : Nat) (b : Block) (sub : Nat) (w : World) : World :=
  takeFault w c (({ code := 0x02, sub := sub, src := 7, owner := b.bind.owner, vcc := 0 } : FaultRec).ofBlock b)

/-- TIMED_BLOCK_START: a timed block starts at START; entries written late raise TIMING 1, and a predecessor that
has not completed TIMING 4 (R302, R303). -/
def timedStart (c o : Nat) (w : World) : World :=
  match w.block? c o with
  | none => w
  | some b =>
    if b.started || !b.hdr.timed then w
    else
      let late := decide (b.bind.start < vccOf w c)
      let open_ := match launchOf w c b.bind.lid with
        | some l => l.2.predSt.any fun v => decide (v ≠ 3)
        | none => false
      let w := startBlock c o w
      if late then startFault c b 1 w else if open_ then startFault c b 4 w else w

/-! ## The end of a block (R256) -/

/-- A block ends when all of its courses have exited and every command it issued has completed (R256, R340). Its faults have
been handled then. In a free-deterministic launch its writes have been performed and released too (log entry 13). -/
def blockOver (w : World) (c o : Nat) : Bool :=
  let k := w.core c
  match k.blocks.find o with
  | none => false
  | some b =>
    b.started && ((k.courses.filter fun x => decide (x.2.owner = o)).all fun x => x.2.gone) &&
    !(k.cmds.any fun x => decide (x.owner = o)) && !(k.arms.any fun x => decide (x.owner = o)) &&
    !((k.faults ++ k.waiting ++ k.passed).any fun x => decide (x.owner = o)) &&
    b.staged.isEmpty && (!b.hdr.determ || (!(k.accs.any fun x => decide (x.owner = o) && x.done.isNone) && !(k.flights.any fun x => decide (x.owner = o)) &&
      !(w.mach.dies.any fun x => x.2.heldW.any fun h => decide (h.core = c) && decide (h.owner = o))))

/-- Nothing of a block that has ended is on its way any more. -/
def blockEmpty (k : Core) (o : Nat) : Bool :=
  !(k.flights.any fun x => decide (x.owner = o)) && !(k.accs.any fun x => decide (x.owner = o) && x.done.isNone) &&
  !((k.faults ++ k.waiting ++ k.passed).any fun x => decide (x.owner = o))

/-- A block gives up what it holds on its core: slot entries, handles, walkers, gather channel, monitors, watches, claims
(R340). -/
def releaseBlock (c o : Nat) (w : World) : World :=
  match w.block? c o with
  | none => w
  | some b =>
    let w := w.modCore c fun k => { k with
      slots := k.slots.filter fun (x : Nat × BindRec) => decide (x.2.owner ≠ o)
      blocks := k.blocks.put o { b with spent := true }
      tiles := k.tiles.filter fun (x : Nat × Desc) => decide (x.1 < b.bind.hb) || decide (b.bind.hb + b.hdr.handles ≤ x.1)
      results := k.results.filter fun (x : Result) => decide (x.owner ≠ o)
      strs := k.strs.map fun (x : Nat × Str) => (x.1, if x.2.walker.owner = o then { x.2 with walker := {} } else x.2)
      watches := k.watches.filter fun (x : Nat × Watch) => decide (x.2.owner ≠ o)
      claims := k.claims.erase o }
    let w := match b.bind.gchan with
      | some g => w.modDie (dieOf c) fun x => { x with gch := x.gch.filter (· ≠ g) }
      | none => w
    { w with mach := { w.mach with dies := w.mach.dies.map fun (x : Nat × Die) =>
        (x.1, { x.2 with mons := x.2.mons.filter fun (y : Monitor) => !(decide (y.core = c) && decide (y.owner = o)) }) } }

/-- A pause cause of a core whose work is there no more. -/
def staleCause (k : Core) (c : Nat) (x : CauseBy) : Bool :=
  match x with
  | .access c2 a => decide (c2 = c) && !(k.accs.any fun y => decide (y.id = a))
  | .beat c2 b => decide (c2 = c) && !(k.beats.any fun y => decide (y.id = b))
  | .fetch c2 o r _ => decide (c2 = c) && (k.courses.find (32 * o + r)).isNone
  | .landing c2 a => decide (c2 = c) && !(k.arms.any fun y => decide (y.id = a))
  | .credit c2 i => decide (c2 = c) && !(k.cmds.any fun y => decide (y.id = i))
  | .rail c2 i => decide (c2 = c) && !(k.cmds.any fun y => decide (y.id = i))
  | .ticket c2 o => decide (c2 = c) && (k.blocks.find o).isNone
  | .ctx c2 i => decide (c2 = c) && !(k.ctxs.any fun y => decide (y.id = i))
  | .fault c2 => decide (c2 = c) && k.faults.isEmpty && k.passed.isEmpty
  | _ => false

/-- Causes of work that has been taken off a core are cleared. -/
def dropStale (c : Nat) (w : World) : World :=
  modSashOf w c fun s => { s with causes := s.causes.filter fun x => !staleCause (w.core c) c x.src }

/-- The last of a block leaves its core, with the causes that its work has raised. -/
def dropBlock (c o : Nat) (w : World) : World :=
  dropStale c (w.modCore c fun k => { k with
    courses := k.courses.filter fun (x : Nat × Course) => decide (x.2.owner ≠ o)
    blocks := k.blocks.erase o
    results := k.results.filter fun (x : Result) => decide (x.owner ≠ o)
    flights := k.flights.filter fun (x : Flight) => decide (x.owner ≠ o)
    accs := k.accs.filter fun (x : Access) => decide (x.owner ≠ o)
    ctxs := k.ctxs.filter fun (x : CtxAcc) => decide (x.owner ≠ o)
    log := k.log.filter fun (y : LogRec) => if y.beat then k.beats.any fun x => decide (x.id = y.id)
      else k.accs.any fun x => decide (x.owner ≠ o) && decide (x.id = y.id)
    acts := k.acts.erase o })

/-- Take a block off its core with all of its work. -/
def clearBlock (c o : Nat) (w : World) : World := dropBlock c o (releaseBlock c o w)

/-- A block leaves its core: its charges are released, its region's round counts if it was throttled, and its activity in this
microsecond stays to be charged (R292, R352, R353). DESIGN CHOICE: R292 releases course and store charges when the block ends;
a block that is pre-empted holds no course and no store, so its charges are released at its save and made again at its restore
(log entry 113). -/
def unbindBlock (c o : Nat) (m d rcb : Nat) (h : Hdr) (w : World) : World :=
  let t := coreThrottled w c
  let w := modRegion (chargeBlock w m d rcb h false) m d rcb fun r => { r with throtRound := r.throtRound || t }
  w.modCore c fun k => { k with
    endActs := match k.acts.find o with
      | some a => k.endActs ++ [(d, rcb, a)]
      | none => k.endActs
    acts := k.acts.erase o }

/-- The counts of a block that ends are added to its region's (R93, R349). -/
def addCounts (m : Nat) (l : Launch) (b : Block) (w : World) : World :=
  modRegion w m l.die l.rcb fun r => { r with
    mxe1 := r.mxe1 + b.mxe1.toNat
    mxe0 := r.mxe0 + b.mxe0.toNat
    ldisc := r.ldisc + b.ldisc }

/-- What a block leaves behind in accounts as it ends, and what its end releases (R93, R292, R349, R352). -/
def settleBlock (c : Nat) (b : Block) (m : Nat) (l : Launch) (w : World) : World :=
  addCounts m l b (unbindBlock c b.bind.owner m l.die l.rcb l.hdr w)

/-- The records of a launch: stamps and tickets at the homes (R203, R249), and the blocks it has had on the cores, where its
die's fabric reaches: another partition may use the same LID (R296, R368). -/
def forgetLaunch (d : Nat) (lid : W32) (w : World) : World :=
  let dies := w.mach.dies.map fun (x : Nat × Die) => if !fabOpen w d x.1 then x else (x.1, ({ x.2 with
    stamps := x.2.stamps.filter fun (y : Stamp) => decide (y.lid ≠ lid)
    tickets := x.2.tickets.filter fun (y : Ticket) => decide (y.lid ≠ lid) } : Die))
  let cores := w.mach.cores.map fun (x : Nat × Core) => if !fabOpen w d (dieOf x.1) then x else
    (x.1, ({ x.2 with past := x.2.past.filter fun (y : W32) => decide (y ≠ lid) } : Core))
  { w with mach := { w.mach with dies := dies, cores := cores } }

/-- What remains of a block that has ended leaves its core as soon as nothing of it is on its way. A recording core then commits
what it buffers of it (DESIGN CHOICE: R387 says nothing of a block's end; log entry 118). -/
def sweepBlock (c o : Nat) (w : World) : World :=
  if blockEmpty (w.core c) o then dissolve c (dropBlock c o (if (w.die (dieOf c)).recMode = 1 then flushChunk w c else w)) else w

/-- BLOCK_END: a block ends; its resources are free, and a launch whose last block it is has completed (R256, R295). Accesses
that its lanes issued are performed at their cycles (R155), and the step comes once more when the last one has been. -/
def blockEnd (c o : Nat) (w : World) : World :=
  match w.block? c o with
  | none => w
  | some b =>
    if b.spent then sweepBlock c o w
    else
      let w := dropMessages c o w
      let b' := (w.block? c o).getD b
      let lid := b.bind.lid
      let w := match launchOf w c lid with
        | none => noteEnd c lid false (releaseBlock c o w)
        | some l =>
          let w := noteEnd c lid false (releaseBlock c o (settleBlock c b' l.1 l.2 w))
          let y : Launch := { l.2 with ended := l.2.ended ++ [b.bind.bk.toNat] }
          if y.ended.length < y.grid then setLaunch w l.1 y
          else forgetLaunch l.2.die lid (retire w l.1 { y with state := 3 })
      setLevel (sweepBlock c o (releaseOrphans w)) c

/-! ## Device launches (R238, R306) -/

/-- A page of a die that the partition's tables map readable and writable. -/
def reachable (w : World) (d off : Nat) : Bool :=
  match walkOut w d off with
  | .leaf l => l.rd && l.wr
  | _ => false

/-- A device launch ends: kD + 3 receives the status word, and the tag is set. The status is logged for replay. -/
def devDone (w : World) (core : Nat) (c : Cmd) (status : W32) : World :=
  let w := w.modModule (modOf core) fun m => { m with devs := m.devs.filter fun (y : DevLaunch) => !(decide (y.core = core) && decide (y.cid = c.id)) }
  let z := untimed w core c.owner c.cr (lowestLane c.mask) (pcWord c.pc).toNat c.addr status.toNat
  let w := z.1.modCourse core c.owner c.cr fun k => k.setUni (c.kd + 3) (BitVec.ofNat 32 z.2)
  endCmd w core c

/-- DEVICE_LAUNCH_COMPLETE: the management core copies the record into the target's list, or rejects it; once the
record is taken, the status word and the tag follow. -/
def deviceLaunch (core cid : Nat) (w : World) : World :=
  match cmdAt w core cid, (w.module (modOf core)).devs.find? fun y => decide (y.core = core) && decide (y.cid = cid) with
  | some c, some y =>
    match y.status, y.recAt with
    | some st, _ => devDone w core c st
    | none, some _ => w
    | none, none =>
      match w.block? core c.owner with
      | none => w
      | some b =>
        match launchOf w core b.bind.lid with
        | none => devDone w core c (BitVec.ofNat 32 (statusWord 4 0x11 0))
        | some l =>
          let d := l.2.die
          let rcb := c.w6 + 2 ^ 32 * c.w7
          let own := dieOf core
          if !(reachable w own c.addr && reachable w own (c.addr + 79) && reachable w d rcb && (pathOf w d rcb).contains b.bind.rcb) then
            devDone w core c (BitVec.ofNat 32 (statusWord 4 0x11 0))
          else
            let head := recWord w d rcb 8 / 2 ^ 16
            let size := 2 ^ (min 12 (recWord w d rcb 8 % 16))
            let tail := recWord w d rcb 9 / 2 ^ 16
            if size ≤ (tail + 2 ^ 16 - head) % 2 ^ 16 then devDone w core c (BitVec.ofNat 32 (statusWord 4 0x12 0))
            else
              let dst := recPair w d rcb 6 + 80 * (tail % size)
              let w := (List.range 20).foldl (fun w i => dieWrite w d (dst + 4 * i) (leBytes 4 (recWord w own c.addr i))) w
              let w := dieWrite w d (rcb + 38) (leBytes 2 ((tail + 1) % 2 ^ 16))
              w.modModule (modOf core) fun m => { m with devs := m.devs.map fun (z : DevLaunch) =>
                if z.core = core && z.cid = cid then { z with recAt := some (d, dst) } else z }
  | _, _ => w

/-! ## Energy (R352) -/

/-- Weighted activity of a block. -/
def weightOf (a : Activity) : Nat :=
  let sum := fun (base : Nat) (t : Tab Nat) => t.foldl (fun n x => n + Config.activityWeight (base + x.1) * x.2) 0
  sum 0 a.lanes + Config.activityWeight 5 * a.tile + Config.activityWeight 6 * a.engine + Config.activityWeight 7 * a.landed + sum 8 a.array

/-- Regions active on cores with their weights: die and RCB. -/
def activeOn (w : World) (cores : List Nat) : List (Nat × Nat × Nat) :=
  cores.flatMap fun c =>
    let k := w.core c
    (k.acts.filterMap fun x => match k.blocks.find x.1 with
      | some b => (launchOf w c b.bind.lid).map fun l => (l.2.die, b.bind.rcb, weightOf x.2)
      | none => none) ++ k.endActs.map fun x => (x.1, x.2.1, weightOf x.2.2)

/-- Divide an island's energy among shares in proportion; the last one takes the remainder, so that the charges
sum to the measurement. -/
def shareOut (e total : Nat) : Nat → List (Nat × Nat × Nat) → List (Nat × Nat × Nat)
  | _, [] => []
  | left, [x] => [(x.1, x.2.1, left)]
  | left, x :: r => let y := min left (e * x.2.2 / total); (x.1, x.2.1, y) :: shareOut e total (left - y) r

/-- Root of the partition of a die: die and RCB. -/
def rootOf (w : World) (d : Nat) : Option (Nat × Nat) :=
  (partOf w d).bind fun p => (leadDie w (d / 4) p).bind fun l => ((w.module (d / 4)).roots.find p).map fun r => (l, r.rcb)

/-- Energy goes to the root of a die's partition (R352). -/
def chargeRoot (w : World) (d e : Nat) : World :=
  match rootOf w d with
  | some r => modRegion w (d / 4) r.1 r.2 fun x => { x with eused := x.eused + e }
  | none => w

/-- A sash of a die stands: the idle columns of its cores are toggled (R357). -/
def ballastRuns (w : World) (d : Nat) : Bool := w.mach.sashes.any fun x => decide (x.2.die = d) && x.2.paused

/-- A sash of a die has stopped in the last microsecond. -/
def ballastBegins (w : World) (d : Nat) : Bool :=
  w.mach.sashes.any fun x => decide (x.2.die = d) && x.2.paused && decide (sashGcc w x.2 < x.2.stopGcc + 940)

/-- Energy of a microsecond of ballast as its ramp stands: at the slope of 150 A per microsecond, or to zero within 20
microseconds where the module is above PCAP (R357). -/
def Die.ballast (x : Die) : Nat :=
  if x.balOver then x.balTop * (20 - x.balAge) / 20 else x.balTop - x.balAge * Config.ballastSlope

/-- The module is above PCAP: its 1 ms window has used more than the limit allows up to this microsecond (R357). -/
def Module.above (x : Module) : Bool := decide (x.limit * ((x.gcc / 940 + 999) % 1000) < x.spent)

/-- One microsecond of a die's ballast: a ramp begins where a sash has stopped or the module has come above PCAP or below it, and
goes on where sashes stand. What the columns that fall idle take is a free value (R357). -/
def ballastStep (above : Bool) (begins runs : Bool) (add : Nat) (x : Die) : Die :=
  if !runs then { x with balTop := 0, balAge := 0, balOver := false }
  else if begins then { x with balTop := x.ballast + add, balAge := 0, balOver := above }
  else if x.balOver ≠ above then { x with balTop := x.ballast, balAge := 0, balOver := above }
  else { x with balAge := x.balAge + 1 }

/-- Ballast energy of a die's last microsecond, as far as the window has room for it; it makes room for itself up to 60 mJ. It is
charged to the partition's root (R352, R357). -/
def ballastSample (m d : Nat) (w : World) : World :=
  let x := w.module m
  if !ballastRuns w d && decide ((w.die d).balTop = 0) then w
  else
  let w := (w.modDie d (ballastStep x.above (ballastBegins w d) (ballastRuns w d) (Config.ballastEnergy w.free))).step
  let b := (w.die d).ballast
  let b := min b (({ x with ballast := x.ballast + b } : Module).allowed - x.spent)
  if b = 0 then w else chargeRoot (w.modModule m fun x => { x with ballast := x.ballast + b, spent := x.spent + b }) d b

/-- ENERGY_SAMPLE: each island's energy of the last microsecond is charged to the blocks active on it, or to the
partition's root (R352). The measurement is a free value, as far as the window has room for it (R356). -/
def energySample (m : Nat) (w : World) : World :=
  let w := markSeen w m 1
  let w := (List.range 4).foldl (fun w i => ballastSample m (4 * m + i) w) w
  let w := (List.range 60).foldl (fun w i =>
    let d := 4 * m + i / 15
    let n := i % 15
    let e := min (Config.islandEnergy w.free i) ((w.module m).allowed - (w.module m).spent)
    let w := w.step.modModule m fun x => { x with spent := x.spent + e }
    let cores := ((if n < 12 then quadCores d (n % 4) else (List.range Config.coresPerDie).map fun c => d * Config.coresPerDie + c)).filter
      fun c => (w.mach.cores.find c).isSome
    let act := (activeOn w cores).filter fun x => decide (x.2.2 ≠ 0)
    let total := act.foldl (fun t x => t + x.2.2) 0
    if act.isEmpty then chargeRoot w d e
    else (shareOut e total e act).foldl (fun w x => modRegion w (x.1 / 4) x.1 x.2.1 fun r => { r with eused := r.eused + x.2.2 }) w) w
  let f := fun (x : Nat × Core) => if modOf x.1 = m then (x.1, { x.2 with acts := [], endActs := [] }) else x
  { w with mach := { w.mach with cores := w.mach.cores.map f } }

/-! ## The steps -/

/-- SCHEDULING_ROUND (R297). -/
def execSchedulingRound (m part : Nat) (s : State) : Host.Outcome State Fault Refusal := runEvent (schedulingRound m part) s
/-- BLOCK_START (R302). -/
def execBlockStart (c owner : Nat) (s : State) : Host.Outcome State Fault Refusal := runEvent (blockStart c owner) s
/-- TIMED_BLOCK_START (R302, R303). -/
def execTimedBlockStart (c owner : Nat) (s : State) : Host.Outcome State Fault Refusal := runEvent (timedStart c owner) s
/-- BLOCK_END (R256). -/
def execBlockEnd (c owner : Nat) (s : State) : Host.Outcome State Fault Refusal := runEvent (blockEnd c owner) s
/-- DEVICE_LAUNCH_COMPLETE (R238, R306). -/
def execDeviceLaunchComplete (c cid : Nat) (s : State) : Host.Outcome State Fault Refusal := runEvent (deviceLaunch c cid) s
/-- ENERGY_SAMPLE (R352). -/
def execEnergySample (m : Nat) (s : State) : Host.Outcome State Fault Refusal := runEvent (energySample m) s

end Sys2Proof.Machine
end

