-- ==== Sys2Proof/Machine/Contain.lean ====
section
/-! DEFINITION. The containment walk (R327 to R329): policies up the region tree, the work that runs again or is
passed over, and the end of a subtree. -/

namespace Sys2Proof.Machine

/-! ## Policies (R327) -/

/-- The region at which the walk stops, with its policy: kill parent passes on, and at the root it kills the root. -/
def policyAt (w : World) (d : Nat) : List Nat → Nat × Nat
  | [] => (0, 2)
  | [r] => (r, if polOf w d [r] = 3 then 2 else polOf w d [r])
  | r :: rest => if polOf w d (r :: rest) = 3 then policyAt w d rest else (r, polOf w d (r :: rest))

/-! ## Work that is passed over (R328) -/

/-- Zero in a destination of a lane: a word or pair 0, a predicate false. -/
def zeroWrites (d : Dst) (lane : Nat) : List Write :=
  match d with
  | .quad w => (List.range 4).map fun i => .lane lane (w + i) 0
  | d => dstWrites d lane 0

/-- An access that faulted has no effect, and its destination receives zero at its due cycle. -/
def ignoreAccess (c : Nat) (a : Access) (w : World) : World :=
  let vcc := vccOf w c
  let ws := match a.kind with
    | .store => []
    | .arm pm p => [.pred p pm 0]
    | .disarm => []
    | _ => zeroWrites a.dst a.lane
  let w := if ws.isEmpty then w else pushResult w c a.owner a.cr a.seq (max a.due vcc) a.from_ ws 0
  doneAcc w c { a with ticket := false } vcc 0

/-- A beat's record whose pages are mapped as the tables stand, for the zeros that end its copy. -/
def mappedBeat (w : World) (x : Beat) (ps : List Piece) : Beat :=
  let pages := locPages (ps.map fun p => (p.1, p.2.1.length))
  { x with xw := pages.filterMap fun p => match walkOut w p.1 p.2 with
      | .leaf l => if l.wr && !l.ex then some (p.1, p.2, Xlate.ok l) else none
      | _ => none }

/-- The remaining destination bytes of a copy receive zero, and it completes (R222); those of a host copy out do so unless
the link refused it. -/
def ignoreBeat (core : Nat) (c : Cmd) (refused : Bool) (w : World) : World :=
  match w.block? core c.owner with
  | none => w
  | some b =>
    let k := w.core core
    let n := beatCount k b c
    let flying := (k.beats.filter fun x => decide (x.cmd = c.id) && x.fin.isNone && !x.sent).map Beat.no
    let left := flying ++ (List.range (n - c.beats)).map (c.beats + ·)
    let w := left.foldl (fun w no =>
      let l := legOf (w.core core) b c no
      let zeros := List.replicate l.n (0 : Byte)
      let ps := legPieces w core b c l zeros []
      let x := mappedBeat w { id := 0, cmd := c.id, no := no, t := 0, rd := 0, wr := vccOf w core } ps
      let ok := fun (p : Piece) => match p.1 with
        | .tile _ _ => true
        | .mem _ _ => (locPages [(p.1, p.2.1.length)]).all fun q => x.xw.any fun y => decide (y.1 = q.1) && decide (y.2.1 / 2 ^ 14 = q.2 / 2 ^ 14)
        | _ => false
      let w := writePieces w core b c x (ps.filter ok)
      let w := if refused then w else ps.foldl (fun w p => match p.1 with
        | .host a => outsideWrite w .host (hostKey (modOf core) a) p.2.1
        | _ => w) w
      if c.phv then phaserDelivery w core c.owner c.ph l.n else w) w
    endCmd (w.modCore core fun k => { k with beats := k.beats.filter fun (x : Beat) => decide (x.cmd ≠ c.id) }) core c

/-- What the ignore policy does with a piece of faulted work. -/
def ignoreWork (c : Nat) (f : FaultRec) (w : World) : World :=
  match f.work with
  | .lanes g =>
    let lane := lowestLane f.mask
    match g.form.op with
    | .xlane _ =>
      let ready := g.cyc + lane + g.form.lat
      let off := fun (x : Flight) => if x.seq = g.seq && x.stride = 1 then
          { x with coll := x.coll.mapIdx fun i y => if i = lane then (false, y.2) else y } else x
      let w := w.modCore c fun k => { k with flights := k.flights.map off }
      if ((w.course? c g.owner g.cr).map fun k => laneOn k g lane).getD false then pushResult w c g.owner g.cr g.seq ready g.from_ (zeroWrites g.form.dst lane) 0
      else w
    | .mts _ => w
    | .rlwNext _ _ _ p =>
      pushResult w c g.owner g.cr g.seq (vccOf w c + g.form.lat) g.from_ (zeroWrites g.form.dst lane ++ [.pred p (laneBit lane) 0, .pred 6 (laneBit lane) 0]) 0
    | op =>
      let routed := fun (sp : Space) => match w.block? c g.owner with
        | some b => (route w c (vccOf w c) b g.cr lane sp f.info.toNat).due - vccOf w c
        | none => 448
      let lat := match op with
        | .load sp _ _ => routed sp
        | .rmw sp _ _ => routed sp
        | .tile _ lv _ _ => if lv = .ts then 8 else 10
        | .tatom _ _ => 8
        | _ => g.form.lat
      let ws := match op with
        | .store _ _ _ => []
        | .mcast _ _ => []
        | .tile false _ _ _ => []
        | .host false _ _ => []
        | _ => zeroWrites g.form.dst lane
      if ws.isEmpty then w else pushResult w c g.owner g.cr g.seq (vccOf w c + lat) g.from_ ws 0
  | .access aid =>
    match (w.core c).accs.find? fun a => decide (a.id = aid) with
    | some a => ignoreAccess c a w
    | none => w
  | .once cr _ _ ready zero => if zero.isEmpty then w else pushResult w c f.owner cr (w.core c).seq ready (pcIndex f.pc, f.word) zero 0
  | .beat bid =>
    match (w.core c).beats.find? fun x => decide (x.id = bid) with
    | some x => match cmdAt w c x.cmd with
      | some y => ignoreBeat c y false w
      | none => w
    | none => w
  | .hostCopy cid =>
    match cmdAt w c cid with
    | some y => ignoreBeat c y (decide (f.code = 0x03)) w
    | none => w
  | .follow cid =>
    match cmdAt w c cid with
    | some y => endCmd w c y
    | none => w
  | .array cid =>
    match cmdAt w c cid with
    | some y => endCmd w c y
    | none => w
  | _ => w

/-! ## Work that runs again (R328) -/

/-- Begin the translation of a faulted access again. -/
def retryAccess (c : Nat) (a : Access) (w : World) : World :=
  let vcc := vccOf w c
  let tile := decide (a.space = .ts) || decide (a.space = .acc)
  if a.space = .host then
    let due := w.later 0
    setAcc w.step c { a with logged := false, done := none, due := due }
  else if tile then setAcc w c { a with logged := false, cyc := vcc, due := max a.due vcc }
  else
    match w.block? c a.owner with
    | none => w
    | some b =>
      let off := a.off b
      let good := match a.space with
        | .die => decide (0 ≤ a.addr) && decide (a.addr < 2 ^ 46)
        | .fab => decide (0 ≤ a.addr) && decide (a.addr < 2 ^ 57) &&
            (match fabOwner w a.addr.toNat with | some o => fabOpen w (dieOf c) o | none => false)
        | _ => true
      let x := if good then startXlate w c a.home off a.kind.use false
        else (w, .bad 0x03)
      setAcc x.1 c { a with logged := false, ticket := false, xl := x.2, cyc := max a.cyc vcc, due := max a.due vcc }

/-- Begin the translations of a faulted beat again. -/
def retryBeat (core : Nat) (x : Beat) (w : World) : World :=
  let again := fun (r : World × List (Nat × Nat × Xlate)) (y : Nat × Nat × Xlate) (u : AccessUse) =>
    if y.2.1 < 2 ^ 46 then
      let z := startXlate r.1 core y.1 y.2.1 u false
      (z.1, r.2 ++ [(y.1, y.2.1, z.2)])
    else (r.1, r.2 ++ [y])
  if x.data.isNone then
    let r := x.xr.foldl (fun r y => again r y .engineRead) (w, [])
    setBeat r.1 core { x with xr := r.2 }
  else
    let r := x.xw.foldl (fun r y => again r y .engineWrite) (w, [])
    setBeat r.1 core { x with xw := r.2 }

/-- The slot that an instruction executed once stood at issues again at P. -/
def retryOnce (c : Nat) (f : FaultRec) (cr slot : Nat) (counted : Bool) (w : World) : World :=
  match w.course? c f.owner cr with
  | none => w
  | some k =>
    let n := pcIndex f.pc
    let w := modPath w c f.owner cr slot fun p =>
      { p with pc := n, turns := 0, fresh := true, st := .ready, bpSkip := some n }
    let w := if counted then w.modCourse c f.owner cr fun k => { k with dii := k.dii - 1 } else w
    w.modCore c fun x => x.setStr k.str { x.str k.str with last := none }

/-- What the retry policy does with a piece of faulted work. -/
def retryWork (c : Nat) (f : FaultRec) (w : World) : World :=
  match f.work with
  | .lanes g =>
    let lane := lowestLane f.mask
    match g.form.op with
    | .xlane _ =>
      if (w.core c).flights.any fun x => decide (x.seq = g.seq) && decide (x.stride = 1) then
        let back := fun (x : Flight) => if x.seq = g.seq && x.stride = 1 then { x with coll := g.coll, next := lane } else x
        w.modCore c fun k => { k with flights := k.flights.map back }
      else w.modCore c fun k => { k with
        results := k.results.filter fun (x : Result) => decide (x.seq ≠ g.seq)
        flights := k.flights ++ [{ g with next := lane }] }
    | _ =>
      if g.stride = 4 then
        let back := fun (x : Flight) => if x.seq = g.seq && x.stride = 4 then { x with next := lane, link := g.link } else x
        w.modCore c fun k => { k with flights := k.flights.map back }
      else w.modCore c fun k => { k with flights := k.flights ++ [{ g with next := lane, any := false, redo := laneBit lane, cyc := vccOf w c - lane }] }
  | .access aid =>
    match (w.core c).accs.find? fun a => decide (a.id = aid) with
    | some a => retryAccess c a w
    | none => w
  | .once cr slot counted _ _ => retryOnce c f cr slot counted w
  | .command y =>
    let y := { y with s := none, st := .waiting, start := vccOf w c }
    let w := if y.tgv then clearTag w c y.owner y.tag false else w
    w.modCore c fun k => { k with cmds := k.cmds ++ [y] }
  | .beat bid =>
    match (w.core c).beats.find? fun x => decide (x.id = bid) with
    | some x => match cmdAt w c x.cmd with
      | some y => retryBeat c x (setCmd w c { y with failed := false })
      | none => w
    | none => w
  | .hostCopy cid =>
    match cmdAt w c cid with
    | some y => let due := w.later 0; setCmd w.step c { y with failed := false, endAt := some due }
    | none => w
  | .follow cid =>
    match cmdAt w c cid with
    | some y => copyDone c { y with failed := false } w
    | none => w
  | .array cid => w.modCore c fun k => { k with arr := { k.arr with runs := k.arr.runs ++ [{ cmd := cid, s := vccOf w c }] } }
  | .landing _ => w
  | .none =>
    if f.src = 7 && f.code = 0x02 then w.modBlock c f.owner fun b => { b with started := false } else w

/-! ## The end of a subtree (R329) -/

/-- The 48 bytes of a fault record, as twelve words (R325). -/
def FaultRec.words (f : FaultRec) : List Nat :=
  [f.code * 2 ^ 24 + f.sub * 2 ^ 20 + f.src * 2 ^ 17 + f.cr % 32 * 2 ^ 12 + f.path % 32 * 2 ^ 7, f.mask.toNat] ++ lohi f.pc.toNat ++
    [f.word.toNat, (if f.tgv then f.tag % 64 * 2 ^ 26 + 2 ^ 25 else 0)] ++ lohi f.vcc.toNat ++ lohi f.info.toNat ++ [f.bk.toNat, f.lid.toNat]

/-- The next outbound message of a module moves up (R364). -/
def pumpOut (w : World) (m : Nat) : World := w.modModule m Module.pump

/-- A notice for the host waits among the outbound messages; when the firmware holds 256, it is counted and
dropped (R364). -/
def postNotice (w : World) (m : Nat) (words : List Nat) : World :=
  pumpOut (w.modModule m fun x =>
    if Config.outboundMax ≤ x.outq.length then { x with lost := min (x.lost + 1) (2 ^ 32 - 1) }
    else { x with outq := x.outq ++ [words.map (BitVec.ofNat 32)] }) m

/-- A block that containment ends leaves its core, but for atomics of it that are on their way to another die (R251). -/
def endBlock (c o : Nat) (w : World) : World :=
  let w := releaseBlock c o w
  let going := fun (a : Access) => decide (a.owner = o) && a.sent && a.done.isNone
  if (w.core c).accs.any going then
    dropStale c (w.modCore c fun k => { k with
      flights := k.flights.filter fun (x : Flight) => decide (x.owner ≠ o)
      accs := k.accs.filter fun (x : Access) => decide (x.owner ≠ o) || going x })
  else dropBlock c o w

/-- End one block at the cut at which its sash stands: its commands perform nothing more, its landings are
discarded and counted (R329). -/
def killBlock (c o : Nat) (w : World) : World :=
  match w.block? c o with
  | none => w
  | some b =>
    let k := w.core c
    let mine := (k.cmds.filter fun x => decide (x.owner = o)).map Cmd.id
    let arms := k.arms.filter fun a => decide (a.owner = o)
    let gone := arms.filterMap fun a => matchOf k a
    let w := if gone.isEmpty then w else discard w c o gone.length
    let w := w.modCore c fun k => { k with
      cmds := k.cmds.filter fun (x : Cmd) => decide (x.owner ≠ o)
      beats := k.beats.filter fun (x : Beat) => !mine.contains x.cmd
      arr := { k.arr with runs := k.arr.runs.filter fun (r : MxRun) => !mine.contains r.cmd }
      arms := k.arms.filter fun (a : Arm) => decide (a.owner ≠ o)
      msgs := k.msgs.filter fun (x : Msg) => !(gone.any fun g => decide (g.id = x.id))
      landUsed := arms.foldl (fun n a => if a.room then n - a.size else n) k.landUsed
      faults := k.faults.filter fun (f : FaultRec) => decide (f.owner ≠ o)
      waiting := k.waiting.filter fun (f : FaultRec) => decide (f.owner ≠ o)
      pardons := k.pardons.filter fun (f : FaultRec) => decide (f.owner ≠ o)
      passed := k.passed.filter fun (f : FaultRec) => decide (f.owner ≠ o) }
    let w := dropMessages c o w
    let w := match launchOf w c b.bind.lid, w.block? c o with
      | some l, some b => settleBlock c b l.1 l.2 w
      | _, _ => w
    let w := grantRoom c (endBlock c o w)
    setLevel (noteEnd c b.bind.lid true w) c

/-- A core without blocks lets its sash go when it stands for no other cause than its faults (R300, R329). -/
def dropEmptySash (c : Nat) (w : World) : World :=
  match (w.core c).sash with
  | none => w
  | some i =>
    if !(w.core c).blocks.isEmpty then w
    else match w.sash? i with
      | none => w
      | some s =>
        if s.causes.any fun x => (match x.src with | .fault _ => false | _ => true) then w
        else
          leaveSash c w

/-- End every launch of a region's subtree, and tell the host (R329). -/
def killSubtree (m d r part : Nat) (f : FaultRec) (w : World) : World :=
  let inside := fun (l : Launch) => decide (l.die = d) && (pathOf w d l.rcb).contains r
  let ls := (w.module m).launches.filter inside
  let lids := ls.map Launch.lid
  let hit := w.mach.cores.flatMap fun x => (x.2.live.filter fun b => lids.contains b.2.bind.lid &&
      (match launchOf w x.1 b.2.bind.lid with | some l => decide (l.1 = m) && inside l.2 | none => false)).map fun b => (x.1, b.1)
  let w := hit.foldl (fun w p => killBlock p.1 p.2 w) w
  let w := hit.foldl (fun w p => dropEmptySash p.1 w) (releaseOrphans w)
  let gone := fun (v : Saved) => ls.find? fun l => decide (l.lid = v.lid) && decide (partOf w v.die = some l.part)
  let w := ((w.module m).saved).foldl (fun w v => match gone v with | some l => addCounts m l v.block w | none => w) w
  let w := w.modModule m fun x => { x with
    saved := x.saved.filter fun (v : Saved) => (gone v).isNone
    regions := x.regions.map fun (y : Region) => if y.die = d && (pathOf w d y.rcb).contains r then { y with ended := true } else y }
  -- descendants that the last round has not met yet are ended too
  let below := walkTree w d maxRegions ([recPair w d r 2].filter fun x => decide (x ≠ 0))
  let w := (r :: below).foldl (fun w y => modRegion w m d y fun z => { z with ended := true }) w
  let w := ls.foldl (fun w l => forgetLaunch l.die l.lid (retire w m { l with state := 5, fault := f.code })) w
  postNotice w m ([0x82 * 2 ^ 24 + part * 2 ^ 16] ++ lohi r ++ f.words)

/-! ## CONTAINMENT_WALK (R327) -/

/-- The retry of a record that was written at the cut before its cycle: the cycle runs again whole, so only what a table
or a fetch refused is asked for anew. -/
def retryCut (c : Nat) (f : FaultRec) (w : World) : World :=
  match f.work with
  | .access aid => (aid :: f.also).foldl (fun w a => retryWork c { f with work := .access a } w) w
  | .beat _ => retryWork c f w
  | .once cr slot _ _ _ => modPath w c f.owner cr slot fun p => match p.fetch with
      | .bad _ => { p with fetch := .idle }
      | _ => p
  | _ => w

/-- The retry of a record (R328). -/
def retryRecord (c : Nat) (f : FaultRec) (w : World) : World := if f.cut then retryCut c f w else retryWork c f w

/-- The ignore policy on a record (R328): its work is passed over now, or, for a record written at the cut, when the cycle
runs and the work comes up. -/
def ignoreRecord (c : Nat) (f : FaultRec) (w : World) : World :=
  if f.cut then w.modCore c fun k => { k with pardons := k.pardons ++ [f] } else ignoreWork c f w

/-- The management core handles the oldest record of a core, and the pause ends with the last one (R324). Work that the
ignore policy has passed over at this cut gets what R328 says first. -/
def containmentWalk (c : Nat) (w : World) : World :=
  match (w.core c).passed with
  | f :: rest => ignoreWork c f (w.modCore c fun k => { k with passed := rest })
  | [] =>
  match (w.core c).faults with
  | [] => clearCause w c (.fault c)
  | f :: _ =>
    let w := w.modCore c Core.popFault
    let w := match w.block? c f.owner with
      | none => w
      | some b =>
        match launchOf w c b.bind.lid with
        | none => ignoreRecord c f w
        | some l =>
          let d := l.2.die
          let p := policyAt w d (pathOf w d b.bind.rcb)
          let w := modRegion w l.1 d p.1 fun r => { r with faults := r.faults + 1 }
          if p.2 = 1 && decide (b.retries < retryOf w d (pathOf w d p.1)) then
            retryRecord c f (w.setBlock c f.owner { b with retries := b.retries + 1 })
          else if p.2 = 0 then ignoreRecord c f w
          else
            let w := killSubtree l.1 d p.1 l.2.part f w
            if (w.block? c f.owner).isSome then ignoreRecord c f w else w
    if (w.core c).faults.isEmpty then clearCause w c (.fault c) else w

/-- CONTAINMENT_WALK (R327). -/
def execContainmentWalk (c : Nat) (s : State) : Host.Outcome State Fault Refusal := runEvent (containmentWalk c) s

end Sys2Proof.Machine
end

