-- ==== Sys2Proof/Machine/Preempt.lean ====
section
/-! DEFINITION. Pre-emption and restore (R334 to R339): the cut, the save into the context area, the restore on a
core of the block's die, and the pre-emption of a timed launch. -/

namespace Sys2Proof.Machine

/-! ## The context area (R334 to R336) -/

/-- Bytes of a stretch of a die's space, page by page, as the management core reads them: 0 from a page that refuses the read or
that the page service has not brought (R181, R313, R317). -/
def readSpace (w : World) (d : Nat) : Nat → Nat → Nat → List Byte
  | 0, _, _ => []
  | k + 1, off, n =>
    if n = 0 then []
    else
      let m := min n (2 ^ 14 - off % 2 ^ 14)
      (match walkOut w d off with
        | .leaf l => if l.refuses .read true true then List.replicate m 0 else let p := l.place d off; w.mem.bytes p.1 p.2 m
        | _ => List.replicate m 0) ++ readSpace w d k (off + m) (n - m)

/-- The same for a whole stretch. -/
def spaceBytes (w : World) (d off n : Nat) : List Byte := readSpace w d (n / 2 ^ 14 + 2) off n

/-- Pages of a stretch that the tables hold absent. -/
def absentPages (w : World) (d off n : Nat) : List Nat :=
  ((List.range ((off + n + 2 ^ 14 - 1) / 2 ^ 14 - off / 2 ^ 14)).map fun i => (off / 2 ^ 14 + i) * 2 ^ 14).filter fun a =>
    match walkOut w d a with
    | .absent _ _ => true
    | _ => false

/-- Records of the accesses that a cut leaves of a block (R337). -/
def accessRecs (k : Core) (o p : Nat) : List FlightRec :=
  (k.accs.filter fun a => decide (a.owner = o) && a.done.isNone).map fun a => a.record ((a.point : Int) - (p : Int))

/-- The record of one write of a pending result. A special register has no DKIND: its result has no record (log entry 34). -/
def Write.record (r : Result) (p : Nat) (x : Write) : Option FlightRec :=
  let base : FlightRec := { word := r.word.toNat, kind := 6, due := (r.ready : Int) - (p : Int), mask := 0, pc := (pcWord r.pc).toNat }
  match x with
  | .lane j n v => some { base with lane := j, dest := n, mask := (laneBit j).toNat, data := v.toNat }
  | .pred q m v => some { base with dkind := 1, dest := q.toNat, mask := m.toNat, data := v.toNat }
  | .uni n v => some { base with dkind := 2, dest := n, data := v.toNat }
  | .sr _ _ => none

/-- Records of pending results. -/
def resultRecs (rs : List Result) (p : Nat) : List FlightRec := rs.flatMap fun r => r.writes.filterMap fun x => x.record r p

/-- Records of instructions with lanes that have not executed. -/
def sweepRecs (fs : List Flight) (p : Nat) : List FlightRec :=
  fs.map fun f =>
    let d := dstCode f.form.dst
    { word := f.word.toNat, kind := 7, dkind := d.1, dest := d.2, pred := f.pred.toNat, neg := f.neg, due := (f.cyc : Int) - (p : Int),
      mask := ((lanesOf f.mask).filter fun j => decide (f.next ≤ j)).foldl (fun m j => m + 2 ^ j) 0, addr := f.link.toNat,
      pc := (pcWord f.pc).toNat }

/-- Records of the work that a cut leaves of a block (R337). -/
def flightRecs (k : Core) (o p : Nat) : List FlightRec :=
  accessRecs k o p ++ resultRecs (k.results.filter fun r => decide (r.owner = o)) p ++ sweepRecs (k.flights.filter fun f => decide (f.owner = o)) p

/-- The block section (R335). -/
def blockImage (w : World) (c : Nat) (b : Block) (p n : Nat) : List (Nat × List Byte) :=
  let k := w.core c
  let strs := ((List.range 32).filterMap fun r => (w.course? c b.bind.owner r).map Course.str).eraseDups
  let pool := fun (r : Nat) => match w.course? c b.bind.owner r with
    | some x => if ((List.range r).any fun q => ((w.course? c b.bind.owner q).map fun y => decide (y.str = x.str)).getD false) then 0
      else (b.pools.find x.str).getD 0
    | none => 0
  let walker := fun (s : Nat) => let x := (k.str s).walker; if x.valid && x.owner = b.bind.owner then [x.t, x.nr, x.pos, 1] else [0, 0, 0, 0]
  let ph := fun (i : Nat) => let x := b.phaser i
    [x.phase.toNat, x.bal.toNat, x.sig.toNat, x.wait.toNat, x.arr.toNat, 0, 0, 0] ++ (List.range 32).map fun r => ((x.wph.find r).getD 0).toNat
  [(0, wordBytes ([0x4358 * 2 ^ 16 + 2 ^ 8 + 2 ^ 7, 2 ^ 7 + b.key] ++ lohi b.bseed.toNat ++ [b.mxe1.toNat, b.mxe0.toNat] ++
      lohi (blockTags k b).toNat ++ [b.retries, n] ++ lohi p)),
   (0x100, wordBytes (strs.flatMap walker)),
   (0x180, wordBytes ((List.range 32).map pool)),
   (0x200, wordBytes ((List.range 16).flatMap ph)),
   (0x1000, (List.range b.hdr.handles).flatMap fun h => leBytes 16 (descOf k b h).bits)]

/-- A course section (R336). -/
def courseImage (k : Course) (p : Nat) : List (Nat × List Byte) :=
  let exp := if k.part = 2 then 1 else if k.part = 4 then 2 else if k.part = 8 then 3 else if k.part = 16 then 4 else 5
  let off := fun (x : Option Path) => match x with
    | some q => (BitVec.ofInt 16 ((q.lastIssue : Int) - (p : Int))).toNat
    | none => 0
  let slot := fun (x : Option Path) => match x with | some q => pathWords k q | none => List.replicate 8 0
  [(0, wordBytes ([(if k.gone then 2 ^ 31 else 0) + (if k.handler.isSome then 2 ^ 30 else 0) + k.stack.length % 32 * 2 ^ 25
        + k.allot / 32 % 32 * 2 ^ 20 + k.wb / 32 % 16 * 2 ^ 15 + exp * 2 ^ 12, k.live.toNat, k.fpst.toNat, k.tcause.toNat] ++
      lohi k.seed.toNat ++ lohi k.dii.toNat ++ lohi k.tpc.toNat ++ lohi k.bro.toNat ++
      [(if k.shutter.isSome then 2 ^ 31 else 0) + (if k.stepT.isSome then 2 ^ 30 else 0) + (if k.watchT.isSome then 2 ^ 29 else 0)
        + (if k.shutter = some true then 2 ^ 28 else 0) + (k.stepT.getD 0) % 2 ^ 10 * 2 ^ 10 + (k.watchT.getD 0) % 2 ^ 10,
       off k.slot1 * 2 ^ 16 + off k.slot0])),
   (0x80, (List.range 32).map fun j => BitVec.ofNat 8 ((List.range 7).foldl (fun v q => v + (if (k.pred (BitVec.ofNat 3 q)).getLsbD j then 2 ^ q else 0)) 0)),
   (0xA0, wordBytes (slot k.slot0 ++ slot k.slot1)),
   (0x100, wordBytes ((k.tokens.zipIdx.take 16).flatMap fun t => lohi (pcWord t.1.jaddr).toNat ++ [t.1.hold.toNat, t.1.parked.toNat, t.2, 0, 0, 0])),
   (0x400, wordBytes ((List.range 128).map fun n => (k.uni n).toNat)),
   (0x800, stackBytes k)]

/-- A course's registers: word w of lane j at 128w + 4j (R334). -/
def regImage (k : Course) : List Byte :=
  wordBytes ((List.range k.allot).flatMap fun n => (List.range 32).map fun j => (k.reg n j).toNat)

/-! ## The cut and the save (R337) -/

/-- PREEMPT_CUT: the cut P of a block is the present cycle. A die that records logs it, and a replay has used the record (R387,
R388). -/
def preemptCut (c o : Nat) (w : World) : World :=
  let logged := decide ((w.die (dieOf c)).recMode = 2)
  match w.block? c o with
  | none => w
  | some b =>
    if b.preempt = .asked || (logged && decide (b.preempt = .none)) then logPlace (w.setBlock c o { b with preempt := .cut (vccOf w c) }) c o else w

/-- A course as it is saved: a monitor wait returns false, fetches begin again (R305). -/
def savedCourse (k : Course) : Course :=
  let end_ := fun (k : Course) (x : Nat × Path) => match x.2.st with
    | .waiting (.mon q _) => k.setPred q x.2.mask 0
    | _ => k
  let k := k.paths.foldl end_ k
  k.mapPaths fun p =>
    let st := match p.st with | .waiting (.mon _ _) => PathSt.ready | s => s
    { p with st := st, fetch := .idle }

/-- The course section of a course whose slot and registers are released: it has exited, and its `%bro` is kept (R340). -/
def releasedImage (bro : W64) : List (Nat × List Byte) := [(0, wordBytes [2 ^ 31, 0]), (0x28, leBytes 8 bro.toNat)]

/-- PREEMPT_SAVE: the sections of R334 are written, and the block leaves its core. It waits for pages of the area that are absent
(R317); where the tables refuse the area, the save faults and the block stays (R313). -/
def preemptSave (c o : Nat) (w : World) : World :=
  match w.block? c o with
  | none => w
  | some b =>
    match b.preempt with
    | .cut p =>
      let d := dieOf c
      let away := absentPages w d b.bind.ctx (ctxMap b.hdr).lane
      if ctxRefused w d b.bind.ctx (ctxMap b.hdr).lane true then ctxFault (w.setBlock c o { b with preempt := .none }) c b b.bind.ctx
      else if !away.isEmpty then away.foldl (fun w off => ctxPage c b true none off [] w) w
      else
      let k := w.core c
      let m := ctxMap b.hdr
      let ks := (List.range 32).filterMap fun r => w.course? c o r
      let recs := flightRecs k o p
      let tiles := (List.range b.hdr.handles).filterMap fun h => (k.tiles.find (b.bind.hb + h)).map fun t => (h, t)
      let v : Saved := {
        die := d
        core := c
        lid := b.bind.lid
        block := { b with preempt := .none }
        courses := ks.map savedCourse
        flights := k.flights.filter fun f => decide (f.owner = o)
        results := k.results.filter fun r => decide (r.owner = o)
        accs := k.accs.filter fun a => decide (a.owner = o) && a.done.isNone
        tiles := tiles
        tags := blockTags k b
        walkers := k.strs.filterMap fun s => if s.2.walker.valid && s.2.walker.owner = o then some (s.1, s.2.walker) else none
        cols := (ks.map Course.str).eraseDups.map fun s => (s, k.str s)
        p := p }
      let put := fun (base : Nat) (w : World) (x : Nat × List Byte) => ctxWrite b d (base + x.1) x.2 w
      let w := (blockImage w c b p recs.length).foldl (put 0) w
      let w := ks.foldl (fun w x => (courseImage (savedCourse x) p).foldl (put (m.course + 4096 * x.cr)) w) w
      let w := b.bros.foldl (fun w x => (releasedImage x.2).foldl (put (m.course + 4096 * x.1)) w) w
      let w := ctxWrite b d m.flight (wordBytes (recs.flatMap FlightRec.words)) w
      let w := ks.foldl (fun w x => ctxWrite b d (m.regs + 65536 * x.cr) (regImage x) w) w
      let w := ctxWrite b d m.ts (w.mem.bytes .ts (levelKey 0 c (256 * b.bind.tsbb)) b.hdr.tsb) w
      let w := ctxWrite b d m.acc (w.mem.bytes .acc (levelKey 1 c (256 * b.bind.accb)) (b.hdr.acc * 1024)) w
      let w := tiles.foldl (fun w t =>
        if t.2.valid && t.2.level = 2 && t.2.save then
          ctxWrite b d (m.trn + 256 * (t.2.base - b.bind.trnb)) (w.mem.bytes .trn (levelKey 2 c (256 * t.2.base)) t.2.area) w
        else w) w
      let w := match launchOf w c b.bind.lid with
        | some l => unbindBlock c o l.1 l.2.die b.bind.rcb l.2.hdr (w.modModule (modOf c) fun x => { x with saved := x.saved ++ [v] })
        | none => w
      setLevel (clearBlock c o w) c
    | _ => w

/-! ## Restore (R338) -/

/-- A section of a context area, which the save wrote as `bs`, as it stands. -/
def ctxOver (w : World) (d ctx at_ : Nat) (bs : List Byte) : List Byte := spaceBytes w d (ctx + at_) bs.length

/-- Word `i` of a section, and the 64 bits at words `i` and `i + 1`. -/
def secWord (bs : List Byte) (i : Nat) : W32 := BitVec.ofNat 32 (leNat ((bs.drop (4 * i)).take 4))
def secPair (bs : List Byte) (i : Nat) : W64 := BitVec.ofNat 64 (leNat ((bs.drop (4 * i)).take 8))

/-- A table of the words of a section from its start, `n` of them. -/
def secTab (bs : List Byte) (n : Nat) : Tab W32 :=
  (List.range n).filterMap fun i => if secWord bs i = 0 then none else some (i, secWord bs i)

/-- A path takes mask, PC and state from its saved record (R28): the PC where that is the PC of a slot, a mask that holds a lane.
What a waiting path waits for stands in no record (log entry 34). -/
def Path.load (p : Path) (bs : List Byte) (i : Nat) : Path :=
  let v := secPair bs (8 * i + 1)
  let m := secWord bs (8 * i)
  { p with
    mask := if m = 0 then p.mask else m
    pc := if pcGood v then pcIndex v else p.pc
    st := match (secWord bs (8 * i + 3)).toNat % 4, p.st with
      | 0, _ => .ready
      | 1, _ => .parked
      | _, x => x }

/-- The join tokens of a course from their records, by AGE (R336). -/
def loadTokens (bs : List Byte) (l : List Token) : List Token :=
  (sortBy (fun a b => decide (a.1 ≤ b.1)) (l.zipIdx.map fun x =>
    let v := secPair bs (8 * x.2)
    ((secWord bs (8 * x.2 + 4)).toNat, { jaddr := if pcGood v then pcIndex v else x.1.jaddr, hold := secWord bs (8 * x.2 + 2), parked := secWord bs (8 * x.2 + 3) }))).map Prod.snd

/-- A course takes its registers and what its section holds (R334, R336). How many paths and tokens it has, and what its paths
wait for, the model keeps beside the area (log entry 34). -/
def loadCourse (w : World) (d ctx p : Nat) (m : CtxMap) (k : Course) : Course :=
  let sec := fun (n : Nat) => match (courseImage k p)[n]? with
    | some x => ctxOver w d ctx (m.course + 4096 * k.cr + x.1) x.2
    | none => []
  let s := sec 0
  let t := (secWord s 12).toNat
  let preds := sec 1
  let regs := ctxOver w d ctx (m.regs + 65536 * k.cr) (regImage k)
  let h := (secWord s 0).toNat
  { k with
    wb := 32 * field h 18 15
    allot := 32 * field h 24 20
    part := 2 ^ field h 14 12
    live := secWord s 1
    tokens := loadTokens (sec 3) k.tokens
    fpst := secWord s 2
    tcause := secWord s 3
    seed := secPair s 4
    dii := secPair s 6
    tpc := secPair s 8
    bro := secPair s 10
    shutter := k.shutter.map fun _ => flag t 28
    stepT := k.stepT.map fun _ => field t 19 10
    watchT := k.watchT.map fun _ => field t 9 0
    preds := ((List.range 7).map fun q => (q, (List.range 32).foldl (fun (v : LaneMask) j =>
      if ((preds.getD j 0).getLsbD q) then v ||| laneBit j else v) 0)).filter fun x => decide (x.2 ≠ 0)
    slot0 := k.slot0.map fun q => q.load (sec 2) 0
    slot1 := k.slot1.map fun q => q.load (sec 2) 1
    k := secTab (sec 4) 128
    stack := k.stack.zipIdx.map fun q => q.1.load (sec 5) q.2
    regs := secTab regs (32 * k.allot) }

/-- A descriptor from its 128 bits, for a block with another index; when lane accesses see it stays (R191, R193). -/
def Desc.ofBits (v o since : Nat) : Desc :=
  { valid := flag v 0, land := flag v 7, watch := flag v 8, save := flag v 9, level := field v 11 10, fmt := field v 15 12, rows := field v 31 16,
    cols := field v 47 32, base := field v 63 48, scv := flag v 64, sblk := flag v 65, owner := o, scale := field v 79 72, stamp := field v 127 80,
    since := since }

/-- What the block section holds (R335): the block, its tag bits, its descriptors and its walkers, of which the model keeps
which there are and the lengths that a walker has read. -/
def loadBlock (w : World) (v : Saved) (o : Nat) : Block × W64 × List (Nat × Desc) × List (Nat × Walker) :=
  let b := v.block
  let ctx := b.bind.ctx
  let at_ := fun (off n : Nat) (dflt : List Byte) => ctxOver w v.die ctx off (dflt ++ List.replicate (n - dflt.length) 0)
  let head := at_ 0 0x30 (wordBytes ([0, 2 ^ 7 + b.key] ++ lohi b.bseed.toNat ++ [b.mxe1.toNat, b.mxe0.toNat] ++ lohi v.tags.toNat ++ [b.retries, 0] ++ lohi v.p))
  let strs := (v.courses.map Course.str).eraseDups
  let wkOf := fun (s : Nat) => (v.walkers.find? fun x => decide (x.1 = s)).map Prod.snd
  let walk := at_ 0x100 128 (wordBytes (strs.flatMap fun s => match wkOf s with | some x => [x.t, x.nr, x.pos, 1] | none => [0, 0, 0, 0]))
  let low := fun (s : Nat) => ((v.courses.filter fun x => decide (x.str = s)).map Course.cr).foldl min 31
  let pools := at_ 0x180 128 (wordBytes ((List.range 32).map fun r =>
    ((strs.find? fun s => decide (low s = r)).bind fun s => b.pools.find s).getD 0))
  let ph := at_ 0x200 2560 (wordBytes ((List.range 16).flatMap fun i => let x := b.phaser i
    [x.phase.toNat, x.bal.toNat, x.sig.toNat, x.wait.toNat, x.arr.toNat, 0, 0, 0] ++ (List.range 32).map fun r => ((x.wph.find r).getD 0).toNat))
  let desc := fun (h : Nat) (t : Desc) => Desc.ofBits (leNat (at_ (0x1000 + 16 * h) 16 (leBytes 16 t.bits))) o t.since
  ({ b with
     key := (secWord head 1).toNat % 32
     bseed := secPair head 2
     mxe1 := secWord head 4
     mxe0 := secWord head 5
     retries := (secWord head 8).toNat % 16
     pools := b.pools.map fun (x : Nat × Nat) => (x.1, (secWord pools (low x.1)).toNat)
     phasers := b.phasers.map fun (x : Nat × Phaser) =>
       let s := ph.drop (160 * x.1)
       (x.1, { phase := secWord s 0, bal := secWord s 1, sig := secWord s 2, wait := secWord s 3, arr := secWord s 4, wph := secTab (s.drop 32) 32 }) },
   secPair head 6,
   v.tiles.map fun t => (t.1, desc t.1 t.2),
   v.walkers.map fun x =>
     let s := walk.drop (16 * (strs.idxOf x.1))
     (x.1, { x.2 with t := (secWord s 0).toNat, nr := (secWord s 1).toNat, pos := (secWord s 2).toNat }))

/-- A pending write with the value of its record. -/
def Write.withData : Write → W64 → Write
  | .lane j n _, v => .lane j n (v.truncate 32)
  | .pred q m _, v => .pred q m (v.truncate 32)
  | .uni n _, v => .uni n (v.truncate 32)
  | .sr n x, _ => .sr n x

/-- Pending writes with the values of the records from record `i` on, and the next record. -/
def loadWrites (recs : Nat → List Byte) : Nat → List Write → Nat × List Write
  | i, [] => (i, [])
  | i, .sr n v :: r => let z := loadWrites recs i r; (z.1, .sr n v :: z.2)
  | i, x :: r => let z := loadWrites recs (i + 1) r; (z.1, x.withData (secPair (recs i) 6) :: z.2)

/-- DUE of a record, as a cycle counted from the cut P. -/
def recDue (p : Nat) (bs : List Byte) : Nat := ((p : Int) + (secWord bs 2).toInt).toNat

/-- Pending results with the values and the cycles of their records. -/
def loadResults (p : Nat) (recs : Nat → List Byte) : Nat → List Result → List Result
  | _, [] => []
  | i, r :: rest =>
    let z := loadWrites recs i r.writes
    { r with writes := z.2, ready := if z.1 = i then r.ready else recDue p (recs i) } :: loadResults p recs z.1 rest

/-- An access with DUE, LANE, ADDR, DATA and AUX of its record (R330). -/
def Access.load (p : Nat) (a : Access) (bs : List Byte) : Access :=
  let due := recDue p bs
  let v := secPair bs 4
  { a with
    cyc := a.cyc + due - a.point
    due := a.due + due - a.point
    lane := field (secWord bs 1).toNat 27 23
    addr := if v = BitVec.ofInt 64 a.addr then a.addr else v.toNat
    data := secPair bs 6
    data2 := secPair bs 10 }

/-- A sweep with DUE, MASK and link of its record (R330). -/
def Flight.load (p : Nat) (f : Flight) (bs : List Byte) : Flight :=
  { f with
    cyc := recDue p bs
    mask := secWord bs 3 ||| ((lanesOf f.mask).filter fun j => decide (j < f.next)).foldl (fun m j => m ||| laneBit j) (0 : LaneMask)
    link := secPair bs 4 }

/-- The saved block with what its context area holds now (R338): registers, tables and flight records. Work whose record the area
does not hold as a saved context (R335) keeps its shape. -/
def Saved.loaded (w : World) (v : Saved) (o : Nat) : Saved :=
  let m := ctxMap v.block.hdr
  let ctx := v.block.bind.ctx
  let accs := v.accs.map fun a => a.record ((a.point : Int) - (v.p : Int))
  let all := accs ++ resultRecs v.results v.p ++ sweepRecs v.flights v.p
  let bytes := ctxOver w v.die ctx m.flight (wordBytes (all.flatMap FlightRec.words))
  let recs := fun (i : Nat) => (bytes.drop (48 * i)).take 48
  let nr := all.length - v.flights.length
  let b := loadBlock w v o
  let good := decide (field (secWord (spaceBytes w v.die ctx 4) 0).toNat 31 16 = 0x4358)
  { v with
    block := b.1
    tags := b.2.1
    tiles := b.2.2.1
    walkers := b.2.2.2
    courses := v.courses.map fun k =>
      let x := loadCourse w v.die ctx v.p m k
      if good then x else { x with allot := k.allot, part := k.part, live := k.live, tokens := k.tokens, slot0 := k.slot0, slot1 := k.slot1, stack := k.stack }
    accs := if good then v.accs.zipIdx.map fun x => x.1.load v.p (recs x.2) else v.accs
    results := if good then loadResults v.p recs v.accs.length v.results else v.results
    flights := if good then v.flights.zipIdx.map fun x => x.1.load v.p (recs (nr + x.2)) else v.flights }

/-- Move a cycle from the old sash to the new one. -/
def moveCyc (p q n : Nat) : Nat := n + q - p

/-- Renumber a mark. -/
def Mark.shift (n : Nat) : Mark → Mark
  | .performed s sc ids => .performed (s + n) sc ids
  | .applied s => .applied (s + n)

/-- New strings for the old ones of a saved block, with every position moved by the same amount, so that turns keep
their offsets from the cut. A sweep that goes on needs its chain column for itself (R21). -/
def stringMap (k : Core) (v : Saved) (q delta : Nat) : Option (List (Nat × Nat)) :=
  let olds := (v.courses.map Course.str).eraseDups
  olds.foldl (fun r s => match r with
    | none => none
    | some m =>
      let need := (v.courses.filter fun x => decide (x.str = s)).map fun x => (x.rot + delta) % x.drot
      let sweeps := v.cols.any fun x => decide (x.1 = s) && decide (v.p < x.2.chain)
      let free := fun (n : Nat) => !(m.any fun y => decide (y.2 = n)) && (!sweeps || decide ((k.str n).chain ≤ q)) &&
        (List.range 8).all (fun r => ((k.slots.find (8 * n + r)).map fun b => decide (b.rot = v.block.hdr.rot)).getD true) &&
        need.all fun r => (k.slots.find (8 * n + r)).isNone
      ((List.range 8).find? free).map fun n => m ++ [(s, n)]) (some [])

/-- The core, the areas and the strings that a saved block goes to. -/
def restorePlace (w : World) (l : Launch) (v : Saved) : Option (Fit × List (Nat × Nat)) :=
  (coresBack w (v.die / 4) l v).findSome? fun c =>
    match fitOn w c v.block.hdr with
      | none => none
      | some f =>
        let q := if (w.core c).sash.isSome then vccOf w c else gccOf w c
        let n := v.block.hdr.drot
        (stringMap (w.core c) v q ((q + n * v.p - v.p) % n)).map fun m => (f, m)

/-- Absent pages of a saved block's area that the page service has not failed: they are asked for, and the restore waits (R317). -/
def askPages (m idx c : Nat) (v : Saved) (l : List Nat) (w : World) : World :=
  let r := l.foldl (fun (r : World × List (Nat × Nat × Xlate)) off =>
    if r.2.any fun y => decide (y.2.1 = off) && (match y.2.2 with | .wait _ _ => true | _ => false) then r
    else let x := startXlate r.1 c v.die off .read false; (x.1, (r.2.filter fun y => decide (y.2.1 ≠ off)) ++ [(v.die, off, x.2)])) (w, v.pages)
  r.1.modModule m fun x => { x with saved := x.saved.set idx { v with pages := r.2, again := false } }

/-- RESTORE: a saved block is bound again, and everything keeps its distance in cycles from the cut (R338). -/
def restore (m idx : Nat) (w : World) : World :=
  match (w.module m).saved[idx]? with
  | none => w
  | some v =>
    match (w.module m).launches.find? fun l => decide (l.lid = v.lid) && (partOf w v.die == some l.part) with
    | none => w.modModule m fun x => { x with saved := x.saved.eraseIdx idx }
    | some l =>
      match restorePlace w l v with
      | none => w.modModule m fun x => { x with saved := x.saved.map fun (y : Saved) => if y = v then { y with again := false } else y }
      | some (f, smap) =>
        let c := f.core
        let away := absentPages w v.die v.block.bind.ctx (ctxMap v.block.hdr).lane
        let todo := away.filter fun off => !(v.pages.any fun y => decide (y.2.1 = off) && (match y.2.2 with | .bad _ => true | _ => false))
        if !todo.isEmpty then askPages m idx c v todo w else
        let refused := ctxRefused w v.die v.block.bind.ctx (ctxMap v.block.hdr).lane false || !away.isEmpty
        let v := v.loaded w f.owner
        let w := w.modModule m fun x => { x with saved := x.saved.eraseIdx idx }
        let w := formSash (ghostBlock c f.owner w) c l.lid false
        let q := vccOf w c
        let mv := moveCyc v.p q
        let k0 := w.core c
        let bs := k0.seq
        let bid := k0.nextId
        let o := f.owner
        let old := v.block.bind
        let drot := v.block.hdr.drot
        let br : BindRec := { old with owner := o, hb := f.hb, tagb := f.tagb, gchan := f.gchan, accb := f.accb, tsbb := f.tsbb,
                                       trnb := f.trnb, sash := ((sashOf w c).map Sash.num).getD 0 }
        let strOf := fun (s : Nat) => ((smap.find? fun y => decide (y.1 = s)).map Prod.snd).getD s
        let shiftPath := fun (p : Path) => { p with lastIssue := mv p.lastIssue, marks := p.marks.map (Mark.shift bs) }
        let course := fun (x : Course) =>
          let x := x.mapPaths shiftPath
          { x with owner := o, str := strOf x.str, rot := (x.rot + (q + drot * v.p - v.p)) % drot, div := x.div.map mv,
                   win0 := if x.win0 = 0 then 0 else mv x.win0, win1 := if x.win1 = 0 then 0 else mv x.win1,
                   grow := x.grow.map fun g => (mv g.1, g.2) }
        let cs := v.courses.map course
        let b : Block := { v.block with bind := br, pools := v.block.pools.map fun (x : Nat × Nat) => (strOf x.1, x.2),
                                        pends := v.block.pends.map fun (p : Pend) => { p with mark := p.mark.shift bs },
                                        staged := v.block.staged.map fun (s : Staged) => { s with cyc := mv s.cyc, seq := s.seq + bs, atom := s.atom.map (· + bid) } }
        let base := fun (lv : Nat) => if lv = 0 then (f.tsbb, old.tsbb) else if lv = 1 then (f.accb, old.accb) else (f.trnb, old.trnb)
        let tileMove := fun (a : Access) => match a.space with
          | .ts => a.addr + 256 * (f.tsbb : Int) - 256 * (old.tsbb : Int)
          | .acc => a.addr + 256 * (f.accb : Int) - 256 * (old.accb : Int)
          | _ => a.addr
        let accs := v.accs.map fun a => { a with id := a.id + bid, seq := a.seq + bs, owner := o, str := strOf a.str, cyc := mv a.cyc,
                                                 due := mv a.due, addr := tileMove a, marks := a.marks.map (Mark.shift bs),
                                                 home := if a.space = .ts || a.space = .acc then c else a.home, caused := false }
        let flights := v.flights.map fun g => { g with seq := g.seq + bs, owner := o, issue := mv g.issue, cyc := mv g.cyc, marks := g.marks.map (Mark.shift bs) }
        let results := v.results.map fun r => { r with id := r.id + bid, seq := r.seq + bs, owner := o, ready := mv r.ready }
        let top := fun (l : List Nat) => l.foldl max 0
        let seqTop := top (accs.map Access.seq ++ flights.map Flight.seq ++ results.map Result.seq ++ [bs])
        let idTop := top (accs.map Access.id ++ results.map Result.id ++ [bid])
        let w := w.modCore c fun k => { k with
          slots := cs.foldl (fun t x => t.put (8 * x.str + x.rot) { br with cr := x.cr }) k.slots
          courses := cs.foldl (fun t x => t.put (32 * o + x.cr) x) k.courses
          blocks := k.blocks.put o b
          tiles := v.tiles.foldl (fun t x => let p := base x.2.level; t.put (f.hb + x.1) { x.2 with base := x.2.base + p.1 - p.2, since := mv x.2.since }) k.tiles
          tags := (k.tags &&& ~~~(BitVec.ofNat 64 ((2 ^ v.block.hdr.tags - 1) * 2 ^ f.tagb))) ||| (v.tags <<< f.tagb)
          accs := k.accs ++ accs
          flights := k.flights ++ flights
          results := k.results ++ results
          strs :=
            let late := fun (a b : Nat) => if v.p < b then max a (mv b) else a
            let strs := v.cols.foldl (fun (t : Tab Str) x =>
              let y := (t.find (strOf x.1)).getD {}
              t.put (strOf x.1) { y with fp := late y.fp x.2.fp, sfu := late y.sfu x.2.sfu, chain := late y.chain x.2.chain }) k.strs
            v.walkers.foldl (fun t x => t.put (strOf x.1) { (t.find (strOf x.1)).getD {} with walker := { x.2 with owner := o, ready := mv x.2.ready } }) strs
          seq := seqTop + 1
          nextId := idTop + 1 }
        let w := accs.foldl (fun w a => match a.xl with
          | .wait d _ =>
            let off := a.off b
            let x := startXlate w c d off a.kind.use false
            setAcc x.1 c { a with xl := x.2 }
          | _ => w) w
        let w := redoStaged (fun _ x => match x with | .wait _ _ => true | .need => true | _ => false) c o w
        let w := accs.foldl (fun w a => if a.logged then holdAccess w c a else w) w
        let cm := ctxMap v.block.hdr
        let w := w.write .ts (levelKey 0 c (256 * f.tsbb)) (spaceBytes w v.die (old.ctx + cm.ts) v.block.hdr.tsb)
        let w := w.write .acc (levelKey 1 c (256 * f.accb)) (spaceBytes w v.die (old.ctx + cm.acc) (v.block.hdr.acc * 1024))
        let n := w.free * 2 ^ 40
        let w := (w.step).write .trn (levelKey 2 c (256 * f.trnb)) ((List.range (v.block.hdr.trn * 1024)).map fun i => Config.freeByte (n + i))
        let w := v.tiles.foldl (fun w t =>
          if t.2.valid && t.2.level = 2 && t.2.save then
            w.write .trn (levelKey 2 c (256 * (t.2.base + f.trnb - old.trnb))) (spaceBytes w v.die (old.ctx + cm.trn + 256 * (t.2.base - old.trnb)) t.2.area)
          else w) w
        let w := match f.gchan with
          | some g => w.modDie v.die fun x => { x with gch := x.gch ++ [g] }
          | none => w
        let w := logPlace (setLevel (chargeBlock w m l.die old.rcb l.hdr true) c) c o
        if refused then ctxFault w c b old.ctx else w

/-! ## Timed launches (R339) -/

/-- TIMED_PREEMPT: a cause on every sash of the launch at one virtual cycle, or its clearing. -/
def timedPreempt (m : Nat) (lid : Nat) (w : World) : World :=
  let mine := w.mach.sashes.filter fun x => decide (x.2.timed = some (BitVec.ofNat 32 lid)) &&
    x.2.cores.any fun c => match launchOf w c (BitVec.ofNat 32 lid) with | some l => decide (l.1 = m) | none => false
  let stands := mine.any fun x => x.2.causes.any fun y => decide (y.src = .preempt)
  let p := mine.foldl (fun n x => max n x.2.vcc) 0 + Config.horizon
  mine.foldl (fun w x => w.setSash x.1 (
    if stands then { x.2 with causes := x.2.causes.filter fun y => decide (y.src ≠ .preempt) }
    else x.2.cause p .preempt)) w

/-! ## The steps -/

/-- PREEMPT_CUT (R337). -/
def execPreemptCut (c owner : Nat) (s : State) : Host.Outcome State Fault Refusal := runEvent (preemptCut c owner) s
/-- PREEMPT_SAVE (R337). -/
def execPreemptSave (c owner : Nat) (s : State) : Host.Outcome State Fault Refusal := runEvent (preemptSave c owner) s
/-- RESTORE (R338). -/
def execRestore (m idx : Nat) (s : State) : Host.Outcome State Fault Refusal := runEvent (restore m idx) s
/-- TIMED_PREEMPT (R339). -/
def execTimedPreempt (m lid : Nat) (s : State) : Host.Outcome State Fault Refusal := runEvent (timedPreempt m lid) s

end Sys2Proof.Machine
end

