-- ==== Sys2Proof/Machine/Host.lean ====
section
/-! DEFINITION. The host link (R359 to R370): BAR0 and the DRAM window, the mailbox and its messages, partitions and
roots, feature words, the formation of the time group (R341), measurement and quotes, and bring-up. -/

namespace Sys2Proof.Machine

/-! ## Bring-up codes and measurement registers (R369, R370) -/

/-- Change IMGSTAT; each change raises vector 2. -/
def setStat (w : World) (m v : Nat) : World := raiseMsix (w.modModule m fun x => { x with imgStat := v }) m 2

/-- Stage 2 runs. -/
def Module.upper (x : Module) : Bool := decide (4 ≤ x.imgStat) && decide (x.imgStat ≤ 6)

/-- Extend a measurement register: MR := SHA-384(MR, d). -/
def extendMr (m i : Nat) (d : List Byte) (w : World) : World :=
  w.modModule m fun x => { x with mrs := x.mrs.modify i fun r => sha384 (r ++ d) }

/-- Initialise the DRAM of some dies of a module: it holds zeros, and no granule is poisoned (R370; log entry 105). -/
def zeroDram (m : Nat) (ds : List Nat) (w : World) : World :=
  ds.foldl (fun w d => w.zero .dram (dramKey (4 * m + d) 0) Config.dramSpan) w

/-- Initialise the stores of a module's cores (R370; log entry 105). -/
def zeroCores (m : Nat) (w : World) : World :=
  let n := 4 * Config.coresPerDie
  let w := w.zero .ts (levelKey 0 (n * m) 0) (n * Config.tsSpan)
  let w := w.zero .acc (levelKey 1 (n * m) 0) (n * Config.accSpan)
  w.zero .trn (levelKey 2 (n * m) 0) (n * Config.trnSpan)

/-- ROM_START: the boot ROM trains the link, initialises die 0's DRAM and opens the BARs; it waits for an image. -/
def romStart (m : Nat) (w : World) : World :=
  if (w.module m).imgStat ≠ 0 then w
  else setStat (zeroDram m [0] (w.modModule m fun x => { x with bootDue := none, full := false })) m 1

/-- IMAGE_LOAD: IMGCTL with GO hands the image over; when the ROM has checked it, stage 1 starts or IMGSTAT shows why
not. -/
def imageLoad (m : Nat) (v : W64) (w : World) : World :=
  let x := w.module m
  if x.imgStat = 1 then
    let w := w.modModule m fun x => { x with imgLen := v.toNat % 2 ^ 32 }
    if bit64 v 63 then
      let due := w.later 0
      setStat (w.step.modModule m fun x => { x with bootDue := some due }) m 2
    else w
  else if x.imgStat = 2 ∧ x.bootDue.any (fun d => decide (d ≤ w.mach.clock)) then
    let img := w.mem.bytes .dram (dramKey (4 * m) 0) x.imgLen
    if Config.imageMagic img ≠ 0x494D then setStat (w.modModule m fun x => { x with bootDue := none }) m 0x10
    else if !Config.imageSigOk img then setStat (w.modModule m fun x => { x with bootDue := none }) m 0x11
    else
      let w := extendMr m 1 (sha384 (Config.imageStage1 img)) (extendMr m 0 (sha384 (Config.imageHeader img)) w)
      let due := w.later 0
      setStat (w.step.modModule m fun x => { x with bootDue := some due }) m 3
  else w

/-- The partition of die `d` in a map, four bytes. -/
def mapBytes (x : Module) : List Byte := (List.range 4).map fun d => BitVec.ofNat 8 ((x.parts.getD []).getD d 0)

/-- STAGE2_START: stage 1 initialises the other dies' DRAM and every store, and has measured stage 2. -/
def stage2Start (m : Nat) (w : World) : World :=
  let x := w.module m
  if x.imgStat ≠ 3 then w
  else
    let img := w.mem.bytes .dram (dramKey (4 * m) 0) x.imgLen
    let w := extendMr m 2 (sha384 (Config.imageStage2 img)) (zeroCores m (zeroDram m [1, 2, 3] w))
    setStat (w.modModule m fun x => { x with bootDue := none }) m 4

/-- MODULE_RESTART: a function-level or hot reset restarts the module (R359). The model zeroes its stores, as the
initialisation of R370 does. -/
def moduleRestart (m : Nat) (w : World) : World :=
  let due := w.later 0
  let w := noteDrifts w.step
  let mine := fun (c : Nat) => decide (modOf c = m)
  let w := { w with mach := { w.mach with
    mods := w.mach.mods.put m { bootDue := some due, gcc := (w.module m).gcc }
    dies := w.mach.dies.filter fun (x : Nat × Die) => decide (x.1 / 4 ≠ m)
    cores := w.mach.cores.filter fun (x : Nat × Core) => !mine x.1
    sashes := w.mach.sashes.filter fun (x : Nat × Sash) => decide (x.2.die / 4 ≠ m) } }
  zeroCores m (zeroDram m [0, 1, 2, 3] w)

/-! ## Feature words and the doorbell (R362, R363, R367) -/

/-- FACCEPT_WRITE: stored once per start, AND FOFFER; stage 2 measures the map and the word in MR3, so a write before it runs
has no effect (R363, R369, R370; log entry 105). -/
def facceptWrite (m : Nat) (v : W64) (w : World) : World :=
  let x := w.module m
  if x.facceptSet || decide (x.imgStat ≠ 4) then w
  else
    let f : W32 := (v.truncate 32) &&& Config.fOffer
    setStat (extendMr m 3 (sha384 (mapBytes x ++ leBytes 4 f.toNat)) (w.modModule m fun x => { x with faccept := f, facceptSet := true })) m 5

/-- DBELL: the named partitions' next rounds start within 940 cycles (R367). -/
def dbell (m : Nat) (v : W64) (w : World) : World :=
  if !(w.module m).facceptSet then w
  else
    (List.range 4).foldl (fun w p =>
      if bit64 v p && ((w.module m).roots.find p).isSome then
        let due := w.mach.clock + Config.realDelay w.free % 941
        w.step.modModule m fun x => { x with rounds := x.rounds.put p (min due ((x.rounds.find p).getD due)) }
      else w) w

/-! ## Messages (R364 to R366) -/

/-- Word `i` of a message. -/
def msgWord (msg : List W32) (i : Nat) : Nat := (msg.getD i 0).toNat
/-- The low 18 bits of a reply's word 0: PART and SEQ of the request. -/
def msgTail (msg : List W32) : Nat := msgWord msg 0 / 2 ^ 16 % 4 * 2 ^ 16 + msgWord msg 0 % 2 ^ 16

/-- A reply to the message that the device handles: when it has, the reply waits in its order among the outbound messages. -/
def postReply (w : World) (m : Nat) (msg : List W32) (type : Nat) (payload : List Nat) : World :=
  let words := ((type * 2 ^ 24 + msgTail msg) :: payload).map (BitVec.ofNat 32)
  w.modModule m fun x => { x with replies := x.replies ++ [words] }

/-- A status reply: 0 done, 1 refused, 2 not in this state. -/
def postStatus (w : World) (m : Nat) (msg : List W32) (status : Nat) : World := postReply w m msg 0x83 [status]

/-- BUSY: the device handles a message of the host, a quote request until it is served (R364, R369). -/
def Module.busy (clock : Nat) (x : Module) : Bool := decide (clock < x.h2dBusy) || !x.replies.isEmpty || x.quotes.any fun q => decide (q.2.1 = 16)

/-- A GO takes the message, unless the device still handles one: then REJ is set (R364). -/
def takeMessage (m : Nat) (msg : List W32) (act : World → World) (w : World) : World :=
  let x := w.module m
  if x.busy w.mach.clock then w.modModule m fun x => { x with rej := true }
  else
    let busy := w.later 0
    let area := (List.range 64).foldl (fun (t : Tab W32) i => t.put i (msg.getD i 0)) x.h2d
    act (w.step.modModule m fun x => { x with rej := false, h2d := area, h2dBusy := busy })

/-- 32-bit words of a list of bytes. -/
def bytesWords : Nat → List Byte → List Nat
  | 0, _ => []
  | n + 1, bs => if bs.isEmpty then [] else leNat (bs.take 4) :: bytesWords n (bs.drop 4)

/-- Replies of at most 252 bytes each (the model's choice of parts). -/
def postParts (m : Nat) (msg : List W32) (type : Nat) : Nat → List Byte → World → World
  | 0, _, w => w
  | n + 1, bs, w =>
    if bs.isEmpty then w
    else postParts m msg type n (bs.drop 252) (postReply w m msg type (bytesWords 63 (bs.take 252)))

/-- PARTITION_MAP (R366, R368): once, after stage 2 and before FACCEPT. -/
def partitionMap (m : Nat) (msg : List W32) (w : World) : World :=
  let x := w.module m
  if !x.upper || x.facceptSet || x.parts.isSome then postStatus w m msg 2
  else
    let l := (List.range 4).map fun d => msgWord msg 1 / 2 ^ (8 * d) % 2 ^ 8
    let top := l.foldl max 0
    if (List.range (top + 1)).all fun p => l.contains p then
      postStatus (w.modModule m fun x => { x with parts := some l }) m msg 0
    else postStatus w m msg 1

/-- Die offset of a partition's kernel mailbox (R368). -/
def mailBox (m part : Nat) : Nat := 128 * (Config.kernelMailbox m part % 2 ^ 25)

/-- The lead core places the mailbox's offset in word 0 of the root RCB's launch-parameter page (R368). -/
def placeMail (m part : Nat) (w : World) : World :=
  match leadDie w m part with
  | some d => dieWrite w d (2 ^ 14 * (Config.paramPage m part % 2 ^ 32)) (leBytes 4 (mailBox m part))
  | none => w

/-- ROOT_RCB (R366): once per partition, after FACCEPT. The partition's mailbox is placed, and its rounds begin. -/
def rootRcb (m : Nat) (msg : List W32) (w : World) : World :=
  let x := w.module m
  let p := msgWord msg 0 / 2 ^ 16 % 4
  if !x.facceptSet || (x.roots.find p).isSome then postStatus w m msg 2
  else if !((x.parts.getD []).contains p) then postStatus w m msg 1
  else
    let r : Root := { rcb := msgWord msg 1 + 2 ^ 32 * msgWord msg 2, priv := flag (msgWord msg 3) 0 }
    postStatus (placeMail m p (w.modModule m fun x => { x with
      roots := x.roots.put p r
      rounds := x.rounds.put p (w.mach.clock + Config.roundCycles) })) m msg 0

/-- EXTEND (R366, R369): MR 4 to 7. -/
def extendMsg (m : Nat) (msg : List W32) (w : World) : World :=
  let i := msgWord msg 1
  if !(w.module m).upper then postStatus w m msg 2
  else if i < 4 ∨ 7 < i then postStatus w m msg 1
  else postStatus (extendMr m i ((List.range 12).flatMap fun j => leBytes 4 (msgWord msg (2 + j))) w) m msg 0

/-- CERTIFICATE_REQUEST (R366): length and bytes, in parts. -/
def certificateMsg (m : Nat) (msg : List W32) (w : World) : World :=
  if !(w.module m).upper then postStatus w m msg 2
  else
    let c := Config.certificate m
    let bs := leBytes 4 c.length ++ c
    postParts m msg 0x84 (bs.length + 1) bs w

/-! ## Quotes (R369) -/

/-- The dies of a partition as a mask. -/
def partMask (x : Module) (p : Nat) : Nat :=
  (List.range 4).foldl (fun v d => if (x.parts.getD []).getD d 4 = p then v + 2 ^ d else v) 0

/-- The 464 bytes that a quote signs. -/
def quoteBody (x : Module) (m p : Nat) (nonce : List Byte) : List Byte :=
  wordBytes [0x5154 * 2 ^ 16 + 2 ^ 8 + 8, x.faccept.toNat] ++ leBytes 8 (Config.serial m).toNat ++
    wordBytes [partMask x p * 2 ^ 4 + p, x.num % 2 ^ 9] ++ leBytes 8 (x.gcc % 2 ^ 64) ++ (nonce ++ List.replicate 48 0).take 48 ++ x.mrs.flatten

/-- A quote of 560 bytes; the signature's bytes are free values. -/
def quoteBytes (x : Module) (m p : Nat) (nonce : List Byte) (place : Nat) : List Byte :=
  let body := quoteBody x m p nonce
  body ++ (Config.quoteSig place body ++ List.replicate 96 0).take 96

/-- QUOTE_REQUEST (R366, R369): the request waits for its turn among the quote requests. -/
def quoteMsg (m : Nat) (msg : List W32) (w : World) : World :=
  if !(w.module m).upper then postStatus w m msg 2
  else
    let due := w.later 0
    w.step.modModule m fun x => { x with quotes := x.quotes ++ [(msgWord msg 0 / 2 ^ 16 % 4, 16, due)], quoteAsk := msg }

/-- The host's quote request is served: the device has handled the message, and the quote waits among the outbound
messages (R364, R369). -/
def hostQuote (m part : Nat) (w : World) : World :=
  let x := w.module m
  let msg := x.quoteAsk
  let nonce := (List.range 12).flatMap fun j => leBytes 4 (msgWord msg (1 + j))
  let w := postParts m msg 0x81 4 (quoteBytes x m part nonce w.free) w.step
  w.modModule m fun x => ({ x with outq := x.outq ++ x.replies, replies := [], h2dBusy := min x.h2dBusy w.mach.clock } : Module).pump

/-- Die offset of a slot of a partition's kernel mailbox (R368). -/
def mailSlot (m part slot : Nat) : Nat := mailBox m part + 128 * slot

/-- A slot holds a request that waits. -/
def slotAsks (w : World) (m part slot : Nat) : Bool :=
  match leadDie w m part with
  | some d => decide (dieWord w d (mailSlot m part slot) = 1) && decide (dieWord w d (mailSlot m part slot + 4) = 1)
  | none => false

/-- Some quote request of a module is the first in order, and its answer is due. -/
def quoteDue (w : World) (m part slot : Nat) : Bool :=
  match (w.module m).quotes.head? with
  | some q => decide (q.1 = part) && decide (q.2.1 = slot) && decide (q.2.2 ≤ w.mach.clock)
  | none => false

/-- KERNEL_QUOTE_SERVE: the lead core takes requests in the order in which word 1 arrives, and answers them one at a
time, with the host's among them as slot 16 (R363, R368, R369). -/
def kernelQuote (m part slot : Nat) (w : World) : World :=
  if slot = 16 then
    if quoteDue w m part 16 then hostQuote m part (w.modModule m fun x => { x with quotes := x.quotes.tail }) else w
  else match leadDie w m part with
  | none => w
  | some d =>
    let x := w.module m
    let a := mailSlot m part slot
    match x.quotes.find? fun q => decide (q.1 = part) && decide (q.2.1 = slot) with
    | none =>
      if slotAsks w m part slot then
        let due := w.later 0
        w.step.modModule m fun x => { x with quotes := x.quotes ++ [(part, slot, due)] }
      else w
    | some q =>
      if !quoteDue w m part slot then w
      else
        let w := w.modModule m fun x => { x with quotes := x.quotes.erase q }
        if !bit64 (x.faccept.zeroExtend 64) 8 then dieWrite w d (a + 4) (leBytes 4 3)
        else
          let nonce := (List.range 12).flatMap fun j => leBytes 4 (dieWord w d (a + 16 + 4 * j))
          let at_ := dieWord w d (a + 8) + 2 ^ 32 * dieWord w d (a + 12)
          let bs := quoteBytes x m part nonce w.free
          dieWrite (spaceWrite d 4 at_ bs w.step) d (a + 4) (leBytes 4 2)

/-! ## The time group (R341) -/

/-- A way from the source: the module reached, the sum of 220 + c, and the ports it leaves by. -/
structure Way where
  to_  : Nat
  sum  : Nat
  hops : List (Nat × Nat)
  deriving DecidableEq, Repr

/-- Lower port numbers at each hop in turn. -/
def portsLe : List (Nat × Nat) → List (Nat × Nat) → Bool
  | [], _ => true
  | _ :: _, [] => false
  | a :: r, b :: q => decide (a.2 < b.2) || (decide (a.2 = b.2) && portsLe r q)

/-- The better of two ways of equal hops: the smaller sum, then the lower ports. -/
def Way.better (a b : Way) : Bool := decide (a.sum < b.sum) || (decide (a.sum = b.sum) && portsLe a.hops b.hops)

/-- Class term c of a port for its measured latency in 1/256 cycle: A, B or C; none above 280 cycles (R341). -/
def classOf (lat : Nat) : Option Nat :=
  if 280 * 256 < lat then none else if lat ≤ 212 * 256 then some 12 else if lat ≤ 232 * 256 then some 32 else some 80

/-- The one-way latency of a port's cable in 1/256 cycle: half the round trip, which both ends measure alike (R341). -/
def portLat (m p : Nat) (q : Nat × Nat) : Nat :=
  if m < q.1 ∨ (m = q.1 ∧ p ≤ q.2) then Config.portLatency m p else Config.portLatency q.1 q.2

/-- The trained ports of a module: the cable joins two modules of the group, each the other's peer. A port that is trained
stays as it is. -/
def trainPorts (mach : Mach) (m : Nat) : Tab Port :=
  (List.range 18).foldl (fun (t : Tab Port) p =>
    match Config.portPeer m p with
    | none => t
    | some q =>
      if (t.find p).isSome then t
      else match classOf (portLat m p q) with
      | none => t
      | some c =>
        if Config.portPeer q.1 q.2 = some (m, p) && ((mach.mods.find q.1).map Module.formed).getD false then
          t.put p { trained := true, peer := q.1, peerPort := q.2, lat := portLat m p q, cls := c }
        else t) ((mach.mods.find m).map Module.ports |>.getD [])

/-- One more hop from every way of the last round, to modules not reached before. -/
def hopOut (mach : Mach) (done front : List Way) : List Way :=
  let next := front.flatMap fun x => (((mach.mods.find x.to_).map Module.ports).getD []).filterMap fun p =>
    if done.any fun y => decide (y.to_ = p.2.peer) then none
    else some { to_ := p.2.peer, sum := x.sum + 220 + p.2.cls, hops := x.hops ++ [(x.to_, p.1)] : Way }
  next.foldl (fun l x => match l.find? fun y => decide (y.to_ = x.to_) with
    | some y => if x.better y then l.map fun z => if z.to_ = x.to_ then x else z else l
    | none => l ++ [x]) []

/-- Ways from a module by rising hops. -/
def waysFrom (mach : Mach) : Nat → List Way → List Way → List Way
  | 0, done, _ => done
  | n + 1, done, front =>
    let next := hopOut mach done front
    if next.isEmpty then done else waysFrom mach n (done ++ next) next

/-- Both ends of each hop of a way. -/
def wayPorts (mach : Mach) (x : Way) : List (Nat × Nat) :=
  x.hops.flatMap fun h => match (mach.mods.find h.1).bind fun y => y.ports.find h.2 with
    | some p => [h, (p.peer, p.peerPort)]
    | none => [h]

/-- The route table: for each ordered pair of modules the way of fewest hops (R341). -/
def routeTable (mach : Mach) : List Route :=
  (mach.mods.filter fun x => x.2.formed).flatMap fun x =>
    ((waysFrom mach 512 [{ to_ := x.1, sum := 0, hops := [] }] [{ to_ := x.1, sum := 0, hops := [] }]).filter fun y => decide (y.to_ ≠ x.1)).map
      fun y => { src := x.1, dst := y.to_, sum := y.sum, ports := wayPorts mach y }

/-- The first module on a module's route to the master. -/
def parentOf (mach : Mach) (m master : Nat) : Nat :=
  match mach.routes.find? fun r => decide (r.src = m) && decide (r.dst = master) with
  | some r => match r.ports with
    | _ :: p :: _ => p.1
    | _ => m
  | none => m

/-- Cycles that a stamp takes over a way toward the master: one latency a hop, as the port nearer the module has measured
it, rounded to the nearest cycle (R341). -/
def wayLat (mach : Mach) : List (Nat × Nat) → Nat
  | p :: _ :: r => ((((mach.mods.find p.1).bind fun y => y.ports.find p.2).map Port.lat).getD 0 + 128) / 256 + wayLat mach r
  | _ => 0

/-- A stamp of the master goes to a module: the master starts its drift unit as it sends its stamp, every other one loads the stamp
when it comes down the formation tree; one that no route joins to the master gets none (R341). -/
def joinGroup (mach : Mach) (master : Nat) (gcc : Nat) (m : Nat) (x : Module) : Module :=
  if m = master then x.joinAt x.gcc
  else match mach.routes.find? fun r => decide (r.src = m) && decide (r.dst = master) with
  | none => x
  | some r =>
    let n := wayLat mach r.ports
    if n = 0 then x.joinAt gcc else { x with loadAt := some (mach.clock + n, gcc + n) }

/-- Form the group with the modules that the host has named, at the bring-up of one of them: their ports train, the route table is
built, and the master's stamp goes down the formation tree (R341, R342). -/
def formGroup (w : World) (m : Nat) : World :=
  let w := w.modModule m fun x => { x with formed := true }
  let ports := fun (x : Nat × Module) => if x.2.formed then (x.1, { x.2 with ports := trainPorts w.mach x.1 }) else x
  let w := { w with mach := { w.mach with mods := w.mach.mods.map ports } }
  let w := { w with mach := { w.mach with routes := routeTable w.mach } }
  match groupMaster w.mach with
  | none => w
  | some y =>
    let load := fun (x : Nat × Module) =>
      if x.2.formed then (x.1, joinGroup w.mach y.1 y.2.gcc x.1 { x.2 with parent := parentOf w.mach x.1 y.1 }) else x
    { w with mach := { w.mach with mods := w.mach.mods.map load } }

/-- TIME_GROUP (R341, R366): once, after FACCEPT. The cold plate's limit of the first power window is a free value (R356). -/
def timeGroup (m : Nat) (msg : List W32) (w : World) : World :=
  let x := w.module m
  if !x.facceptSet || x.formed then postStatus w m msg 2
  else
    let v := msgWord msg 1
    let cap := min (Config.plateLimit w.free) 3000
    let w := w.step.modModule m fun x => { x with num := v % 2 ^ 9, master := flag v 9, report := msgWord msg 2 + 2 ^ 32 * msgWord msg 3, cap := cap }
    postStatus (formGroup w m) m msg 0

/-! ## BAR0 and BAR2 (R359 to R361) -/

/-- D2H_ACK: the host clears FULL, and the next message moves up (R364). -/
def d2hAck (m : Nat) (w : World) : World := pumpOut (w.modModule m fun x => { x with full := false }) m

/-- A message by its TYPE (R366). -/
def handleMessage (m : Nat) (msg : List W32) (w : World) : World :=
  match msgWord msg 0 / 2 ^ 24 with
  | 0x01 => quoteMsg m msg w
  | 0x02 => partitionMap m msg w
  | 0x03 => timeGroup m msg w
  | 0x04 => rootRcb m msg w
  | 0x05 => extendMsg m msg w
  | 0x06 => certificateMsg m msg w
  | _ => postReply w m msg 0xFF []

/-- Reserved bits of TBASE and SDCMD read as zero (R6, R308). -/
def tbaseMask : W64 := 0x00003FFFFFFFC001
def sdMask : W64 := 0xE0003FFFFFFFC000

/-- A write in the translation window of a die (R361). -/
def windowWrite (d off : Nat) (v : W64) (w : World) : World :=
  if off = 0 then w.modDie d fun x => { x with tbase := v &&& tbaseMask }
  else if off = 8 then sdWrite d (v &&& sdMask) w
  else if 0x200 ≤ off ∧ off < 0x280 ∧ off % 8 = 0 ∧ bit64 v 1 then verdict (bit64 v 0) d ((off - 0x200) / 8) w
  else w

/-- REGISTER_WRITE: a write of BAR0 by its offset (R360). An offset that the map does not list is ignored. -/
def registerWrite (m off : Nat) (v : W64) (w : World) : World :=
  if (w.module m).imgStat = 0 then w
  else if off = 0x10 then facceptWrite m v w
  else if off = 0x18 then w.modModule m fun x => { x with dwin := v.toNat % 4 }
  else if off = 0x20 then dbell m v w
  else if off = 0x28 then imageLoad m v w
  else if off = 0x40 then
    let p := v.toNat % 2 ^ 16
    w.modModule m fun x => { x with pcap := if p = 0 ∨ 3000 < p then 3000 else p }
  else if 0x1000 ≤ off ∧ off < 0x1100 ∧ off % 8 = 0 then
    let i := (off - 0x1000) / 4
    w.modModule m fun x => { x with h2d := (x.h2d.put i (v.truncate 32)).put (i + 1) ((v >>> 32).truncate 32) }
  else if off = 0x1100 then
    if bit64 v 63 then
      let msg := (List.range 64).map fun i => ((w.module m).h2d.find i).getD 0
      takeMessage m msg (handleMessage m msg) w
    else w
  else if off = 0x2100 then (if bit64 v 63 then d2hAck m w else w)
  else if 0x100000 ≤ off ∧ off < 0x140000 then windowWrite (4 * m + (off - 0x100000) / 0x10000) ((off - 0x100000) % 0x10000) v w
  else w

/-- A read of BAR0: what each register of R360, R361 and R364 shows. It changes nothing. -/
def registerRead (w : World) (m off : Nat) : W64 :=
  let x := w.module m
  let word := fun (n : Nat) => BitVec.ofNat 64 n
  if off = 0 then Config.serial m
  else if off = 0x08 then Config.fOffer.zeroExtend 64
  else if off = 0x10 then x.faccept.zeroExtend 64
  else if off = 0x18 then word x.dwin
  else if off = 0x30 then word x.imgStat
  else if off = 0x40 then word x.pcap
  else if 0x1000 ≤ off ∧ off < 0x1100 ∧ off % 8 = 0 then
    let i := (off - 0x1000) / 4
    let low := (x.h2d.find i).getD 0
    word ((if i = 0 then low &&& 0xFF03FFFF else low).toNat + 2 ^ 32 * ((x.h2d.find (i + 1)).getD 0).toNat)
  else if off = 0x1100 then word ((if x.busy w.mach.clock then 2 ^ 62 else 0) + (if x.rej then 2 ^ 61 else 0))
  else if 0x2000 ≤ off ∧ off < 0x2100 ∧ off % 8 = 0 then
    let i := (off - 0x2000) / 4
    word ((x.d2h.getD i 0).toNat + 2 ^ 32 * (x.d2h.getD (i + 1) 0).toNat)
  else if off = 0x2100 then word ((if x.full then 2 ^ 63 else 0) + x.lost)
  else if 0x100000 ≤ off ∧ off < 0x140000 then
    let y := w.die (4 * m + (off - 0x100000) / 0x10000)
    let o := (off - 0x100000) % 0x10000
    if o = 0 then y.tbase
    else if o = 8 then y.sdcmd
    else if o = 0x10 then word ((if y.busy.isSome then 2 ^ 31 else 0) + y.doneN)
    else if 0x100 ≤ o ∧ o < 0x200 ∧ o % 8 = 0 then
      match y.reqs.find ((o - 0x100) / 16) with
      | some r =>
        let kind := match r.use with | .read => 0 | .write => 1 | .fetch => 2 | .engineRead => 3 | .engineWrite => 4 | .atomic => 5
        if o % 16 = 0 then word (kind * 2 ^ 61 + r.level * 2 ^ 59 + r.va % 2 ^ 57) else r.gcc
      | none => 0
    else 0
  else 0

/-- A read of BAR2: `n` bytes of the DRAM of the die that DWIN names, at physical offsets below 64 GiB, once the ROM has
opened the window (R359, R370). It changes nothing. -/
def windowRead (w : World) (m off n : Nat) : Option (List Byte) :=
  let x := w.module m
  if x.imgStat = 0 ∨ 64 * 2 ^ 30 < off + n then none else some (w.mem.bytes .dram (dramKey (4 * m + x.dwin) off) n)

/-- HOST_DRAM_WINDOW_WRITE: BAR2 reaches the DRAM of the die that DWIN names, at physical offsets below 64 GiB. -/
def windowBytes (m off : Nat) (bs : List Byte) (w : World) : World :=
  let x := w.module m
  if x.imgStat = 0 ∨ 64 * 2 ^ 30 < off + bs.length then w
  else outsideWrite w .dram (dramKey (4 * m + x.dwin) off) bs

/-! ## The steps -/

/-- QUOTE_REQUEST (R366, R369). -/
def execQuoteRequest (m : Nat) (msg : List W32) (s : State) : Host.Outcome State Fault Refusal := runEvent (takeMessage m msg (quoteMsg m msg)) s
/-- PARTITION_MAP (R366, R368). -/
def execPartitionMap (m : Nat) (msg : List W32) (s : State) : Host.Outcome State Fault Refusal := runEvent (takeMessage m msg (partitionMap m msg)) s
/-- TIME_GROUP (R341, R366). -/
def execTimeGroup (m : Nat) (msg : List W32) (s : State) : Host.Outcome State Fault Refusal := runEvent (takeMessage m msg (timeGroup m msg)) s
/-- ROOT_RCB (R366). -/
def execRootRcb (m : Nat) (msg : List W32) (s : State) : Host.Outcome State Fault Refusal := runEvent (takeMessage m msg (rootRcb m msg)) s
/-- EXTEND (R366, R369). -/
def execExtend (m : Nat) (msg : List W32) (s : State) : Host.Outcome State Fault Refusal := runEvent (takeMessage m msg (extendMsg m msg)) s
/-- CERTIFICATE_REQUEST (R366). -/
def execCertificateRequest (m : Nat) (msg : List W32) (s : State) : Host.Outcome State Fault Refusal := runEvent (takeMessage m msg (certificateMsg m msg)) s
/-- UNKNOWN_MESSAGE (R365): answered with TYPE 0xFF. -/
def execUnknownMessage (m : Nat) (msg : List W32) (s : State) : Host.Outcome State Fault Refusal :=
  runEvent (takeMessage m msg (fun w => postReply w m msg 0xFF [])) s
/-- D2H_ACK (R364). -/
def execD2hAck (m : Nat) (s : State) : Host.Outcome State Fault Refusal := runEvent (d2hAck m) s
/-- KERNEL_QUOTE_SERVE (R368). -/
def execKernelQuoteServe (m part slot : Nat) (s : State) : Host.Outcome State Fault Refusal := runEvent (kernelQuote m part slot) s
/-- FACCEPT_WRITE (R363). -/
def execFacceptWrite (m : Nat) (v : W64) (s : State) : Host.Outcome State Fault Refusal := runEvent (facceptWrite m v) s
/-- DBELL (R367). -/
def execDbell (m : Nat) (v : W64) (s : State) : Host.Outcome State Fault Refusal := runEvent (dbell m v) s
/-- IMAGE_LOAD (R370). -/
def execImageLoad (m : Nat) (v : W64) (s : State) : Host.Outcome State Fault Refusal := runEvent (imageLoad m v) s
/-- STAGE2_START (R370). -/
def execStage2Start (m : Nat) (s : State) : Host.Outcome State Fault Refusal := runEvent (stage2Start m) s
/-- ROM_START (R370). -/
def execRomStart (m : Nat) (s : State) : Host.Outcome State Fault Refusal := runEvent (romStart m) s
/-- MODULE_RESTART (R359). -/
def execModuleRestart (m : Nat) (s : State) : Host.Outcome State Fault Refusal := runEvent (moduleRestart m) s
/-- REGISTER_WRITE (R360, R361). -/
def execRegisterWrite (m off : Nat) (v : W64) (s : State) : Host.Outcome State Fault Refusal := runEvent (registerWrite m off v) s
/-- HOST_DRAM_WINDOW_WRITE (R359). -/
def execHostDramWindowWrite (m off : Nat) (bytes : List Byte) (s : State) : Host.Outcome State Fault Refusal := runEvent (windowBytes m off bytes) s

end Sys2Proof.Machine
end

