-- ==== Sys2Proof/Machine/Debug.lean ====
section
/-! DEFINITION. Debug and profiling (R371 to R385): the `dbg` instructions, the arrival of a debug command at its target
core, stops of paths, and profiling records. -/

namespace Sys2Proof.Machine

/-! ## Target words (R371) -/

/-- CORE, OWNER, CR and PATH of a target word. -/
def tgtCore (v : W32) : Nat := v.toNat / 2 ^ 23
def tgtOwner (v : W32) : Nat := v.toNat / 2 ^ 17 % 2 ^ 6
def tgtCr (v : W32) : Nat := v.toNat / 2 ^ 12 % 2 ^ 5
def tgtPath (v : W32) : Nat := v.toNat / 2 ^ 7 % 2 ^ 5

/-- The core key that a target names from a core: of its own die. -/
def tgtKey (c : Nat) (v : W32) : Nat := dieOf c * Config.coresPerDie + tgtCore v

/-- Word 1 of a record that repeats a target word. -/
def tgtWord (v : W32) : Nat := v.toNat / 2 ^ 7 * 2 ^ 7

/-! ## The instructions (R376) -/

/-- A debug instruction is privileged and executes once. -/
def issueDebug (act : Site → World → World) (s : State) : Host.Outcome State Fault Refusal :=
  issue true 0 (fun _ => none) (fun t w => if t.once then act t w else w) s

/-- A command that acts on the one path that its target names. -/
def DbgOp.onPath : DbgOp → Bool
  | .hold crs => !crs
  | .step _ => true
  | .run crs => !crs
  | _ => false

/-- A refused command leaves a KIND 0x0E record (R372): about the path that the command names where there is one. DESIGN CHOICE: with
none, MASK and PC are 0; a target outside the die or the partition has no block or sash to name either (log entry 112). -/
def refuseDebug (w : World) (c : DbgCmd) (code : Nat) : World :=
  let core := tgtKey c.src c.target
  let own := if code = 1 then c.src else core
  let b := if code = 1 then none else w.block? core (tgtOwner c.target)
  let p := if b.isSome && c.op.onPath then (w.course? core (tgtOwner c.target) (tgtCr c.target)).bind fun k => k.path? (tgtPath c.target) else none
  let timed := (b.map fun b => b.hdr.timed).getD false
  let held := b.isSome && recordHeld w core (tgtOwner c.target) (tgtCr c.target) (tgtPath c.target)
  mailNote w own 0 ([0x0E * 2 ^ 24 + (if timed then 2 ^ 18 else 0) + (if held then 2 ^ 17 else 0), tgtWord c.target, (p.map fun p => p.mask.toNat).getD 0,
    (b.map fun b => b.bind.bk.toNat).getD 0] ++ lohi ((p.map fun p => (pcWord p.pc).toNat).getD 0) ++
    lohi (if code = 1 then 0 else vccOf w core) ++ [0, 0, 0, 0, (b.map fun b => b.bind.lid.toNat).getD 0, code, 0, 0])

/-- A command of the issuing debug course. -/
def cmdFrom (t : Site) (op : DbgOp) (target : W32) (id due : Nat) : DbgCmd :=
  { id := id, due := due, op := op, target := target, src := t.i.core, srcOwner := t.i.owner, srcCr := t.i.cr, str := t.k.str }

/-- Send a command to its target core: it arrives within 64 cycles, and not before an earlier one of the same debug
course to the same core (R371). A CORE that the die does not have is refused at once. -/
def sendDebug (op : DbgOp) (target : W32) (t : Site) (w : World) : World :=
  let core := tgtKey t.i.core target
  if Config.coresPerDie ≤ tgtCore target then refuseDebug w (cmdFrom t op target 0 0) 1
  else
    let k := w.core core
    let mine := k.dbg.filter fun x => decide (x.src = t.i.core) && decide (x.srcOwner = t.i.owner) && decide (x.srcCr = t.i.cr)
    let due := max (w.mach.clock + Config.realDelay w.free % 65) (mine.foldl (fun n x => max n x.due) 0)
    (w.step).setCore core { k with dbg := k.dbg ++ [cmdFrom t op target k.nextId due], nextId := k.nextId + 1 }

/-- The uniform registers of a target and of a pair. -/
def uReg (t : Site) (r : Reg) : W32 := t.k.uni r.toNat
def uPair (t : Site) (r : Reg) : W64 := t.k.uniPair r.toNat

/-- `dbg.bp.clr` (R377). -/
def execDbgBpClr (e : BitVec 3) (b : Reg) (s : State) : Host.Outcome State Fault Refusal :=
  issueDebug (fun t w => sendDebug (.bpClr e.toNat) (uReg t b) t w) s
/-- `dbg.bp.set` (R377). -/
def execDbgBpSet (e : BitVec 3) (a b : Reg) (s : State) : Host.Outcome State Fault Refusal :=
  issueDebug (fun t w => sendDebug (.bpSet e.toNat (uPair t a)) (uReg t b) t w) s
/-- `dbg.bp.claim` (R377). -/
def execDbgBpClaim (b : Reg) (s : State) : Host.Outcome State Fault Refusal := issueDebug (fun t w => sendDebug .claim (uReg t b) t w) s
/-- `dbg.bp.free` (R377). -/
def execDbgBpFree (b : Reg) (s : State) : Host.Outcome State Fault Refusal := issueDebug (fun t w => sendDebug .free (uReg t b) t w) s
/-- `dbg.hold` (R378). -/
def execDbgHold (b : Reg) (crs : Bool) (s : State) : Host.Outcome State Fault Refusal :=
  issueDebug (fun t w => sendDebug (.hold crs) (uReg t b) t w) s
/-- `dbg.step` (R379). -/
def execDbgStep (b : Reg) (s : State) : Host.Outcome State Fault Refusal := issueDebug (fun t w => sendDebug (.step false) (uReg t b) t w) s
/-- `dbg.step.trap` (R379). -/
def execDbgStepTrap (b : Reg) (s : State) : Host.Outcome State Fault Refusal := issueDebug (fun t w => sendDebug (.step true) (uReg t b) t w) s
/-- `dbg.run` (R379). -/
def execDbgRun (b : Reg) (crs : Bool) (s : State) : Host.Outcome State Fault Refusal :=
  issueDebug (fun t w => sendDebug (.run crs) (uReg t b) t w) s

/-- The operation that the descriptor of `dbg.watch` names (R381). -/
def watchOp (w0 w2 w3 : W32) (lo hi : W64) : DbgOp :=
  let v := w0.toNat
  let die := flag v 23
  .watch (field v 29 28) (flag v 27) (flag v 26) (flag v 25) (flag v 24) die (field w2.toNat 7 0)
    (if die then lo.toNat else w3.toNat) (if die then hi.toNat else hi.toNat % 2 ^ 32)

/-- `dbg.watch` (R381). -/
def execDbgWatch (d a b : Reg) (s : State) : Host.Outcome State Fault Refusal :=
  issueDebug (fun t w =>
    let u := fun (n : Nat) => t.k.uni (d.toNat + n)
    sendDebug (watchOp (u 0) (u 2) (u 3) (uPair t a) (uPair t b)) (u 1) t w) s

/-- `dbg.mbox` (R383): a KIND 0x10 record about the issuing course, with MASK and PC 0 (R390). -/
def execDbgMbox (a b : Reg) (s : State) : Host.Outcome State Fault Refusal :=
  issueDebug (fun t w => debugRecord w t.i.core t.i.owner t.i.cr t.i.slot
    { kind := 0x10, data := (uPair t a).toNat, code := (uReg t b).toNat }) s

/-- `dbg.mbox.base` (R373): the die writes the header before any record at the new base. -/
def execDbgMboxBase (a b : Reg) (s : State) : Host.Outcome State Fault Refusal :=
  issueDebug (fun t w =>
    let mb := (uPair t a).toNat / 64 * 64
    let n := max 4 (min 12 ((uReg t b).toNat % 16))
    let d := dieOf t.i.core
    dieWrite (w.modDie d fun x => { x with mbox := some mb }) d mb (wordBytes ([0, 0, n] ++ List.replicate 13 0))) s

/-- `dbg.mbox.samp` (R384). -/
def execDbgMboxSamp (a b : Reg) (s : State) : Host.Outcome State Fault Refusal :=
  issueDebug (fun t w => sendDebug (.samp ((uReg t b).toNat % 2 ^ 16)) (uReg t a) t w) s

/-- `dbg.mbox.rec` (R386, R388): MODE 0 stops, 1 records, 2 replays the log at the pair. The ring's base is rounded down as
R373 rounds a mailbox's; MODE 3 does nothing (log entry 78). -/
def execDbgMboxRec (a b : Reg) (s : State) : Host.Outcome State Fault Refusal :=
  issueDebug (fun t w =>
    let mode := (uReg t b).toNat % 4
    w.modDie (dieOf t.i.core) fun x =>
      if mode = 3 then x
      else if mode = 0 then { x with recMode := 0 }
      else { x with recMode := mode, recBase := (uPair t a).toNat / 64 * 64, recPos := 0, recUsed := [], commits := [] }) s

/-! ## Arrival (R371, R372) -/

/-- Which debug course sent a command. -/
def DbgCmd.who (c : DbgCmd) : Nat × Nat × Nat := (c.src, c.srcOwner, c.srcCr)

/-- Why a command cannot act on its block: 0 when it can (R372). -/
def blockRefusal (w : World) (c : DbgCmd) : Nat :=
  let core := tgtKey c.src c.target
  if partOf w (dieOf core) ≠ partOf w (dieOf c.src) then 1
  else if (w.block? core (tgtOwner c.target)).isNone then 2
  else match (w.core core).claims.find (tgtOwner c.target) with
    | some n => if n = c.who then 0 else 5
    | none => 0

/-- The path that a target names at its arrival, or code 3 (R371, R372). -/
def tgtCourse (w : World) (c : DbgCmd) : Option Course :=
  (w.course? (tgtKey c.src c.target) (tgtOwner c.target) (tgtCr c.target)).bind fun k => if k.gone then none else some k

/-- The sash that a debugger has stopped goes on (R380). -/
def clearDebugStop (w : World) (core : Nat) : World := clearCause w core .debug

/-- `dbg.hold` on a path: it is held at its next turn; a timed sash stops at the first cycle after arrival (R378, R380). -/
def holdPath (core o r ix : Nat) (w : World) : World := modPath w core o r ix fun p => { p with holdReq := true }

/-- Hold the paths that `dbg.hold` names. -/
def holdPaths (core : Nat) (c : DbgCmd) (k : Course) (crs : Bool) (w : World) : World :=
  let o := tgtOwner c.target
  let ixs := if crs then k.paths.map Prod.fst else [tgtPath c.target]
  if timedBlock w core o then
    ixs.foldl (fun w ix => modPath w core o k.cr ix fun p => { p with stop := some (vccOf w core + 1, 5, 0) }) w
  else ixs.foldl (fun w ix => holdPath core o k.cr ix w) w

/-- A path that a debugger holds: it is held itself, or its timed sash stands for one (R378, R380). -/
def debugHeld (w : World) (core o : Nat) (p : Path) : Bool :=
  if timedBlock w core o then ((sashOf w core).map fun s => s.causes.any fun x => decide (x.src = .debug)).getD false else p.held

/-- Free a path: it issues at its next turn, and its stop's PC does not match again (R377, R379). One that is not held is not
affected. -/
def freePath (p : Path) : Path := if p.held then { p with held := false, bpSkip := some p.pc } else p

/-- A sash that a debugger had stopped goes on: no path of it waits for the end of a step any more (R380). A path that
stopped has the PC of its stop in `bpSkip` already (R377). -/
def endSteps (w : World) (core : Nat) : World :=
  { w with mach := { w.mach with cores := w.mach.cores.map fun (x : Nat × Core) =>
      if ((sashOf w core).map fun s => s.cores.contains x.1).getD false then
        (x.1, { x.2 with courses := x.2.courses.map fun (y : Nat × Course) => (y.1, y.2.mapPaths fun p => { p with stopNext := false }) })
      else x } }

/-- `dbg.run` (R379, R380). -/
def runPaths (core : Nat) (c : DbgCmd) (k : Course) (crs : Bool) (w : World) : World :=
  let o := tgtOwner c.target
  if timedBlock w core o then clearDebugStop (endSteps w core) core
  else
    let w := if crs then w.setCourse core o k.cr (k.mapPaths freePath) else modPath w core o k.cr (tgtPath c.target) freePath
    w.modCourse core o k.cr fun k => k.released (vccOf w core)

/-- `dbg.step` (R379, R380). -/
def stepPath (core : Nat) (c : DbgCmd) (k : Course) (trap : Bool) (w : World) : World :=
  let o := tgtOwner c.target
  let w := if timedBlock w core o then clearDebugStop (endSteps w core) core else w
  let w := modPath w core o k.cr (tgtPath c.target) fun p =>
    { p with stepping := true, stepTrap := trap, bpSkip := some p.pc, held := p.held && !timedBlock w core o }
  w.modCourse core o k.cr fun k => k.released (vccOf w core)

/-- `dbg.watch` (R381): set or clear an entry; WATCH of a handle holds while an entry names it. -/
def setWatch (core : Nat) (b : Block) (e : Nat) (on rd wr trap die : Bool) (handle lo hi : Nat) (w : World) : World :=
  let o := b.bind.owner
  let old := (w.core core).watches.find e
  let w := w.modCore core fun k => { k with
    watches := if on then k.watches.put e { owner := o, rd := rd, wr := wr, trap := trap, die := die, handle := handle, lo := lo, hi := hi }
      else k.watches.erase e }
  let named := fun (w : World) (ow n : Nat) => (w.core core).watches.any fun x => decide (x.2.owner = ow) && !x.2.die && decide (x.2.handle = n)
  let mark := fun (w : World) (ow n : Nat) => match w.block? core ow with
    | some y => w.modCore core fun k => { k with tiles := k.tiles.put (y.bind.hb + n) { descOf k y n with watch := named w ow n } }
    | none => w
  let w := match old with
    | some x => if x.die then w else mark w x.owner x.handle
    | none => w
  if on && !die then mark w o handle else w

/-- Set the sampling period of a core: every string draws anew, one whose tagged instruction is in flight after its record (R384,
R385). -/
def setSamp (core period : Nat) (w : World) : World :=
  let draw := fun (w : World) (s : Nat) =>
    if (w.core core).samples.any fun x => decide (x.str = s) then w.modCore core fun k => k.setStr s { k.str s with draw := 0 }
    else
      let n := if period = 0 then 0 else 1 + Config.sampleDraw w.free % (2 * period - 1)
      w.step.modCore core fun k => k.setStr s { k.str s with draw := n, tagged := none }
  (List.range 8).foldl draw (w.modCore core fun k => { k with samp := period })

/-- DEBUG_COMMAND_ARRIVE: a command acts on its target, or is refused (R371, R372). -/
def debugArrive (core did : Nat) (w : World) : World :=
  match (w.core core).dbg.find? fun x => decide (x.id = did) with
  | none => w
  | some c =>
    let w := w.modCore core fun k => { k with dbg := k.dbg.filter fun (x : DbgCmd) => decide (x.id ≠ did) }
    let o := tgtOwner c.target
    let onPath := fun (f : Course → Path → World) => match tgtCourse w c with
      | none => refuseDebug w c 3
      | some k => match k.path? (tgtPath c.target) with
        | none => refuseDebug w c 3
        | some p => f k p
    match c.op with
    | .samp n => if partOf w (dieOf core) ≠ partOf w (dieOf c.src) then refuseDebug w c 1 else setSamp core n w
    | op =>
      let n := blockRefusal w c
      if n ≠ 0 then refuseDebug w c n
      else match op, w.block? core o with
        | .bpClr e, _ => w.modCore core fun k => { k with bps := k.bps.erase e }
        | .bpSet e pc, _ => w.modCore core fun k => { k with bps := k.bps.put e { pc := pc, owner := o } }
        | .claim, _ =>
          -- the claim of a course that has exited has ended (R377)
          if ((w.course? c.src c.srcOwner c.srcCr).map fun k => !k.gone).getD false then w.modCore core fun k => { k with claims := k.claims.put o c.who } else w
        | .free, _ => w.modCore core fun k => { k with claims := k.claims.erase o }
        | .hold crs, _ =>
          if crs then (match tgtCourse w c with
            | some k => holdPaths core c k true w
            | none => refuseDebug w c 3)
          else onPath fun k _ => holdPaths core c k false w
        | .step trap, _ => onPath fun k p => if debugHeld w core o p then stepPath core c k trap w else refuseDebug w c 4
        | .run crs, _ =>
          if crs then (match tgtCourse w c with
            | some k => runPaths core c k true w
            | none => refuseDebug w c 3)
          else onPath fun k _ => runPaths core c k false w
        | .watch e on rd wr trap die h lo hi, some b =>
          if !die && (decide (b.hdr.handles ≤ h) || !(descOf (w.core core) b h).valid) then refuseDebug w c 6
          else setWatch core b e on rd wr trap die h lo hi w
        | _, _ => w

/-! ## Stops (R377, R378, R380) -/

/-- The breakpoint entry that the next instruction of a path matches (R377). -/
def matchBp (k : Core) (owner : Nat) (p : Path) : Option Nat :=
  if p.bpSkip = some p.pc then none
  else (k.bps.find? fun x => decide (x.2.owner = owner) && decide (x.2.pc = pcWord p.pc)).map Prod.fst

/-- BREAKPOINT_MATCH: the path stops before it issues, or the timed sash pauses at this cycle (R377, R380). -/
def breakpoint (c o r slot : Nat) (w : World) : World :=
  match w.course? c o r with
  | none => w
  | some k =>
    match k.path? slot with
    | none => w
    | some p =>
      match matchBp (w.core c) o p with
      | none => w
      | some e =>
        let rec1 : DebugRec := { kind := 1, ent := e, held := some true, mask := p.mask, pc := (pcWord p.pc).toNat }
        let w := if timedBlock w c o then pauseNow (modPath w c o r slot fun p => { p with bpSkip := some p.pc }) c .debug
          else modPath w c o r slot fun p => { p with held := true, stepping := false, bpSkip := some p.pc }
        debugRecord w c o r slot rec1

/-- A stop of a timed path that is due (R380). -/
def Path.stopDue (p : Path) (vcc : Nat) : Bool := match p.stop with | some s => decide (s.1 ≤ vcc) | none => false

/-- A timed stop of a path takes effect: its sash stands, and the record says so (R374, R380). -/
def takeStop (c : Nat) (k : Course) (w : World) (x : Nat × Path) : World :=
  match x.2.stop with
  | some (_, kind, code) =>
    debugRecord (modPath w c k.owner k.cr x.1 fun p => { p with stop := none, bpSkip := some p.pc }) c k.owner k.cr x.1
      { kind := kind, held := some true, mask := x.2.mask, pc := (pcWord x.2.pc).toNat, code := code }
  | none => w

/-- Paths in ascending order of their lowest lanes (R379). -/
def byLane (l : List (Nat × Path)) : List (Nat × Path) := sortBy (fun a b => decide (lowestLane a.2.mask ≤ lowestLane b.2.mask)) l

/-- The ends of steps that left no path, of a core: MASK 0, the stepped path's index and the PC of the next slot (R379). -/
def takeStepEnds (c vcc : Nat) (w : World) : World :=
  ((w.core c).stepEnds.filter fun x => decide (x.1 ≤ vcc)).foldl
    (fun w x => debugRecord w c x.2.1 x.2.2.1 x.2.2.2.1 { kind := 3, held := some true, pc := (pcWord x.2.2.2.2).toNat })
    (w.modCore c fun k => { k with stepEnds := k.stepEnds.filter fun x => decide (vcc < x.1) })

/-- Every stop of a timed sash that is due at this cycle takes effect, in order of core, course and lowest lane (R380). -/
def takeStops (core : Nat) (w : World) : World :=
  let vcc := vccOf w core
  let cs := ((sashOf w core).map Sash.cores).getD []
  (pauseNow w core .debug).mach.cores.foldl (fun w y =>
    if cs.contains y.1 then
      y.2.courses.foldl (fun w z => (byLane (z.2.paths.filter fun p => p.2.stopDue vcc)).foldl (takeStop y.1 z.2) w) (takeStepEnds y.1 vcc w)
    else w) (pauseNow w core .debug)

/-- A path that a timed step has left comes to its issue cycle: the sash stands, and the records of the step are written, of every
path of the course that it has left, in ascending order of lowest lane (R379, R380). -/
def takeStep (c : Nat) (k : Course) (w : World) : World :=
  let left := byLane (k.paths.filter fun x => x.2.stopNext)
  let w := pauseNow (w.modCourse c k.owner k.cr fun k => k.mapPaths fun p => if p.stopNext then { p with stopNext := false, bpSkip := some p.pc } else p) c .debug
  left.foldl (fun w x => debugRecord w c k.owner k.cr x.1 { kind := 3, held := some true, mask := x.2.mask, pc := (pcWord x.2.pc).toNat }) w

/-- DEBUG_HOLD_TAKE: at its turn a path that `dbg.hold` names is held (R378); in a timed launch the stops that are due take
effect, and a path that a step left pauses its sash at its issue cycle (R380). -/
def holdTake (c o r slot : Nat) (w : World) : World :=
  if (w.core c).stepEnds.any fun x => decide (x.1 ≤ vccOf w c) then takeStops c w
  else match w.course? c o r with
  | none => w
  | some k =>
    match k.path? slot with
    | none => w
    | some p =>
      if timedBlock w c o then
        if p.stopDue (vccOf w c) then takeStops c w
        else if p.stopNext then takeStep c k w
        else w
      else if p.holdReq then
        debugRecord (modPath w c o r slot fun p => { p with held := true, holdReq := false, bpSkip := some p.pc }) c o r slot
          { kind := 5, held := some true, mask := p.mask, pc := (pcWord p.pc).toNat }
      else w

/-! ## Profiling (R384, R385) -/

/-- XFER of an instruction word (R385). -/
def xferCode (word : W32) : Nat :=
  let op := word.toNat % 256
  if op = 0x60 then 1 else if op = 0x61 then 2 else if op = 0x62 then 3 else if op = 0x63 then 4 else if op = 0x64 then 5
  else if op = 0x65 then 6 else 0

/-- Everything of a tagged instruction is over: its lanes, its results, its accesses and its command. -/
def sampleOver (k : Core) (x : Sample) : Bool :=
  !(k.flights.any fun f => decide (f.seq = x.seq)) && !(k.results.any fun r => decide (r.seq = x.seq)) &&
  !(k.accs.any fun a => decide (a.seq = x.seq) && a.done.isNone) && !(k.cmds.any fun c => decide (c.seq = x.seq))

/-- SAMPLE_RECORD: a finished profile goes into the mailbox, and the string draws its next count (R384, R385). -/
def sampleRecord (c str : Nat) (w : World) : World :=
  match (w.core c).samples.find? fun x => decide (x.str = str) with
  | none => w
  | some x =>
    if !sampleOver (w.core c) x then w
    else
      let b := w.block? c x.owner
      let timed := (b.map fun b => b.hdr.timed).getD false
      let sat := fun (n : Nat) => min n 0xFFFF
      let w := mailNote w c (32 * x.str + lowestLane x.mask) ([0x20 * 2 ^ 24 + (if timed then 2 ^ 18 else 0), targetWord c x.owner x.cr (pathNow w c x.owner x.cr x.pid x.path), x.mask.toNat,
          (b.map fun b => b.bind.bk.toNat).getD 0] ++ lohi (pcWord x.pc).toNat ++ lohi x.issue ++
        [sat x.fetch * 2 ^ 16 + sat x.read, sat x.exec * 2 ^ 16 + sat x.wb,
         x.level * 2 ^ 28 + (if x.caused then 2 ^ 27 else 0) + xferCode x.word * 2 ^ 24, x.paused % 2 ^ 32,
         (b.map fun b => b.bind.lid.toNat).getD 0, x.word.toNat, 0, 0])
      let period := (w.core c).samp
      let n := if period = 0 then 0 else 1 + Config.sampleDraw w.free % (2 * period - 1)
      w.step.modCore c fun k =>
        ({ k with samples := k.samples.filter fun (y : Sample) => decide (y.str ≠ str) } : Core).setStr str { k.str str with draw := n, tagged := none }

/-! ## The steps -/

/-- DEBUG_COMMAND_ARRIVE (R371, R372). -/
def execDebugCommandArrive (c did : Nat) (s : State) : Host.Outcome State Fault Refusal := runEvent (debugArrive c did) s
/-- BREAKPOINT_MATCH (R377, R380). -/
def execBreakpointMatch (c owner cr slot : Nat) (s : State) : Host.Outcome State Fault Refusal := runEvent (breakpoint c owner cr slot) s
/-- DEBUG_HOLD_TAKE (R378, R380). -/
def execDebugHoldTake (c owner cr slot : Nat) (s : State) : Host.Outcome State Fault Refusal := runEvent (holdTake c owner cr slot) s
/-- SAMPLE_RECORD (R385). -/
def execSampleRecord (c str : Nat) (s : State) : Host.Outcome State Fault Refusal := runEvent (sampleRecord c str) s

end Sys2Proof.Machine
end

