-- ==== Sys2Proof/Machine/FpArith.lean ====
section
/-! DEFINITION. The FP32, FP64 and packed FP16 and BF16 instructions (R129 to R135), opcodes 0x20 to 0x37.
Each meaning is the issue; LANE_EXECUTE computes the lanes. -/

namespace Sys2Proof.Machine

/-- `fadd` (R130). -/
def execFadd (d a b : Reg) (ub : Bool) (rm : Round) (s : State) : Host.Outcome State Fault Refusal :=
  issueLane (lane2 (.fadd .f32 rm) false d a b ub 4 .fp) s

/-- `fsub` (R130). -/
def execFsub (d a b : Reg) (ub : Bool) (rm : Round) (s : State) : Host.Outcome State Fault Refusal :=
  issueLane (lane2 (.fsub .f32 rm) false d a b ub 4 .fp) s

/-- `fmul` (R130). -/
def execFmul (d a b : Reg) (ub : Bool) (rm : Round) (s : State) : Host.Outcome State Fault Refusal :=
  issueLane (lane2 (.fmul .f32 rm) false d a b ub 4 .fp) s

/-- `ffma` (R130). -/
def execFfma (d a b : Reg) (ub : Bool) (rm : Round) (s : State) : Host.Outcome State Fault Refusal :=
  issueLane (lane3 (.ffma .f32 rm) false d a b ub 4 .fp) s

/-- `fmin` (R131). -/
def execFmin (d a b : Reg) (ub : Bool) (s : State) : Host.Outcome State Fault Refusal :=
  issueLane (lane2 (.fmin .f32) false d a b ub 4 .fp) s

/-- `fmax` (R131). -/
def execFmax (d a b : Reg) (ub : Bool) (s : State) : Host.Outcome State Fault Refusal :=
  issueLane (lane2 (.fmax .f32) false d a b ub 4 .fp) s

/-- `fsetp` (R132). -/
def execFsetp (cc : CondF) (p : BitVec 3) (a b : Reg) (ub : Bool) (s : State) : Host.Outcome State Fault Refusal :=
  issueLane (lanePred (.fsetp .f32 cc) false p a b ub 4 .fp) s

/-- `fabs` (R133). -/
def execFabs (d a : Reg) (s : State) : Host.Outcome State Fault Refusal :=
  issueLane (lane1 (.fabs .f32) false false d a 4 .fp) s

/-- `fneg` (R133). -/
def execFneg (d a : Reg) (s : State) : Host.Outcome State Fault Refusal :=
  issueLane (lane1 (.fneg .f32) false false d a 4 .fp) s

/-- `fcpsgn` (R133). -/
def execFcpsgn (d a b : Reg) (ub : Bool) (s : State) : Host.Outcome State Fault Refusal :=
  issueLane (lane2 (.fcpsgn .f32) false d a b ub 4 .fp) s

/-- `fclass` (R134). -/
def execFclass (d a : Reg) (s : State) : Host.Outcome State Fault Refusal :=
  issueLane (lane1 (.fclass .f32) false false d a 4 .fp) s

/-- `dadd` (R130). -/
def execDadd (d a b : Reg) (ub : Bool) (rm : Round) (s : State) : Host.Outcome State Fault Refusal :=
  issueLane (lane2 (.fadd .f64 rm) true d a b ub 6 .fp64) s

/-- `dsub` (R130). -/
def execDsub (d a b : Reg) (ub : Bool) (rm : Round) (s : State) : Host.Outcome State Fault Refusal :=
  issueLane (lane2 (.fsub .f64 rm) true d a b ub 6 .fp64) s

/-- `dmul` (R130). -/
def execDmul (d a b : Reg) (ub : Bool) (rm : Round) (s : State) : Host.Outcome State Fault Refusal :=
  issueLane (lane2 (.fmul .f64 rm) true d a b ub 6 .fp64) s

/-- `dfma` (R130). -/
def execDfma (d a b : Reg) (ub : Bool) (rm : Round) (s : State) : Host.Outcome State Fault Refusal :=
  issueLane (lane3 (.ffma .f64 rm) true d a b ub 6 .fp64) s

/-- `dmin` (R131). -/
def execDmin (d a b : Reg) (ub : Bool) (s : State) : Host.Outcome State Fault Refusal :=
  issueLane (lane2 (.fmin .f64) true d a b ub 6 .fp64) s

/-- `dmax` (R131). -/
def execDmax (d a b : Reg) (ub : Bool) (s : State) : Host.Outcome State Fault Refusal :=
  issueLane (lane2 (.fmax .f64) true d a b ub 6 .fp64) s

/-- `dsetp` (R132). -/
def execDsetp (cc : CondF) (p : BitVec 3) (a b : Reg) (ub : Bool) (s : State) : Host.Outcome State Fault Refusal :=
  issueLane (lanePred (.fsetp .f64 cc) true p a b ub 6 .fp64) s

/-- `dabs` (R133). -/
def execDabs (d a : Reg) (s : State) : Host.Outcome State Fault Refusal :=
  issueLane (lane1 (.fabs .f64) true true d a 6 .fp64) s

/-- `dneg` (R133). -/
def execDneg (d a : Reg) (s : State) : Host.Outcome State Fault Refusal :=
  issueLane (lane1 (.fneg .f64) true true d a 6 .fp64) s

/-- `dcpsgn` (R133). -/
def execDcpsgn (d a b : Reg) (ub : Bool) (s : State) : Host.Outcome State Fault Refusal :=
  issueLane (lane2 (.fcpsgn .f64) true d a b ub 6 .fp64) s

/-- `dclass` (R134). -/
def execDclass (d a : Reg) (s : State) : Host.Outcome State Fault Refusal :=
  issueLane (lane1 (.fclass .f64) false true d a 6 .fp64) s

/-- `hadd_f16` (R130). -/
def execHaddF16 (d a b : Reg) (ub : Bool) (rm : Round) (s : State) : Host.Outcome State Fault Refusal :=
  issueLane (lane2 (.hadd .f16 rm) false d a b ub 4 .fp) s

/-- `hmul_f16` (R130). -/
def execHmulF16 (d a b : Reg) (ub : Bool) (rm : Round) (s : State) : Host.Outcome State Fault Refusal :=
  issueLane (lane2 (.hmul .f16 rm) false d a b ub 4 .fp) s

/-- `hfma_f16` (R130). -/
def execHfmaF16 (d a b : Reg) (ub : Bool) (rm : Round) (s : State) : Host.Outcome State Fault Refusal :=
  issueLane (lane3 (.hfma .f16 rm) false d a b ub 4 .fp) s

/-- `hmin_f16` (R131). -/
def execHminF16 (d a b : Reg) (ub : Bool) (s : State) : Host.Outcome State Fault Refusal :=
  issueLane (lane2 (.hmin .f16) false d a b ub 4 .fp) s

/-- `hmax_f16` (R131). -/
def execHmaxF16 (d a b : Reg) (ub : Bool) (s : State) : Host.Outcome State Fault Refusal :=
  issueLane (lane2 (.hmax .f16) false d a b ub 4 .fp) s

/-- `hadd_bf16` (R130). -/
def execHaddBf16 (d a b : Reg) (ub : Bool) (rm : Round) (s : State) : Host.Outcome State Fault Refusal :=
  issueLane (lane2 (.hadd .bf16 rm) false d a b ub 4 .fp) s

/-- `hmul_bf16` (R130). -/
def execHmulBf16 (d a b : Reg) (ub : Bool) (rm : Round) (s : State) : Host.Outcome State Fault Refusal :=
  issueLane (lane2 (.hmul .bf16 rm) false d a b ub 4 .fp) s

/-- `hfma_bf16` (R130). -/
def execHfmaBf16 (d a b : Reg) (ub : Bool) (rm : Round) (s : State) : Host.Outcome State Fault Refusal :=
  issueLane (lane3 (.hfma .bf16 rm) false d a b ub 4 .fp) s

/-- `hmin_bf16` (R131). -/
def execHminBf16 (d a b : Reg) (ub : Bool) (s : State) : Host.Outcome State Fault Refusal :=
  issueLane (lane2 (.hmin .bf16) false d a b ub 4 .fp) s

/-- `hmax_bf16` (R131). -/
def execHmaxBf16 (d a b : Reg) (ub : Bool) (s : State) : Host.Outcome State Fault Refusal :=
  issueLane (lane2 (.hmax .bf16) false d a b ub 4 .fp) s

end Sys2Proof.Machine
end

