-- ==== Sys2Proof/Machine/IntArith.lean ====
section
/-! DEFINITION. The integer and logic lane instructions (R122 to R128), opcodes 0x00 to 0x0F.
Each meaning is the issue; LANE_EXECUTE computes the lanes. -/

namespace Sys2Proof.Machine

/-- `add` (R124). -/
def execAdd (d a b : Reg) (ub : Bool) (w : IntW) (s : State) : Host.Outcome State Fault Refusal :=
  issueLane (lane2 (.add w) (intWide w) d a b ub 2 .none) s

/-- `sub` (R124). -/
def execSub (d a b : Reg) (ub : Bool) (w : IntW) (s : State) : Host.Outcome State Fault Refusal :=
  issueLane (lane2 (.sub w) (intWide w) d a b ub 2 .none) s

/-- `mul` (R124). -/
def execMul (d a b : Reg) (ub : Bool) (w : IntW) (s : State) : Host.Outcome State Fault Refusal :=
  issueLane (lane2 (.mul w) (intWide w) d a b ub 2 .none) s

/-- `mad` (R124, R117). -/
def execMad (d a b : Reg) (ub : Bool) (w : IntW) (s : State) : Host.Outcome State Fault Refusal :=
  issueLane (lane3 (.mad w) (intWide w) d a b ub 2 .none) s

/-- `add_sat` (R124). -/
def execAddSat (d a b : Reg) (ub uns wide : Bool) (s : State) : Host.Outcome State Fault Refusal :=
  issueLane (lane2 (.addSat uns wide) wide d a b ub 2 .none) s

/-- `sub_sat` (R124). -/
def execSubSat (d a b : Reg) (ub uns wide : Bool) (s : State) : Host.Outcome State Fault Refusal :=
  issueLane (lane2 (.subSat uns wide) wide d a b ub 2 .none) s

/-- `mulhi` (R124). -/
def execMulhi (d a b : Reg) (ub uns wide : Bool) (s : State) : Host.Outcome State Fault Refusal :=
  issueLane (lane2 (.mulhi uns wide) wide d a b ub 2 .none) s

/-- `min` (R124). -/
def execMin (d a b : Reg) (ub uns : Bool) (s : State) : Host.Outcome State Fault Refusal :=
  issueLane (lane2 (.min uns) false d a b ub 2 .none) s

/-- `max` (R124). -/
def execMax (d a b : Reg) (ub uns : Bool) (s : State) : Host.Outcome State Fault Refusal :=
  issueLane (lane2 (.max uns) false d a b ub 2 .none) s

/-- `and` (R125). -/
def execAnd (d a b : Reg) (ub : Bool) (s : State) : Host.Outcome State Fault Refusal :=
  issueLane (lane2 .and false d a b ub 2 .none) s

/-- `or` (R125). -/
def execOr (d a b : Reg) (ub : Bool) (s : State) : Host.Outcome State Fault Refusal :=
  issueLane (lane2 .or false d a b ub 2 .none) s

/-- `xor` (R125). -/
def execXor (d a b : Reg) (ub : Bool) (s : State) : Host.Outcome State Fault Refusal :=
  issueLane (lane2 .xor false d a b ub 2 .none) s

/-- `andn` (R125). -/
def execAndn (d a b : Reg) (ub : Bool) (s : State) : Host.Outcome State Fault Refusal :=
  issueLane (lane2 .andn false d a b ub 2 .none) s

/-- `shl` (R125). -/
def execShl (d a b : Reg) (ub : Bool) (s : State) : Host.Outcome State Fault Refusal :=
  issueLane (lane2 .shl false d a b ub 2 .none) s

/-- `shr_z` (R125). -/
def execShrZ (d a b : Reg) (ub : Bool) (s : State) : Host.Outcome State Fault Refusal :=
  issueLane (lane2 .shrZ false d a b ub 2 .none) s

/-- `shr_s` (R125). -/
def execShrS (d a b : Reg) (ub : Bool) (s : State) : Host.Outcome State Fault Refusal :=
  issueLane (lane2 .shrS false d a b ub 2 .none) s

/-- `rol` (R125). -/
def execRol (d a b : Reg) (ub : Bool) (s : State) : Host.Outcome State Fault Refusal :=
  issueLane (lane2 .rol false d a b ub 2 .none) s

/-- `setp` (R126). -/
def execSetp (cc : CondI) (p : BitVec 3) (a b : Reg) (ub : Bool) (w : IntW) (s : State) : Host.Outcome State Fault Refusal :=
  issueLane (lanePred (.setp cc w) (intWide w) p a b ub 2 .none) s

/-- `popc` (R125). -/
def execPopc (d a : Reg) (s : State) : Host.Outcome State Fault Refusal :=
  issueLane (lane1 .popc false false d a 2 .none) s

/-- `clz` (R125). -/
def execClz (d a : Reg) (s : State) : Host.Outcome State Fault Refusal :=
  issueLane (lane1 .clz false false d a 2 .none) s

/-- `brev` (R125). -/
def execBrev (d a : Reg) (s : State) : Host.Outcome State Fault Refusal :=
  issueLane (lane1 .brev false false d a 2 .none) s

/-- `neg` (R125). -/
def execNeg (d a : Reg) (s : State) : Host.Outcome State Fault Refusal :=
  issueLane (lane1 .neg false false d a 2 .none) s

/-- `div` (R127). -/
def execDiv (d a b : Reg) (ub uns : Bool) (s : State) : Host.Outcome State Fault Refusal :=
  issueLane (lane2 (.div uns) false d a b ub 24 .none) s

/-- `rem` (R127). -/
def execRem (d a b : Reg) (ub uns : Bool) (s : State) : Host.Outcome State Fault Refusal :=
  issueLane (lane2 (.rem uns) false d a b ub 24 .none) s

/-- `add_imm` (R124). -/
def execAddImm (d a : Reg) (imm : BitVec 10) (s : State) : Host.Outcome State Fault Refusal :=
  issueLane { op := .alu (.add .w32), dst := .reg d.toNat, a := .reg a.toNat, b := .imm (imm10 imm), lat := 2 } s

/-- `movi` (R128). -/
def execMovi (d : Reg) (imm : BitVec 17) (s : State) : Host.Outcome State Fault Refusal :=
  issueLane { op := .alu .mov, dst := .reg d.toNat, a := .imm (imm17 imm), lat := 2 } s

/-- `movh` (R128): the old low bits of D are read as an operand. -/
def execMovh (d : Reg) (imm : BitVec 17) (s : State) : Host.Outcome State Fault Refusal :=
  issueLane { op := .alu .movh, dst := .reg d.toNat, a := .imm (imm.zeroExtend 64), c := .reg d.toNat, lat := 2 } s

end Sys2Proof.Machine
end

