-- ==== Sys2Proof/Machine/Uniform.lean ====
section
/-! DEFINITION. The uniform forms of the integer and logic instructions (R118, R122), opcodes 0x10 to 0x1F.
Each meaning is the issue; LANE_EXECUTE computes the lanes. -/

namespace Sys2Proof.Machine

/-- `uadd` (R118, R124). -/
def execUadd (d a b : Reg) (w : IntW) (s : State) : Host.Outcome State Fault Refusal :=
  issueUni (uni2 (.add w) (intWide w) d a b 2) s

/-- `usub` (R118, R124). -/
def execUsub (d a b : Reg) (w : IntW) (s : State) : Host.Outcome State Fault Refusal :=
  issueUni (uni2 (.sub w) (intWide w) d a b 2) s

/-- `umul` (R118, R124). -/
def execUmul (d a b : Reg) (w : IntW) (s : State) : Host.Outcome State Fault Refusal :=
  issueUni (uni2 (.mul w) (intWide w) d a b 2) s

/-- `umad` (R118, R124). -/
def execUmad (d a b : Reg) (w : IntW) (s : State) : Host.Outcome State Fault Refusal :=
  issueUni (uni3 (.mad w) (intWide w) d a b 2) s

/-- `uadd_sat` (R118, R124). -/
def execUaddSat (d a b : Reg) (uns wide : Bool) (s : State) : Host.Outcome State Fault Refusal :=
  issueUni (uni2 (.addSat uns wide) wide d a b 2) s

/-- `usub_sat` (R118, R124). -/
def execUsubSat (d a b : Reg) (uns wide : Bool) (s : State) : Host.Outcome State Fault Refusal :=
  issueUni (uni2 (.subSat uns wide) wide d a b 2) s

/-- `umulhi` (R118, R124). -/
def execUmulhi (d a b : Reg) (uns wide : Bool) (s : State) : Host.Outcome State Fault Refusal :=
  issueUni (uni2 (.mulhi uns wide) wide d a b 2) s

/-- `umin` (R118, R124). -/
def execUmin (d a b : Reg) (uns : Bool) (s : State) : Host.Outcome State Fault Refusal :=
  issueUni (uni2 (.min uns) false d a b 2) s

/-- `umax` (R118, R124). -/
def execUmax (d a b : Reg) (uns : Bool) (s : State) : Host.Outcome State Fault Refusal :=
  issueUni (uni2 (.max uns) false d a b 2) s

/-- `uand` (R118, R125). -/
def execUand (d a b : Reg) (s : State) : Host.Outcome State Fault Refusal :=
  issueUni (uni2 .and false d a b 2) s

/-- `uor` (R118, R125). -/
def execUor (d a b : Reg) (s : State) : Host.Outcome State Fault Refusal :=
  issueUni (uni2 .or false d a b 2) s

/-- `uxor` (R118, R125). -/
def execUxor (d a b : Reg) (s : State) : Host.Outcome State Fault Refusal :=
  issueUni (uni2 .xor false d a b 2) s

/-- `uandn` (R118, R125). -/
def execUandn (d a b : Reg) (s : State) : Host.Outcome State Fault Refusal :=
  issueUni (uni2 .andn false d a b 2) s

/-- `ushl` (R118, R125). -/
def execUshl (d a b : Reg) (s : State) : Host.Outcome State Fault Refusal :=
  issueUni (uni2 .shl false d a b 2) s

/-- `ushr_z` (R118, R125). -/
def execUshrZ (d a b : Reg) (s : State) : Host.Outcome State Fault Refusal :=
  issueUni (uni2 .shrZ false d a b 2) s

/-- `ushr_s` (R118, R125). -/
def execUshrS (d a b : Reg) (s : State) : Host.Outcome State Fault Refusal :=
  issueUni (uni2 .shrS false d a b 2) s

/-- `urol` (R118, R125). -/
def execUrol (d a b : Reg) (s : State) : Host.Outcome State Fault Refusal :=
  issueUni (uni2 .rol false d a b 2) s

/-- `usetp` (R118, R126). -/
def execUsetp (cc : CondI) (p : BitVec 3) (a b : Reg) (w : IntW) (s : State) : Host.Outcome State Fault Refusal :=
  issueUni (uniPred (.setp cc w) (intWide w) p a b 2) s

/-- `upopc` (R118, R125). -/
def execUpopc (d a : Reg) (s : State) : Host.Outcome State Fault Refusal :=
  issueUni (uni1 .popc d a 2) s

/-- `uclz` (R118, R125). -/
def execUclz (d a : Reg) (s : State) : Host.Outcome State Fault Refusal :=
  issueUni (uni1 .clz d a 2) s

/-- `ubrev` (R118, R125). -/
def execUbrev (d a : Reg) (s : State) : Host.Outcome State Fault Refusal :=
  issueUni (uni1 .brev d a 2) s

/-- `uneg` (R118, R125). -/
def execUneg (d a : Reg) (s : State) : Host.Outcome State Fault Refusal :=
  issueUni (uni1 .neg d a 2) s

/-- `udiv` (R118, R127). -/
def execUdiv (d a b : Reg) (uns : Bool) (s : State) : Host.Outcome State Fault Refusal :=
  issueUni (uni2 (.div uns) false d a b 24) s

/-- `urem` (R118, R127). -/
def execUrem (d a b : Reg) (uns : Bool) (s : State) : Host.Outcome State Fault Refusal :=
  issueUni (uni2 (.rem uns) false d a b 24) s

/-- `uadd_imm` (R118, R124). -/
def execUaddImm (d a : Reg) (imm : BitVec 10) (s : State) : Host.Outcome State Fault Refusal :=
  issueUni { op := .alu (.add .w32), dst := .uni d.toNat, a := .uni a.toNat, b := .imm (imm10 imm), lat := 2 } s

/-- `umovi` (R118, R128). -/
def execUmovi (d : Reg) (imm : BitVec 17) (s : State) : Host.Outcome State Fault Refusal :=
  issueUni { op := .alu .mov, dst := .uni d.toNat, a := .imm (imm17 imm), lat := 2 } s

/-- `movh` on a uniform register (R118, R128). -/
def execUmovh (d : Reg) (imm : BitVec 17) (s : State) : Host.Outcome State Fault Refusal :=
  issueUni { op := .alu .movh, dst := .uni d.toNat, a := .imm (imm.zeroExtend 64), c := .uni d.toNat, lat := 2 } s

end Sys2Proof.Machine
end

