-- ==== Sys2Proof/Machine/Dispatch.lean ====
section
/-! DEFINITION. The dispatch: one arm per constructor of `Instr`, each one direct call of the meaning. -/

namespace Sys2Proof.Machine

/-- The meaning of an instruction or event in a state. -/
def exec (i : Instr) (s : State) : Host.Outcome State Fault Refusal :=
  match i with
  | .add d a b ub w => Sys2Proof.Machine.execAdd d a b ub w s
  | .sub d a b ub w => Sys2Proof.Machine.execSub d a b ub w s
  | .addSat d a b ub uns wide => Sys2Proof.Machine.execAddSat d a b ub uns wide s
  | .subSat d a b ub uns wide => Sys2Proof.Machine.execSubSat d a b ub uns wide s
  | .mul d a b ub w => Sys2Proof.Machine.execMul d a b ub w s
  | .mulhi d a b ub uns wide => Sys2Proof.Machine.execMulhi d a b ub uns wide s
  | .mad d a b ub w => Sys2Proof.Machine.execMad d a b ub w s
  | .min d a b ub uns => Sys2Proof.Machine.execMin d a b ub uns s
  | .max d a b ub uns => Sys2Proof.Machine.execMax d a b ub uns s
  | .and d a b ub => Sys2Proof.Machine.execAnd d a b ub s
  | .or d a b ub => Sys2Proof.Machine.execOr d a b ub s
  | .xor d a b ub => Sys2Proof.Machine.execXor d a b ub s
  | .andn d a b ub => Sys2Proof.Machine.execAndn d a b ub s
  | .shl d a b ub => Sys2Proof.Machine.execShl d a b ub s
  | .shrZ d a b ub => Sys2Proof.Machine.execShrZ d a b ub s
  | .shrS d a b ub => Sys2Proof.Machine.execShrS d a b ub s
  | .rol d a b ub => Sys2Proof.Machine.execRol d a b ub s
  | .setp cc p a b ub w => Sys2Proof.Machine.execSetp cc p a b ub w s
  | .popc d a => Sys2Proof.Machine.execPopc d a s
  | .clz d a => Sys2Proof.Machine.execClz d a s
  | .brev d a => Sys2Proof.Machine.execBrev d a s
  | .neg d a => Sys2Proof.Machine.execNeg d a s
  | .div d a b ub uns => Sys2Proof.Machine.execDiv d a b ub uns s
  | .rem d a b ub uns => Sys2Proof.Machine.execRem d a b ub uns s
  | .addImm d a imm => Sys2Proof.Machine.execAddImm d a imm s
  | .movi d imm => Sys2Proof.Machine.execMovi d imm s
  | .movh d imm => Sys2Proof.Machine.execMovh d imm s
  | .uadd d a b w => Sys2Proof.Machine.execUadd d a b w s
  | .usub d a b w => Sys2Proof.Machine.execUsub d a b w s
  | .uaddSat d a b uns wide => Sys2Proof.Machine.execUaddSat d a b uns wide s
  | .usubSat d a b uns wide => Sys2Proof.Machine.execUsubSat d a b uns wide s
  | .umul d a b w => Sys2Proof.Machine.execUmul d a b w s
  | .umulhi d a b uns wide => Sys2Proof.Machine.execUmulhi d a b uns wide s
  | .umad d a b w => Sys2Proof.Machine.execUmad d a b w s
  | .umin d a b uns => Sys2Proof.Machine.execUmin d a b uns s
  | .umax d a b uns => Sys2Proof.Machine.execUmax d a b uns s
  | .uand d a b => Sys2Proof.Machine.execUand d a b s
  | .uor d a b => Sys2Proof.Machine.execUor d a b s
  | .uxor d a b => Sys2Proof.Machine.execUxor d a b s
  | .uandn d a b => Sys2Proof.Machine.execUandn d a b s
  | .ushl d a b => Sys2Proof.Machine.execUshl d a b s
  | .ushrZ d a b => Sys2Proof.Machine.execUshrZ d a b s
  | .ushrS d a b => Sys2Proof.Machine.execUshrS d a b s
  | .urol d a b => Sys2Proof.Machine.execUrol d a b s
  | .usetp cc p a b w => Sys2Proof.Machine.execUsetp cc p a b w s
  | .upopc d a => Sys2Proof.Machine.execUpopc d a s
  | .uclz d a => Sys2Proof.Machine.execUclz d a s
  | .ubrev d a => Sys2Proof.Machine.execUbrev d a s
  | .uneg d a => Sys2Proof.Machine.execUneg d a s
  | .udiv d a b uns => Sys2Proof.Machine.execUdiv d a b uns s
  | .urem d a b uns => Sys2Proof.Machine.execUrem d a b uns s
  | .uaddImm d a imm => Sys2Proof.Machine.execUaddImm d a imm s
  | .umovi d imm => Sys2Proof.Machine.execUmovi d imm s
  | .umovh d imm => Sys2Proof.Machine.execUmovh d imm s
  | .fadd d a b ub rm => Sys2Proof.Machine.execFadd d a b ub rm s
  | .fsub d a b ub rm => Sys2Proof.Machine.execFsub d a b ub rm s
  | .fmul d a b ub rm => Sys2Proof.Machine.execFmul d a b ub rm s
  | .ffma d a b ub rm => Sys2Proof.Machine.execFfma d a b ub rm s
  | .fmin d a b ub => Sys2Proof.Machine.execFmin d a b ub s
  | .fmax d a b ub => Sys2Proof.Machine.execFmax d a b ub s
  | .fsetp cc p a b ub => Sys2Proof.Machine.execFsetp cc p a b ub s
  | .fabs d a => Sys2Proof.Machine.execFabs d a s
  | .fneg d a => Sys2Proof.Machine.execFneg d a s
  | .fcpsgn d a b ub => Sys2Proof.Machine.execFcpsgn d a b ub s
  | .fclass d a => Sys2Proof.Machine.execFclass d a s
  | .dadd d a b ub rm => Sys2Proof.Machine.execDadd d a b ub rm s
  | .dsub d a b ub rm => Sys2Proof.Machine.execDsub d a b ub rm s
  | .dmul d a b ub rm => Sys2Proof.Machine.execDmul d a b ub rm s
  | .dfma d a b ub rm => Sys2Proof.Machine.execDfma d a b ub rm s
  | .dmin d a b ub => Sys2Proof.Machine.execDmin d a b ub s
  | .dmax d a b ub => Sys2Proof.Machine.execDmax d a b ub s
  | .dsetp cc p a b ub => Sys2Proof.Machine.execDsetp cc p a b ub s
  | .dabs d a => Sys2Proof.Machine.execDabs d a s
  | .dneg d a => Sys2Proof.Machine.execDneg d a s
  | .dcpsgn d a b ub => Sys2Proof.Machine.execDcpsgn d a b ub s
  | .dclass d a => Sys2Proof.Machine.execDclass d a s
  | .haddF16 d a b ub rm => Sys2Proof.Machine.execHaddF16 d a b ub rm s
  | .hmulF16 d a b ub rm => Sys2Proof.Machine.execHmulF16 d a b ub rm s
  | .hfmaF16 d a b ub rm => Sys2Proof.Machine.execHfmaF16 d a b ub rm s
  | .hminF16 d a b ub => Sys2Proof.Machine.execHminF16 d a b ub s
  | .hmaxF16 d a b ub => Sys2Proof.Machine.execHmaxF16 d a b ub s
  | .haddBf16 d a b ub rm => Sys2Proof.Machine.execHaddBf16 d a b ub rm s
  | .hmulBf16 d a b ub rm => Sys2Proof.Machine.execHmulBf16 d a b ub rm s
  | .hfmaBf16 d a b ub rm => Sys2Proof.Machine.execHfmaBf16 d a b ub rm s
  | .hminBf16 d a b ub => Sys2Proof.Machine.execHminBf16 d a b ub s
  | .hmaxBf16 d a b ub => Sys2Proof.Machine.execHmaxBf16 d a b ub s
  | .cvtToF32 d a sel st rm => Sys2Proof.Machine.execCvtToF32 d a sel st rm s
  | .cvtToF64 d a sel st rm => Sys2Proof.Machine.execCvtToF64 d a sel st rm s
  | .cvtToF16 d a sel st rm => Sys2Proof.Machine.execCvtToF16 d a sel st rm s
  | .cvtToBf16 d a sel st rm => Sys2Proof.Machine.execCvtToBf16 d a sel st rm s
  | .cvtToE4m3 d a sel st rm => Sys2Proof.Machine.execCvtToE4m3 d a sel st rm s
  | .cvtToE5m2 d a sel st rm => Sys2Proof.Machine.execCvtToE5m2 d a sel st rm s
  | .cvtQn4F32 d a b rm => Sys2Proof.Machine.execCvtQn4F32 d a b rm s
  | .cvtF32Qn4 d a b ub rm => Sys2Proof.Machine.execCvtF32Qn4 d a b ub rm s
  | .cvtToInteger d a dt f64 rm => Sys2Proof.Machine.execCvtToInteger d a dt f64 rm s
  | .rcp d a => Sys2Proof.Machine.execRcp d a s
  | .rsq d a => Sys2Proof.Machine.execRsq d a s
  | .sqrt d a => Sys2Proof.Machine.execSqrt d a s
  | .exp2 d a => Sys2Proof.Machine.execExp2 d a s
  | .log2 d a => Sys2Proof.Machine.execLog2 d a s
  | .sin d a => Sys2Proof.Machine.execSin d a s
  | .cos d a => Sys2Proof.Machine.execCos d a s
  | .bsel d a b ub => Sys2Proof.Machine.execBsel d a b ub s
  | .dp4 d a b ub sg => Sys2Proof.Machine.execDp4 d a b ub sg s
  | .dp2 d a b ub sg => Sys2Proof.Machine.execDp2 d a b ub sg s
  | .hdp2 d a b ub bf => Sys2Proof.Machine.execHdp2 d a b ub bf s
  | .bra off => Sys2Proof.Machine.execBra off s
  | .brx a uni => Sys2Proof.Machine.execBrx a uni s
  | .call off => Sys2Proof.Machine.execCall off s
  | .ret a uni => Sys2Proof.Machine.execRet a uni s
  | .loop d off => Sys2Proof.Machine.execLoop d off s
  | .exit => Sys2Proof.Machine.execExit s
  | .jtok off => Sys2Proof.Machine.execJtok off s
  | .join => Sys2Proof.Machine.execJoin s
  | .wbase n => Sys2Proof.Machine.execWbase n s
  | .part e => Sys2Proof.Machine.execPart e s
  | .mfs d sr uni => Sys2Proof.Machine.execMfs d sr uni s
  | .mts sr a uni => Sys2Proof.Machine.execMts sr a uni s
  | .lpickAt d a b ub => Sys2Proof.Machine.execLpickAt d a b ub s
  | .lpickBack d a b ub => Sys2Proof.Machine.execLpickBack d a b ub s
  | .lpickFwd d a b ub => Sys2Proof.Machine.execLpickFwd d a b ub s
  | .lpickXor d a b ub => Sys2Proof.Machine.execLpickXor d a b ub s
  | .lpollAny p q => Sys2Proof.Machine.execLpollAny p q s
  | .lpollAll p q => Sys2Proof.Machine.execLpollAll p q s
  | .lpollMap d q => Sys2Proof.Machine.execLpollMap d q s
  | .redAdd d a uns => Sys2Proof.Machine.execRedAdd d a uns s
  | .redMin d a uns => Sys2Proof.Machine.execRedMin d a uns s
  | .redMax d a uns => Sys2Proof.Machine.execRedMax d a uns s
  | .first d a idx => Sys2Proof.Machine.execFirst d a idx s
  | .caddS32 d a seg br => Sys2Proof.Machine.execCaddS32 d a seg br s
  | .caddS64 d a seg br => Sys2Proof.Machine.execCaddS64 d a seg br s
  | .caddF32 d a seg br => Sys2Proof.Machine.execCaddF32 d a seg br s
  | .caddF64 d a seg br => Sys2Proof.Machine.execCaddF64 d a seg br s
  | .cminS32 d a seg br => Sys2Proof.Machine.execCminS32 d a seg br s
  | .cminF32 d a seg br => Sys2Proof.Machine.execCminF32 d a seg br s
  | .cmaxS32 d a seg br => Sys2Proof.Machine.execCmaxS32 d a seg br s
  | .cmaxF32 d a seg br => Sys2Proof.Machine.execCmaxF32 d a seg br s
  | .cmulF32 d a seg br => Sys2Proof.Machine.execCmulF32 d a seg br s
  | .cfmaF32 d a b ub seg br => Sys2Proof.Machine.execCfmaF32 d a b ub seg br s
  | .cfmaF64 d a b ub seg br => Sys2Proof.Machine.execCfmaF64 d a b ub seg br s
  | .cxorB32 d a seg br => Sys2Proof.Machine.execCxorB32 d a seg br s
  | .cpassB64 d a seg br => Sys2Proof.Machine.execCpassB64 d a seg br s
  | .trap c => Sys2Proof.Machine.execTrap c s
  | .brk c => Sys2Proof.Machine.execBrk c s
  | .tret => Sys2Proof.Machine.execTret s
  | .ldLn d a off ord sz => Sys2Proof.Machine.execLdLn d a off ord sz s
  | .stLn d a off ord sz => Sys2Proof.Machine.execStLn d a off ord sz s
  | .ldTs d h b w => Sys2Proof.Machine.execLdTs d h b w s
  | .stTs d h b w => Sys2Proof.Machine.execStTs d h b w s
  | .ldAcc d h b w => Sys2Proof.Machine.execLdAcc d h b w s
  | .stAcc d h b w => Sys2Proof.Machine.execStAcc d h b w s
  | .ldDie d a off ord sz => Sys2Proof.Machine.execLdDie d a off ord sz s
  | .stDie d a off ord sz => Sys2Proof.Machine.execStDie d a off ord sz s
  | .ldFab d a off ord sz => Sys2Proof.Machine.execLdFab d a off ord sz s
  | .stFab d a off ord sz => Sys2Proof.Machine.execStFab d a off ord sz s
  | .ldHost d a tag sz => Sys2Proof.Machine.execLdHost d a tag sz s
  | .stHost d a tag sz => Sys2Proof.Machine.execStHost d a tag sz s
  | .stMc d a mask ord sz => Sys2Proof.Machine.execStMc d a mask ord sz s
  | .atomAdd d a b w64 ord => Sys2Proof.Machine.execAtomAdd d a b w64 ord s
  | .atomMin d a b w64 uns ord => Sys2Proof.Machine.execAtomMin d a b w64 uns ord s
  | .atomMax d a b w64 uns ord => Sys2Proof.Machine.execAtomMax d a b w64 uns ord s
  | .atomAnd d a b w64 ord => Sys2Proof.Machine.execAtomAnd d a b w64 ord s
  | .atomOr d a b w64 ord => Sys2Proof.Machine.execAtomOr d a b w64 ord s
  | .atomXor d a b w64 ord => Sys2Proof.Machine.execAtomXor d a b w64 ord s
  | .atomExch d a b w64 ord => Sys2Proof.Machine.execAtomExch d a b w64 ord s
  | .atomCas d a b w64 ord => Sys2Proof.Machine.execAtomCas d a b w64 ord s
  | .fatomAdd d a b w64 ord => Sys2Proof.Machine.execFatomAdd d a b w64 ord s
  | .fatomMin d a b w64 uns ord => Sys2Proof.Machine.execFatomMin d a b w64 uns ord s
  | .fatomMax d a b w64 uns ord => Sys2Proof.Machine.execFatomMax d a b w64 uns ord s
  | .fatomAnd d a b w64 ord => Sys2Proof.Machine.execFatomAnd d a b w64 ord s
  | .fatomOr d a b w64 ord => Sys2Proof.Machine.execFatomOr d a b w64 ord s
  | .fatomXor d a b w64 ord => Sys2Proof.Machine.execFatomXor d a b w64 ord s
  | .fatomExch d a b w64 ord => Sys2Proof.Machine.execFatomExch d a b w64 ord s
  | .fatomCas d a b w64 ord => Sys2Proof.Machine.execFatomCas d a b w64 ord s
  | .talloc fmt p h b lv => Sys2Proof.Machine.execTalloc fmt p h b lv s
  | .tfree h => Sys2Proof.Machine.execTfree h s
  | .tdesc d h uni => Sys2Proof.Machine.execTdesc d h uni s
  | .rlwSet a b => Sys2Proof.Machine.execRlwSet a b s
  | .rlwNext d p => Sys2Proof.Machine.execRlwNext d p s
  | .tatomAdd d h b => Sys2Proof.Machine.execTatomAdd d h b s
  | .tatomMin d h b => Sys2Proof.Machine.execTatomMin d h b s
  | .tatomMax d h b => Sys2Proof.Machine.execTatomMax d h b s
  | .tatomExch d h b => Sys2Proof.Machine.execTatomExch d h b s
  | .tatomCas d h b => Sys2Proof.Machine.execTatomCas d h b s
  | .phReg n role => Sys2Proof.Machine.execPhReg n role s
  | .phArrive n => Sys2Proof.Machine.execPhArrive n s
  | .phWait n => Sys2Proof.Machine.execPhWait n s
  | .phExpect n b => Sys2Proof.Machine.execPhExpect n b s
  | .keyTake => Sys2Proof.Machine.execKeyTake s
  | .keyPass => Sys2Proof.Machine.execKeyPass s
  | .rbGive c => Sys2Proof.Machine.execRbGive c s
  | .rbClaim c => Sys2Proof.Machine.execRbClaim c s
  | .monArm p a fab uni => Sys2Proof.Machine.execMonArm p a fab uni s
  | .monWait p b => Sys2Proof.Machine.execMonWait p b s
  | .monDisarm a fab uni => Sys2Proof.Machine.execMonDisarm a fab uni s
  | .fence sc => Sys2Proof.Machine.execFence sc s
  | .cpFill d a b => Sys2Proof.Machine.execCpFill d a b s
  | .cpDrain d a b => Sys2Proof.Machine.execCpDrain d a b s
  | .cpTt d a b => Sys2Proof.Machine.execCpTt d a b s
  | .cpHost d a b fromHandle => Sys2Proof.Machine.execCpHost d a b fromHandle s
  | .cpFab d a b fromHandle => Sys2Proof.Machine.execCpFab d a b fromHandle s
  | .cpGth d a b fab => Sys2Proof.Machine.execCpGth d a b fab s
  | .cpTrn d a b fromTs => Sys2Proof.Machine.execCpTrn d a b fromTs s
  | .cpAcc d a b rm => Sys2Proof.Machine.execCpAcc d a b rm s
  | .mx d a b pair => Sys2Proof.Machine.execMx d a b pair s
  | .tsend d a b => Sys2Proof.Machine.execTsend d a b s
  | .tland d a b => Sys2Proof.Machine.execTland d a b s
  | .twany a => Sys2Proof.Machine.execTwany a s
  | .twall a => Sys2Proof.Machine.execTwall a s
  | .twfirst d a => Sys2Proof.Machine.execTwfirst d a s
  | .nop => Sys2Proof.Machine.execNop s
  | .launch d a b => Sys2Proof.Machine.execLaunch d a b s
  | .driftSet a b => Sys2Proof.Machine.execDriftSet a b s
  | .driftStep a b => Sys2Proof.Machine.execDriftStep a b s
  | .dbgBpClr e b => Sys2Proof.Machine.execDbgBpClr e b s
  | .dbgBpSet e a b => Sys2Proof.Machine.execDbgBpSet e a b s
  | .dbgBpClaim b => Sys2Proof.Machine.execDbgBpClaim b s
  | .dbgBpFree b => Sys2Proof.Machine.execDbgBpFree b s
  | .dbgHold b crs => Sys2Proof.Machine.execDbgHold b crs s
  | .dbgStep b => Sys2Proof.Machine.execDbgStep b s
  | .dbgStepTrap b => Sys2Proof.Machine.execDbgStepTrap b s
  | .dbgRun b crs => Sys2Proof.Machine.execDbgRun b crs s
  | .dbgWatch d a b => Sys2Proof.Machine.execDbgWatch d a b s
  | .dbgMbox a b => Sys2Proof.Machine.execDbgMbox a b s
  | .dbgMboxBase a b => Sys2Proof.Machine.execDbgMboxBase a b s
  | .dbgMboxSamp a b => Sys2Proof.Machine.execDbgMboxSamp a b s
  | .dbgMboxRec a b => Sys2Proof.Machine.execDbgMboxRec a b s
  | .clauseFetch c owner cr slot => Sys2Proof.Machine.execClauseFetch c owner cr slot s
  | .laneExecute c seq lane => Sys2Proof.Machine.execLaneExecute c seq lane s
  | .chainStep c seq lane => Sys2Proof.Machine.execChainStep c seq lane s
  | .broWrite c seq => Sys2Proof.Machine.execBroWrite c seq s
  | .resultReady c rid => Sys2Proof.Machine.execResultReady c rid s
  | .memoryAccessApply c aid => Sys2Proof.Machine.execMemoryAccessApply c aid s
  | .tatomWriteHalf c aid => Sys2Proof.Machine.execTatomWriteHalf c aid s
  | .pauseHorizonCheck c aid => Sys2Proof.Machine.execPauseHorizonCheck c aid s
  | .pauseStop sash => Sys2Proof.Machine.execPauseStop sash s
  | .sashResume sash => Sys2Proof.Machine.execSashResume sash s
  | .waitWake c owner cr slot => Sys2Proof.Machine.execWaitWake c owner cr slot s
  | .monWaitTimeout c owner cr slot => Sys2Proof.Machine.execMonWaitTimeout c owner cr slot s
  | .pathFillComplete c owner cr slot => Sys2Proof.Machine.execPathFillComplete c owner cr slot s
  | .asyncTrapTake c owner cr slot => Sys2Proof.Machine.execAsyncTrapTake c owner cr slot s
  | .budgetFault c owner => Sys2Proof.Machine.execBudgetFault c owner s
  | .commandStart c cid => Sys2Proof.Machine.execCommandStart c cid s
  | .copyBeat c queue => Sys2Proof.Machine.execCopyBeat c queue s
  | .beatSourceRead c bid => Sys2Proof.Machine.execBeatSourceRead c bid s
  | .beatDestWrite c bid => Sys2Proof.Machine.execBeatDestWrite c bid s
  | .matrixArrayStart c cid => Sys2Proof.Machine.execMatrixArrayStart c cid s
  | .matrixWrite c cid => Sys2Proof.Machine.execMatrixWrite c cid s
  | .tsendDepart c cid => Sys2Proof.Machine.execTsendDepart c cid s
  | .creditCheck c cid => Sys2Proof.Machine.execCreditCheck c cid s
  | .creditArrive c xid => Sys2Proof.Machine.execCreditArrive c xid s
  | .messageArrive c xid => Sys2Proof.Machine.execMessageArrive c xid s
  | .landingCheck c arm => Sys2Proof.Machine.execLandingCheck c arm s
  | .landingCommit c arm => Sys2Proof.Machine.execLandingCommit c arm s
  | .cancelRelease c arm => Sys2Proof.Machine.execCancelRelease c arm s
  | .blockStart c owner => Sys2Proof.Machine.execBlockStart c owner s
  | .timedBlockStart c owner => Sys2Proof.Machine.execTimedBlockStart c owner s
  | .blockEnd c owner => Sys2Proof.Machine.execBlockEnd c owner s
  | .ticketRelease c owner => Sys2Proof.Machine.execTicketRelease c owner s
  | .causalApply die wid => Sys2Proof.Machine.execCausalApply die wid s
  | .schedulingRound m part => Sys2Proof.Machine.execSchedulingRound m part s
  | .deviceLaunchComplete c cid => Sys2Proof.Machine.execDeviceLaunchComplete c cid s
  | .containmentWalk c => Sys2Proof.Machine.execContainmentWalk c s
  | .preemptCut c owner => Sys2Proof.Machine.execPreemptCut c owner s
  | .preemptSave c owner => Sys2Proof.Machine.execPreemptSave c owner s
  | .restore m idx => Sys2Proof.Machine.execRestore m idx s
  | .timedPreempt m lid => Sys2Proof.Machine.execTimedPreempt m lid s
  | .pageWalk die wid => Sys2Proof.Machine.execPageWalk die wid s
  | .translationComplete die wid => Sys2Proof.Machine.execTranslationComplete die wid s
  | .pageVerdictRetry die slot => Sys2Proof.Machine.execPageVerdictRetry die slot s
  | .pageVerdictFail die slot => Sys2Proof.Machine.execPageVerdictFail die slot s
  | .shootdownSmall die page => Sys2Proof.Machine.execShootdownSmall die page s
  | .shootdownLarge die page => Sys2Proof.Machine.execShootdownLarge die page s
  | .shootdownBoth die page => Sys2Proof.Machine.execShootdownBoth die page s
  | .shootdownAll die => Sys2Proof.Machine.execShootdownAll die s
  | .shootdownComplete die => Sys2Proof.Machine.execShootdownComplete die s
  | .uncorrectableError store granule => Sys2Proof.Machine.execUncorrectableError store granule s
  | .scrub die => Sys2Proof.Machine.execScrub die s
  | .hostAccessComplete c aid refused => Sys2Proof.Machine.execHostAccessComplete c aid refused s
  | .driftHoldCycle m => Sys2Proof.Machine.execDriftHoldCycle m s
  | .driftSetApply m => Sys2Proof.Machine.execDriftSetApply m s
  | .driftStepApply m => Sys2Proof.Machine.execDriftStepApply m s
  | .timingFlit m port => Sys2Proof.Machine.execTimingFlit m port s
  | .driftReport m => Sys2Proof.Machine.execDriftReport m s
  | .portLinkLoss m port => Sys2Proof.Machine.execPortLinkLoss m port s
  | .portRetrained m port => Sys2Proof.Machine.execPortRetrained m port s
  | .energySample m => Sys2Proof.Machine.execEnergySample m s
  | .byteBudgetInterval die quad => Sys2Proof.Machine.execByteBudgetInterval die quad s
  | .powerWindow m => Sys2Proof.Machine.execPowerWindow m s
  | .throttleHold sash => Sys2Proof.Machine.execThrottleHold sash s
  | .railLevelReached die quad => Sys2Proof.Machine.execRailLevelReached die quad s
  | .shutterChange c owner => Sys2Proof.Machine.execShutterChange c owner s
  | .debugCommandArrive c did => Sys2Proof.Machine.execDebugCommandArrive c did s
  | .breakpointMatch c owner cr slot => Sys2Proof.Machine.execBreakpointMatch c owner cr slot s
  | .debugHoldTake c owner cr slot => Sys2Proof.Machine.execDebugHoldTake c owner cr slot s
  | .sampleRecord c str => Sys2Proof.Machine.execSampleRecord c str s
  | .chunkCommit c => Sys2Proof.Machine.execChunkCommit c s
  | .quoteRequest m msg => Sys2Proof.Machine.execQuoteRequest m msg s
  | .partitionMap m msg => Sys2Proof.Machine.execPartitionMap m msg s
  | .timeGroup m msg => Sys2Proof.Machine.execTimeGroup m msg s
  | .rootRcb m msg => Sys2Proof.Machine.execRootRcb m msg s
  | .extend m msg => Sys2Proof.Machine.execExtend m msg s
  | .certificateRequest m msg => Sys2Proof.Machine.execCertificateRequest m msg s
  | .unknownMessage m msg => Sys2Proof.Machine.execUnknownMessage m msg s
  | .d2hAck m => Sys2Proof.Machine.execD2hAck m s
  | .kernelQuoteServe m part slot => Sys2Proof.Machine.execKernelQuoteServe m part slot s
  | .facceptWrite m v => Sys2Proof.Machine.execFacceptWrite m v s
  | .dbell m v => Sys2Proof.Machine.execDbell m v s
  | .imageLoad m v => Sys2Proof.Machine.execImageLoad m v s
  | .stage2Start m => Sys2Proof.Machine.execStage2Start m s
  | .romStart m => Sys2Proof.Machine.execRomStart m s
  | .moduleRestart m => Sys2Proof.Machine.execModuleRestart m s
  | .registerWrite m off v => Sys2Proof.Machine.execRegisterWrite m off v s
  | .hostDramWindowWrite m off bytes => Sys2Proof.Machine.execHostDramWindowWrite m off bytes s
  | .dramRefresh sash at_ dur => Sys2Proof.Machine.execDramRefresh sash at_ dur s

end Sys2Proof.Machine
end

