-- ==== Sys2Proof/Machine/Perform.lean ====
section
/-! DEFINITION. The meaning of each event of the machine, as a step performs it: one call of the meaning of its row. -/

namespace Sys2Proof.Machine

/-- Perform an event. -/
def perform (e : Event) (s : State) : Host.Outcome State Fault Refusal :=
  match e with
  | .clauseFetch c owner cr slot => execClauseFetch c owner cr slot s
  | .laneExecute c seq lane => execLaneExecute c seq lane s
  | .chainStep c seq lane => execChainStep c seq lane s
  | .broWrite c seq => execBroWrite c seq s
  | .resultReady c rid => execResultReady c rid s
  | .memoryAccessApply c aid => execMemoryAccessApply c aid s
  | .tatomWriteHalf c aid => execTatomWriteHalf c aid s
  | .pauseHorizonCheck c aid => execPauseHorizonCheck c aid s
  | .pauseStop sash => execPauseStop sash s
  | .sashResume sash => execSashResume sash s
  | .waitWake c owner cr slot => execWaitWake c owner cr slot s
  | .monWaitTimeout c owner cr slot => execMonWaitTimeout c owner cr slot s
  | .pathFillComplete c owner cr slot => execPathFillComplete c owner cr slot s
  | .asyncTrapTake c owner cr slot => execAsyncTrapTake c owner cr slot s
  | .budgetFault c owner => execBudgetFault c owner s
  | .commandStart c cid => execCommandStart c cid s
  | .copyBeat c queue => execCopyBeat c queue s
  | .beatSourceRead c bid => execBeatSourceRead c bid s
  | .beatDestWrite c bid => execBeatDestWrite c bid s
  | .matrixArrayStart c cid => execMatrixArrayStart c cid s
  | .matrixWrite c cid => execMatrixWrite c cid s
  | .tsendDepart c cid => execTsendDepart c cid s
  | .creditCheck c cid => execCreditCheck c cid s
  | .creditArrive c xid => execCreditArrive c xid s
  | .messageArrive c xid => execMessageArrive c xid s
  | .landingCheck c arm => execLandingCheck c arm s
  | .landingCommit c arm => execLandingCommit c arm s
  | .cancelRelease c arm => execCancelRelease c arm s
  | .blockStart c owner => execBlockStart c owner s
  | .timedBlockStart c owner => execTimedBlockStart c owner s
  | .blockEnd c owner => execBlockEnd c owner s
  | .ticketRelease c owner => execTicketRelease c owner s
  | .causalApply die wid => execCausalApply die wid s
  | .schedulingRound m part => execSchedulingRound m part s
  | .deviceLaunchComplete c cid => execDeviceLaunchComplete c cid s
  | .containmentWalk c => execContainmentWalk c s
  | .preemptCut c owner => execPreemptCut c owner s
  | .preemptSave c owner => execPreemptSave c owner s
  | .restore m idx => execRestore m idx s
  | .timedPreempt m lid => execTimedPreempt m lid s
  | .pageWalk die wid => execPageWalk die wid s
  | .translationComplete die wid => execTranslationComplete die wid s
  | .pageVerdictRetry die slot => execPageVerdictRetry die slot s
  | .pageVerdictFail die slot => execPageVerdictFail die slot s
  | .shootdownSmall die page => execShootdownSmall die page s
  | .shootdownLarge die page => execShootdownLarge die page s
  | .shootdownBoth die page => execShootdownBoth die page s
  | .shootdownAll die => execShootdownAll die s
  | .shootdownComplete die => execShootdownComplete die s
  | .uncorrectableError store granule => execUncorrectableError store granule s
  | .scrub die => execScrub die s
  | .hostAccessComplete c aid refused => execHostAccessComplete c aid refused s
  | .driftHoldCycle m => execDriftHoldCycle m s
  | .driftSetApply m => execDriftSetApply m s
  | .driftStepApply m => execDriftStepApply m s
  | .timingFlit m port => execTimingFlit m port s
  | .driftReport m => execDriftReport m s
  | .portLinkLoss m port => execPortLinkLoss m port s
  | .portRetrained m port => execPortRetrained m port s
  | .energySample m => execEnergySample m s
  | .byteBudgetInterval die quad => execByteBudgetInterval die quad s
  | .powerWindow m => execPowerWindow m s
  | .throttleHold sash => execThrottleHold sash s
  | .railLevelReached die quad => execRailLevelReached die quad s
  | .shutterChange c owner => execShutterChange c owner s
  | .debugCommandArrive c did => execDebugCommandArrive c did s
  | .breakpointMatch c owner cr slot => execBreakpointMatch c owner cr slot s
  | .debugHoldTake c owner cr slot => execDebugHoldTake c owner cr slot s
  | .sampleRecord c str => execSampleRecord c str s
  | .chunkCommit c => execChunkCommit c s
  | .quoteRequest m msg => execQuoteRequest m msg s
  | .partitionMap m msg => execPartitionMap m msg s
  | .timeGroup m msg => execTimeGroup m msg s
  | .rootRcb m msg => execRootRcb m msg s
  | .extend m msg => execExtend m msg s
  | .certificateRequest m msg => execCertificateRequest m msg s
  | .unknownMessage m msg => execUnknownMessage m msg s
  | .d2hAck m => execD2hAck m s
  | .kernelQuoteServe m part slot => execKernelQuoteServe m part slot s
  | .facceptWrite m v => execFacceptWrite m v s
  | .dbell m v => execDbell m v s
  | .imageLoad m v => execImageLoad m v s
  | .stage2Start m => execStage2Start m s
  | .romStart m => execRomStart m s
  | .moduleRestart m => execModuleRestart m s
  | .registerWrite m off v => execRegisterWrite m off v s
  | .hostDramWindowWrite m off bytes => execHostDramWindowWrite m off bytes s
  | .dramRefresh sash at_ dur => execDramRefresh sash at_ dur s

/-- The row of the opcode table that an event is. It is not compiled: see Machine/Event.lean. -/
noncomputable def Event.instr : Event → Instr
  | .clauseFetch c owner cr slot => .clauseFetch c owner cr slot
  | .laneExecute c seq lane => .laneExecute c seq lane
  | .chainStep c seq lane => .chainStep c seq lane
  | .broWrite c seq => .broWrite c seq
  | .resultReady c rid => .resultReady c rid
  | .memoryAccessApply c aid => .memoryAccessApply c aid
  | .tatomWriteHalf c aid => .tatomWriteHalf c aid
  | .pauseHorizonCheck c aid => .pauseHorizonCheck c aid
  | .pauseStop sash => .pauseStop sash
  | .sashResume sash => .sashResume sash
  | .waitWake c owner cr slot => .waitWake c owner cr slot
  | .monWaitTimeout c owner cr slot => .monWaitTimeout c owner cr slot
  | .pathFillComplete c owner cr slot => .pathFillComplete c owner cr slot
  | .asyncTrapTake c owner cr slot => .asyncTrapTake c owner cr slot
  | .budgetFault c owner => .budgetFault c owner
  | .commandStart c cid => .commandStart c cid
  | .copyBeat c queue => .copyBeat c queue
  | .beatSourceRead c bid => .beatSourceRead c bid
  | .beatDestWrite c bid => .beatDestWrite c bid
  | .matrixArrayStart c cid => .matrixArrayStart c cid
  | .matrixWrite c cid => .matrixWrite c cid
  | .tsendDepart c cid => .tsendDepart c cid
  | .creditCheck c cid => .creditCheck c cid
  | .creditArrive c xid => .creditArrive c xid
  | .messageArrive c xid => .messageArrive c xid
  | .landingCheck c arm => .landingCheck c arm
  | .landingCommit c arm => .landingCommit c arm
  | .cancelRelease c arm => .cancelRelease c arm
  | .blockStart c owner => .blockStart c owner
  | .timedBlockStart c owner => .timedBlockStart c owner
  | .blockEnd c owner => .blockEnd c owner
  | .ticketRelease c owner => .ticketRelease c owner
  | .causalApply die wid => .causalApply die wid
  | .schedulingRound m part => .schedulingRound m part
  | .deviceLaunchComplete c cid => .deviceLaunchComplete c cid
  | .containmentWalk c => .containmentWalk c
  | .preemptCut c owner => .preemptCut c owner
  | .preemptSave c owner => .preemptSave c owner
  | .restore m idx => .restore m idx
  | .timedPreempt m lid => .timedPreempt m lid
  | .pageWalk die wid => .pageWalk die wid
  | .translationComplete die wid => .translationComplete die wid
  | .pageVerdictRetry die slot => .pageVerdictRetry die slot
  | .pageVerdictFail die slot => .pageVerdictFail die slot
  | .shootdownSmall die page => .shootdownSmall die page
  | .shootdownLarge die page => .shootdownLarge die page
  | .shootdownBoth die page => .shootdownBoth die page
  | .shootdownAll die => .shootdownAll die
  | .shootdownComplete die => .shootdownComplete die
  | .uncorrectableError store granule => .uncorrectableError store granule
  | .scrub die => .scrub die
  | .hostAccessComplete c aid refused => .hostAccessComplete c aid refused
  | .driftHoldCycle m => .driftHoldCycle m
  | .driftSetApply m => .driftSetApply m
  | .driftStepApply m => .driftStepApply m
  | .timingFlit m port => .timingFlit m port
  | .driftReport m => .driftReport m
  | .portLinkLoss m port => .portLinkLoss m port
  | .portRetrained m port => .portRetrained m port
  | .energySample m => .energySample m
  | .byteBudgetInterval die quad => .byteBudgetInterval die quad
  | .powerWindow m => .powerWindow m
  | .throttleHold sash => .throttleHold sash
  | .railLevelReached die quad => .railLevelReached die quad
  | .shutterChange c owner => .shutterChange c owner
  | .debugCommandArrive c did => .debugCommandArrive c did
  | .breakpointMatch c owner cr slot => .breakpointMatch c owner cr slot
  | .debugHoldTake c owner cr slot => .debugHoldTake c owner cr slot
  | .sampleRecord c str => .sampleRecord c str
  | .chunkCommit c => .chunkCommit c
  | .quoteRequest m msg => .quoteRequest m msg
  | .partitionMap m msg => .partitionMap m msg
  | .timeGroup m msg => .timeGroup m msg
  | .rootRcb m msg => .rootRcb m msg
  | .extend m msg => .extend m msg
  | .certificateRequest m msg => .certificateRequest m msg
  | .unknownMessage m msg => .unknownMessage m msg
  | .d2hAck m => .d2hAck m
  | .kernelQuoteServe m part slot => .kernelQuoteServe m part slot
  | .facceptWrite m v => .facceptWrite m v
  | .dbell m v => .dbell m v
  | .imageLoad m v => .imageLoad m v
  | .stage2Start m => .stage2Start m
  | .romStart m => .romStart m
  | .moduleRestart m => .moduleRestart m
  | .registerWrite m off v => .registerWrite m off v
  | .hostDramWindowWrite m off bytes => .hostDramWindowWrite m off bytes
  | .dramRefresh sash at_ dur => .dramRefresh sash at_ dur

end Sys2Proof.Machine
end

