-- ==== Sys2Proof/Machine/Order.lean ====
section
/-! DEFINITION. Which step comes next: the events that are due, in the order of one virtual cycle (R17, R180), the turns
of the strings (R14), and the input that the outside world supplies.

Within a cycle of a core: a pause stops the sash before anything else; accesses held by marks move on; landings, engine
writes, matrix writes and lane stores are applied; then reads; then sends depart and commands start, and those whose
input tag is still unset fail; results land; tags are seen; waits end; lanes execute; strings issue. -/

namespace Sys2Proof.Machine

/-! ## Events that come at a real cycle -/

/-- First answer over the entries of a table. -/
def overTab {α β : Type} (t : Tab α) (f : Nat → α → Option β) : Option β := t.findSome? fun x => f x.1 x.2

/-- An element of a list for which `p` holds. -/
def pick {α β : Type} (l : List α) (p : α → Bool) (f : α → β) : Option β := (l.find? p).map f

/-- Drift holds come first in their cycle (R343, R347). -/
def dueHold (w : World) : Option Event := overTab w.mach.mods fun m x => if x.hold then some (.driftHoldCycle m) else none

/-- Bring-up (R370). -/
def dueBoot (w : World) : Option Event :=
  overTab w.mach.mods fun m x => match x.bootDue with
    | some d =>
      if w.mach.clock < d then none
      else match x.imgStat with
        | 0 => some (.romStart m)
        | 2 => some (.imageLoad m 0)
        | 3 => some (.stage2Start m)
        | _ => none
    | none => none

/-- Periodic events of a module (R344, R352, R355, R356). -/
def duePeriod (w : World) : Option Event :=
  overTab w.mach.mods fun m x =>
    if !x.formed then none
    else if periodDue x 1 940 then some (.energySample m)
    else if periodDue x 2 940000 then some (.powerWindow m)
    else
      let q := (List.range 16).find? fun i => periodDue x (16 + i) 9400
      match q with
      | some i => some (.byteBudgetInterval (4 * m + i / 4) (i % 4))
      | none =>
        match x.ports.find? fun p => (flitDue w p.2).isSome || (p.2.trained && periodDue x (100 + p.1) 4096) with
        | some p => some (.timingFlit m p.1)
        | none =>
          if periodDue x 0 65536 then some (.driftReport m)
          else if x.gcc % 1024 = 0 then
            match arrivedDrift w m with
            | some c => some (if c.set then .driftSetApply m else .driftStepApply m)
            | none => none
          else none

/-- Rounds of the management cores, device launches, restores and kernel quotes. -/
def dueManage (w : World) : Option Event :=
  overTab w.mach.mods fun m x =>
    (pick x.devs (fun y => decide (y.due ≤ w.mach.clock) && (y.recAt.isNone || y.status.isSome)) fun y => Event.deviceLaunchComplete y.core y.cid)
    <|> (if x.facceptSet then (x.rounds.find? fun r => decide (r.2 ≤ w.mach.clock)).map fun r => Event.schedulingRound m r.1 else none)
    <|> ((x.saved.findIdx? Saved.again).map fun i => Event.restore m i)
    <|> (match x.quotes.head? with
      | some q => if q.2.2 ≤ w.mach.clock then some (Event.kernelQuoteServe m q.1 q.2.1) else none
      | none => none)
    <|> (overTab x.roots fun p _ => pick (List.range 16) (fun n => slotAsks w m p n &&
          !(x.quotes.any fun q => decide (q.1 = p) && decide (q.2.1 = n))) fun n => Event.kernelQuoteServe m p n)

/-- Walks, shoot-downs, rails and crossing writes of a die. -/
def dueDie (w : World) : Option Event :=
  overTab w.mach.dies fun d x =>
    (match x.busy with
      | some b => if b.2 ≤ w.mach.clock then some (Event.shootdownComplete d) else none
      | none => none)
    <|> (pick x.walks (fun k => decide (k.due ≤ w.mach.clock) && (k.found.isSome || decide (k.code ≠ 0))) fun k => Event.translationComplete d k.wid)
    <|> (pick x.walks (fun k => decide (k.due ≤ w.mach.clock) && k.found.isNone && decide (k.code = 0) && k.slot.isNone) fun k => Event.pageWalk d k.wid)
    <|> (overTab x.reqs fun n r => match r.mc with
      | some a => if w.mach.clock < a.1 then none else some (if a.2 then Event.pageVerdictFail d n else Event.pageVerdictRetry d n)
      | none => none)
    <|> (overTab x.quads fun q y => match y.raise with
      | some r => if r.2 ≤ w.mach.clock then some (Event.railLevelReached d q) else none
      | none => none)
    <|> (pick x.heldW (fun h => decide (h.due ≤ w.mach.clock) && clockMet x h.clk && crossTurn w d h && decide (pageGate h.pages h.use h.pv ≠ .wait)) fun h => Event.causalApply d h.id)

/-- A page of a beat whose host link completes: every access to a host-backed page stops its sash (R318). -/
def hostPageDue (w : World) (c : Nat) (x : Beat) : Bool :=
  ((x.xr ++ x.xw).any fun y => match y.2.2 with | .hostWait _ due => decide (due ≤ w.mach.clock) | _ => false) && standsFor w c (.beat c x.id)

/-- A host store is behind an earlier one of its course, which may have lanes that have not executed: they reach the host in
issue order, and in lane order (R186). -/
def hostBehind (k : Core) (a : Access) : Bool :=
  decide (a.kind = .store) &&
  ((k.accs.any fun x => decide (x.space = .host) && decide (x.kind = .store) && x.done.isNone && !x.logged &&
      decide (x.owner = a.owner) && decide (x.cr = a.cr) && (decide (x.seq < a.seq) || (decide (x.seq = a.seq) && decide (x.lane < a.lane)))) ||
   (k.flights.any fun f => decide (f.owner = a.owner) && decide (f.cr = a.cr) && decide (f.seq < a.seq) && decide (f.next < 32) &&
      (match f.form.op with | .host ld _ _ => !ld | _ => false)))

/-- An access that waits for the host link, and completes. -/
def hostAccDue (w : World) (c : Nat) (k : Core) (a : Access) : Bool :=
  a.done.isNone && !a.logged && (match a.xl with
    | .hostWait _ due => decide (due ≤ w.mach.clock) && standsFor w c (.access c a.id)
    | _ => decide (a.space = .host) && decide (a.due ≤ w.mach.clock) && !hostBehind k a)

/-- A path of a course whose clause arrives, or whose fetch begins (R96). -/
def fetchDue (clock : Nat) (k : Course) : Option Nat :=
  (k.paths.find? fun p =>
    (match p.2.coming with | some x => decide (x.2.2 ≤ clock) && p.2.atHand | none => false) ||
    (!p.2.atHand && (match p.2.fetch with
      | .idle => true
      | .coming _ due => decide (due ≤ clock)
      | _ => false))).map Prod.fst

/-- Events of a core at real cycles: containment, arrivals, the host link, fetches, debug commands, profiles. -/
def dueCore (w : World) : Option Event :=
  let t := w.mach.clock
  overTab w.mach.cores fun c k =>
    (if k.passed.isEmpty then none else some (Event.containmentWalk c))
    <|> (match k.faults.head? with
      | some f => if f.due ≤ t then some (Event.containmentWalk c) else none
      | none => none)
    <|> (pick k.credits (fun x => !x.held && decide (x.due ≤ t) && routeUp w (modOf x.recv) (modOf c)) fun x => Event.creditArrive c x.id)
    <|> (pick k.msgs (fun x => x.arrived.isNone && decide (x.due ≤ t) && routeUp w (modOf x.sender) (modOf c)) fun x => Event.messageArrive c x.id)
    <|> (pick k.accs (hostAccDue w c k) fun a => Event.hostAccessComplete c a.id (Config.hostRefuses w.free))
    <|> (pick k.beats (hostPageDue w c) fun x => Event.hostAccessComplete c x.id (Config.hostRefuses w.free))
    <|> (pick k.cmds (fun x => (match x.op with | .host _ => true | _ => false) && decide (x.st = .away) && !x.failed &&
          (match x.endAt with | some e => decide (e ≤ t) | none => false)) fun x => Event.hostAccessComplete c x.id (Config.hostRefuses w.free))
    <|> (overTab k.courses fun _ x => (fetchDue t x).map fun ix => Event.clauseFetch c x.owner x.cr ix)
    <|> (pick (sortBy (fun (a b : DbgCmd) => decide (a.due < b.due) || (decide (a.due = b.due) && decide (a.src * 8 + a.str ≤ b.src * 8 + b.str))) k.dbg)
          (fun x => decide (x.due ≤ t)) fun x => Event.debugCommandArrive c x.id)
    <|> (pick k.samples (sampleOver k) fun x => Event.sampleRecord c x.str)

/-! ## Sashes (R42 to R45, R356) -/

/-- The module of a sash does not hold in this cycle. -/
def moving (w : World) (s : Sash) : Bool := !(w.module (s.die / 4)).frozen

/-- Restarts, stops and throttle holds. -/
def dueSash (w : World) : Option Event :=
  overTab w.mach.sashes fun i s =>
    let hold := (w.module (s.die / 4)).formed && moving w s && decide (0 < sashHold w s) && decide (s.nextHold ≤ sashGcc w s)
    if s.paused then
      if hold then some (.throttleHold i)
      else if !sashHeld w s && (match s.resume with | some r => decide (r ≤ w.mach.clock) && !groupHeld w s | none => true) then some (.sashResume i)
      else none
    else if moving w s then
      if sashHeld w s || groupHeld w s || (replayPause w s).isSome then some (.pauseStop i)
      else if hold then some (.throttleHold i)
      else none
    else none

/-! ## One virtual cycle of a core -/

/-- Cores in the order of (module, die, core) (R180). -/
def inOrder (w : World) (l : List (Nat × Core)) : List (Nat × Core) := sortBy (fun a b => decide (coreNo w a.1 ≤ coreNo w b.1)) l

/-- Cores whose sash runs in this cycle. -/
def activeCores (w : World) : List (Nat × Core) :=
  inOrder w (w.mach.cores.filter fun x => match sashOf w x.1 with
    | some s => !s.paused && moving w s
    | none => false)

/-- First answer over the active cores. -/
def overCores (l : List (Nat × Core)) (f : Nat → Core → Option Event) : Option Event := l.findSome? fun x => f x.1 x.2

/-- A mark still holds an access: until what it names is performed, and a tile access also until staged writes are released
(R204, R258). -/
def accHeld (w : World) (c : Nat) (a : Access) : Bool :=
  a.marks.any fun m => !markMet w c (vccOf w c) m || (!(a.beyond || decide (a.space = .lane)) && markStaged w c a.owner m)

/-- A fabric access or beat arrives at its owner, where its translation begins (R315). -/
def dueArrive (w : World) (c : Nat) (k : Core) : Option Event :=
  (pick k.accs (fun a => a.done.isNone && !a.logged && decide (a.xl = .need) && !cutOff k (vccOf w c) a.owner && decide (a.cyc ≤ vccOf w c + homeCycles) && !faulted k a)
    fun a => Event.memoryAccessApply c a.id)
  <|> (pick k.beats (fun x => x.away && decide (x.point ≤ vccOf w c + homeCycles)) fun x => if x.data.isNone then Event.beatSourceRead c x.id else Event.beatDestWrite c x.id)

/-- Accesses of a core whose cycle has come and which a mark or a bank conflict moves on, the oldest first. -/
def dueShift (w : World) (c : Nat) (k : Core) : Option Event :=
  let l := k.accs.filter fun a => a.done.isNone && !a.logged && !a.ticket && !a.sent && decide (a.space ≠ .host) && !cutOff k (vccOf w c) a.owner &&
    decide (a.cyc ≤ vccOf w c) && !faulted k a && (accHeld w c a ||
      (decide (a.space = .ts) && !timedBlock w c a.owner && decide (a.xl ≠ .bad 0x09) && collides w c a (vccOf w c)))
  ((sortBy (fun (a b : Access) => decide (a.seq ≤ b.seq)) l).head?).map fun a => Event.memoryAccessApply c a.id

/-- The write halves of tile atomics, and stores and atomics at their homes. -/
def dueWrite (w : World) (c : Nat) (k : Core) : Option Event :=
  let half := fun (a : Access) => match a.kind with
    | .tread _ _ => a.done.isNone && a.logged && !faulted k a && decide (a.cyc ≤ vccOf w c) && !cutOff k (vccOf w c) a.owner
    | _ => false
  let full := fun (a : Access) => (match a.kind with | .store => true | .rmw _ _ => true | _ => false) && accReady w c k a
  match (sortBy accBefore (k.accs.filter fun a => half a || full a)).head? with
  | some a => some (if half a then .tatomWriteHalf c a.id else .memoryAccessApply c a.id)
  | none => none

/-- Monitor entries are armed before the writes of their cycle, each of which triggers them (R206). -/
def dueArm (w : World) (c : Nat) (k : Core) : Option Event :=
  ((sortBy accBefore (k.accs.filter fun a => (match a.kind with | .arm _ _ => true | _ => false) && accReady w c k a)).head?).map
    fun a => Event.memoryAccessApply c a.id

/-- Loads, and monitor entries that are taken away. -/
def dueRead (w : World) (c : Nat) (k : Core) : Option Event :=
  let rd := fun (a : Access) => (match a.kind with | .load => true | .disarm => true | _ => false) && accReady w c k a
  ((sortBy accBefore (k.accs.filter rd)).head?).map fun a => Event.memoryAccessApply c a.id

/-- Reads of tile atomics, once every lane of the cycle has executed: each reads what the ones before it in the order of strings
and lanes leave (R180, R199). -/
def dueTread (w : World) (c : Nat) (k : Core) : Option Event :=
  let rd := fun (a : Access) => (match a.kind with | .tread _ _ => true | _ => false) && accReady w c k a
  ((sortBy accBefore (k.accs.filter rd)).head?).map fun a => Event.memoryAccessApply c a.id

/-- A crossing load or atomic that its home answers while the sash stands for it, and the late old value of an atomic
(R40, R251). -/
def dueCross (w : World) : Option Event :=
  overTab w.mach.cores fun c k =>
    (pick k.accs (fun a => decide (a.back ≠ 0) && decide (a.back ≤ w.mach.clock)) fun a => Event.memoryAccessApply c a.id)
    <|> (pick k.accs (fun a => a.asks && accReady w c k a && standsFor w c (.access c a.id)) fun a => Event.memoryAccessApply c a.id)

/-- Timed or not, by the block of a command. -/
def timedCmd (w : World) (c : Nat) (x : Cmd) : Bool := timedBlock w c x.owner

/-- A send that departs: in a timed launch with its input tag set, as every tag of this cycle counts (R217, R232). -/
def dueDepart (w : World) (c : Nat) (k : Core) : Option Event :=
  pick k.cmds (fun x => decide (x.op = .tsend) && x.s.isNone && decide (x.start ≤ vccOf w c) && inputSet w c x &&
    (timedCmd w c x || (creditHeld w c x && marksBy w c x.marks (vccOf w c) && !relOpen w c x))) fun x => Event.tsendDepart c x.id

/-- Landings and cancels (R48, R53). -/
def dueLand (w : World) (c : Nat) (k : Core) : Option Event :=
  k.arms.findSome? fun a => match matchOf k a with
    | none => none
    | some m =>
      let timed := timedBlock w c a.owner
      if timed && decide (vccOf w c < landCycle w c a) then none
      else if m.cancel then some (.cancelRelease c a.id)
      else if !timed && decide (vccOf w c < a.issue + 8) then none
      else some (.landingCommit c a.id)

/-- A beat's command. -/
def beatCmd (k : Core) (x : Beat) : Option Cmd := k.cmds.find? fun y => decide (y.id = x.cmd)

/-- Beats in the order in which the engine performed them. -/
def beatBefore (a b : Beat) : Bool := decide (a.t < b.t) || (decide (a.t = b.t) && decide (a.id ≤ b.id))

/-- Writes of beats, and the ends of copies whose writes are performed: to the core's own stores first, in die and fabric
space with the lanes, as string 8 (R180). -/
def dueBeatWrite (mem : Bool) (w : World) (c : Nat) (k : Core) : Option Event :=
  let vcc := vccOf w c
  let ok := fun (x : Beat) => match x.fin, beatCmd k x with
    | some e, some y => !mem && decide (e ≤ vcc) && !beatsSent k y.id && !relStaged w c y true
    | none, some y => decide (writesMem y.op = mem) && x.data.isSome && decide (x.wr ≤ vcc) && !x.sent && !x.late && !y.failed &&
        (!mem || (beatRoute w c x.xw && decide (pageGate x.xw .engineWrite y.pv ≠ .wait) &&
          !((k.blocks.find y.owner).map fun b => beatTicket w c b y (legOf k b y x.no).n).getD false && beatLets w c y x true))
    | _, none => false
  ((sortBy beatBefore (k.beats.filter ok)).head?).map fun x => Event.beatDestWrite c x.id

/-- Reads of beats. -/
def dueBeatRead (w : World) (c : Nat) (k : Core) : Option Event :=
  let vcc := vccOf w c
  let ok := fun (x : Beat) => match beatCmd k x with
    | some y => x.data.isNone && x.fin.isNone && decide (x.rd ≤ vcc) && !x.late && !y.failed && beatRoute w c x.xr && decide (pageGate x.xr .engineRead y.pv ≠ .wait) &&
        (x.clk.isEmpty || x.xr.all fun p => clockMet (w.die p.1) x.clk) && beatLets w c y x false &&
        !(x.xr.any fun p => readWaits w c p.1 p.2.1 128 x.rd (agentNo w c 8 0))
    | none => false
  ((sortBy beatBefore (k.beats.filter ok)).head?).map fun x => Event.beatSourceRead c x.id

/-- The write of a matrix command at E. -/
def dueMatrix (w : World) (c : Nat) (k : Core) : Option Event :=
  pick k.arr.runs (fun r => r.s'.isSome && decide (r.e ≤ vccOf w c)) fun r => Event.matrixWrite c r.cmd

/-- The start of the next matrix command in the array (R91, R231, R244). -/
def dueArray (w : World) (c : Nat) (k : Core) : Option Event :=
  match nextRun k with
  | none => none
  | some r =>
    match k.cmds.find? fun y => decide (y.id = r.cmd) with
    | none => some (.matrixArrayStart c r.cmd)
    | some y =>
      match k.blocks.find y.owner with
      | none => some (.matrixArrayStart c r.cmd)
      | some b =>
        let vcc := vccOf w c
        if decide (runStart k r ≤ vcc) && railsReady w c b y && (!y.acq || marksBy w c y.marks vcc) &&
            (!y.rel || (marksBy w c y.marks (vcc + runLength k b y + 16) && !relOpen w c y)) then some (.matrixArrayStart c r.cmd)
        else none

/-- The start of a command whose input tag is set (R217). -/
def dueStart (w : World) (c : Nat) (k : Core) : Option Event :=
  pick k.cmds (fun x => (x.s.isNone && decide (x.op ≠ .tsend) && decide (x.op ≠ .tland) && decide (x.start ≤ vccOf w c) &&
    (decide (x.op = .launch) || inputSet w c x)) || (hostHeadReady w c x && !relOpen w c x)) fun x => Event.commandStart c x.id

/-- A timed command whose input tag no act of its start cycle has set (R54, R217). -/
def dueMissed (w : World) (c : Nat) (k : Core) : Option Event :=
  pick k.cmds (fun x => x.s.isNone && decide (x.op ≠ .tland) && decide (x.op ≠ .launch) && decide (x.start ≤ vccOf w c) && timedCmd w c x && !inputSet w c x)
    fun x => if x.op = .tsend then .tsendDepart c x.id else .commandStart c x.id

/-- Results that land: special registers first, then by course and issue. -/
def dueResult (w : World) (c : Nat) (k : Core) : Option Event :=
  let special := fun (r : Result) => r.writes.any fun x => match x with | .sr _ _ => true | _ => false
  let key := fun (r : Result) => if special r then 0 else 1
  let le := fun (a b : Result) => decide (key a < key b) || (decide (key a = key b) && (decide (a.ready < b.ready) || (decide (a.ready = b.ready) &&
    (decide (a.cr < b.cr) || (decide (a.cr = b.cr) && decide (a.seq ≤ b.seq))))))
  ((sortBy le (k.results.filter fun r => decide (r.ready ≤ vccOf w c) && !cutOff k (vccOf w c) r.owner)).head?).map fun r => Event.resultReady c r.id

/-- Ends of waits, held releases, timeouts and path transfers of a course. -/
def courseWake (w : World) (c : Nat) (k : Core) (x : Course) : Option Event :=
  match k.blocks.find x.owner with
  | none => none
  | some b =>
    let vcc := vccOf w c
    if !b.started || cutOff k vcc x.owner then none
    else
      (if (duePend w c b x.cr).isSome then some (Event.waitWake c x.owner x.cr 0) else none)
      <|> (x.paths.findSome? fun p => match p.2.st with
        | .waiting y => if waitMet w c b x p.2 y then some (Event.waitWake c x.owner x.cr p.1) else
            (match y with
              | .mon _ limit => if limit ≤ vcc then some (Event.monWaitTimeout c x.owner x.cr p.1) else none
              | _ => none)
        | _ => none)
      <|> (if x.win0 ≠ 0 ∧ x.win0 ≤ vcc then some (Event.pathFillComplete c x.owner x.cr 0) else none)
      <|> (if x.win1 ≠ 0 ∧ x.win1 ≤ vcc then some (Event.pathFillComplete c x.owner x.cr 1) else none)

/-- The wakes of a core. -/
def dueWake (w : World) (c : Nat) (k : Core) : Option Event := overTab k.courses fun _ x => courseWake w c k x

/-- The string of a flight. -/
def flightStr (k : Core) (f : Flight) : Nat := ((k.courses.find (32 * f.owner + f.cr)).map Course.str).getD 0

/-- Lanes that execute in this cycle, in the order of strings and lanes, and the ends of chained sweeps. -/
def dueLane (w : World) (c : Nat) (k : Core) : Option Event :=
  let vcc := vccOf w c
  let run := fun (f : Flight) => decide (f.next < 32) && decide (f.cyc + f.stride * f.next ≤ vcc) && !cutOff k vcc f.owner
  let le := fun (a b : Flight) => decide (flightStr k a * 32 + a.next ≤ flightStr k b * 32 + b.next)
  (pick k.flights (fun f => decide (f.stride = 4) && decide (32 ≤ f.next) && decide (f.cyc + 128 ≤ vcc) && !cutOff k vcc f.owner) fun f => Event.broWrite c f.seq)
  <|> (((sortBy le (k.flights.filter run)).head?).map fun f => if f.stride = 4 then Event.chainStep c f.seq f.next else Event.laneExecute c f.seq f.next)

/-- The checks that come H cycles before a cycle (R42, R49, R50, R91). -/
def dueCheck (w : World) (c : Nat) (k : Core) : Option Event :=
  let lim := vccOf w c + Config.horizon
  let tail := fun (t : Option (Nat × CauseBy)) => (t.map fun y => decide (y.1 ≤ lim) && !hasCause w c y.1 y.2).getD false
  (pick k.cmds (fun x => decide (x.op = .tsend) && x.s.isNone && !x.checked && timedCmd w c x && decide (x.start ≤ lim)) fun x => Event.creditCheck c x.id)
  <|> (pick k.arms (fun a => !a.checked && timedBlock w c a.owner && decide (landCycle w c a ≤ lim)) fun a => Event.landingCheck c a.id)
  <|> (pick k.accs (fun a => ((decide (a.point ≤ lim) && a.unsure w c && !hasCause w c a.point (.access c a.id)) || tail (a.tail w c)) &&
        !faulted k a && !cutOff k (vccOf w c) a.owner) fun a => Event.pauseHorizonCheck c a.id)
  <|> (pick k.beats (fun x => ((decide (x.fin.getD x.point ≤ lim) && x.unsure w c && !hasCause w c (x.fin.getD x.point) (.beat c x.id)) || tail (x.tail w c)) &&
        !((beatCmd k x).map Cmd.failed).getD true) fun x => Event.pauseHorizonCheck c x.id)
  <|> ((ticketAsks w c k).bind fun x => if hasCause w c lim (.ticket c x.2) then none else some (Event.pauseHorizonCheck c x.1))
  <|> ((chunkPoint w c k).bind fun p => if hasCause w c p (.chunk c) then none else some (Event.chunkCommit c))
  <|> ((fetchCheck w c k).map fun x => Event.clauseFetch c x.1 x.2.1 x.2.2)
  <|> ((railCheck w c k).map fun x => Event.pauseHorizonCheck c x.1)

/-- The chunk of a core is to be opened, asked for or committed (R387); in a replay the chunk that the log has next has run to
its end (R388). -/
def dueChunk (w : World) : Option Event :=
  overTab w.mach.cores fun c k =>
    let d := dieOf c
    if (replayEntry w d).isSome then (match replayChunk w d with
      | some r => if r.2.1 = c && !replaysAct w c && (sashOf w c).isSome && decide (r.2.2 ≤ vccOf w c) then some (.chunkCommit c) else none
      | none => none)
    else match k.chunk with
    | none => if (w.die d).recMode = 1 && ((sashOf w c).map fun s => s.timed.isNone).getD false then some (.chunkCommit c) else none
    | some x =>
      if (w.die d).recMode ≠ 1 then some (.chunkCommit c)
      else if !standsFor w c (.chunk c) then none
      else match x.asked with
        | none => some (.chunkCommit c)
        | some n =>
          if w.mach.cores.any fun y => decide (dieOf y.1 = d) &&
              (((y.2.chunk.bind Chunk.asked).map fun z => decide (z < n) || (decide (z = n) && decide (y.1 < c))).getD false) then none
          else some (.chunkCommit c)

/-- A block that is to be cut now: its pre-emption has been asked for; in a replay, as the log places it (R387, R388). -/
def cutAsked (w : World) (c : Nat) (b : Block) : Bool :=
  if decide ((w.die (dieOf c)).recMode = 2) && !b.hdr.timed then
    decide (b.preempt = .none ∨ b.preempt = .asked) && b.started && ((placeNext w (dieOf c) b.bind.lid b.bind.bk).map fun e => decide (e.2.2 ≤ vccOf w c)).getD false
  else decide (b.preempt = .asked)

/-- A pre-emption may cut a block: nothing collects across its lanes, no landing is armed, no path is held, and the
work that stands fits the flight section (R334, R337). -/
def mayCut (w : World) (c : Nat) (k : Core) (o : Nat) (b : Block) : Bool :=
  cutAsked w c b &&
  !(k.flights.any fun f => decide (f.owner = o) && (match f.form.op with | .xlane _ => true | _ => false)) &&
  !(k.arms.any fun a => decide (a.owner = o)) &&
  !(k.courses.any fun x => decide (x.2.owner = o) && x.2.paths.any fun p => p.2.held) &&
  (List.range 32).all fun r => decide ((k.flights.filter fun f => decide (f.owner = o) && decide (f.cr = r)).length +
    (((k.results.filter fun f => decide (f.owner = o) && decide (f.cr = r)).map fun f => f.writes.length).foldl (· + ·) 0) ≤ 2730)

/-- The commands of a cut block have ended, and nothing of it is on its way (R337). -/
def maySave (k : Core) (vcc o : Nat) (b : Block) : Bool :=
  (match b.preempt with | .cut p => decide (p ≤ vcc) | _ => false) &&
  !(k.cmds.any fun x => decide (x.owner = o)) && !(k.arms.any fun a => decide (a.owner = o)) && !(k.faults.any fun f => decide (f.owner = o)) &&
  !(k.ctxs.any fun a => decide (a.owner = o)) &&
  !(k.accs.any fun a => decide (a.owner = o) && a.done.isNone && (decide (a.space = .host) || a.sent))

/-- No staged write of a block waits for a translation (R321). -/
def stagedPlaced (b : Block) : Bool := b.staged.all fun s => decide (pageGate s.pages .engineWrite s.pv ≠ .wait)

/-- Steps of a block on its core: start, end, ticket, shutter, pre-emption. -/
def blockStep (w : World) (c : Nat) (k : Core) (o : Nat) (b : Block) : Option Event :=
  let vcc := vccOf w c
  let held := ((sashOf w c).map fun s => s.causes.any fun x => decide (x.src = .ticket c o)).getD false
  if b.spent then (if blockEmpty k o then some (.blockEnd c o) else none)
  else if !b.started then
    if b.hdr.timed then (if b.bind.start ≤ vcc then some (.timedBlockStart c o) else none) else some (.blockStart c o)
  else if b.hdr.determ && (!b.staged.isEmpty || held) && !stages w c b && stagedPlaced b then some (.ticketRelease c o)
  else if maySave k vcc o b then some (.preemptSave c o)
  else if cutOff k vcc o then none
  else if mayCut w c k o b then some (.preemptCut c o)
  else if blockOver w c o then some (.blockEnd c o)
  else if !b.hdr.timed && ((sashOf w c).map fun s => decide (shuttered w s ≠ b.shutter)).getD false then some (.shutterChange c o)
  else none

/-- The steps of a core's blocks. -/
def dueBlock (w : World) (c : Nat) (k : Core) : Option Event := overTab k.blocks fun o b => blockStep w c k o b

/-- What comes while a sash stands: the ticket of a block (R258), and the end of a cause of an access or beat that is spent
(R44). -/
def dueStanding (w : World) : Option Event :=
  (overTab w.mach.cores fun c k => overTab k.blocks fun o b =>
    if b.started && b.hdr.determ && ((sashOf w c).map fun s => s.paused && (!b.staged.isEmpty || s.causes.any fun x => decide (x.src = .ticket c o))).getD false &&
        !stages w c b && stagedPlaced b then
      some (.ticketRelease c o)
    else none)
  <|> (overTab w.mach.sashes fun _ s => if !s.paused then none else s.causes.findSome? fun y =>
    if s.vcc < y.p || !causeSpent w y.src then none
    else match y.src with
      | .access c id => some (.pauseHorizonCheck c id)
      | .beat c id => some (.pauseHorizonCheck c id)
      | .fetch c o r _ => some (.clauseFetch c o r 0)
      | _ => none)

/-- A stop of a debugger that takes effect at this cycle of a timed sash, before its work (R380). -/
def dueStop (w : World) (c : Nat) (k : Core) : Option Event :=
  ((k.stepEnds.find? fun x => decide (x.1 ≤ vccOf w c)).map fun x => Event.debugHoldTake c x.2.1 x.2.2.1 x.2.2.2.1)
  <|> k.courses.findSome? fun x => (x.2.paths.find? fun p => p.2.stopDue (vccOf w c)).map fun p => Event.debugHoldTake c x.2.owner x.2.cr p.1

/-- What comes before the work of a virtual cycle: the stops of a debugger, the steps of blocks, and the checks at the
horizon. -/
def dueHead (w : World) (l : List (Nat × Core)) : Option Event :=
  overCores l (dueStop w) <|> overCores l (dueBlock w) <|> overCores l (dueCheck w)

/-- The work of one virtual cycle of the active cores up to the turns, phase by phase. In die and fabric space the lanes of
a core come before its engine, and a core's agents before the next core's (R180, R221). -/
def dueBody (w : World) (l : List (Nat × Core)) : Option Event :=
  overCores l (dueArrive w) <|> overCores l (dueShift w) <|> overCores l (dueLand w)
  <|> overCores l (dueBeatWrite false w) <|> overCores l (dueMatrix w) <|> overCores l (dueArm w)
  <|> overCores l (fun c k => dueWrite w c k <|> dueBeatWrite true w c k) <|> overCores l (dueRead w)
  <|> overCores l (dueDepart w) <|> overCores l (dueStart w) <|> overCores l (dueBeatRead w)
  <|> overCores l (dueMissed w) <|> overCores l (dueResult w) <|> overCores l (dueWake w) <|> overCores l (dueLane w)

/-- A path whose next clause can be fetched ahead (R96). -/
def dueAhead (w : World) (c : Nat) (k : Core) : Option Event :=
  k.courses.findSome? fun x => match k.blocks.find x.2.owner with
    | none => none
    | some b => (x.2.paths.find? fun p => (aheadLeaf w c b p.2).isSome).map fun p => Event.clauseFetch c x.2.owner x.2.cr p.1

/-- What follows the turns of a cycle: the reads of tile atomics, the array start of a matrix command, for which commands of one
start cycle wait for all that the cycle issues (R231), the beat that the engine performs, of a command that the cycle issued
too (R219), and fetches ahead. -/
def dueTail (w : World) (l : List (Nat × Core)) : Option Event :=
  overCores l (dueTread w) <|> overCores l (dueArray w) <|> overCores l (fun c _ => (servedQueue w c).map fun q => Event.copyBeat c q) <|> overCores l (dueAhead w)

/-- The event that is due now, before the work of the sashes' cycles. -/
def nextEvent (w : World) : Option Event :=
  dueHold w <|> dueBoot w <|> dueDie w <|> dueCore w <|> duePeriod w <|> dueManage w <|> dueStanding w <|> dueCross w <|> dueChunk w <|> dueSash w
  <|> dueHead w (activeCores w)

/-! ## Inputs -/

/-- What the outside world may do: the host, the page service, physical errors, links, refresh, and the management
firmware's pre-emption of a timed launch. -/
def outside : Event → Bool
  | .pageVerdictRetry _ _ => true
  | .pageVerdictFail _ _ => true
  | .shootdownSmall _ _ => true
  | .shootdownLarge _ _ => true
  | .shootdownBoth _ _ => true
  | .shootdownAll _ => true
  | .uncorrectableError _ _ => true
  | .scrub _ => true
  | .portLinkLoss _ _ => true
  | .portRetrained _ _ => true
  | .timedPreempt _ _ => true
  | .quoteRequest _ _ => true
  | .partitionMap _ _ => true
  | .timeGroup _ _ => true
  | .rootRcb _ _ => true
  | .extend _ _ => true
  | .certificateRequest _ _ => true
  | .unknownMessage _ _ => true
  | .d2hAck _ => true
  | .facceptWrite _ _ => true
  | .dbell _ _ => true
  | .imageLoad _ _ => true
  | .romStart _ => true
  | .moduleRestart _ => true
  | .registerWrite _ _ _ => true
  | .hostDramWindowWrite _ _ _ => true
  | .dramRefresh _ _ _ => true
  | _ => false

/-- The input whose real cycle has come, and the inputs that remain. -/
def inputDue (mc : Mach) : Option (Event × List (Nat × Event)) :=
  match mc.inputs with
  | (t, i) :: r => if t ≤ mc.clock then some (i, r) else none
  | [] => none

/-! ## Turns -/

/-- What a string does on its turn. -/
inductive TurnAct where
  | none
  | event (e : Event)
  | pass (t : Turn)
  | issue (t : Turn)
  deriving DecidableEq, Repr

/-- A WALL or ENERGY budget of the block's region is exhausted, and its fault has not been taken in this round (R32, R325). -/
def budgetDue (w : World) (c : Nat) (b : Block) : Bool :=
  match launchOf w c b.bind.lid with
  | none => false
  | some l =>
    let round := ((w.module (modOf c)).roundNo.find ((partOf w (dieOf c)).getD 0)).getD 0
    decide (b.budgetRound ≠ some round) && exhausted w l.1 l.2.die (pathOf w l.2.die b.bind.rcb)

/-- The act of a string in this cycle (R8, R14, R32, R96, R176, R377 to R380). -/
def turnAct (w : World) (c s : Nat) : TurnAct :=
  match openTurn w c s with
  | none => .none
  | some t =>
    let o := t.crs.owner
    let r := t.crs.cr
    if budgetDue w c t.blk then .event (.budgetFault c o)
    else if t.pth.holdReq then .event (.debugHoldTake c o r t.slot)
    else if !t.crs.usable t.slot t.pth then .none
    else if t.crs.pendingTrap.isSome && t.crs.handler.isNone && decide (t.crs.trapSlot = some t.slot) then .event (.asyncTrapTake c o r t.slot)
    else if decide (0 < t.pth.turnsLeft w c) then .pass t
    else if !t.pth.atHand then .event (.clauseFetch c o r t.slot)
    else if t.pth.stopNext then .event (.debugHoldTake c o r t.slot)
    else if (matchBp (w.core c) o t.pth).isSome then .event (.breakpointMatch c o r t.slot)
    else .issue t

/-- A turn issues a `talloc`. -/
def isTalloc (t : Turn) : Bool := decide (t.pth.slotWord.1.toNat % 2 ^ 8 = 0xA0)

/-- Of the `talloc` instructions that courses of one block issue in one cycle, the one of the lowest course (R193). -/
def tallocFirst (w : World) (t : Turn) : Turn :=
  (List.range 8).foldl (fun best s => match turnAct w t.core s with
    | .issue u => if isTalloc u && decide (u.crs.owner = t.crs.owner) && decide (u.crs.cr < best.crs.cr) then u else best
    | _ => best) t

/-- The first string of the active cores that acts in this cycle. -/
def nextTurn (w : World) (l : List (Nat × Core)) : TurnAct :=
  ((l.flatMap fun x => (List.range 8).map fun s => (x.1, s)).findSome? fun p => match turnAct w p.1 p.2 with
    | .none => none
    | .issue t => some (.issue (if isTalloc t then tallocFirst w t else t))
    | a => some a).getD .none

/-- A slot issues: the checks of R115 that come before the instruction's own, in their order, or the decoded
instruction at the issue port. -/
inductive IssueAct where
  | bad (sub : Nat)
  | run (i : Instr)
  deriving DecidableEq, Repr

/-- Under COMPAT16 every IMM10 of `part` leaves `%part` at 16 and raises no fault; the reserved fields are checked as
everywhere (R18, R160). -/
def compatPart (w : W32) : IssueAct := if fD w = 0 && fA w = 0 then .run (.part (fImm10 w)) else .bad 5

/-- KIND, the reserved bit, then the word (R98, R100, R113, R115). -/
def issueAct (w : World) (t : Turn) : IssueAct :=
  let x := t.pth.slotWord
  if x.2.2 ≠ 0 then .bad 1
  else if x.2.1 % 2 ≠ 0 then .bad 2
  else match decodeWord (w.module (modOf t.core)).faccept x.1 with
    | .ok i => .run i
    | .error e => match e with
      | .modifier => if t.blk.hdr.compat && decide (x.1.toNat % 2 ^ 8 = 0x69) then compatPart x.1 else .bad e.sub
      | _ => .bad e.sub

/-- The issue port takes a turn's slot. -/
def World.port (w : World) (t : Turn) : World := { w with mach := { w.mach with cur := some (t.issuer (vccOf w t.core)) } }

/-! ## A bare machine -/

/-- Header of the block that `bareMach` binds: every resource at its largest, no launch kind but free. -/
def bareHdr : Hdr :=
  { magic := 0x464C, version := 1, fid := 3, traph := false, compat := false, determ := false, timed := false, allot := 16, rot := 0, courses := 1,
    part := 5, tsb := 524288, trn := 4096, acc := 1024, handles := 256, phasers := 16, tags := 64, hoff := 0, feat := 0, gch := true, entry := 512 }

/-- Its bind record. -/
def bareBind : BindRec :=
  { priv := true, owner := 0, cr := 0, last := 0, allot := 16, rot := 0, hb := 0, tagb := 0, gchan := some 0, accb := 0, tsbb := 0, trnb := 0,
    sash := 1, bk := 0, start := 0, hdr := 0, param := 0, nparam := 0, lid := 1, rcb := 0, ctx := 0, bseed := 0 }

/-- A machine in which one path of one course on core 0 has a clause at hand and is about to issue its first slot: what
withFetchWord needs, and nothing else (log entry 9). -/
def bareMach (clock free : Nat) (cl : Clause) : Mach :=
  let p : Path := { id := 0, mask := 0xFFFFFFFF, pc := 3 * cl.idx, fresh := true, buf := some cl }
  let k : Course := { owner := 0, cr := 0, str := 0, rot := 0, drot := 1, allot := 512, part := 32, slot0 := some p }
  let b : Block := { bind := bareBind, hdr := bareHdr, started := true, v0 := 1024, bseed := 0 }
  let c : Core := { sash := some 1, slots := [(0, bareBind)], blocks := [(0, b)], courses := [(0, k)] }
  { clock := clock, freeCtr := free,
    mods := [(0, { faccept := Config.fOffer, facceptSet := true })],
    cores := [(0, c)],
    sashes := [(1, { num := 1, die := 0, cores := [0], vcc := 1024, scanned := some 1024 })],
    nextSash := 2 }

end Sys2Proof.Machine
end

