-- ==== Sys2Proof/Machine/Cut.lean ====
section
/-! DEFINITION. The cut in virtual time (R17, R324, R380). What stops a sash at a cycle P without a horizon, a fault above
all, is met only when the work of P is done; yet the cut has all of that work after it. So the work of a cycle is first
tried on a copy of the machine (`trial`), whose outcome is used for nothing but this: which faults P raises and whether
P stops the sash. `scan` writes the records and stops the sash with the work of P untouched, or marks the cycle as tried,
and its work is then done. Containment has the work run again, or passed over, when P runs. -/

namespace Sys2Proof.Machine

/-- What a string does on its turn, as a step. -/
def runTurn (a : TurnAct) (s : State) : Host.Outcome State Fault Refusal :=
  match a with
  | .event e => perform e s
  | .pass t => .next (commit s (passTurn t (enter s)))
  | .issue t =>
    match issueAct (enter s) t with
    | .bad sub => .next (commit s (faultIssue 0x01 sub 0 ((enter s).port t)))
    | .run i => exec i { s with mach := ((enter s).port t).mach }
  | .none => .next s

/-- Cores of a sash. -/
def sashCores (w : World) (i : Nat) : List (Nat × Core) := inOrder w (w.mach.cores.filter fun x => decide (x.2.sash = some i))

/-- A fault raised the cause. -/
def Cause.isFault (x : Cause) : Bool := match x.src with | .fault _ => true | _ => false

/-- The sash as if its faults had not stopped it, so that every fault of the cycle is found. -/
def Sash.faultless (s : Sash) : Sash := { s with paused := false, causes := s.causes.filter fun x => !x.isFault }

/-- The next piece of the cycle's work on the cores of a sash, as a step, with its event. -/
def trialStep (i : Nat) (s : State) : Option (Host.Outcome State Fault Refusal × Option Event) :=
  let w := enter s
  let l := sashCores w i
  match (l.find? fun x => !x.2.passed.isEmpty).map (fun x => Event.containmentWalk x.1) <|> dueDie w <|> dueHead w l <|> dueBody w l with
  | some e => some (perform e s, some e)
  | none =>
    match nextTurn w l with
    | .none => (dueTail w l).map fun e => (perform e s, some e)
    | .event e => some (perform e s, some e)
    | a => some (runTurn a s, none)

/-- Try the work of a sash's cycle: the machine after it, or where something else than a fault stops the sash, with the
event that stopped it. -/
def trial (i : Nat) : Nat → State → State × Option Event
  | 0, s => (s, none)
  | n + 1, s =>
    match trialStep i s with
    | some (.next t, e) =>
      match t.mach.sashes.find i with
      | none => (t, none)
      | some x =>
        if x.faultless.causes.any fun y => decide (y.p ≤ x.vcc) then (t, e)
        else trial i n (if x.paused then { t with mach := { t.mach with sashes := t.mach.sashes.put i x.faultless } } else t)
    | _ => (s, none)

/-- Steps that a trial may take: more than a cycle's work. -/
def trialFuel : Nat := 2 ^ 24

/-- The accesses that a record is about. -/
def FaultRec.accesses (f : FaultRec) : List Nat := (match f.work with | .access a => [a] | _ => []) ++ f.also

/-- Two records are about one instruction, command or beat. -/
def FaultRec.same (f g : FaultRec) : Bool :=
  decide (f.owner = g.owner) && decide (f.cr = g.cr) && decide (f.seq = g.seq) && decide (f.pc = g.pc) && decide (f.src = g.src) &&
  decide (f.work.unit = g.work.unit)

/-- One record for both: the lanes of either, the rest as the lower lane has it (log entry 97). -/
def FaultRec.join (f g : FaultRec) : FaultRec :=
  let (a, b) := if lowestLane f.mask ≤ lowestLane g.mask then (f, g) else (g, f)
  { a with mask := a.mask ||| b.mask, also := a.also ++ b.accesses }

/-- A record joins a list that holds one record for each instruction, command or beat. -/
def joinRec (f : FaultRec) : List FaultRec → List FaultRec
  | [] => [f]
  | g :: r => if g.same f then g.join f :: r else g :: joinRec f r

/-- Place of a record in the order of R324: by string and lane, then the engines' faults, then those of no instruction. -/
def recordRank (w : World) (c : Nat) (f : FaultRec) : Nat :=
  let str := ((w.course? c f.owner f.cr).map Course.str).getD 0
  if f.src ≤ 2 then 32 * str + lowestLane f.mask else if f.src = 7 then 2 ^ 10 + 1 else 2 ^ 10

/-- The records that the trial `t` of a cycle of `w` has written on a core, one for each instruction, in their order. -/
def cutRecords (w t : World) (c : Nat) : List FaultRec :=
  let k := w.core c
  let news := ((t.core c).faults ++ (t.core c).waiting).drop (k.faults.length + k.waiting.length)
  sortBy (fun f g => decide (recordRank w c f ≤ recordRank w c g)) (news.foldl (fun l f => joinRec f l) [])

/-- Write a record at the cut. A BUDGET fault counts for its round (R325). -/
def cutFault (t : World) (c : Nat) (f : FaultRec) (w : World) : World :=
  let w := if f.code = 0x0A then w.modBlock c f.owner fun b => { b with budgetRound := (t.block? c f.owner).bind Block.budgetRound } else w
  takeFault w c { f with cut := true }

/-- A stop of the cycle that is no fault takes effect at the cut too: a path that the cycle would wake and whose clause is not
at hand (R17, R42, R96). -/
def cutCause (x : CauseBy) (w : World) : World :=
  match x with
  | .fetch c o r id =>
    let p := (w.course? c o r).bind fun k => k.paths.find? fun y => decide (y.2.id = id)
    let w := sureCause w c (vccOf w c) x
    let w := match p with
      | some y => if y.2.atHand then clearCause (modPath w c o r y.1 Path.pay) c x else w
      | none => w
    modSashOf w c fun s => s.stop (gccOf w c)
  | _ => w

/-- A debugger's stop of a timed sash at its cycle (R380). -/
def cutStop (e : Option Event) (s : State) : State :=
  match e with
  | some (.breakpointMatch c o r n) => (match perform (.breakpointMatch c o r n) s with | .next t => t | _ => s)
  | some (.debugHoldTake c o r n) => (match perform (.debugHoldTake c o r n) s with | .next t => t | _ => s)
  | _ => s

/-- Try the cycle of a sash: its faults and stops take effect at the cut, or the cycle's work may be done (R17, R324). -/
def scan (i : Nat) (s : State) : State :=
  let w := enter s
  match w.sash? i with
  | none => s
  | some x =>
    let r := trial i trialFuel s
    let t := enter r.1
    let w1 := (sashCores w i).foldl (fun w k => (cutRecords (enter s) t k.1).foldl (fun w f => cutFault t k.1 f w) w) w
    let stops : List Cause := match t.sash? i with
      | some y => y.causes.filter fun (z : Cause) => decide (z.p ≤ y.vcc) && !x.causes.contains z
      | none => []
    let s2 := cutStop r.2 (commit s (stops.foldl (fun w z => cutCause z.src w) w1))
    match s2.mach.sashes.find i with
    | some y => if y.paused then s2 else { s2 with mach := { s2.mach with sashes := s2.mach.sashes.put i { y with scanned := some y.vcc } } }
    | none => s2

/-- A sash whose present cycle has work and has not been tried. -/
def scanDue (w : World) : Option Nat :=
  overTab w.mach.sashes fun i x =>
    if x.paused || !moving w x || decide (x.scanned = some x.vcc) then none
    else
      let l := sashCores w i
      if (dueBody w l).isSome || decide (nextTurn w l ≠ .none) || (dueTail w l).isSome then some i else none

end Sys2Proof.Machine
end

