-- ==== Sys2Proof/Machine/Step.lean ====
section
/-! DEFINITION. One step of the machine: an input of the outside world whose cycle has come, the event that is due, the
trial of a sash's cycle, the next piece of that cycle's work, the act of a string on its turn, or the passing of one
cycle of the arithmetic clock, before which the cycle's charges and mailbox records are made. -/

namespace Sys2Proof.Machine

/-- One step. -/
def step (s : State) : Host.Outcome State Fault Refusal :=
  let w := enter s
  match inputDue s.mach with
  | some x =>
    let s' : State := { s with mach := { s.mach with inputs := x.2 } }
    if outside x.1 then perform x.1 s' else .next s'
  | none =>
    match nextEvent w with
    | some e => perform e s
    | none =>
      match scanDue w with
      | some i => .next (scan i s)
      | none =>
        match dueBody w (activeCores w) with
        | some e => perform e s
        | none =>
          match nextTurn w (activeCores w) with
          | .none => match dueTail w (activeCores w) with
            | some e => perform e s
            | none => .next (commit s (tick (flushRecords (settleCharges w))))
          | a => runTurn a s

/-- The state in which the next step issues a given word: a free privileged block of one course stands on core 0 of die
0 of module 0, its sash runs, and its path has the clause at hand (log entry 9). -/
def State.withFetchWord (s : State) (_nbits w : Nat) : State :=
  let cl : Clause := { idx := 32, ctl := 0x01C0701C, w1 := BitVec.ofNat 32 w, w2 := 0xE0, w3 := 0xE0, got := 0 }
  { s with mach := bareMach s.mach.clock s.mach.freeCtr cl }

end Sys2Proof.Machine
end

