-- ==== Sys2Proof/Certificates/Slice0/Obligations.lean ====
section
/-! DEFINITION. The statements about the machine, and the words they are said in. -/

namespace Sys2Proof.Say

open Sys2Proof.Machine

/-! ## Looking into a state -/

/-- A core, block, course, die, module or sash of a state. -/
def core (s : State) (c : Nat) : Core := (enter s).core c
def block (s : State) (c o : Nat) : Option Block := (enter s).block? c o
def course (s : State) (c o r : Nat) : Option Course := (enter s).course? c o r
def die (s : State) (d : Nat) : Die := (enter s).die d
def module (s : State) (m : Nat) : Module := (enter s).module m
def sash (s : State) (i : Nat) : Option Sash := (enter s).sash? i
/-- VCC of a core. -/
def vcc (s : State) (c : Nat) : Nat := vccOf (enter s) c

/-- Every byte of every store, and every mark of poison, is as it was. -/
def SameBytes (s s' : State) : Prop := (∀ st a, s'.mem.byte st a = s.mem.byte st a) ∧ s'.mem.poison = s.mem.poison

/-! ## An issue -/

/-- The issue port holds a slot of a bound course: `t` is its block, course and path. No debugger steps the path. -/
def At (s : State) (t : Site) : Prop := siteOf (enter s) = some t ∧ t.p.stepping = false

/-- Every lane register that an instruction names lies in the allotment (R12); `top` is one more than the highest. -/
def Fits (t : Site) (top : Nat) : Prop := top = 0 ∨ t.k.wb + top ≤ t.k.allotAt t.i.cyc

/-- The path after an issue (R8, R99): the next slot, and no turns counted. -/
def passed (t : Site) : Path := { t.p with pc := t.p.pc + 1, turns := 0, fresh := false, lastIssue := t.i.cyc, bpSkip := none }

/-- The issuing course after an issue: `%dii` has counted (R70). -/
def issuedCourse (t : Site) : Course := { t.k.setPath t.i.slot (passed t) with dii := t.k.dii + 1 }

/-- Of a core, nothing but the fields named here differs: its courses, strings and samples, its flights, results and
accesses, its tile table and watches, its tags, commands and arms, its trap record, and its counters. -/
def CoreKept (k k' : Core) : Prop :=
  k' = { k with
    courses := k'.courses, strs := k'.strs, samples := k'.samples, flights := k'.flights, results := k'.results,
    accs := k'.accs, tiles := k'.tiles, watches := k'.watches, tags := k'.tags, hostTags := k'.hostTags, cmds := k'.cmds,
    arms := k'.arms, landUsed := k'.landUsed, trap := k'.trap, blocks := k'.blocks, seq := k'.seq, nextId := k'.nextId }

/-- What every issue that raises no fault does and leaves outside its core: the port is empty, every byte stands, and so do
every other core, every die, module and sash, the clock, and the counter of free values. -/
structure Issued (s s' : State) (t : Site) : Prop where
  bytes : SameBytes s s'
  mach : s'.mach = { s.mach with cur := none, cores := s'.mach.cores }
  seq : (core s' t.i.core).seq = t.seq + 1
  kept : CoreKept (core s t.i.core) (core s' t.i.core)
  cores : ∀ c, c ≠ t.i.core → core s' c = core s c

/-- The registers, predicates, special registers and paths of every course other than the issuing one, and every block, are
as they were; the issuing course has passed to its next slot and changed in nothing else. -/
structure OnlyPassed (s s' : State) (t : Site) : Prop where
  own : course s' t.i.core t.i.owner t.i.cr = some (issuedCourse t)
  others : ∀ o r, 32 * o + r ≠ 32 * t.i.owner + t.i.cr → course s' t.i.core o r = course s t.i.core o r
  blocks : (core s' t.i.core).blocks = (core s t.i.core).blocks
  tiles : (core s' t.i.core).tiles = (core s t.i.core).tiles
  tags : (core s' t.i.core).tags = (core s t.i.core).tags
  cmds : (core s' t.i.core).cmds = (core s t.i.core).cmds
  arms : (core s' t.i.core).arms = (core s t.i.core).arms
  watches : (core s' t.i.core).watches = (core s t.i.core).watches
  trap : (core s' t.i.core).trap = (core s t.i.core).trap

/-- First cycle of an instruction's lane 0: its issue cycle, or the first cycle at which its column is free (R39). -/
def firstCycle (s : State) (t : Site) (col : Col) : Nat :=
  let x := (core s t.i.core).str t.k.str
  match col with
  | .none => t.i.cyc
  | .fp => max t.i.cyc x.fp
  | .fp64 => max t.i.cyc x.fp
  | .sfu => max t.i.cyc x.sfu
  | .chain => max t.i.cyc x.chain

/-- An instruction in flight as the issue sends it: its path, its mask and predicate, its operands resolved against the
window base, and the seed and count its draws use (R16, R72, R159). -/
structure Flies (s : State) (t : Site) (f : Form) (x : Flight) : Prop where
  seq : x.seq = t.seq
  owner : x.owner = t.i.owner ∧ x.cr = t.i.cr ∧ x.path = t.p.id ∧ x.pc = t.i.pc
  lanes : x.mask = t.p.mask ∧ x.pred = t.i.pred ∧ x.neg = t.i.neg ∧ x.next = 0
  cycle : x.issue = t.i.cyc ∧ x.cyc = firstCycle s t f.col
  form : x.form = { f with dst := f.dst.resolve t.k.wb, a := f.a.resolve t.k.wb, b := f.b.resolve t.k.wb, c := f.c.resolve t.k.wb }
  part : x.part = t.k.part
  draws : x.seed = t.k.seed ∧ x.dii = t.k.dii

/-- An issue that sends a form over the lanes, one lane each `stride` cycles, and does nothing else. -/
def SendsLanes (s s' : State) (t : Site) (f : Form) (stride : Nat) : Prop :=
  Issued s s' t ∧ OnlyPassed s s' t ∧ (core s' t.i.core).results = (core s t.i.core).results
    ∧ (core s' t.i.core).accs = (core s t.i.core).accs
    ∧ ∃ x, (core s' t.i.core).flights = (core s t.i.core).flights ++ [x] ∧ Flies s t f x ∧ x.stride = stride

/-- The result that an issue at `t` leaves pending: its writes land at `ready` (R9). -/
def pending (s : State) (t : Site) (ready : Nat) (writes : List Write) : Result :=
  { id := (core s t.i.core).nextId, seq := t.seq, owner := t.i.owner, cr := t.i.cr, ready := ready, writes := writes, flags := 0,
    pc := t.i.pc, word := t.i.word }

/-- An issue of an instruction that executes once and leaves one pending result, or none. -/
def LeavesResults (s s' : State) (t : Site) (rs : List Result) : Prop :=
  Issued s s' t ∧ OnlyPassed s s' t ∧ (core s' t.i.core).flights = (core s t.i.core).flights
    ∧ (core s' t.i.core).accs = (core s t.i.core).accs
    ∧ (core s' t.i.core).results = (core s t.i.core).results ++ rs

/-! ## A fault in decode -/

/-- The record of a fault joins the queue of 16 or waits for room in it, and the sash stands still at its cycle (R43, R324). A
fault that a record of the same cycle already reports, whose containment the cycle's work now follows, writes no second one. -/
structure Recorded (s s' : State) (c : Nat) (f : FaultRec) : Prop where
  again : (core s c).pardons.any (fun v => v.meets f) = true →
    (core s' c).faults = (core s c).faults ∧ (core s' c).waiting = (core s c).waiting
  queued : (core s c).pardons.any (fun v => v.meets f) = false → (core s c).faults.length < 16 →
    (core s' c).faults = (core s c).faults ++ [f] ∧ (core s' c).waiting = (core s c).waiting
  full : (core s c).pardons.any (fun v => v.meets f) = false → 16 ≤ (core s c).faults.length →
    (core s' c).faults = (core s c).faults ∧ (core s' c).waiting = (core s c).waiting ++ [f]
  paused : (core s c).pardons.any (fun v => v.meets f) = false →
    ∀ i x, (core s c).sash = some i → sash s i = some x → ∃ x', sash s' i = some x' ∧ x'.paused = true ∧ x'.vcc = x.vcc
  stamp : f.vcc = BitVec.ofNat 64 (vcc s c)

/-- Of a core whose instruction faults nothing but the fields named here differs: its courses, strings and profiles, its fault
records, and its count of issues. -/
def FaultKept (k k' : Core) : Prop :=
  k' = { k with
    courses := k'.courses, strs := k'.strs, samples := k'.samples, faults := k'.faults, waiting := k'.waiting, passed := k'.passed, seq := k'.seq }

/-- A slot that faults in decode (R99, R113, R324, R325): the path passes on, nothing else of the course changes, no `%dii`
counts, the record joins the queue and the sash stands still. Of the core only the course, its string's last turn and the fault
queue differ; every other course and core, every other sash, every die and module, and every byte stand. -/
structure DecodeFaults (s s' : State) (t : Site) (code sub : Nat) (info : W64) : Prop where
  bytes : SameBytes s s'
  port : s'.mach.cur = none
  own : course s' t.i.core t.i.owner t.i.cr = some (t.k.setPath t.i.slot (passed t))
  others : ∀ o r, 32 * o + r ≠ 32 * t.i.owner + t.i.cr → course s' t.i.core o r = course s t.i.core o r
  kept : FaultKept (core s t.i.core) (core s' t.i.core)
  seq : (core s' t.i.core).seq = (core s t.i.core).seq ∧ (core s' t.i.core).samples = (core s t.i.core).samples
  cores : ∀ c, c ≠ t.i.core → core s' c = core s c
  mach : s'.mach = { s.mach with cur := none, cores := s'.mach.cores, sashes := s'.mach.sashes, freeCtr := s'.mach.freeCtr }
  sashes : ∀ i, (core s t.i.core).sash ≠ some i → sash s' i = sash s i
  record : ∃ f, Recorded s s' t.i.core f ∧ f.code = code ∧ f.sub = sub ∧ f.info = info
    ∧ f.owner = t.i.owner ∧ f.cr = t.i.cr ∧ f.path = t.i.slot ∧ f.mask = t.p.mask ∧ f.pc = pcWord t.i.pc ∧ f.word = t.i.word

/-! ## Tables of forms -/

/-- The integer and logic lane instructions with their operands (R101 to R105, R117, R122, R123). -/
def intForm : Instr → Option Form
  | .add d a b ub w => some (lane2 (.add w) (intWide w) d a b ub 2 .none)
  | .sub d a b ub w => some (lane2 (.sub w) (intWide w) d a b ub 2 .none)
  | .addSat d a b ub uns wide => some (lane2 (.addSat uns wide) wide d a b ub 2 .none)
  | .subSat d a b ub uns wide => some (lane2 (.subSat uns wide) wide d a b ub 2 .none)
  | .mul d a b ub w => some (lane2 (.mul w) (intWide w) d a b ub 2 .none)
  | .mulhi d a b ub uns wide => some (lane2 (.mulhi uns wide) wide d a b ub 2 .none)
  | .mad d a b ub w => some (lane3 (.mad w) (intWide w) d a b ub 2 .none)
  | .min d a b ub uns => some (lane2 (.min uns) false d a b ub 2 .none)
  | .max d a b ub uns => some (lane2 (.max uns) false d a b ub 2 .none)
  | .and d a b ub => some (lane2 .and false d a b ub 2 .none)
  | .or d a b ub => some (lane2 .or false d a b ub 2 .none)
  | .xor d a b ub => some (lane2 .xor false d a b ub 2 .none)
  | .andn d a b ub => some (lane2 .andn false d a b ub 2 .none)
  | .shl d a b ub => some (lane2 .shl false d a b ub 2 .none)
  | .shrZ d a b ub => some (lane2 .shrZ false d a b ub 2 .none)
  | .shrS d a b ub => some (lane2 .shrS false d a b ub 2 .none)
  | .rol d a b ub => some (lane2 .rol false d a b ub 2 .none)
  | .setp cc p a b ub w => some (lanePred (.setp cc w) (intWide w) p a b ub 2 .none)
  | .popc d a => some (lane1 .popc false false d a 2 .none)
  | .clz d a => some (lane1 .clz false false d a 2 .none)
  | .brev d a => some (lane1 .brev false false d a 2 .none)
  | .neg d a => some (lane1 .neg false false d a 2 .none)
  | .div d a b ub uns => some (lane2 (.div uns) false d a b ub 24 .none)
  | .rem d a b ub uns => some (lane2 (.rem uns) false d a b ub 24 .none)
  | .addImm d a imm => some { op := .alu (.add .w32), dst := .reg d.toNat, a := .reg a.toNat, b := .imm ((imm.signExtend 32).zeroExtend 64), lat := 2 }
  | .movi d imm => some { op := .alu .mov, dst := .reg d.toNat, a := .imm ((imm.signExtend 32).zeroExtend 64), lat := 2 }
  | .movh d imm => some { op := .alu .movh, dst := .reg d.toNat, a := .imm (imm.zeroExtend 64), c := .reg d.toNat, lat := 2 }
  | _ => none

/-- The FP32, FP64 and packed instructions (R129, R117), with their columns and latencies (R38, R39). -/
def fpForm : Instr → Option Form
  | .fadd d a b ub rm => some (lane2 (.fadd .f32 rm) false d a b ub 4 .fp)
  | .fsub d a b ub rm => some (lane2 (.fsub .f32 rm) false d a b ub 4 .fp)
  | .fmul d a b ub rm => some (lane2 (.fmul .f32 rm) false d a b ub 4 .fp)
  | .ffma d a b ub rm => some (lane3 (.ffma .f32 rm) false d a b ub 4 .fp)
  | .fmin d a b ub => some (lane2 (.fmin .f32) false d a b ub 4 .fp)
  | .fmax d a b ub => some (lane2 (.fmax .f32) false d a b ub 4 .fp)
  | .fsetp cc p a b ub => some (lanePred (.fsetp .f32 cc) false p a b ub 4 .fp)
  | .fabs d a => some (lane1 (.fabs .f32) false false d a 4 .fp)
  | .fneg d a => some (lane1 (.fneg .f32) false false d a 4 .fp)
  | .fcpsgn d a b ub => some (lane2 (.fcpsgn .f32) false d a b ub 4 .fp)
  | .fclass d a => some (lane1 (.fclass .f32) false false d a 4 .fp)
  | .dadd d a b ub rm => some (lane2 (.fadd .f64 rm) true d a b ub 6 .fp64)
  | .dsub d a b ub rm => some (lane2 (.fsub .f64 rm) true d a b ub 6 .fp64)
  | .dmul d a b ub rm => some (lane2 (.fmul .f64 rm) true d a b ub 6 .fp64)
  | .dfma d a b ub rm => some (lane3 (.ffma .f64 rm) true d a b ub 6 .fp64)
  | .dmin d a b ub => some (lane2 (.fmin .f64) true d a b ub 6 .fp64)
  | .dmax d a b ub => some (lane2 (.fmax .f64) true d a b ub 6 .fp64)
  | .dsetp cc p a b ub => some (lanePred (.fsetp .f64 cc) true p a b ub 6 .fp64)
  | .dabs d a => some (lane1 (.fabs .f64) true true d a 6 .fp64)
  | .dneg d a => some (lane1 (.fneg .f64) true true d a 6 .fp64)
  | .dcpsgn d a b ub => some (lane2 (.fcpsgn .f64) true d a b ub 6 .fp64)
  | .dclass d a => some (lane1 (.fclass .f64) false true d a 6 .fp64)
  | .haddF16 d a b ub rm => some (lane2 (.hadd .f16 rm) false d a b ub 4 .fp)
  | .hmulF16 d a b ub rm => some (lane2 (.hmul .f16 rm) false d a b ub 4 .fp)
  | .hfmaF16 d a b ub rm => some (lane3 (.hfma .f16 rm) false d a b ub 4 .fp)
  | .hminF16 d a b ub => some (lane2 (.hmin .f16) false d a b ub 4 .fp)
  | .hmaxF16 d a b ub => some (lane2 (.hmax .f16) false d a b ub 4 .fp)
  | .haddBf16 d a b ub rm => some (lane2 (.hadd .bf16 rm) false d a b ub 4 .fp)
  | .hmulBf16 d a b ub rm => some (lane2 (.hmul .bf16 rm) false d a b ub 4 .fp)
  | .hfmaBf16 d a b ub rm => some (lane3 (.hfma .bf16 rm) false d a b ub 4 .fp)
  | .hminBf16 d a b ub => some (lane2 (.hmin .bf16) false d a b ub 4 .fp)
  | .hmaxBf16 d a b ub => some (lane2 (.hmax .bf16) false d a b ub 4 .fp)
  | _ => none

/-- A conversion to floating point: a packed result reads the word it goes into (R136, R137). -/
def toFloat (f : FFmt) (wide packed : Bool) (d a : Reg) (sel : BitVec 2) (st : SType) (rm : CvtRound) : Option Form :=
  some { op := .alu (.cvtF f sel st rm), dst := laneDst wide d, a := laneSrc (isPair st) a,
         c := if packed then .reg d.toNat else .none, lat := 4, col := .fp }

/-- Conversions, special functions, byte permute and dot products (R136 to R147). -/
def convForm : Instr → Option Form
  | .cvtToF32 d a sel st rm => toFloat .f32 false false d a sel st rm
  | .cvtToF64 d a sel st rm => toFloat .f64 true false d a sel st rm
  | .cvtToF16 d a sel st rm => toFloat .f16 false true d a sel st rm
  | .cvtToBf16 d a sel st rm => toFloat .bf16 false true d a sel st rm
  | .cvtToE4m3 d a sel st rm => toFloat .e4m3 false true d a sel st rm
  | .cvtToE5m2 d a sel st rm => toFloat .e5m2 false true d a sel st rm
  | .cvtQn4F32 d a b rm => some { op := .alu (.toQn4 rm), dst := .reg d.toNat, a := .reg a.toNat, b := .reg b.toNat, lat := 4, col := .fp }
  | .cvtF32Qn4 d a b ub rm => some (lane2 (.ofQn4 rm) false d a b ub 4 .fp)
  | .cvtToInteger d a dt f64 rm => some (lane1 (.cvtI dt f64 rm) (dt == .s64 || dt == .z64) f64 d a 4 .fp)
  | .rcp d a => some (lane1 (.sfu .rcp) false false d a 12 .sfu)
  | .rsq d a => some (lane1 (.sfu .rsq) false false d a 12 .sfu)
  | .sqrt d a => some (lane1 (.sfu .sqrt) false false d a 12 .sfu)
  | .exp2 d a => some (lane1 (.sfu .exp2) false false d a 12 .sfu)
  | .log2 d a => some (lane1 (.sfu .log2) false false d a 12 .sfu)
  | .sin d a => some (lane1 (.sfu .sin) false false d a 12 .sfu)
  | .cos d a => some (lane1 (.sfu .cos) false false d a 12 .sfu)
  | .bsel d a b ub => some (lane3 .bsel false d a b ub 2 .none)
  | .dp4 d a b ub sg => some (lane3 (.dp4 sg) false d a b ub 2 .none)
  | .dp2 d a b ub sg => some (lane3 (.dp2 sg) false d a b ub 2 .none)
  | .hdp2 d a b ub bf => some (lane3 (.hdp2 bf) false d a b ub 4 .fp)
  | _ => none

/-- Cross-lane instructions (R163 to R167), and the moves of special registers from and to lane registers (R161, R162). -/
def crossForm : Instr → Option Form
  | .lpickAt d a b ub => some { op := .xlane .pickAt, dst := .reg d.toNat, a := .reg a.toNat, b := bSrc ub false b, lat := 36 }
  | .lpickBack d a b ub => some { op := .xlane .pickBack, dst := .reg d.toNat, a := .reg a.toNat, b := bSrc ub false b, lat := 36 }
  | .lpickFwd d a b ub => some { op := .xlane .pickFwd, dst := .reg d.toNat, a := .reg a.toNat, b := bSrc ub false b, lat := 36 }
  | .lpickXor d a b ub => some { op := .xlane .pickXor, dst := .reg d.toNat, a := .reg a.toNat, b := bSrc ub false b, lat := 36 }
  | .lpollAny p q => some { op := .xlane (.pollAny q), dst := .pred p, lat := 36 }
  | .lpollAll p q => some { op := .xlane (.pollAll q), dst := .pred p, lat := 36 }
  | .lpollMap d q => some { op := .xlane (.pollMap q), dst := .reg d.toNat, lat := 36 }
  | .redAdd d a _ => some { op := .xlane .redAdd, dst := .reg d.toNat, a := .reg a.toNat, lat := 36 }
  | .redMin d a uns => some { op := .xlane (.redMin uns), dst := .reg d.toNat, a := .reg a.toNat, lat := 36 }
  | .redMax d a uns => some { op := .xlane (.redMax uns), dst := .reg d.toNat, a := .reg a.toNat, lat := 36 }
  | .first d a idx => some { op := .xlane (.first idx), dst := .reg d.toNat, a := .reg a.toNat, lat := 36 }
  | .mfs d sr false => some { op := .mfs sr.toNat, dst := laneDst (srWide sr.toNat) d, lat := 2 }
  | .mts sr a false => some { op := .mts sr.toNat, a := laneSrc (srWide sr.toNat) a, lat := 2 }
  | .tdesc d h false => some { op := .tdesc h.toNat, dst := .quad d.toNat, lat := 2 }
  | _ => none

/-- A form of the chained family (R168). -/
def chained (op : ChainOp) (wide : Bool) (d : Reg) (a b : Src) (seg br : Bool) : Option (ChainOp × Bool × Form) :=
  some (op, br, { op := .chain op seg br, dst := laneDst wide d, a := a, b := b, lat := 4, col := .chain })

/-- The chained instructions: operation, `.br` and form (R168, R169). -/
def chainedForm : Instr → Option (ChainOp × Bool × Form)
  | .caddS32 d a seg br => chained .addS32 false d (.reg a.toNat) .none seg br
  | .caddS64 d a seg br => chained .addS64 true d (.pair a.toNat) .none seg br
  | .caddF32 d a seg br => chained .addF32 false d (.reg a.toNat) .none seg br
  | .caddF64 d a seg br => chained .addF64 true d (.pair a.toNat) .none seg br
  | .cminS32 d a seg br => chained .minS32 false d (.reg a.toNat) .none seg br
  | .cminF32 d a seg br => chained .minF32 false d (.reg a.toNat) .none seg br
  | .cmaxS32 d a seg br => chained .maxS32 false d (.reg a.toNat) .none seg br
  | .cmaxF32 d a seg br => chained .maxF32 false d (.reg a.toNat) .none seg br
  | .cmulF32 d a seg br => chained .mulF32 false d (.reg a.toNat) .none seg br
  | .cfmaF32 d a b ub seg br => chained .fmaF32 false d (.reg a.toNat) (bSrc ub false b) seg br
  | .cfmaF64 d a b ub seg br => chained .fmaF64 true d (.pair a.toNat) (bSrc ub true b) seg br
  | .cxorB32 d a seg br => chained .xorB32 false d (.reg a.toNat) .none seg br
  | .cpassB64 d a seg br => chained .passB64 true d (.reg a.toNat) .none seg br
  | _ => none

/-- The uniform forms (R118, R122): operands and destination are uniform registers. -/
def uniForm : Instr → Option (AluOp × Form)
  | .uadd d a b w => some (.add w, uni2 (.add w) (intWide w) d a b 2)
  | .usub d a b w => some (.sub w, uni2 (.sub w) (intWide w) d a b 2)
  | .uaddSat d a b uns wide => some (.addSat uns wide, uni2 (.addSat uns wide) wide d a b 2)
  | .usubSat d a b uns wide => some (.subSat uns wide, uni2 (.subSat uns wide) wide d a b 2)
  | .umul d a b w => some (.mul w, uni2 (.mul w) (intWide w) d a b 2)
  | .umulhi d a b uns wide => some (.mulhi uns wide, uni2 (.mulhi uns wide) wide d a b 2)
  | .umad d a b w => some (.mad w, uni3 (.mad w) (intWide w) d a b 2)
  | .umin d a b uns => some (.min uns, uni2 (.min uns) false d a b 2)
  | .umax d a b uns => some (.max uns, uni2 (.max uns) false d a b 2)
  | .uand d a b => some (.and, uni2 .and false d a b 2)
  | .uor d a b => some (.or, uni2 .or false d a b 2)
  | .uxor d a b => some (.xor, uni2 .xor false d a b 2)
  | .uandn d a b => some (.andn, uni2 .andn false d a b 2)
  | .ushl d a b => some (.shl, uni2 .shl false d a b 2)
  | .ushrZ d a b => some (.shrZ, uni2 .shrZ false d a b 2)
  | .ushrS d a b => some (.shrS, uni2 .shrS false d a b 2)
  | .urol d a b => some (.rol, uni2 .rol false d a b 2)
  | .usetp cc p a b w => some (.setp cc w, uniPred (.setp cc w) (intWide w) p a b 2)
  | .upopc d a => some (.popc, uni1 .popc d a 2)
  | .uclz d a => some (.clz, uni1 .clz d a 2)
  | .ubrev d a => some (.brev, uni1 .brev d a 2)
  | .uneg d a => some (.neg, uni1 .neg d a 2)
  | .udiv d a b uns => some (.div uns, uni2 (.div uns) false d a b 24)
  | .urem d a b uns => some (.rem uns, uni2 (.rem uns) false d a b 24)
  | .uaddImm d a imm => some (.add .w32, { op := .alu (.add .w32), dst := .uni d.toNat, a := .uni a.toNat, b := .imm ((imm.signExtend 32).zeroExtend 64), lat := 2 })
  | .umovi d imm => some (.mov, { op := .alu .mov, dst := .uni d.toNat, a := .imm ((imm.signExtend 32).zeroExtend 64), lat := 2 })
  | .umovh d imm => some (.movh, { op := .alu .movh, dst := .uni d.toNat, a := .imm (imm.zeroExtend 64), c := .uni d.toNat, lat := 2 })
  | _ => none

/-- What a uniform result writes (R118): its register or pair, or its predicate in every active lane of the path. -/
def uniWrites (t : Site) (d : Dst) (v : W64) : List Write :=
  match d with
  | .uni n => [.uni n (v.truncate 32)]
  | .uniPair n => [.uni n (v.truncate 32), .uni (n + 1) ((v >>> 32).truncate 32)]
  | .pred p => [.pred p t.p.mask (if v = 0 then 0 else 0xFFFFFFFF)]
  | _ => []

/-- Lane j of the issuing path is enabled at the issue (R99). -/
def on (t : Site) (j : Nat) : Bool := t.p.mask.getLsbD j && ((t.k.pred t.i.pred).getLsbD j != t.i.neg)

/-- The lowest active lane of the path is enabled (R118). -/
def once (t : Site) : Bool := decide (lowestLane t.p.mask < 32) && on t (lowestLane t.p.mask)

/-- `%bri` of the issuing course (R20): `%bro` of the course before it, kept by the block once its slot is released, or the
block's seed for course 0. -/
def bridge (s : State) (t : Site) : W64 :=
  if t.i.cr = 0 then t.b.bseed
  else match course s t.i.core t.b.bind.owner (t.i.cr - 1) with
    | some k => k.bro
    | none => (t.b.bros.find (t.i.cr - 1)).getD 0

/-- The opcodes to which the opcode map assigns nothing (R111). -/
def unassigned (op : Nat) : Prop :=
  (0x38 ≤ op ∧ op ≤ 0x3F) ∨ (0x54 ≤ op ∧ op ≤ 0x5F) ∨ (0x8D ≤ op ∧ op ≤ 0x8F) ∨ (0xB6 ≤ op ∧ op ≤ 0xBF)
    ∨ (0xCE ≤ op ∧ op ≤ 0xDF) ∨ (0xE3 ≤ op ∧ op ≤ 0xE7) ∨ (0xEE ≤ op ∧ op ≤ 0xFF)

/-- The privileged instructions (R346, R371). -/
def privileged : Instr → Bool
  | .driftSet _ _ => true
  | .driftStep _ _ => true
  | .dbgBpClr _ _ => true
  | .dbgBpSet _ _ _ => true
  | .dbgBpClaim _ => true
  | .dbgBpFree _ => true
  | .dbgHold _ _ => true
  | .dbgStep _ => true
  | .dbgStepTrap _ => true
  | .dbgRun _ _ => true
  | .dbgWatch _ _ _ => true
  | .dbgMbox _ _ => true
  | .dbgMboxBase _ _ => true
  | .dbgMboxSamp _ _ => true
  | .dbgMboxRec _ _ => true
  | _ => false

/-- The form of a lane instruction of any of the register families. -/
def laneForm (i : Instr) : Option Form := intForm i <|> fpForm i <|> convForm i <|> crossForm i

/-- The transfers with an offset in the word (R102): the offset. -/
def offsetOf : Instr → Option Int
  | .bra off => some off.toInt
  | .call off => some off.toInt
  | .jtok off => some off.toInt
  | .loop _ off => some off.toInt
  | _ => none

/-! ## Lanes and results -/

/-- A pending result of a core, as the next record of it. -/
def nextResult (s : State) (c : Nat) (f : Flight) (ready : Nat) (writes : List Write) (flags : FpFlags) : Result :=
  { id := (core s c).nextId, seq := f.seq, owner := f.owner, cr := f.cr, ready := ready, writes := writes, flags := flags,
    pc := f.pc, word := f.word }

/-- What a value writes in a lane (R59): a register, a pair with the low word in the even register, or a predicate. -/
def laneWrites (d : Dst) (j : Nat) (v : W64) : List Write :=
  match d with
  | .reg n => [.lane j n (v.truncate 32)]
  | .pair n => [.lane j n (v.truncate 32), .lane j (n + 1) ((v >>> 32).truncate 32)]
  | .pred p => [.pred p (laneBit j) (if v = 0 then 0 else laneBit j)]
  | _ => []

/-- A flight of a core whose lane `j` is next: its block and course. -/
def LaneDue (s : State) (c seq j stride : Nat) (f : Flight) (b : Block) (k : Course) : Prop :=
  ((core s c).flights.find? fun f => decide (f.seq = seq) && decide (f.stride = stride) && decide (f.next = j)) = some f ∧
  block s c f.owner = some b ∧ course s c f.owner f.cr = some k

/-- Lane `j` of a flight is active, in the course, and enabled by PRED and NEG now (R16, R99, R155). -/
def lives (k : Course) (f : Flight) (j : Nat) : Bool :=
  f.mask.getLsbD j && k.live.getLsbD j && ((k.pred f.pred).getLsbD j != f.neg)

/-- No register word that the flight reads in the lane is poisoned (R332). -/
def sound (k : Course) (f : Flight) (j : Nat) : Bool :=
  !(srcPoisoned k j f.form.a || srcPoisoned k j f.form.b || srcPoisoned k j f.form.c)

/-- Nothing but cores differs, every byte stands, and no course or block of any core has changed. -/
def CoursesKept (s s' : State) : Prop :=
  SameBytes s s' ∧ s'.mach = { s.mach with cores := s'.mach.cores } ∧
  (∀ c o r, course s' c o r = course s c o r) ∧ (∀ c o, block s' c o = block s c o) ∧
  (∀ c, (core s' c).tiles = (core s c).tiles ∧ (core s' c).tags = (core s c).tags ∧ (core s' c).accs = (core s c).accs
    ∧ (core s' c).cmds = (core s c).cmds ∧ (core s' c).faults = (core s c).faults)

/-- The 24-bit draw of R71 and R72, in 64-bit arithmetic. -/
def draw (seed dii lane : W64) : W64 :=
  let x := seed ^^^ (dii * 0x9E3779B97F4A7C15) ^^^ (lane * 0xD6E8FEB86659FD93)
  let x := x ^^^ (x >>> 32)
  let x := x * 0xB3C16F259A4ED78B
  let x := x ^^^ (x >>> 29)
  let x := x * 0xC2D749A3E15F0B67
  let x := x ^^^ (x >>> 32)
  x >>> 40

/-- A result that a core holds, with its course. -/
def Lands (s : State) (c rid : Nat) (r : Result) (k : Course) : Prop :=
  ((core s c).results.find? fun r => decide (r.id = rid)) = some r ∧ course s c r.owner r.cr = some k

/-- What the landing of a result leaves outside its course: every byte, every block, every other course, die, module and
sash; and of the course everything but its registers, predicates, special registers and flags. -/
def LandsIn (s s' : State) (c : Nat) (r : Result) (k k' : Course) : Prop :=
  SameBytes s s' ∧ course s' c r.owner r.cr = some k' ∧ (∀ c' o, c' ≠ c → block s' c' o = block s c' o) ∧
  (∀ c' o q, c' ≠ c ∨ 32 * o + q ≠ 32 * r.owner + r.cr → course s' c' o q = course s c' o q) ∧
  s'.mach = { s.mach with cores := s'.mach.cores } ∧
  k' = { k with regs := k'.regs, poison := k'.poison, preds := k'.preds, k := k'.k, seed := k'.seed, fpst := k'.fpst, tpc := k'.tpc }

/-! ## Values -/

/-- A result of a width as it is written (R59, R124): modulo 2^W, and sign-extended to 32 bits where it is narrower. -/
def written (w : IntW) (v : Int) : W64 :=
  match w with
  | .w64 => BitVec.ofInt 64 v
  | .w32 => (BitVec.ofInt 32 v).zeroExtend 64
  | .w16 => ((BitVec.ofInt 16 v).signExtend 32).zeroExtend 64
  | .w8 => ((BitVec.ofInt 8 v).signExtend 32).zeroExtend 64

/-- The low n bits of an operand, read signed or unsigned. -/
def low (n : Nat) (uns : Bool) (v : W64) : Int := if uns then ((v.truncate n : BitVec n).toNat : Int) else (v.truncate n : BitVec n).toInt

/-- A value clamped to the range of R58 and written in n bits. -/
def clamped (n : Nat) (uns : Bool) (v : Int) : W64 :=
  (BitVec.ofInt n (if uns then max 0 (min (2 ^ n - 1) v) else max (-(2 ^ (n - 1))) (min (2 ^ (n - 1) - 1) v))).zeroExtend 64

/-- A word as an operand. -/
def word (x : W32) : W64 := x.zeroExtend 64

/-- Place of a non-NaN pattern of `n` bits in the order of values: sign and magnitude, the two zeros equal. -/
def place (n : Nat) (x : BitVec n) : Int := if x.msb then -(x.toNat % 2 ^ (n - 1) : Nat) else (x.toNat % 2 ^ (n - 1) : Nat)

/-- Product of the elements `e` of n bits of two words, each signed or unsigned as the form says (R146). -/
def element (sg : DotSign) (n : Nat) (a b : W32) (e : Nat) : Int :=
  low n (match sg with | .ss => false | .sz => false | .zs => true | .zz => true) (word a >>> (n * e)) *
    low n (match sg with | .ss => false | .sz => true | .zs => false | .zz => true) (word b >>> (n * e))

/-- NaN, and signalling NaN, of FP32 and FP64 (R61). -/
def nan32 (x : W32) : Bool := decide (0x7F800000 < x.toNat % 2 ^ 31)
def snan32 (x : W32) : Bool := nan32 x && !x.getLsbD 22
def nan64 (x : W64) : Bool := decide (0x7FF0000000000000 < x.toNat % 2 ^ 63)
def snan64 (x : W64) : Bool := nan64 x && !x.getLsbD 51

/-- The condition codes of R126. -/
def compare (cc : CondI) (n : Nat) (a b : W64) : Prop :=
  match cc with
  | .eq => low n true a = low n true b
  | .ne => low n true a ≠ low n true b
  | .lts => low n false a < low n false b
  | .les => low n false a ≤ low n false b
  | .gts => low n false a > low n false b
  | .ges => low n false a ≥ low n false b
  | .ltz => low n true a < low n true b
  | .lez => low n true a ≤ low n true b
  | .gtz => low n true a > low n true b
  | .gez => low n true a ≥ low n true b

/-- The condition codes of R132 over two places in the order of values; `un`: an operand is NaN. -/
def ordered (cc : CondF) (un : Bool) (a b : Int) : Prop :=
  match cc with
  | .eq => un = false ∧ a = b
  | .ne => un = false ∧ a ≠ b
  | .lt => un = false ∧ a < b
  | .le => un = false ∧ a ≤ b
  | .gt => un = false ∧ a > b
  | .ge => un = false ∧ a ≥ b
  | .num => un = false
  | .nan => un = true
  | .equ => un = true ∨ a = b
  | .neu => un = true ∨ a ≠ b
  | .ltu => un = true ∨ a < b
  | .leu => un = true ∨ a ≤ b
  | .gtu => un = true ∨ a > b
  | .geu => un = true ∨ a ≥ b

/-- The class bit of R134 of a pattern with exponent field `e` of `w` bits and a fraction. -/
def classBit (neg : Bool) (e w fr : Nat) (quiet : Bool) : Nat :=
  if e = 2 ^ w - 1 then (if fr = 0 then (if neg then 0 else 7) else if quiet then 9 else 8)
  else if e = 0 then (if fr = 0 then (if neg then 3 else 4) else (if neg then 2 else 5))
  else (if neg then 1 else 6)

/-! ## Floating-point values -/

/-- A pattern of a format (R60): its magnitude bits, its sign, and the pattern of a sign and a magnitude. -/
def mags (f : FFmt) (x : Nat) : Nat := x % 2 ^ (expBits f + fracBits f)
def negative (f : FFmt) (x : Nat) : Bool := decide (x / 2 ^ (expBits f + fracBits f) % 2 = 1)
def signed (f : FFmt) (neg : Bool) (p : Nat) : Nat := (if neg then 2 ^ (expBits f + fracBits f) else 0) + p

/-- The greatest finite magnitude, infinity (448 in E4M3, which has none) and the canonical NaN of a format (R60, R65, R68). -/
def largest (f : FFmt) : Nat := if f = .e4m3 then 0x7E else (2 ^ expBits f - 1) * 2 ^ fracBits f - 1
def infinity (f : FFmt) (neg : Bool) : Nat := signed f neg (if f = .e4m3 then 0x7E else (2 ^ expBits f - 1) * 2 ^ fracBits f)
def quiet (f : FFmt) : Nat := if f = .e4m3 then 0x7F else (2 ^ expBits f - 1) * 2 ^ fracBits f + 2 ^ (fracBits f - 1)

/-- What a pattern is (R61): finite, infinite, NaN, signalling NaN, zero. -/
def finite (f : FFmt) (x : Nat) : Bool := decide (mags f x ≤ largest f)
def infinite (f : FFmt) (x : Nat) : Bool := decide (f ≠ .e4m3 ∧ mags f x = largest f + 1)
def nan (f : FFmt) (x : Nat) : Bool := !finite f x && !infinite f x
def snan (f : FFmt) (x : Nat) : Bool := nan f x && decide (f ≠ .e4m3) && decide (x / 2 ^ (fracBits f - 1) % 2 = 0)
def zero (f : FFmt) (x : Nat) : Bool := decide (mags f x = 0)
/-- NV where one of the patterns is a signalling NaN (R66). -/
def invalid (f : FFmt) (xs : List Nat) : FpFlags := if xs.any (snan f) then flagNV else 0

/-- The value of a magnitude (R61), whose exponent may go beyond the format's. -/
def magnitude (f : FFmt) (p : Nat) : ℚ :=
  if p < 2 ^ fracBits f then p * 2 ^ (1 - (expBias f : ℤ) - fracBits f)
  else (2 ^ fracBits f + p % 2 ^ fracBits f : ℕ) * 2 ^ ((p / 2 ^ fracBits f : ℕ) - (expBias f : ℤ) - fracBits f)
/-- The value of a finite pattern (R61). -/
def value (f : FFmt) (x : Nat) : ℚ := if negative f x then -magnitude f (mags f x) else magnitude f (mags f x)

/-- The magnitude that the modes of R67 choose for an exact one: that which has its value, or one of its two neighbours. The exact
magnitude is given by how a rational compares with it; `neg` is its sign. -/
def Chosen (f : FFmt) (rm : Round) (neg : Bool) (c : ℚ → Ordering) (p : Nat) : Prop :=
  c (magnitude f p) = .eq ∨ ∃ q, c (magnitude f q) = .lt ∧ c (magnitude f (q + 1)) = .gt ∧
    match rm with
    | .rz => p = q
    | .rd => p = if neg then q + 1 else q
    | .ru => p = if neg then q else q + 1
    | .rne => match c ((magnitude f q + magnitude f (q + 1)) / 2) with
      | .gt => p = q
      | .lt => p = q + 1
      | .eq => p % 2 = 0 ∧ (p = q ∨ p = q + 1)

/-- A non-zero value is rounded once to a format, with its flags: overflow (R68), underflow of a result that is tiny after rounding and
inexact (R69), and inexact. -/
def RoundsBy (f : FFmt) (rm : Round) (neg : Bool) (c : ℚ → Ordering) (o : Nat × FpFlags) : Prop :=
  ∃ p t, Chosen f rm neg c p ∧ Chosen f rm neg (fun r => c (r / 2)) t ∧
    if largest f < p then
      o = (signed f neg (match rm with
        | .rne => infinity f false
        | .rz => largest f
        | .rd => if neg then infinity f false else largest f
        | .ru => if neg then largest f else infinity f false), flagOF ||| flagNX)
    else o = (signed f neg p, if c (magnitude f p) = .eq then 0
      else if c (magnitude f (2 ^ fracBits f)) = .gt ∧ t < 2 ^ (fracBits f + 1) then flagUF ||| flagNX else flagNX)

/-- The same for a rational value. -/
def Rounds (f : FFmt) (rm : Round) (x : ℚ) (o : Nat × FpFlags) : Prop := RoundsBy f rm (decide (x < 0)) (fun r => cmp r |x|) o

/-- A value rounded once, an exact zero with the sign `z` (R66). -/
def RoundsTo (f : FFmt) (rm : Round) (z : Bool) (x : ℚ) (o : Nat × FpFlags) : Prop :=
  (x = 0 → o = (signed f z 0, 0)) ∧ (x ≠ 0 → Rounds f rm x o)

/-- Sum, product and fused multiply-add of patterns (R130, R66). -/
def Sum (f : FFmt) (rm : Round) (a b : Nat) (o : Nat × FpFlags) : Prop :=
  let na := negative f a
  let nb := negative f b
  (nan f a = true ∨ nan f b = true → o = (quiet f, invalid f [a, b])) ∧
  (infinite f a = true → infinite f b = true → o = if na = nb then (infinity f na, 0) else (quiet f, flagNV)) ∧
  (infinite f a = true → finite f b = true → o = (infinity f na, 0)) ∧ (finite f a = true → infinite f b = true → o = (infinity f nb, 0)) ∧
  (finite f a = true → finite f b = true → RoundsTo f rm (if na = nb then na else decide (rm = .rd)) (value f a + value f b) o)
def Product (f : FFmt) (rm : Round) (a b : Nat) (o : Nat × FpFlags) : Prop :=
  let n := negative f a != negative f b
  (nan f a = true ∨ nan f b = true → o = (quiet f, invalid f [a, b])) ∧
  (infinite f a = true ∧ zero f b = true ∨ zero f a = true ∧ infinite f b = true → o = (quiet f, flagNV)) ∧
  (infinite f a = true ∧ nan f b = false ∧ zero f b = false ∨ nan f a = false ∧ zero f a = false ∧ infinite f b = true → o = (infinity f n, 0)) ∧
  (finite f a = true → finite f b = true → RoundsTo f rm n (value f a * value f b) o)
def Fused (f : FFmt) (rm : Round) (a b c : Nat) (o : Nat × FpFlags) : Prop :=
  let n := negative f a != negative f b
  let nc := negative f c
  let never := infinite f a = true ∧ zero f b = true ∨ zero f a = true ∧ infinite f b = true
  let endless := infinite f a = true ∨ infinite f b = true
  (never → o = (quiet f, flagNV)) ∧
  (¬ never → nan f a = true ∨ nan f b = true ∨ nan f c = true → o = (quiet f, invalid f [a, b, c])) ∧
  (¬ never → nan f a = false → nan f b = false → nan f c = false →
    (endless → infinite f c = true → n ≠ nc → o = (quiet f, flagNV)) ∧ (endless → infinite f c = false ∨ n = nc → o = (infinity f n, 0)) ∧
    (¬ endless → infinite f c = true → o = (infinity f nc, 0)) ∧
    (¬ endless → infinite f c = false → RoundsTo f rm (if n = nc then n else decide (rm = .rd)) (value f a * value f b + value f c) o))

/-- The lesser or the greater of two patterns (R131): of one NaN the other operand, -0 below +0. -/
def Lesser (f : FFmt) (greater : Bool) (a b : Nat) (o : Nat × FpFlags) : Prop :=
  let at_ := fun (x : Nat) => if negative f x then -(mags f x : ℤ) else mags f x
  let before := at_ a < at_ b ∨ at_ a = at_ b ∧ negative f a = true ∧ negative f b = false
  (nan f a = true → nan f b = true → o = (quiet f, invalid f [a, b])) ∧ (nan f a = true → nan f b = false → o = (b, invalid f [a, b])) ∧
  (nan f a = false → nan f b = true → o = (a, invalid f [a, b])) ∧
  (nan f a = false → nan f b = false → (before → o = (if greater then b else a, 0)) ∧ (¬ before → o = (if greater then a else b, 0)))

/-- A scalar operation on the patterns of its operands answers what `R` allows; so does a packed one in each half (R64, R130). -/
def Scalar (f : FFmt) (op : AluOp) (a b c : W64) (d : Nat → Nat) (R : Nat → Nat → Nat → Nat × FpFlags → Prop) : Prop :=
  let x := fun (v : W64) => v.toNat % 2 ^ (1 + expBits f + fracBits f)
  ∃ o, aluEval op a b c d = { val := BitVec.ofNat 64 o.1, flags := o.2 } ∧ R (x a) (x b) (x c) o
def Packed (op : AluOp) (a b c : W64) (d : Nat → Nat) (R : Nat → Nat → Nat → Nat × FpFlags → Prop) : Prop :=
  let x := fun (v : W64) (e : Nat) => v.toNat / 2 ^ (16 * e) % 2 ^ 16
  ∃ o p, aluEval op a b c d = { val := BitVec.ofNat 64 (o.1 + 2 ^ 16 * p.1), flags := o.2 ||| p.2 } ∧
    R (x a 0) (x b 0) (x c 0) o ∧ R (x a 1) (x b 1) (x c 1) p

/-- A pattern with its sign turned. -/
def turned (f : FFmt) (x : Nat) : Nat := signed f (!negative f x) (mags f x)

/-! ## Conversions -/

/-- The floating-point format of a source type, and the width and sign of an integer type (R58, R136). -/
def floatOf : SType → Option FFmt
  | .f32 => some .f32
  | .f64 => some .f64
  | .f16 => some .f16
  | .bf16 => some .bf16
  | .e4m3 => some .e4m3
  | .e5m2 => some .e5m2
  | _ => none
def widthOf : SType → Nat
  | .s8 => 8
  | .z8 => 8
  | .e4m3 => 8
  | .e5m2 => 8
  | .s16 => 16
  | .z16 => 16
  | .f16 => 16
  | .bf16 => 16
  | .s64 => 64
  | .z64 => 64
  | .f64 => 64
  | _ => 32
def unsigned : SType → Bool
  | .z8 => true
  | .z16 => true
  | .z32 => true
  | .z64 => true
  | _ => false

/-- Element SEL of a source, where its word holds several (R137). -/
def elementOf (st : SType) (sel : Nat) (a : W64) : Nat :=
  if widthOf st < 32 then a.toNat / 2 ^ (widthOf st * sel) % 2 ^ widthOf st else a.toNat % 2 ^ widthOf st

/-- A non-zero value rounded by a draw `u` (R71). How R69 applies to it the spec does not say (log entry 7): NX is stated and UF left
open. -/
def Drawn (f : FFmt) (u : Nat) (x : ℚ) (o : Nat × FpFlags) : Prop :=
  (magnitude f (largest f) < |x| → Rounds f .rne x o) ∧
  (∀ p, p ≤ largest f → magnitude f p = |x| → o = (signed f (decide (x < 0)) p, 0)) ∧
  (∀ q, q < largest f → magnitude f q < |x| → |x| < magnitude f (q + 1) →
    let a := if x < 0 then -magnitude f (q + 1) else magnitude f q
    let b := if x < 0 then -magnitude f q else magnitude f (q + 1)
    let up := (u : ℤ) < ⌊(x - a) / (b - a) * 2 ^ 24⌋
    o.1 = signed f (decide (x < 0)) (if up ↔ x < 0 then q else q + 1) ∧ o.2 &&& ~~~flagUF = flagNX)

/-- A value converted to a format (R138). -/
def Converts (f : FFmt) (rm : CvtRound) (u : Nat) (z : Bool) (x : ℚ) (o : Nat × FpFlags) : Prop :=
  (x = 0 → o = (signed f z 0, 0)) ∧ (x ≠ 0 → match rm with
    | .det r => Rounds f r x o
    | .sr => Drawn f u x o)

/-- A source element converted to a format (R138): NaN, infinity, and every other value rounded once. -/
def ConvertsFrom (st : SType) (f : FFmt) (rm : CvtRound) (u x : Nat) (o : Nat × FpFlags) : Prop :=
  match floatOf st with
  | none => let n := low (widthOf st) (unsigned st) (BitVec.ofNat 64 x)
    Converts f rm u false n o
  | some g => (nan g x = true → o = (quiet f, invalid g [x])) ∧
    (infinite g x = true → o = (infinity f (negative g x), if f = .e4m3 then flagOF ||| flagNX else 0)) ∧
    (finite g x = true → Converts f rm u (negative g x) (value g x) o)

/-- A value rounded to an integer in a mode (R139). -/
def Whole (rm : Round) (x : ℚ) (n : ℤ) : Prop :=
  match rm with
  | .rd => n = ⌊x⌋
  | .ru => n = ⌈x⌉
  | .rz => n = if x < 0 then ⌈x⌉ else ⌊x⌋
  | .rne => |x - n| < 1 / 2 ∨ |x - n| = 1 / 2 ∧ n % 2 = 0

/-- Width and sign of an integer destination (R136). -/
def destOf : DType → Nat × Bool
  | .s32 => (32, false)
  | .z32 => (32, true)
  | .s64 => (64, false)
  | .z64 => (64, true)
  | .s16 => (16, false)
  | .z16 => (16, true)
  | .s8 => (8, false)
  | .z8 => (8, true)

/-- A pattern converted to an integer type (R139): 0 of a NaN, the type's bounds beyond them, else the integer of the mode. -/
def ToInteger (f : FFmt) (dt : DType) (rm : Round) (x : Nat) (o : ℤ × FpFlags) : Prop :=
  let lo : ℤ := if (destOf dt).2 then 0 else -2 ^ ((destOf dt).1 - 1)
  let hi : ℤ := if (destOf dt).2 then 2 ^ (destOf dt).1 - 1 else 2 ^ ((destOf dt).1 - 1) - 1
  (nan f x = true → o = (0, flagNV)) ∧ (infinite f x = true → o = (if negative f x then lo else hi, flagNV)) ∧
  (finite f x = true → ∃ n, Whole rm (value f x) n ∧
    o = if n < lo then (lo, flagNV) else if hi < n then (hi, flagNV) else (n, if (n : ℚ) = value f x then 0 else flagNX))

/-- The code values of QN4 in units of 1/256 (R74). -/
def codes : List ℤ := [-256, -176, -134, -101, -73, -47, -23, 0, 20, 41, 63, 87, 115, 150, 197, 256]

/-- The code of a value under a block scale (R140). -/
def Quantises (rm : CvtRound) (u x sb : Nat) (o : Nat × FpFlags) : Prop :=
  let v := fun (k : Nat) => (codes.getD k 0 : ℚ) / 256 * value .f32 sb
  let good := finite .f32 sb = true ∧ negative .f32 sb = false ∧ zero .f32 sb = false
  (¬ good ∨ nan .f32 x = true → o = (7, flagNV)) ∧
  (good → infinite .f32 x = true → o = (if negative .f32 x then 0 else 15, flagOF ||| flagNX)) ∧
  (good → finite .f32 x = true → let y := value .f32 x
    (v 15 < y → o = (15, flagOF ||| flagNX)) ∧ (y < v 0 → o = (0, flagOF ||| flagNX)) ∧ (∀ k, k < 16 → y = v k → o = (k, 0)) ∧
    (∀ k, k < 15 → v k < y → y < v (k + 1) → o.2 = flagNX ∧ match rm with
      | .det .rne => let m := (v k + v (k + 1)) / 2
        (y < m → o.1 = k) ∧ (m < y → o.1 = k + 1) ∧ (y = m → o.1 % 2 = 0 ∧ (o.1 = k ∨ o.1 = k + 1))
      | .det .rz => o.1 = if k < 7 then k + 1 else k
      | .det .rd => o.1 = k
      | .det .ru => o.1 = k + 1
      | .sr => o.1 = if (u : ℤ) < ⌊(y - v k) / (v (k + 1) - v k) * 2 ^ 24⌋ then k + 1 else k))

/-- The FP32 value of a code under a block scale (R141). -/
def Dequantises (rm : Round) (k sb : Nat) (o : Nat × FpFlags) : Prop :=
  let n := decide (k < 7) != negative .f32 sb
  (nan .f32 sb = true → o = (quiet .f32, invalid .f32 [sb])) ∧
  (infinite .f32 sb = true → o = if k = 7 then (quiet .f32, flagNV) else (infinity .f32 n, 0)) ∧
  (finite .f32 sb = true → RoundsTo .f32 rm n ((codes.getD k 0 : ℚ) / 256 * value .f32 sb) o)

/-- The FP32 sum of two products of 16-bit elements and an addend, rounded once (R147, R130). -/
def DotOf (f : FFmt) (a b : List Nat) (c : Nat) (o : Nat × FpFlags) : Prop :=
  let at_ := fun (l : List Nat) (e : Nat) => l.getD e 0
  let never := fun (e : Nat) => infinite f (at_ a e) = true ∧ zero f (at_ b e) = true ∨ zero f (at_ a e) = true ∧ infinite f (at_ b e) = true
  let none_ := nan f (at_ a 0) = false ∧ nan f (at_ b 0) = false ∧ nan f (at_ a 1) = false ∧ nan f (at_ b 1) = false ∧ nan .f32 c = false
  let n := fun (e : Nat) => negative f (at_ a e) != negative f (at_ b e)
  let endless := fun (s : Bool) => (∃ e, e < 2 ∧ n e = s ∧ (infinite f (at_ a e) = true ∨ infinite f (at_ b e) = true)) ∨
    infinite .f32 c = true ∧ negative .f32 c = s
  (never 0 ∨ never 1 → o = (quiet .f32, flagNV)) ∧
  (¬ never 0 → ¬ never 1 → none_ → (endless true → endless false → o = (quiet .f32, flagNV)) ∧
    (∀ s, endless s → ¬ endless (!s) → o = (infinity .f32 s, 0)) ∧
    (¬ endless true → ¬ endless false → RoundsTo .f32 .rne (n 0 && n 1 && negative .f32 c)
      (value f (at_ a 0) * value f (at_ b 0) + value f (at_ a 1) * value f (at_ b 1) + value .f32 c) o)) ∧
  (¬ none_ → o.1 = quiet .f32 ∧ (o.2 = 0 ∨ o.2 = flagNV) ∧
    ((at_ a 0 :: at_ b 0 :: at_ a 1 :: [at_ b 1]).any (snan f) = true ∨ snan .f32 c = true → o.2 = flagNV))

/-! ## Special functions -/

/-- The results that R143 lists for infinities, zeros and negative numbers; `none` where the function has a value. -/
def specialOf (op : Sfu) (x : Nat) : Option (Nat × FpFlags) :=
  let n := negative .f32 x
  let bad := some (quiet .f32, flagNV)
  if infinite .f32 x then
    match op with
    | .rcp => some (signed .f32 n 0, 0)
    | .rsq => if n then bad else some (0, 0)
    | .sqrt => if n then bad else some (infinity .f32 false, 0)
    | .exp2 => some (if n then 0 else infinity .f32 false, 0)
    | .log2 => if n then bad else some (infinity .f32 false, 0)
    | .sin => bad
    | .cos => bad
  else if zero .f32 x then
    match op with
    | .rcp => some (infinity .f32 n, flagDZ)
    | .rsq => some (infinity .f32 n, flagDZ)
    | .sqrt => some (signed .f32 n 0, 0)
    | .exp2 => some (0x3F800000, 0)
    | .log2 => some (infinity .f32 true, flagDZ)
    | .sin => some (signed .f32 n 0, 0)
    | .cos => some (0x3F800000, 0)
  else if n then
    match op with
    | .rsq => bad
    | .sqrt => bad
    | .log2 => bad
    | _ => none
  else none

/-! ## Cross-lane and chained values -/

/-- What lane `j` receives (R164 to R167, R178) of the values `v` that were collected from the lanes, of which `en` are enabled; `b` is
its own index or distance, `w` the width of its tile. -/
def Receives (op : XOp) (compat : Bool) (w : Nat) (en : Nat → Bool) (v : Nat → W32) (b j : Nat) (x : W32) : Prop :=
  let t := j / w * w
  let l := j % w
  let mine := fun (n : Nat) => t ≤ n ∧ n < t + w ∧ en n = true
  match op with
  | .pickAt => x = v (t + b % w)
  | .pickBack => x = if compat then (if b ≤ l then v (t + (l - b)) else v j) else v (t + (((l : ℤ) - b) % w).toNat)
  | .pickFwd => x = if compat then (if l + b < 16 then v (t + (l + b)) else v j) else v (t + (l + b) % w)
  | .pickXor => x = if compat then (if l ^^^ b < 16 then v (t + (l ^^^ b)) else v j) else v (t + (l ^^^ b) % w)
  | .pollAny _ => x = 1 ∧ (∃ n, mine n ∧ v n ≠ 0) ∨ x = 0 ∧ ∀ n, mine n → v n = 0
  | .pollAll _ => x = 1 ∧ (∀ n, mine n → v n ≠ 0) ∨ x = 0 ∧ ∃ n, mine n ∧ v n = 0
  | .pollMap _ => ∀ k, k < 32 → (x.getLsbD k = true ↔ if compat then k < 16 ∧ en (t + k) = true ∧ v (t + k) ≠ 0 else mine k ∧ v k ≠ 0)
  | .redAdd => x = BitVec.ofNat 32 ((List.range w).map fun i => if en (t + i) then (v (t + i)).toNat else 0).sum
  | .redMin uns => (∃ n, mine n ∧ x = v n) ∧ ∀ n, mine n → low 32 uns (word x) ≤ low 32 uns (word (v n))
  | .redMax uns => (∃ n, mine n ∧ x = v n) ∧ ∀ n, mine n → low 32 uns (word (v n)) ≤ low 32 uns (word x)
  | .first idx => ∃ n, mine n ∧ (∀ m, mine m → n ≤ m) ∧ x = if idx then BitVec.ofNat 32 (if compat then n % 16 else n) else v n

/-- The value of a chained step of the operands `a` and `b` over the link `p`, with its flags (R169, R170). -/
def StepValue (op : ChainOp) (a b p : W64) (v : AluOut) : Prop :=
  let lo := fun (x : W64) => (x.truncate 32 : W32)
  let n := fun (x : W64) => x.toNat % 2 ^ 32
  let by_ := fun (R : Nat × FpFlags → Prop) => ∃ o, v = { val := BitVec.ofNat 64 o.1, flags := o.2 } ∧ R o
  match op with
  | .addS32 => v = { val := word (lo a + lo p) }
  | .addS64 => v = { val := a + p }
  | .addF32 => by_ (Sum .f32 .rne (n a) (n p))
  | .addF64 => by_ (Sum .f64 .rne a.toNat p.toNat)
  | .minS32 => v = { val := word (BitVec.ofInt 32 (min (low 32 false a) (low 32 false p))) }
  | .maxS32 => v = { val := word (BitVec.ofInt 32 (max (low 32 false a) (low 32 false p))) }
  | .minF32 => by_ (Lesser .f32 false (n a) (n p))
  | .maxF32 => by_ (Lesser .f32 true (n a) (n p))
  | .mulF32 => by_ (Product .f32 .rne (n a) (n p))
  | .fmaF32 => by_ (Fused .f32 .rne (n a) (n p) (n b))
  | .fmaF64 => by_ (Fused .f64 .rne a.toNat p.toNat b.toNat)
  | .xorB32 => v = { val := word (lo a ^^^ lo p) }
  | .passB64 => v = { val := lo a ++ lo (p >>> 32) }

/-! ## An access at its memory cycle -/

/-- The n bytes of a store from a key on, as a number, the low byte at the lowest address (R179). -/
def Little (s : State) (st : Store) (key n v : Nat) : Prop := v < 2 ^ (8 * n) ∧ ∀ i, i < n → v / 2 ^ (8 * i) % 2 ^ 8 = (s.mem.byte st (key + i)).toNat

/-- The value reaches the destination of an access at its due cycle, and the access is applied now. -/
def Delivers (s s' : State) (c : Nat) (a : Access) (v : Nat) (flags : FpFlags) : Prop :=
  (∃ z, (core s' c).results = (core s c).results ++ [z] ∧ z.ready = a.due ∧ z.owner = a.owner ∧ z.cr = a.cr ∧ z.flags = flags ∧
    z.writes = dstWrites a.dst a.lane (BitVec.ofNat 64 v)) ∧ ∃ y ∈ (core s' c).accs, y.id = a.id

/-- An access to die or fabric space that nothing holds back at its home: its marks are met, its page is there and open to it. It belongs
to a free launch on a die that neither records nor replays. -/
structure Unheld (s : State) (c aid : Nat) (a : Access) (b : Block) (l : Leaf) (use : AccessUse) : Prop where
  acc : (core s c).accs.find? (fun a => decide (a.id = aid)) = some a
  block : block s c a.owner = some b
  open_ : a.done = none ∧ (a.space = .die ∨ a.space = .fab) ∧ a.cross = false ∧ a.late = false ∧ a.xl = .ok l
  marks : ∀ m ∈ a.marks, markMet (enter s) c (vcc s c) m = true ∧ markStaged (enter s) c a.owner m = false
  page : l.refuses use a.pv false = false ∧ l.host = false
  plain : b.hdr.timed = false ∧ b.hdr.determ = false ∧ b.staged = [] ∧ (die s (dieOf c)).recMode = 0 ∧ (core s c).watches = [] ∧ a.size ≤ 8

/-- The new value of a read-modify-write on n bits (R198, R201). -/
def newValue (op : RmwOp) (n old v new : Nat) : Nat :=
  let le := fun (u : Bool) => low n u (BitVec.ofNat 64 old) ≤ low n u (BitVec.ofNat 64 v)
  match op with
  | .add => (old + v) % 2 ^ n
  | .min u => if le u then old else v
  | .max u => if le u then v else old
  | .and => old &&& v
  | .or => old ||| v
  | .xor => old ^^^ v
  | .exch => v
  | .cas => if old = v then new else old

/-- The new value of a tile atomic on an element of a format, with its flags (R198). -/
def TileValue (op : RmwOp) (fmt old v new : Nat) (o : Nat × FpFlags) : Prop :=
  match op with
  | .add => if fmt = 4 then Sum .f32 .rne old v o else o = (newValue .add 32 old v new, 0)
  | .min _ => if fmt = 4 then Lesser .f32 false old v o else o = (newValue (.min (decide (fmt = 1))) 32 old v new, 0)
  | .max _ => if fmt = 4 then Lesser .f32 true old v o else o = (newValue (.max (decide (fmt = 1))) 32 old v new, 0)
  | op => o = (newValue op 32 old v new, 0)

/-! ## Issues that move a course on -/

/-- An issue after which the issuing course is `k`, its results `rs` are pending and the instructions in flight are `fs`. Every
other course, every block, every access and every other part of the core is as it was. -/
structure MovesWith (s s' : State) (t : Site) (k : Course) (rs : List Result) (fs : List Flight) : Prop where
  issued : Issued s s' t
  own : course s' t.i.core t.i.owner t.i.cr = some k
  others : ∀ o r, 32 * o + r ≠ 32 * t.i.owner + t.i.cr → course s' t.i.core o r = course s t.i.core o r
  blocks : (core s' t.i.core).blocks = (core s t.i.core).blocks
  tiles : (core s' t.i.core).tiles = (core s t.i.core).tiles
  tags : (core s' t.i.core).tags = (core s t.i.core).tags
  cmds : (core s' t.i.core).cmds = (core s t.i.core).cmds
  arms : (core s' t.i.core).arms = (core s t.i.core).arms
  watches : (core s' t.i.core).watches = (core s t.i.core).watches
  trap : (core s' t.i.core).trap = (core s t.i.core).trap
  flights : (core s' t.i.core).flights = fs
  accs : (core s' t.i.core).accs = (core s t.i.core).accs
  results : (core s' t.i.core).results = (core s t.i.core).results ++ rs

/-- The same, with no instruction in flight changed. -/
def Moves (s s' : State) (t : Site) (k : Course) (rs : List Result) : Prop := MovesWith s s' t k rs (core s t.i.core).flights

/-- A chained sweep of the issuing course after its lanes went: those that its path has no longer are out of it (R155, R171). -/
def leftBehind (t : Site) (k : Course) (f : Flight) : Flight :=
  if f.stride = 4 ∧ f.owner = t.i.owner ∧ f.cr = t.i.cr then { f with mask := f.mask &&& pathLanes k f } else f

/-- The same, where lanes may leave their path: the sweeps of the course lose the lanes that left theirs. -/
def Leaves (s s' : State) (t : Site) (k : Course) (rs : List Result) : Prop :=
  MovesWith s s' t k rs ((core s t.i.core).flights.map (leftBehind t k))

/-- An issue that faults in execution (R115, R324, R325): the slot has passed and counted, nothing was written; the record joins
the queue and the sash stands still. Of the core only its courses, strings and profiles, the fault queue and the count of issues
differ, and of the courses only the issuing one; every other core, die, module and sash stands. Where the instruction `posts`,
as a `tsend` without effect sends a cancel (R53), messages may be on their way. -/
structure FaultsOnce (posts : Prop) (s s' : State) (t : Site) (code sub src : Nat) (info : W64) : Prop where
  bytes : SameBytes s s'
  port : s'.mach.cur = none
  own : course s' t.i.core t.i.owner t.i.cr = some (issuedCourse t)
  others : ∀ o r, 32 * o + r ≠ 32 * t.i.owner + t.i.cr → course s' t.i.core o r = course s t.i.core o r
  kept : FaultKept (core s t.i.core) { core s' t.i.core with msgs := (core s t.i.core).msgs, nextId := (core s t.i.core).nextId }
  seq : (core s' t.i.core).seq = (core s t.i.core).seq + 1
  cores : ∀ c, c ≠ t.i.core → core s' c = { core s c with msgs := (core s' c).msgs, nextId := (core s' c).nextId }
  msgs : ¬ posts → ∀ c, (core s' c).msgs = (core s c).msgs ∧ (core s' c).nextId = (core s c).nextId
  mach : s'.mach = { s.mach with cur := none, cores := s'.mach.cores, sashes := s'.mach.sashes, freeCtr := s'.mach.freeCtr }
  sashes : ∀ i, (core s t.i.core).sash ≠ some i → sash s' i = sash s i
  record : ∃ f, Recorded s s' t.i.core f ∧ f.code = code ∧ f.sub = sub ∧ f.src = src ∧ f.info = info
    ∧ f.owner = t.i.owner ∧ f.cr = t.i.cr ∧ f.path = t.i.slot ∧ f.pc = pcWord t.i.pc ∧ f.word = t.i.word
    ∧ (∀ j, j < 32 → f.mask.getLsbD j = if src = 0 then on t j else t.p.mask.getLsbD j) ∧ f.bk = t.b.bind.bk ∧ f.lid = t.b.bind.lid

/-- The same of an instruction that sends no message. -/
abbrev OnceFaults := FaultsOnce False

/-- The issuing course after its enabled lanes went to `x` and the others to the next slot (R151). -/
def went (t : Site) (x : Nat → Nat) : Course :=
  (issuedCourse t).transfer t.i.slot t.i.cyc fun j => if on t j then x j else t.i.pc + 1

/-- The PC that a lane's pair, or the uniform pair, supplies to `brx` and `ret` (R151). -/
def supplied (t : Site) (a : Reg) (uni : Bool) (j : Nat) : W64 :=
  t.k.src j (if uni then .uniPair a.toNat else .pair (t.k.wb + a.toNat))

/-- A word of the lane pair is poisoned (R332). -/
def pairPoisoned (t : Site) (a : Reg) (uni : Bool) (j : Nat) : Bool :=
  !uni && srcPoisoned t.k j (.pair (t.k.wb + a.toNat))

/-- A value of one or two words as it is written to uniform registers (R59). -/
def uniPairWrites (n : Nat) (v : W64) : List Write := [.uni n (v.truncate 32), .uni (n + 1) ((v >>> 32).truncate 32)]

/-- Lanes of a path that go where lane `l` goes, and how many they are. -/
def together (p : Path) (f : Nat → Nat) (l j : Nat) : Bool := p.mask.getLsbD j && decide (f j = f l)
def howMany (p : Path) (f : Nat → Nat) (l : Nat) : Nat := ((List.range 32).filter (together p f l)).length

/-- A special register as an enabled lane reads it at the issue (R106, R161, R178). -/
def special (s : State) (t : Site) (n lane : Nat) : W64 :=
  let w32 := fun (v : Nat) => BitVec.ofNat 64 (v % 2 ^ 32)
  match n with
  | 0x00 => w32 (if t.b.hdr.compat then lane % 16 else lane)
  | 0x01 => w32 (if t.b.hdr.compat then 2 * t.k.cr + lane / 16 else t.k.cr)
  | 0x02 => t.b.bind.bk.zeroExtend 64
  | 0x03 => (((core s t.i.core).sash.bind (sash s)).map fun x => x.num.zeroExtend 64).getD 0
  | 0x04 => BitVec.ofNat 64 (vcc s t.i.core)
  | 0x05 => BitVec.ofNat 64 (module s (modOf t.i.core)).gcc
  | 0x06 => w32 t.k.part
  | 0x07 => w32 t.k.wb
  | 0x08 => blockTags (core s t.i.core) t.b
  | 0x09 => t.k.dii
  | 0x0A => t.k.seed
  | 0x0B => if t.k.cr = 0 then t.b.bseed else match course s t.i.core t.b.bind.owner (t.k.cr - 1) with
    | some k => k.bro
    | none => (t.b.bros.find (t.k.cr - 1)).getD 0
  | 0x0C => t.k.bro
  | 0x0D => t.b.bseed
  | 0x0E => w32 (t.b.hdr.fid * 16 + (((die s (dieOf t.i.core)).quads.find (quadOf t.i.core)).getD {}).level)
  | 0x0F => t.b.mxe1.zeroExtend 64
  | 0x10 => t.b.mxe0.zeroExtend 64
  | 0x11 => t.k.fpst.zeroExtend 64
  | 0x12 => t.k.tpc
  | _ => t.k.tcause.zeroExtend 64

/-- `%tcause` of a trap (R177). -/
def causeWord (kind : Nat) (code : BitVec 10) (slot : Nat) : W32 :=
  BitVec.ofNat 32 (kind * 2 ^ 28 + code.toNat * 2 ^ 16 + slot % 2 ^ 5)

/-- The issuing course in its handler (R110, R173, R174): the path at the handler's first slot, its return index in `%tpc`,
every other path held. -/
def handled (t : Site) (kind : Nat) (code : BitVec 10) : Course :=
  ({ issuedCourse t with
      tpc := pcWord (t.i.pc + 1)
      tcause := causeWord kind code t.i.slot
      handler := some (((issuedCourse t).paths.map fun x => x.2.id).filter (· ≠ t.p.id)) } : Course).setPath t.i.slot
    { passed t with pc := 3 * ((t.b.bind.hdr + t.b.hdr.entry) / 16 + t.b.hdr.hoff) }

/-- The trap record of the core after one more trap (R326): its count saturates. -/
def trapNoted (old new : TrapRec) (kind : Nat) (code : BitVec 10) (t : Site) : Prop :=
  new.cause = causeWord kind code t.i.slot ∧ new.pc = pcWord t.i.pc ∧ new.count.toNat = min (old.count.toNat + 1) 0xFFFFFFFF

/-! ## Tokens and handles -/

/-- Every lane that still holds a token has parked at it, or comes with the path (R157). -/
abbrev allArrived (t : Site) (x : Token) : Prop := ∀ j, j < 32 → x.hold.getLsbD j = true → x.parked.getLsbD j = true ∨ t.p.mask.getLsbD j = true

/-- The level takes the format (R193): TS any, ACC f32, f64 and s32, TRN qn4, e4m3, e5m2, f16 and bf16. -/
abbrev formatAt (lv fmt : Nat) : Prop :=
  lv = 0 ∨ lv = 1 ∧ (fmt = 0 ∨ fmt = 4 ∨ fmt = 5) ∨ lv = 2 ∧ (fmt = 6 ∨ fmt = 7 ∨ fmt = 8 ∨ fmt = 9 ∨ fmt = 14)

/-- The scale rules of R76, R78 and R193: QN4 has a scale handle of z8 elements, FP8 may have one of E8M0, and no other format
has one; the handle is VALID, of level TS, and of the tile's shape. -/
abbrev scaleRules (s : State) (t : Site) (d : Desc) : Prop :=
  let x := descOf (core s t.i.core) t.b d.scale
  let n := if d.sblk then 32 else 16
  (d.fmt = 14 → d.scv = true) ∧
  (d.scv = true → d.scale < t.b.hdr.handles ∧ x.valid = true ∧ x.level = 0 ∧
    (d.fmt = 14 ∧ x.fmt = 13 ∧ x.rows = (d.rows + 127) / 128 * ((d.cols + 127) / 128) ∧ x.cols = 260 ∨
     (d.fmt = 8 ∨ d.fmt = 9) ∧ x.fmt = 15 ∧ x.rows = (d.rows + n - 1) / n ∧ x.cols = (d.cols + n - 1) / n))

/-- The conditions of R193 but for the free run. -/
abbrev mayAlloc (s : State) (t : Site) (h : Nat) (d : Desc) : Prop :=
  (descOf (core s t.i.core) t.b h).valid = false ∧ 1 ≤ d.rows ∧ d.rows ≤ 65535 ∧ 1 ≤ d.cols ∧ d.cols ≤ 65535 ∧ formatAt d.level d.fmt ∧
  (d.level = 2 → d.cols ≤ 128 ∧ d.rows * fmtBits d.fmt ≤ 262144) ∧ (d.fmt = 14 → d.rows % 8 = 0 ∧ d.cols % 8 = 0) ∧ scaleRules s t d

/-- A free run of the handle's size starts at unit `u` of the block's area: no VALID handle of the level lies in it. -/
abbrev freeRun (s : State) (t : Site) (d : Desc) (u : Nat) : Prop :=
  (areaOf t.b d.level).1 ≤ u ∧ u + d.area / 256 ≤ (areaOf t.b d.level).1 + (areaOf t.b d.level).2 ∧
  ∀ x ∈ validHandles (core s t.i.core) t.b, x.2.level = d.level → u + d.area / 256 ≤ x.2.base ∨ x.2.base + x.2.area / 256 ≤ u

/-- An issue after which the tile table is `tiles` and the results `rs` are pending; the rest as `OnlyPassed` says. -/
structure Tables (s s' : State) (t : Site) (tiles : Tab Desc) (rs : List Result) : Prop where
  issued : Issued s s' t
  own : course s' t.i.core t.i.owner t.i.cr = some (issuedCourse t)
  others : ∀ o r, 32 * o + r ≠ 32 * t.i.owner + t.i.cr → course s' t.i.core o r = course s t.i.core o r
  blocks : (core s' t.i.core).blocks = (core s t.i.core).blocks
  tiles : (core s' t.i.core).tiles = tiles
  tags : (core s' t.i.core).tags = (core s t.i.core).tags
  cmds : (core s' t.i.core).cmds = (core s t.i.core).cmds
  flights : (core s' t.i.core).flights = (core s t.i.core).flights
  accs : (core s' t.i.core).accs = (core s t.i.core).accs
  results : (core s' t.i.core).results = (core s t.i.core).results ++ rs

/-! ## Memory forms -/

/-- Bytes of an access size. -/
def bytes : Size → Nat
  | .b8 => 1
  | .b16 => 2
  | .b32 => 4
  | .b64 => 8

/-- A load, a store and an atomic with its ORD bit, and a tile access. -/
def loadForm (sp : Space) (d : Reg) (a : Src) (off : BitVec 7) (ord : Bool) (sz : Size) : Form :=
  { op := .load sp sz (off.toInt * bytes sz), dst := laneDst (decide (sz = .b64)) d, a := a, acq := ord }
def storeForm (sp : Space) (d : Reg) (a : Src) (off : BitVec 7) (ord : Bool) (sz : Size) : Form :=
  { op := .store sp sz (off.toInt * bytes sz), a := a, b := laneSrc (decide (sz = .b64)) d, rel := ord }
def rmwForm (sp : Space) (op : RmwOp) (d a b : Reg) (w64 ord : Bool) : Form :=
  { op := .rmw sp op w64, dst := laneDst w64 d, a := .pair a.toNat, b := laneSrc w64 b,
    c := if op = .cas then cSrc false w64 b else .none, acq := ord, rel := ord }
def tileAtomForm (op : RmwOp) (c : Src) (d : Reg) (h : BitVec 8) (b : Reg) : Form :=
  { op := .tatom op h.toNat, dst := .reg d.toNat, a := .reg b.toNat, b := .reg (b.toNat + 1), c := c }

/-- The memory instructions that access a memory of the machine: the scope of their ORD and their form (R182 to R202). -/
def memForm : Instr → Option (Scope × Form)
  | .ldLn d a off ord sz => some (.crs, loadForm .lane d (.reg a.toNat) off ord sz)
  | .stLn d a off ord sz => some (.crs, storeForm .lane d (.reg a.toNat) off ord sz)
  | .ldDie d a off ord sz => some (.die, loadForm .die d (.pair a.toNat) off ord sz)
  | .stDie d a off ord sz => some (.die, storeForm .die d (.pair a.toNat) off ord sz)
  | .ldFab d a off ord sz => some (.grp, loadForm .fab d (.pair a.toNat) off ord sz)
  | .stFab d a off ord sz => some (.grp, storeForm .fab d (.pair a.toNat) off ord sz)
  | .stMc d a mask ord sz => some (.mod, { op := .mcast mask sz, a := .pair a.toNat, b := laneSrc (decide (sz = .b64)) d, rel := ord })
  | .ldTs d h b w => some (.die, { op := .tile true .ts h.toNat w, dst := laneDst (decide (w = .b64)) d, a := .reg b.toNat, b := .reg (b.toNat + 1) })
  | .stTs d h b w => some (.die, { op := .tile false .ts h.toNat w, a := .reg b.toNat, b := .reg (b.toNat + 1), c := laneSrc (decide (w = .b64)) d })
  | .ldAcc d h b w => some (.die, { op := .tile true .acc h.toNat w, dst := laneDst (decide (w = .b64)) d, a := .reg b.toNat })
  | .stAcc d h b w => some (.die, { op := .tile false .acc h.toNat w, a := .reg b.toNat, c := laneSrc (decide (w = .b64)) d })
  | .atomAdd d a b w64 ord => some (.die, rmwForm .die .add d a b w64 ord)
  | .atomMin d a b w64 uns ord => some (.die, rmwForm .die (.min uns) d a b w64 ord)
  | .atomMax d a b w64 uns ord => some (.die, rmwForm .die (.max uns) d a b w64 ord)
  | .atomAnd d a b w64 ord => some (.die, rmwForm .die .and d a b w64 ord)
  | .atomOr d a b w64 ord => some (.die, rmwForm .die .or d a b w64 ord)
  | .atomXor d a b w64 ord => some (.die, rmwForm .die .xor d a b w64 ord)
  | .atomExch d a b w64 ord => some (.die, rmwForm .die .exch d a b w64 ord)
  | .atomCas d a b w64 ord => some (.die, rmwForm .die .cas d a b w64 ord)
  | .fatomAdd d a b w64 ord => some (.grp, rmwForm .fab .add d a b w64 ord)
  | .fatomMin d a b w64 uns ord => some (.grp, rmwForm .fab (.min uns) d a b w64 ord)
  | .fatomMax d a b w64 uns ord => some (.grp, rmwForm .fab (.max uns) d a b w64 ord)
  | .fatomAnd d a b w64 ord => some (.grp, rmwForm .fab .and d a b w64 ord)
  | .fatomOr d a b w64 ord => some (.grp, rmwForm .fab .or d a b w64 ord)
  | .fatomXor d a b w64 ord => some (.grp, rmwForm .fab .xor d a b w64 ord)
  | .fatomExch d a b w64 ord => some (.grp, rmwForm .fab .exch d a b w64 ord)
  | .fatomCas d a b w64 ord => some (.grp, rmwForm .fab .cas d a b w64 ord)
  | .tatomAdd d h b => some (.die, tileAtomForm .add (.reg d.toNat) d h b)
  | .tatomMin d h b => some (.die, tileAtomForm (.min false) (.reg d.toNat) d h b)
  | .tatomMax d h b => some (.die, tileAtomForm (.max false) (.reg d.toNat) d h b)
  | .tatomExch d h b => some (.die, tileAtomForm .exch (.reg d.toNat) d h b)
  | .tatomCas d h b => some (.die, tileAtomForm .cas (.pair d.toNat) d h b)
  | _ => none

/-- The marks of a path that still hold something back. -/
def holding (s : State) (t : Site) : List Mark := t.p.marks.filter fun m => !markMet (enter s) t.i.core (vcc s t.i.core) m

/-! ## Events -/

/-- Every table but that of the modules, every byte and every free value stands; so does every module but `m`, which is `x`. -/
def OnlyModule (s s' : State) (m : Nat) (x : Module) : Prop :=
  s'.mem = s.mem ∧ s'.mach = { s.mach with mods := s'.mach.mods, freeCtr := s'.mach.freeCtr } ∧ module s' m = x ∧
  ∀ n, n ≠ m → module s' n = module s n

/-- The same for a die, and for a sash. -/
def OnlyDie (s s' : State) (d : Nat) (x : Die) : Prop :=
  s'.mem = s.mem ∧ s'.mach = { s.mach with dies := s'.mach.dies, freeCtr := s'.mach.freeCtr } ∧ die s' d = x ∧ ∀ n, n ≠ d → die s' n = die s n
def OnlySash (s s' : State) (i : Nat) (x : Sash) : Prop :=
  s'.mem = s.mem ∧ s'.mach = { s.mach with sashes := s'.mach.sashes } ∧ sash s' i = some x ∧ ∀ n, n ≠ i → sash s' n = sash s n

/-! ## Issues that hand something over -/

/-- An issue after which the issuing course is `k`, its block is `b` and its results `rs` are pending; every other course and
block, every access and instruction in flight, and every other part of the core is as it was. -/
structure Hands (s s' : State) (t : Site) (k : Course) (b : Block) (rs : List Result) : Prop where
  issued : Issued s s' t
  own : course s' t.i.core t.i.owner t.i.cr = some k
  others : ∀ o r, 32 * o + r ≠ 32 * t.i.owner + t.i.cr → course s' t.i.core o r = course s t.i.core o r
  block : block s' t.i.core t.i.owner = some b
  blocks : ∀ o, o ≠ t.i.owner → Say.block s' t.i.core o = Say.block s t.i.core o
  tiles : (core s' t.i.core).tiles = (core s t.i.core).tiles
  tags : (core s' t.i.core).tags = (core s t.i.core).tags
  cmds : (core s' t.i.core).cmds = (core s t.i.core).cmds
  arms : (core s' t.i.core).arms = (core s t.i.core).arms
  flights : (core s' t.i.core).flights = (core s t.i.core).flights
  accs : (core s' t.i.core).accs = (core s t.i.core).accs
  results : (core s' t.i.core).results = (core s t.i.core).results ++ rs

/-- A phaser after a change: a phase completes as soon as a course signals, every signalling course has arrived and the
balance is zero (R209). -/
def phased (x : Phaser) : Phaser :=
  if x.sig ≠ 0 ∧ x.sig &&& ~~~x.arr = 0 ∧ x.bal = 0 then { x with phase := x.phase + 1, arr := 0 } else x

/-- A block with phaser `n` changed to `x`. -/
def withPhaser (b : Block) (n : Nat) (x : Phaser) : Block := { b with phasers := b.phasers.put n (phased x) }

/-- A phaser of the issuing block. -/
def phaser (t : Site) (n : Nat) : Phaser := (t.b.phasers.find n).getD {}

/-- The release that a path holds back until its earlier accesses are performed at `.blk` (R244). -/
def heldBack (t : Site) (key : Bool) (n : Nat) : Pend :=
  { key := key, ph := n, cr := t.i.cr, mark := .performed t.seq .blk t.ids, anc := t.ids }

/-- A release takes place at the issue: in a timed launch, or where the path's earlier accesses are performed (R244). -/
def atOnce (s : State) (t : Site) : Prop :=
  t.b.hdr.timed = true ∨ markMet (enter s) t.i.core t.i.cyc (.performed t.seq .blk t.ids) = true

/-- The issuing course as it waits (R33). -/
def waiting (t : Site) (x : Wait) : Course := (issuedCourse t).setPath t.i.slot { passed t with st := .waiting x }

/-- What an instruction waits for, at an issue at which it must wait: the operand and state conditions of its rule. -/
def mustWait (s : State) (t : Site) : Instr → Option Wait
  | .twany a => if t.k.uniPair a.toNat ≠ 0 ∧ t.k.uniPair a.toNat &&& blockTags (core s t.i.core) t.b = 0 ∧ (t.k.uniPair a.toNat).toNat / 2 ^ t.b.hdr.tags = 0
      then some (.tagAny (t.k.uniPair a.toNat)) else none
  | .twall a => if t.k.uniPair a.toNat &&& ~~~blockTags (core s t.i.core) t.b ≠ 0 ∧ (t.k.uniPair a.toNat).toNat / 2 ^ t.b.hdr.tags = 0
      then some (.tagAll (t.k.uniPair a.toNat)) else none
  | .twfirst d a => if t.k.uniPair a.toNat ≠ 0 ∧ t.k.uniPair a.toNat &&& blockTags (core s t.i.core) t.b = 0 ∧ (t.k.uniPair a.toNat).toNat / 2 ^ t.b.hdr.tags = 0
      then some (.tagFirst d.toNat (t.k.uniPair a.toNat)) else none
  | .monWait p b => if t.k.uni b.toNat ≠ 0 ∧ monHit (enter s) t.i.core t.i.owner t.i.cr = false
      then some (.mon p (t.i.cyc + (t.k.uni b.toNat).toNat)) else none
  | .keyTake => if t.b.key ≠ t.i.cr then some .key else none
  | .rbClaim c => if t.k.allot + 32 * c.toNat ≤ 512 ∧ (t.b.pools.find t.k.str).getD 0 < 32 * c.toNat then some (.claim (32 * c.toNat)) else none
  | .phArrive n => if n.toNat < t.b.hdr.phasers ∧ (phaser t n.toNat).sig.getLsbD t.i.cr = true ∧
      ((phaser t n.toNat).arr.getLsbD t.i.cr = true ∨ ∃ p ∈ t.b.pends, p.key = false ∧ p.ph = n.toNat ∧ p.cr = t.i.cr)
      then some (.phArrive n.toNat) else none
  | .phWait n => if n.toNat < t.b.hdr.phasers ∧ (phaser t n.toNat).wait.getLsbD t.i.cr = true ∧
      (phaser t n.toNat).phase.toNat ≤ (((phaser t n.toNat).wph.find t.i.cr).getD 0).toNat then some (.phWait n.toNat) else none
  | _ => none

/-! ## Engine commands -/

/-- The engine commands (R214): operation and the registers of the descriptor, the address and the pitch. -/
def engineForm : Instr → Option (CmdOp × Reg × Reg × Reg)
  | .cpFill d a b => some (.fill, d, a, b)
  | .cpDrain d a b => some (.drain, d, a, b)
  | .cpTt d a b => some (.tt, d, a, b)
  | .cpHost d a b h => some (.host h, d, a, b)
  | .cpFab d a b h => some (.fab h, d, a, b)
  | .cpGth d a b f => some (.gth f, d, a, b)
  | .cpTrn d a b f => some (.trn f, d, a, b)
  | .cpAcc d a b rm => some (.acc rm, d, a, b)
  | .mx d a b p => some (.mx p, d, a, b)
  | .launch d a b => some (.launch, d, a, b)
  | .tsend d a b => some (.tsend, d, a, b)
  | .tland d a b => some (.tland, d, a, b)
  | _ => none

/-- The command that the eight descriptor words of an issue make (R212, R213). -/
def command (s : State) (t : Site) (op : CmdOp) (d a b : Reg) : Cmd := cmdOf t op d a b (core s t.i.core).nextId

/-- The first of the descriptor's faults, in the order of R216: code, subcode and INFO. -/
def refusal (s : State) (t : Site) (op : CmdOp) (d a b : Reg) : Option (Nat × Nat × W64) :=
  let c := command s t op d a b
  if cmdUndef (core s t.i.core) t.b c (Machine.field (t.k.uni d.toNat).toNat 22 20) then some (0x01, 4, 0)
  else cmdFault (enter s) t c ((groupCore s.mach c.addr).getD (2 ^ 40 + c.addr % 2 ^ 32)) (t.k.uni (d.toNat + 1)).toNat

/-- The fields of a command as the bits of its eight descriptor words (R212, R213). -/
def Describes (t : Site) (d a b : Reg) (c : Cmd) : Prop :=
  let w := fun (r : Reg) (n : Nat) => (t.k.uni (r.toNat + n)).toNat
  let bit := fun (n i : Nat) => decide (w d n / 2 ^ i % 2 = 1)
  let bits := fun (n lo k : Nat) => w d n / 2 ^ lo % 2 ^ k
  c.tag = bits 0 26 6 ∧ c.tgv = bit 0 25 ∧ c.acq = (bit 0 24 && !t.b.hdr.timed) ∧ c.rel = (bit 0 23 && !t.b.hdr.timed) ∧ c.xp = bits 0 18 2 ∧
  c.phv = bit 0 17 ∧ c.ph = bits 0 13 4 ∧ c.in0 = bits 0 7 6 ∧ c.in0v = bit 0 6 ∧ c.w1 = w d 1 ∧ c.mxv = bit 2 31 ∧ c.mxp = bits 2 28 3 ∧
  c.fv = bit 2 27 ∧ c.fid = bits 2 25 2 ∧ c.side = bit 2 24 ∧ c.hz = bits 2 16 8 ∧ c.hy = bits 2 8 8 ∧ c.hx = bits 2 0 8 ∧
  c.nrows = bits 3 16 16 ∧ c.row0 = bits 3 0 16 ∧ c.addr = w a 0 + 2 ^ 32 * w a 1 ∧ c.w6 = w b 0 ∧ c.w7 = w b 1

/-- A value of the descriptor that is not listed, or that the command forbids (R213, R214, R228). -/
def unlisted (k : Core) (b : Block) (c : Cmd) (scope : Nat) : Prop :=
  let x := descOf k b c.hx
  let follows := c.op = .fill ∨ c.op = .fab false ∨ c.op = .trn false
  match c.op with
  | .launch => c.tgv = false
  | .tsend => 4 < scope ∨ c.xp ≠ 0 ∨ c.mxv = true ∨ c.phv = true
  | .tland => 4 < scope ∨ c.xp ≠ 0 ∨ c.mxv = true
  | .mx _ => 4 < scope ∨ c.xp ≠ 0 ∨ c.mxv = true ∨ c.tgv = false
  | .gth _ => 4 < scope ∨ c.xp ≠ 0 ∨ c.mxv = true ∨ c.tgv = false
  | .acc rm => 4 < scope ∨ c.xp ≠ 0 ∨ c.mxv = true ∨ c.tgv = false ∨ c.hx < b.hdr.handles ∧ x.valid = true ∧ x.fmt = 4 ∧ rm ≠ .det .rne
  | _ => 4 < scope ∨ c.xp = 3 ∨ c.mxv = true ∧ (¬ follows ∨ 5 < c.mxp) ∨ c.tgv = false

/-- The handles that a command names, with the levels that its row of R214 allows: TS 0, ACC 1, TRN 2. The follow-on's are checked for
their level at the follow-on cycle (R229). -/
def named (c : Cmd) : List (Nat × List Nat) :=
  let follow := if c.mxv then [(c.hy, [0, 1, 2]), (c.hz, [0, 1, 2])] else []
  match c.op with
  | .tt => [(c.hx, [0, 1]), (c.hy, [0, 1])]
  | .gth _ => [(c.hx, [0]), (c.hy, [0])]
  | .trn true => [(c.hx, [2]), (c.hy, [0])]
  | .trn false => (c.hx, [2]) :: follow
  | .acc _ => [(c.hx, [0]), (c.hy, [1])]
  | .mx .f64 => [(c.hx, [1]), (c.hy, [0]), (c.hz, [0])]
  | .mx .f32 => [(c.hx, [1]), (c.hy, [0]), (c.hz, [0])]
  | .mx _ => [(c.hx, [1]), (c.hy, [0]), (c.hz, [0, 2])]
  | .launch => []
  | _ => (c.hx, [0, 1]) :: follow

/-- A format or shape of handle `n` that the command's own rule refuses with HANDLE (R225 to R228, R230, R233); `sender` is the core that
DCORE names. -/
def misfit (k : Core) (b : Block) (c : Cmd) (sender n : Nat) : Prop :=
  let x := descOf k b c.hx
  let y := descOf k b c.hy
  let z := descOf k b c.hz
  let side := c.xp ≠ 0 ∧ (x.fmt = 14 ∨ fmtBits x.fmt ≠ 8 * c.xp)
  match c.op with
  | .tt => n = c.hx ∧ (x.fmt ≠ y.fmt ∨ c.xp = 0 ∧ x.cols ≠ y.cols ∨ c.xp ≠ 0 ∧ (x.rows ≠ y.cols ∨ x.cols ≠ y.rows ∨
      y.fmt = 14 ∧ c.xp ≠ 1 ∨ y.fmt ≠ 14 ∧ (fmtBits y.fmt ≠ 8 * c.xp ∨ x.scv ≠ y.scv ∨ y.scv = true ∧ x.sblk ≠ y.sblk)))
  | .gth _ => n = c.hy ∧ y.fmt ≠ 0 ∧ y.fmt ≠ 1
  | .trn true => n = c.hy ∧ (c.xp ≠ 0 ∨ x.fmt ≠ y.fmt ∨ x.rows ≠ y.rows ∨ x.cols ≠ y.cols)
  | .acc _ => n = c.hy ∧ y.fmt ≠ 4 ∨ n = c.hx ∧ y.fmt = 4 ∧ (x.rows ≠ y.rows ∨ x.cols ≠ y.cols ∨ x.scv = true ∨ x.fmt ∉ [4, 6, 7, 8, 9])
  | .mx p =>
    let f : List Nat × List Nat × Nat := match p with
      | .f64 => ([5], [5], 5)
      | .f32 => ([4], [4], 4)
      | .bf16 => ([7], [7], 4)
      | .f16 => ([6], [6], 4)
      | .fp8 => ([8, 9], [8, 9], 4)
      | .qn4 => ([7], [14], 4)
    n = c.hx ∧ x.fmt ≠ f.2.2 ∨ n = c.hy ∧ y.fmt ∉ f.1 ∨ n = c.hz ∧ z.fmt ∉ f.2.1
  | .tland => n = c.hx ∧ (x.land = true ∨ ∃ a ∈ k.arms, a.sender = sender ∧ a.hnum = c.hx ∧ a.stamp = c.w1)
  | .tsend => False
  | .launch => False
  | _ => n = c.hx ∧ side

/-- A row range, count, pitch or shape beyond what its rule allows (R220, R225, R226, R230, R232). -/
def beyond (k : Core) (b : Block) (c : Cmd) : Prop :=
  let x := descOf k b c.hx
  let y := descOf k b c.hy
  let z := descOf k b c.hz
  let past := fun (rows : Nat) => rows < c.row0 + (if c.nrows = 0 then rows - c.row0 else c.nrows)
  let span := if c.xp = 0 then past x.copyRows else c.row0 ≠ 0 ∨ c.nrows ≠ 0
  let pitch := c.w6 ≠ 0 ∧ c.w6 < if c.xp = 0 then x.rowBytes else x.rows * c.xp
  match c.op with
  | .tt => if c.xp = 0 then past y.copyRows ∨ x.copyRows < c.row0 + (if c.nrows = 0 then y.copyRows - c.row0 else c.nrows)
      else c.row0 ≠ 0 ∨ c.nrows ≠ 0
  | .acc _ => past y.copyRows
  | .trn true => past x.copyRows
  | .gth _ => c.w7 = 0 ∨ 65535 < c.w7 ∨ y.rows * y.cols < c.w7 ∨ x.copyRows < c.row0 + c.w7
  | .mx _ => y.cols ≠ z.rows ∨ 128 < z.cols ∨ x.rows ≠ y.rows ∨ x.cols ≠ z.cols
  | .tsend => 65536 < x.bytes
  | .tland => False
  | .launch => False
  | _ => span ∨ pitch

/-- An address, base, pitch or stride that is no multiple of the element (R220, R226): one byte for QN4. -/
def misplaced (k : Core) (b : Block) (c : Cmd) : Prop :=
  let e := max 1 (fmtBits (descOf k b c.hx).fmt / 8)
  match c.op with
  | .fill => c.addr % e ≠ 0 ∨ c.w6 % e ≠ 0
  | .drain => c.addr % e ≠ 0 ∨ c.w6 % e ≠ 0
  | .host _ => c.addr % e ≠ 0 ∨ c.w6 % e ≠ 0
  | .fab _ => c.addr % e ≠ 0 ∨ c.w6 % e ≠ 0
  | .trn false => c.addr % e ≠ 0 ∨ c.w6 % e ≠ 0
  | .gth _ => c.addr % e ≠ 0 ∨ c.w6 % e ≠ 0
  | _ => False

/-- The checks of R216 in their order, after the undefined values of R213: each with its code, subcode and INFO, given that none before
it holds. Which of several bad handles INFO names the rule leaves open. -/
def Refuses (s : State) (t : Site) (c : Cmd) (scope : Nat) (r : Nat × Nat × W64) : Prop :=
  let k := core s t.i.core
  let b := t.b
  let sender := (groupCore s.mach c.addr).getD (2 ^ 40 + c.addr % 2 ^ 32)
  let bad := fun (n : Nat) => (∃ h ∈ named c, h.1 = n ∧ (b.hdr.handles ≤ n ∨ (descOf k b n).valid = false ∨ (descOf k b n).level ∉ h.2)) ∨
    misfit k b c sender n
  let checks : List (Prop × (Nat × Nat × W64 → Prop)) := [
    (unlisted k b c scope, fun r => r = (0x01, 4, 0)),
    (c.tgv = true ∧ b.hdr.tags ≤ c.tag ∨ c.op ≠ .launch ∧ c.in0v = true ∧ b.hdr.tags ≤ c.in0, fun r => r = (0x0B, 0, 0)),
    (c.op ≠ .launch ∧ c.phv = true ∧ b.hdr.phasers ≤ c.ph, fun r => r = (0x0B, 0, 0)),
    (∃ n, bad n, fun r => ∃ n, bad n ∧ r = (0x05, 0, BitVec.ofNat 64 n)),
    (beyond k b c, fun r => r = (0x0B, 0, 0)),
    (misplaced k b c, fun r => r = (0x04, 0, BitVec.ofNat 64 c.addr)),
    ((c.op = .gth false ∨ c.op = .gth true) ∧ b.bind.gchan = none, fun r => r = (0x07, 0, 0)),
    ((∃ p, c.op = .mx p) ∧ b.key ≠ c.cr, fun r => r = (0x06, 0, 0)),
    (b.hdr.timed = true ∧ if c.op = .tland then b.v0 + c.w1 < t.i.cyc + 32 else b.v0 + c.w1 < t.i.cyc, fun r => r = (0x02, 1, 0))]
  ∃ (n : Nat) (x : Prop × (Nat × Nat × W64 → Prop)), checks[n]? = some x ∧ x.1 ∧ x.2 r ∧
    ∀ (m : Nat) (y : Prop × (Nat × Nat × W64 → Prop)), m < n → checks[m]? = some y → ¬ y.1

/-- The tag bits of a core after a command cleared its tag (R216). -/
def tagsAfter (s : State) (t : Site) (c : Cmd) : W64 :=
  if c.tgv then (core s t.i.core).tags &&& ~~~BitVec.ofNat 64 (2 ^ (t.b.bind.tagb + c.tag)) else (core s t.i.core).tags

/-! ## Debug commands -/

/-- The debug instructions that send a command: what it asks and its target word (R371, R376). -/
def debugForm (t : Site) : Instr → Option (DbgOp × W32)
  | .dbgBpClr e b => some (.bpClr e.toNat, t.k.uni b.toNat)
  | .dbgBpSet e a b => some (.bpSet e.toNat (t.k.uniPair a.toNat), t.k.uni b.toNat)
  | .dbgBpClaim b => some (.claim, t.k.uni b.toNat)
  | .dbgBpFree b => some (.free, t.k.uni b.toNat)
  | .dbgHold b crs => some (.hold crs, t.k.uni b.toNat)
  | .dbgStep b => some (.step false, t.k.uni b.toNat)
  | .dbgStepTrap b => some (.step true, t.k.uni b.toNat)
  | .dbgRun b crs => some (.run crs, t.k.uni b.toNat)
  | .dbgWatch d a b => some (watchOp (t.k.uni d.toNat) (t.k.uni (d.toNat + 2)) (t.k.uni (d.toNat + 3)) (t.k.uniPair a.toNat) (t.k.uniPair b.toNat),
      t.k.uni (d.toNat + 1))
  | .dbgMboxSamp a b => some (.samp ((t.k.uni b.toNat).toNat % 2 ^ 16), t.k.uni a.toNat)
  | _ => none

/-- A record for the mailbox of the die of core `c`, the one record that the core gains: its words in the order of R374. With no base set
it is dropped (R373). -/
def Mailed (s s' : State) (c : Nat) (words : List Nat) : Prop :=
  (∀ mb, (die s (dieOf c)).mbox = some mb → ∃ agent, (core s' c).recs = (core s c).recs ++ [(agent, mb, words)]) ∧
  ((die s (dieOf c)).mbox = none → (core s' c).recs = (core s c).recs)

/-- Words 0 to 15 of the record that `dbg.mbox` writes (R374, R383): KIND 0x10 with TIMED and HELD, the issuing course's target word, MASK 0,
`%bk`, PC 0, the VCC, ADDR 0, the payload, LID and CODE. -/
def mboxWords (s : State) (t : Site) (held data code : Nat) : List Nat :=
  [0x10 * 2 ^ 24 + (if t.b.hdr.timed then 2 ^ 18 else 0) + held * 2 ^ 17,
    t.i.core % 336 * 2 ^ 23 + t.i.owner % 64 * 2 ^ 17 + t.i.cr % 32 * 2 ^ 12 + t.i.slot % 32 * 2 ^ 7, 0, t.b.bind.bk.toNat, 0, 0,
    vcc s t.i.core % 2 ^ 32, vcc s t.i.core / 2 ^ 32 % 2 ^ 32, 0, 0, data % 2 ^ 32, data / 2 ^ 32 % 2 ^ 32, t.b.bind.lid.toNat, code, 0, 0]

/-- Words 0 to 15 of the record of a command whose CORE is above 335 (R372, R374): KIND 0x0E, the target word, CODE 1, and nothing of a
path, a block or a sash. -/
def refusedWords (v : W32) : List Nat :=
  [0x0E * 2 ^ 24, v.toNat / 2 ^ 7 * 2 ^ 7, 0, 0, 0, 0, 0, 0, 0, 0, 0, 0, 0, 1, 0, 0]

/-- The record of a stacked path (R28): MASK, PC, STATE, HOLD, a reserved word and JADDR, the low word first. -/
def pathRecord (k : Course) (p : Path) : List Byte :=
  let t := (k.innermost p.mask).bind fun n => k.tokens[n]?
  let pc := (pcWord p.pc).toNat
  let j := match t with | some x => (pcWord x.jaddr).toNat | none => 0
  let hold := match t with | some x => (x.hold &&& p.mask).toNat | none => 0
  let state := match p.st with | .ready => 0 | .parked => 1 | .waiting _ => 2
  leBytes 4 p.mask.toNat ++ leBytes 8 pc ++ leBytes 4 state ++ leBytes 4 hold ++ leBytes 4 0 ++ leBytes 8 j

/-- The core that a target word names, on the issuing die (R371). -/
def targetCore (t : Site) (v : W32) : Nat := dieOf t.i.core * 336 + v.toNat / 2 ^ 23


/-! ## What an event makes of the machine -/

/-- Nothing but core `c`, which is `k`, and the count of free values differs. -/
def OnlyCore (s s' : State) (c : Nat) (k : Core) : Prop :=
  s'.mem = s.mem ∧ s'.mach = { s.mach with cores := s'.mach.cores, freeCtr := s'.mach.freeCtr } ∧ core s' c = k ∧ ∀ n, n ≠ c → core s' n = core s n

/-- The same, where the sash of that core may differ too. -/
def CoreAndSash (s s' : State) (c : Nat) (k : Core) : Prop :=
  s'.mem = s.mem ∧ s'.mach = { s.mach with cores := s'.mach.cores, sashes := s'.mach.sashes, freeCtr := s'.mach.freeCtr } ∧ core s' c = k ∧
  (∀ n, n ≠ c → core s' n = core s n) ∧ ∀ i, (core s c).sash ≠ some i → sash s' i = sash s i

/-- Every course and every block is as it was. -/
def CoursesStand (s s' : State) : Prop := (∀ c o r, course s' c o r = course s c o r) ∧ ∀ c o, block s' c o = block s c o

/-- The bytes of a store from a key on are those of a list, and every other byte is as it was. -/
def Writes (s s' : State) (st : Store) (key : Nat) (bs : List Byte) : Prop :=
  (∀ i x, bs[i]? = some x → s'.mem.byte st (key + i) = x) ∧ ∀ t a, ¬ (t = st ∧ key ≤ a ∧ a < key + bs.length) → s'.mem.byte t a = s.mem.byte t a

/-- A command of a core, with its block. -/
def Commands (s : State) (c cid : Nat) (y : Cmd) (b : Block) : Prop :=
  ((core s c).cmds.find? fun x => decide (x.id = cid)) = some y ∧ block s c y.owner = some b

/-- The commands of a core, with one changed to `y`. -/
def cmdsWith (k : Core) (y : Cmd) : List Cmd := k.cmds.map fun x => if x.id = y.id then y else x

/-- The input tag of a command is set (R217). -/
def inputReady (s : State) (c : Nat) (y : Cmd) (b : Block) : Prop := y.in0v = true → (blockTags (core s c) b).getLsbD y.in0 = true

/-- Stretch `no` of an untransposed `cp.tt` (R188, R220, R225): its first byte in the source's and in the target's store, and how many
bytes it has. -/
def stretch (k : Core) (b : Block) (y : Cmd) (no : Nat) : Nat × Nat × Nat :=
  let x := descOf k b y.hy
  let z := descOf k b y.hx
  let m := (x.rowBytes + 127) / 128
  (x.rowStart (y.row0 + no / m) + no % m * 128, z.rowStart (y.row0 + no / m) + no % m * 128, min 128 (x.rowBytes - no % m * 128))

/-- Copy and matrix commands (R80 to R82, R217 to R222, R231). A command whose input tag is set starts. The head of a queue performs a
beat, which reads at its read cycle and writes at its write cycle what it has read. A matrix command takes its operands at S' and writes
every element of D at E: of FP64 and FP32 the fused multiply-adds over k in ascending order, of other pairings the group steps of R83
to R90. -/
def EngineEvents (s : State) : Prop :=
  (∀ c cid y b, Commands s c cid y b → y.s = none → inputReady s c y b →
    let k := core s c
    (∀ p, y.op = .mx p → ∃ s', exec (.commandStart c cid) s = .next s' ∧ OnlyCore s s' c { k with
      cmds := cmdsWith k { y with s := some (vcc s c), st := .away }
      arr := { k.arr with runs := k.arr.runs ++ [{ cmd := y.id, s := vcc s c }] } }) ∧
    (y.op = .launch → ∃ s' n, exec (.commandStart c cid) s = .next s' ∧ SameBytes s s' ∧ s.mach.clock ≤ n ∧
      core s' c = { k with cmds := cmdsWith k { y with s := some (vcc s c), st := .away } } ∧
      module s' (modOf c) = { module s (modOf c) with devs := (module s (modOf c)).devs ++ [{ core := c, cid := y.id, due := n }] }) ∧
    ((match y.op with | .mx _ => False | .launch => False | .gth _ => False | _ => beatCount k b y ≠ 0) →
      ∃ s', exec (.commandStart c cid) s = .next s' ∧ OnlyCore s s' c { k with cmds := cmdsWith k { y with s := some (vcc s c), st := .started } })) ∧
  (∀ c q y b, queueHead (enter s) c q = some y → block s c y.owner = some b →
    ∃ s' x, exec (.copyBeat c q) s = .next s' ∧ SameBytes s s' ∧ CoursesStand s s' ∧
      (core s' c).cmds = cmdsWith (core s c) { y with beats := y.beats + 1 } ∧ (core s' c).beats = (core s c).beats ++ [x] ∧
      x.cmd = y.id ∧ x.no = y.beats ∧ x.t = vcc s c ∧ x.data = none ∧ (core s' c).beatAt = some (vcc s c) ∧ (core s' c).q = q ∧
      (y.op = .tt → x.rd = x.t ∧ x.wr = x.t + 8) ∧ (∀ rm, y.op = .acc rm → x.rd = x.t ∧ x.wr = x.t + 10)) ∧
  (∀ c bid x y b, (core s c).beats.find? (fun x => decide (x.id = bid)) = some x → Commands s c x.cmd y b → y.op = .tt → y.xp = 0 →
    x.no < beatCount (core s c) b y → x.away = false → x.late = false →
    let p := stretch (core s c) b y x.no
    let lv := (descOf (core s c) b y.hy).level
    let lw := (descOf (core s c) b y.hx).level
    (x.data = none → (core s c).watches = [] → ∃ s' bad, exec (.beatSourceRead c bid) s = .next s' ∧ OnlyCore s s' c { core s c with
      beats := (core s c).beats.map fun z => if z.id = bid then
        { x with data := some (s.mem.bytes (levelStore lv) (levelKey lv c p.1) p.2.2), bad := bad } else z }) ∧
    (∀ data, x.data = some data → x.fin = none → x.sent = false → data.length = p.2.2 → x.bad = [] → (core s c).watches = [] → y.phv = false →
      y.landed + 1 < beatCount (core s c) b y →
      ∃ s' e, exec (.beatDestWrite c bid) s = .next s' ∧ Writes s s' (levelStore lw) (levelKey lw c p.2.1) data ∧ CoursesStand s s' ∧
        (core s' c).cmds = cmdsWith (core s c) { y with landed := y.landed + 1, endAt := some e } ∧ vcc s c ≤ e ∧
        (core s' c).beats = (core s c).beats.filter fun z => decide (z.id ≠ bid))) ∧
  (∀ c cid y b, Commands s c cid y b → (core s c).watches = [] →
    let k := core s c
    let m := mxOf y
    let da := descOf k b m.2.2.1
    let db := descOf k b m.2.2.2
    let dc := descOf k b m.2.1
    let key := levelKey 1 c (256 * dc.base)
    let n := fmtBits dc.fmt / 8
    let tile := fun (d : Desc) => s.mem.bytes (levelStore d.level) (levelKey d.level c (256 * d.base)) d.bytes
    let len := da.rows * ((da.cols + mxKpc m.1 - 1) / mxKpc m.1)
    (s.mem.poison = [] → ∃ s', exec (.matrixArrayStart c cid) s = .next s' ∧ SameBytes s s' ∧ CoursesStand s s' ∧
      (core s' c).arr = { k.arr with
        runs := k.arr.runs.map fun r => if r.cmd = cid then { r with
          s' := some (vcc s c), e := vcc s c + len + 16, levels := [(vcc s c, ((die s (dieOf c)).quad (quadOf c)).rail)]
          ops := [tile da, tile db, tile dc, if da.scv then tile (descOf k b da.scale) else [], if db.scv then tile (descOf k b db.scale) else []] } else r
        prevS := vcc s c, prevLen := len }) ∧
    (∀ r, k.arr.runs.find? (fun r => decide (r.cmd = cid)) = some r → ∃ s', exec (.matrixWrite c cid) s = .next s' ∧
      (∀ st a, ¬ (st = .acc ∧ key ≤ a ∧ a < key + dc.rows * dc.cols * n) → s'.mem.byte st a = s.mem.byte st a) ∧
      (∀ i j q, i < dc.rows → j < dc.cols → q < n → ∃ v, (s'.mem.byte .acc (key + (i * dc.cols + j) * n + q)).toNat = v / 2 ^ (8 * q) % 2 ^ 8 ∧
        v = (if m.1 = .f64 ∨ m.1 = .f32 then
          let f := opFmt da.fmt
          (List.range da.cols).foldl (fun d l => (fmaF f .rne (unpackF f (elemIn da (r.ops.getD 0 []) i l)) (unpackF f (elemIn db (r.ops.getD 1 []) l j))
            (unpackF f d)).1) (elemIn dc (r.ops.getD 2 []) i j)
        else (mxElement (runOperands k b y r.ops) r (s.mach.freeCtr * 2 ^ 40) i j).val)) ∧
      (∀ z ∈ (core s' c).cmds, z.id ≠ cid) ∧ (∀ z ∈ (core s' c).arr.runs, z.cmd ≠ cid)))

/-- Timed sends and their landing (R46 to R53, R232 to R234). A send leaves with one snapshot of its source; a check 32 cycles before
finds the credit or the message, or adds a cause at the cycle; a message that has come and matches its arm replaces the bytes of
the handle; a cancel releases the arm with HANDLE. -/
def MessageEvents (s : State) : Prop :=
  (∀ c cid y b r, Commands s c cid y b → destCore (enter s) c y = some r → inputReady s c y b → (core s c).watches = [] →
    let x := descOf (core s c) b y.hx
    ∃ s' m, exec (.tsendDepart c cid) s = .next s' ∧ SameBytes s s' ∧ m ∈ (core s' r).msgs ∧ m.sender = c ∧ m.hnum = y.hy ∧
      m.stamp = y.w1 + coreLat (enter s) c r ∧ m.cancel = false ∧ m.arrived = none ∧ m.lid = b.bind.lid ∧ s.mach.clock ≤ m.due ∧
      ((core s c).undo.1 ≠ vcc s c → m.data = s.mem.bytes (levelStore x.level) (levelKey x.level c (256 * x.base)) x.bytes) ∧
      (∀ z ∈ (core s' c).cmds, z.id ≠ cid) ∧ (∀ n o q, course s' n o q = course s n o q)) ∧
  (∀ c cid y, (core s c).cmds.find? (fun x => decide (x.id = cid)) = some y →
    let k := { core s c with cmds := cmdsWith (core s c) { y with checked := true } }
    (creditHeld (enter s) c y = true → ∃ s', exec (.creditCheck c cid) s = .next s' ∧ OnlyCore s s' c k) ∧
    (creditHeld (enter s) c y = false → ∀ i x, (core s c).sash = some i → sash s i = some x → ∃ s', exec (.creditCheck c cid) s = .next s' ∧
      CoreAndSash s s' c k ∧ ∃ z, sash s' i = some z ∧ z.paused = x.paused ∧ z.vcc = x.vcc ∧
        z.causes = x.causes ++ [{ p := y.start, src := .credit c cid, sure := !x.paused }])) ∧
  (∀ c xid, ∃ s', exec (.creditArrive c xid) s = .next s' ∧ CoreAndSash s s' c { core s c with
    credits := (core s c).credits.map fun x => if x.id = xid then { x with held := true } else x }) ∧
  (∀ c xid m, (core s c).msgs.find? (fun m => decide (m.id = xid)) = some m →
    let l := (core s c).msgs.map fun x => if x.id = xid then { x with arrived := some (vcc s c) } else x
    let k := { core s c with msgs := l }
    (∃ a ∈ k.arms, m.sender = a.sender ∧ m.hnum = a.hnum ∧ m.stamp = a.stamp) →
      ∃ s', exec (.messageArrive c xid) s = .next s' ∧ CoreAndSash s s' c k) ∧
  (∀ c aid a, (core s c).arms.find? (fun a => decide (a.id = aid)) = some a →
    let found := (matchOf (core s c) a).isSome
    let k := { core s c with arms := (core s c).arms.map fun x => if x.id = aid then { x with checked := true, caused := !found } else x }
    (found = true → ∃ s', exec (.landingCheck c aid) s = .next s' ∧ OnlyCore s s' c k) ∧
    (found = false → ∀ i x, (core s c).sash = some i → sash s i = some x → ∃ s', exec (.landingCheck c aid) s = .next s' ∧
      CoreAndSash s s' c k ∧ ∃ z, sash s' i = some z ∧ z.paused = x.paused ∧ z.vcc = x.vcc ∧
        z.causes = x.causes ++ [{ p := ((block s c a.owner).map Block.v0).getD 0 + a.stamp, src := .landing c aid, sure := !x.paused }]) ∧
    (∀ m b, matchOf (core s c) a = some m → block s c a.owner = some b → m.cancel = false → m.data.length = a.size → m.bad = [] →
      (core s c).watches = [] →
      let x := descOf (core s c) b a.hnum
      ∃ s', exec (.landingCommit c aid) s = .next s' ∧ Writes s s' (levelStore x.level) (levelKey x.level c (256 * x.base)) m.data ∧
        (∀ z ∈ (core s' c).arms, z.id ≠ aid) ∧ (∀ z ∈ (core s' c).cmds, z.id ≠ a.cmd) ∧ (descOf (core s' c) b a.hnum).land = false ∧
        ∀ n o q, course s' n o q = course s n o q) ∧
    (∀ y b, Commands s c a.cmd y b → a.owner = y.owner → ∃ s' f, exec (.cancelRelease c aid) s = .next s' ∧ SameBytes s s' ∧
      (∀ z ∈ (core s' c).arms, z.id ≠ aid) ∧ (∀ z ∈ (core s' c).cmds, z.id ≠ a.cmd) ∧ Recorded s s' c f ∧
      f.code = 0x05 ∧ f.src = 6 ∧ f.info = BitVec.ofNat 64 a.hnum ∧ f.owner = a.owner ∧ f.cr = y.cr ∧ f.bk = b.bind.bk ∧ f.lid = b.bind.lid))

/-- Blocks (R256 to R258, R302, R303, R325, R337, R338): a block starts with its courses at the entry, its tags set and its stores
zero; a timed one at START, with TIMING 1 where its entries came late; a region's budget fault is recorded; a block that ends gives
up its entries; the staged write of a new head reaches its home; a pre-empted block is cut, leaves its core for the saved ones, and
is bound again. -/
def BlockEvents (s : State) : Prop :=
  ∀ c,
  (∀ o b, block s c o = some b → b.started = false → b.hdr.timed = false → b.hdr.courses ≤ 32 → b.bind.tagb + b.hdr.tags ≤ 64 →
    ∃ s', exec (.blockStart c o) s = .next s' ∧ block s' c o = some { b with started := true, v0 := vcc s c, key := 0 } ∧
      (∀ n, n < b.hdr.tags → (blockTags (core s' c) b).getLsbD n = true) ∧
      (∀ x, x < b.hdr.tsb → s'.mem.byte .ts (levelKey 0 c (256 * b.bind.tsbb) + x) = 0) ∧
      (∀ x, x < b.hdr.acc * 1024 → s'.mem.byte .acc (levelKey 1 c (256 * b.bind.accb) + x) = 0) ∧
      (∀ r k, r < b.hdr.courses → course s c o r = some k → ∃ k' p, course s' c o r = some k' ∧ k' = { k with k := k'.k, slot0 := some p } ∧
        p.id = 0 ∧ p.mask = 0xFFFFFFFF ∧ p.pc = 3 * ((b.bind.hdr + b.hdr.entry) / 16) ∧
        ∀ n, n < b.bind.nparam → k'.uni n = BitVec.ofNat 32 (recWord (enter s) (dieOf c) b.bind.param n)) ∧
      ∀ n, n ≠ c → core s' n = core s n) ∧
  (∀ o b, block s c o = some b → b.started = false → b.hdr.timed = true →
    (b.bind.start = vcc s c → launchOf (enter s) c b.bind.lid = none → ∃ s', exec (.timedBlockStart c o) s = .next s' ∧
      block s' c o = some { b with started := true, v0 := b.bind.start, key := 0 } ∧ (core s' c).faults = (core s c).faults) ∧
    (b.bind.start < vcc s c → ∃ s' f, exec (.timedBlockStart c o) s = .next s' ∧
      block s' c o = some { b with started := true, v0 := b.bind.start, key := 0 } ∧ Recorded s s' c f ∧
      f.code = 0x02 ∧ f.sub = 1 ∧ f.src = 7 ∧ f.owner = b.bind.owner ∧ f.bk = b.bind.bk ∧ f.lid = b.bind.lid)) ∧
  (∀ o b, block s c o = some b →
    (∃ s' f n, exec (.budgetFault c o) s = .next s' ∧ SameBytes s s' ∧ block s' c o = some { b with budgetRound := some n } ∧
      (∀ d q r, course s' d q r = course s d q r) ∧ Recorded s s' c f ∧ f.code = 0x0A ∧ f.src = 7 ∧ f.owner = o ∧ f.bk = b.bind.bk ∧ f.lid = b.bind.lid) ∧
    (∃ s', exec (.blockEnd c o) s = .next s' ∧ (b.spent = false → (∀ x ∈ (core s' c).slots, x.2.owner ≠ o) ∧ (core s' c).claims.find o = none ∧
      ∀ b', block s' c o = some b' → b'.spent = true)) ∧
    (∀ x, b.staged = [x] → x.atom = none → crosses b c .fab x.home = false → pageGate x.pages (if x.str = 8 then .engineWrite else .write) x.pv = .clear →
      x.bad = [] → ∃ s', exec (.ticketRelease c o) s = .next s' ∧ Writes s s' x.st x.key x.data ∧ block s' c o = some { b with staged := [] }) ∧
    (b.preempt = .asked → (die s (dieOf c)).recMode = 0 → ∃ s', exec (.preemptCut c o) s = .next s' ∧
      OnlyCore s s' c { core s c with blocks := (core s c).blocks.put o { b with preempt := .cut (vcc s c) } }) ∧
    (∀ p l, b.preempt = .cut p → launchOf (enter s) c b.bind.lid = some l →
      absentPages (enter s) (dieOf c) b.bind.ctx (ctxMap b.hdr).lane = [] → ctxRefused (enter s) (dieOf c) b.bind.ctx (ctxMap b.hdr).lane true = false →
      ∃ s' v, exec (.preemptSave c o) s = .next s' ∧ block s' c o = none ∧ (module s' (modOf c)).saved = (module s (modOf c)).saved ++ [v] ∧
        v.core = c ∧ v.die = dieOf c ∧ v.p = p ∧ v.lid = b.bind.lid ∧ v.block = { b with preempt := .none } ∧ v.tags = blockTags (core s c) b ∧
        v.flights = (core s c).flights.filter (fun x => decide (x.owner = o)) ∧ v.results = (core s c).results.filter fun x => decide (x.owner = o))) ∧
  (∀ m idx v l f sm, (module s m).saved[idx]? = some v →
    (module s m).launches.find? (fun l => decide (l.lid = v.lid) && (partOf (enter s) v.die == some l.part)) = some l →
    restorePlace (enter s) l v = some (f, sm) → absentPages (enter s) v.die v.block.bind.ctx (ctxMap v.block.hdr).lane = [] →
    ctxRefused (enter s) v.die v.block.bind.ctx (ctxMap v.block.hdr).lane false = false →
    ∃ s' b, exec (.restore m idx) s = .next s' ∧ block s' f.core f.owner = some b ∧ (module s' m).saved = (module s m).saved.eraseIdx idx ∧
      b.bind.owner = f.owner ∧ b.bind.hb = f.hb ∧ b.bind.tsbb = f.tsbb ∧ b.bind.bk = v.block.bind.bk ∧ b.bind.lid = v.block.bind.lid ∧ b.hdr = v.block.hdr)

/-- The management cores (R293, R297, R303, R305, R324, R327 to R329): a round counts and sets its next one; a device launch that has been
taken delivers its status word; a fault record is handled by the policy of its block's region: ignored, its work is passed over
when the cycle runs; retried, the block has one retry less; killed, the launches of the region's subtree are live no more; and with
no record left the pause for faults ends. -/
def ManagementEvents (s : State) : Prop :=
  (∀ m part d root, leadDie (enter s) m part = some d → (module s m).roots.find part = some root → ∃ s', exec (.schedulingRound m part) s = .next s' ∧
    (module s' m).roundNo.find part = some (((module s m).roundNo.find part).getD 0 + 1) ∧ (module s' m).roundAt.find part = some (module s m).gcc ∧
    (module s' m).rounds.find part = some (s.mach.clock + Config.roundCycles)) ∧
  (∀ c cid y v k, (core s c).cmds.find? (fun x => decide (x.id = cid)) = some y → (die s (dieOf c)).recMode = 0 →
    (module s (modOf c)).devs.find? (fun z => decide (z.core = c) && decide (z.cid = cid)) = some v → course s c y.owner y.cr = some k →
    ∀ st, v.status = some st → ∃ s', exec (.deviceLaunchComplete c cid) s = .next s' ∧ SameBytes s s' ∧
      course s' c y.owner y.cr = some (k.setUni (y.kd + 3) st) ∧ (∀ z ∈ (core s' c).cmds, z.id ≠ cid) ∧
      ∀ z ∈ (module s' (modOf c)).devs, ¬ (z.core = c ∧ z.cid = cid)) ∧
  (∀ m lid, ∃ s' p, exec (.timedPreempt m lid) s = .next s' ∧ s'.mem = s.mem ∧ s'.mach = { s.mach with sashes := s'.mach.sashes } ∧
    let mine := fun (x : Sash) => x.timed = some (BitVec.ofNat 32 lid) ∧ ∃ c ∈ x.cores, ∃ l, launchOf (enter s) c (BitVec.ofNat 32 lid) = some (m, l)
    ((s.mach.sashes.map Prod.fst).Nodup → (∀ i x, (i, x) ∈ s.mach.sashes → mine x → ∀ y ∈ x.causes, y.src ≠ .preempt) → ∀ i x, (i, x) ∈ s.mach.sashes → sash s i = some x →
      (mine x → x.vcc + 32 ≤ p ∧ sash s' i = some (x.cause p .preempt)) ∧ (¬ mine x → sash s' i = some x))) ∧
  (∀ c, (core s c).passed = [] →
    ((core s c).faults = [] → ∃ s', exec (.containmentWalk c) s = .next s' ∧ CoreAndSash s s' c (core s c) ∧
      ∀ i x x', (core s c).sash = some i → sash s i = some x → sash s' i = some x' → (∀ y ∈ x.causes, y.src = .fault c → y.sure = false) →
        ∀ y ∈ x'.causes, y.src ≠ .fault c) ∧
    (∀ f rest b l, (core s c).faults = f :: rest → block s c f.owner = some b → launchOf (enter s) c b.bind.lid = some l →
      let d := l.2.die
      let p := policyAt (enter s) d (pathOf (enter s) d b.bind.rcb)
      let left := decide (b.retries < retryOf (enter s) d (pathOf (enter s) d p.1))
      (p.2 = 0 → ∃ s', exec (.containmentWalk c) s = .next s' ∧ (f.cut = true → SameBytes s s' ∧
          (core s' c).pardons = (core s c).pardons ++ [f] ∧ (core s' c).faults = rest ++ (core s c).waiting.take 1 ∧
          (core s' c).waiting = (core s c).waiting.drop 1 ∧ ∀ n o, block s' n o = block s n o) ∧
        (∀ g op r, f.cut = false → f.work = .lanes g → g.form.op = .alu op → g.form.dst = .reg r →
          ∃ z, (core s' c).results = (core s c).results ++ [z] ∧ z.ready = vcc s c + g.form.lat ∧ z.owner = g.owner ∧ z.cr = g.cr ∧
            z.writes = [.lane (lowestLane f.mask) r 0])) ∧
      (p.2 = 1 → left = true → f.cut = true → f.work = .none → ∃ s' b', exec (.containmentWalk c) s = .next s' ∧ SameBytes s s' ∧
        block s' c f.owner = some b' ∧ b'.retries = b.retries + 1 ∧ (core s' c).faults = rest ++ (core s c).waiting.take 1) ∧
      (p.2 ≠ 0 → ¬ (p.2 = 1 ∧ left = true) → ∃ s', exec (.containmentWalk c) s = .next s' ∧
        ∀ x ∈ (module s l.1).launches, x.die = d → (pathOf (enter s) d x.rcb).contains p.1 = true →
          ∀ z ∈ (module s' l.1).launches, ¬ (z.lid = x.lid ∧ z.part = x.part))))

/-- Fetch, translation and late accesses (R42, R96, R186, R251, R316, R321, R387): a clause that has come is read; an access that is not
assured adds a cause at its named cycle; a walk that has ended answers every access that waits for it; a shoot-down completes; a
crossing write that may be applied is; a host access completes over its link; a recording core opens its chunk, asks for its commit
and begins the next. -/
def MemoryEvents (s : State) : Prop :=
  (∀ c o r ix b k p l due, block s c o = some b → course s c o r = some k → k.owner = o → k.cr = r → k.path? ix = some p → p.atHand = false → p.fetch = .coming l due →
    due ≤ s.mach.clock → l.covers (16 * (p.pc / 3)) = true → (∀ i x, (core s c).sash = some i → sash s i = some x → x.paused = false) →
    let a := l.place (dieOf c) (16 * (p.pc / 3))
    let word := fun (i : Nat) => BitVec.ofNat 32 (leNat (s.mem.bytes a.1 (a.2 + 4 * i) 4))
    s.mem.poisoned a.1 a.2 16 = false → ∃ s' cl, exec (.clauseFetch c o r ix) s = .next s' ∧ SameBytes s s' ∧
      course s' c o r = some (k.setPath ix { p.take cl with fetch := .idle }) ∧ cl.idx = p.pc / 3 ∧ cl.got = vcc s c ∧
      cl.ctl = word 0 ∧ cl.w1 = word 1 ∧ cl.w2 = word 2 ∧ cl.w3 = word 3) ∧
  (∀ c id a i x, (core s c).accs.find? (fun a => decide (a.id = id)) = some a → a.unsure (enter s) c = true → ticketAsks (enter s) c (core s c) = none →
    (core s c).sash = some i → sash s i = some x → x.paused = false → (∀ y ∈ x.causes, y.src ≠ .access c id) →
    ∃ s', exec (.pauseHorizonCheck c id) s = .next s' ∧ CoursesStand s s' ∧ sash s' i = some (x.cause a.point (.access c id)) ∧
      (∀ n, n ≠ i → sash s' n = sash s n) ∧ ∃ z ∈ (core s' c).accs, z.id = id ∧ z.caused = true) ∧
  (∀ d wid k v, (die s d).walks.find? (fun k => decide (k.wid = wid)) = some k → (∀ x ∈ s.mach.cores, x.2.ctxs = []) →
    ((∃ l, k.found = some l ∧ l.host = false ∧ v = Xlate.ok l) ∨ k.found = none ∧ k.code ≠ 0 ∧ v = .bad k.code) →
    ∃ s', exec (.translationComplete d wid) s = .next s' ∧ SameBytes s s' ∧ (die s' d).walks = (die s d).walks.filter (fun y => decide (y.wid ≠ wid)) ∧
      ∀ n, (core s' n).accs = (core s n).accs.map fun a => if a.xl = .wait d wid then { a with xl := v } else a) ∧
  (∀ d v, (die s d).busy = some v → ∃ s', exec (.shootdownComplete d) s = .next s' ∧ (die s' d).busy = none ∧
    (die s' d).doneN = ((die s d).doneN + 1) % 2 ^ 31 ∧ (die s' d).epoch = (die s d).epoch + 1 ∧ (die s' d).dirs = [] ∧
    ∀ l ∈ (die s' d).tlb, l ∈ (die s d).tlb ∧ sdDrops v.1 l = false) ∧
  (∀ d hid h off data, (die s d).heldW.find? (fun h => decide (h.id = hid)) = some h → (∀ x ∈ (core s h.core).beats, x.id ≠ h.aid) →
    (∀ a ∈ (core s h.core).accs, a.id ≠ h.aid) → (die s d).recMode = 0 → pageGate h.pages h.use h.pv = .clear → h.pieces = [(off, data, [])] →
    off % 2 ^ 14 + data.length ≤ 2 ^ 14 → let a := pagePlace h.pages d off
    ∃ s', exec (.causalApply d hid) s = .next s' ∧ Writes s s' a.1 a.2 data ∧
      (die s' d).heldW = (die s d).heldW.filter fun y => decide (y.id ≠ hid)) ∧
  (∀ c aid a b, (core s c).accs.find? (fun a => decide (a.id = aid)) = some a → block s c a.owner = some b → a.space = .host →
    (∀ m ∈ a.marks, markMet (enter s) c (vcc s c) m = true ∧ markStaged (enter s) c a.owner m = false) →
    let key := hostKey (modOf c) (a.addr.toNat % 2 ^ 64)
    (a.kind = .load → (die s (dieOf c)).recMode = 0 → ∃ s' z, exec (.hostAccessComplete c aid false) s = .next s' ∧ SameBytes s s' ∧
      (core s' c).results = (core s c).results ++ [z] ∧ z.ready = vcc s c ∧ z.owner = a.owner ∧ z.cr = a.cr ∧
      z.writes = dstWrites a.dst a.lane (BitVec.ofNat 64 (leNat (s.mem.bytes .host key a.size))) ∧
      ∃ y ∈ (core s' c).accs, y.id = aid ∧ y.done = some (vcc s c)) ∧
    (a.kind = .store → ∃ s', exec (.hostAccessComplete c aid false) s = .next s' ∧ Writes s s' .host key (leBytes a.size a.data.toNat) ∧
      ∃ y ∈ (core s' c).accs, y.id = aid ∧ y.done = some (vcc s c)) ∧
    (a.kind = .load ∨ a.kind = .store → ∃ s' f, exec (.hostAccessComplete c aid true) s = .next s' ∧ SameBytes s s' ∧ Recorded s s' c f ∧ f.code = 0x03 ∧
      f.info = BitVec.ofInt 64 a.addr ∧ f.owner = a.owner ∧ f.cr = a.cr ∧ f.bk = b.bind.bk ∧ f.lid = b.bind.lid)) ∧
  (∀ c, (die s (dieOf c)).recMode = 1 →
    ((core s c).chunk = none → ∃ s', exec (.chunkCommit c) s = .next s' ∧ OnlyCore s s' c { core s c with chunk := some { start := vcc s c } }) ∧
    (∀ ch i x y, (core s c).chunk = some ch → (core s c).sash = some i → sash s i = some x → x.paused = true → y ∈ x.causes → y.src = .chunk c →
      y.p ≤ x.vcc →
      (ch.asked = none → ∃ s', exec (.chunkCommit c) s = .next s' ∧ OnlyCore s s' c { core s c with chunk := some { ch with asked := some s.mach.clock } }) ∧
      (ch.asked.isSome = true → ch.start < vcc s c → ∃ s', exec (.chunkCommit c) s = .next s' ∧ (core s' c).chunk = some { start := vcc s c } ∧
        ∀ z, sash s' i = some z → ∀ q ∈ z.causes, q.src = .chunk c → x.vcc < q.p)))

/-- Timing, energy and power (R176, R344, R352, R355 to R358): a port sends its flit with GCC; a module reports its drift and begins
anew; a microsecond's energy is charged within what the window allows; an interval and a window begin with nothing used; rails reach
their level; a shutter's change is a pending trap where it is armed, and a trap record where it is not. -/
def PowerEvents (s : State) : Prop :=
  (∀ m p y z, (module s m).ports.find p = some y → y.trained = true → y.lost = false → (∀ f ∈ y.flits, s.mach.clock < f.1) →
    (module s y.peer).ports.find y.peerPort = some z → z.lost = false → ∃ s', exec (.timingFlit m p) s = .next s' ∧ s'.mem = s.mem ∧
      (module s' y.peer).ports.find y.peerPort = some { z with flits := z.flits ++ [(s.mach.clock + y.lat / 256, (module s m).gcc)] }) ∧
  (∀ m, let x := module s m
    let after : Module := { x with seen := x.seen.put 0 x.gcc, maxabs := 0, alarm := false, repSeq := x.repSeq + 1 }
    let off := x.report + 32 * x.num
    (groupMaster s.mach = none → ∃ s', exec (.driftReport m) s = .next s' ∧ OnlyModule s s' m after) ∧
    (∀ y, groupMaster s.mach = some y →
      (routeUp (enter s) m y.1 = false → (∀ r ∈ x.reports, routeUp (enter s) m r.1 = false) → ∃ s', exec (.driftReport m) s = .next s' ∧
        OnlyModule s s' m { after with reports := x.reports ++ [(y.1, off, driftBytes x)] }) ∧
      (∀ a, routeUp (enter s) m y.1 = true → x.reports = [] → placeNow (enter s) (4 * y.1) off = some a → ∃ s', exec (.driftReport m) s = .next s' ∧
        Writes s s' a.1 a.2 (driftBytes x) ∧ module s' m = after))) ∧
  (∀ m, ∃ s', exec (.energySample m) s = .next s' ∧ SameBytes s s' ∧ CoursesStand s s' ∧
    (∀ c, modOf c = m → (core s' c).acts = [] ∧ (core s' c).endActs = []) ∧ (∀ c, modOf c ≠ m → core s' c = core s c) ∧
    ((module s m).spent ≤ (module s m).allowed → (module s' m).spent ≤ (module s' m).allowed)) ∧
  (∀ d q, (∀ x ∈ s.mach.cores, (∀ a ∈ x.2.accs, a.late = false) ∧ ∀ y ∈ x.2.beats, y.late = false) →
    ∃ s', exec (.byteBudgetInterval d q) s = .next s' ∧ s'.mem = s.mem ∧ (∀ c, core s' c = core s c) ∧
      (die s' d).quad q = { (die s d).quad q with used := 0 } ∧ ∀ n, n ≠ q → (die s' d).quad n = (die s d).quad n) ∧
  (∀ m, ∃ s', exec (.powerWindow m) s = .next s' ∧ s'.mem = s.mem ∧ (∀ c, core s' c = core s c) ∧
    (module s' m).excess = (module s m).spent - 1000 * (module s m).limit ∧ (module s' m).spent = 0 ∧ (module s' m).ballast = 0 ∧
    (module s' m).cap ≤ 3000 ∧ ∀ i, i < 16 → ((die s' (4 * m + i / 4)).quad (i % 4)).hold < 2 ^ 8 ∧ ((die s' (4 * m + i / 4)).quad (i % 4)).bud < 2 ^ 24) ∧
  (∀ d q r, ((die s d).quad q).raise = some r → ∃ s', exec (.railLevelReached d q) s = .next s' ∧ s'.mem = s.mem ∧ CoursesStand s s' ∧
    (die s' d).quad q = { (die s d).quad q with rail := r.1, raise := none }) ∧
  (∀ c o b i x k, block s c o = some b → (core s c).sash = some i → sash s i = some x → firstCourse (enter s) c o = some k → k.owner = o →
    b.hdr.timed = false → b.hdr.traph = true →
    let v := match x.throttled with
      | some g => decide ((module s (x.die / 4)).gcc < g + 940000)
      | none => false
    ∃ s', exec (.shutterChange c o) s = .next s' ∧ SameBytes s s' ∧ block s' c o = some { b with shutter := v } ∧
      (b.hdr.feat / 2 ^ 7 % 2 = 1 → course s' c o k.cr = some { k with shutter := some v } ∧ (core s' c).trap = (core s c).trap) ∧
      (b.hdr.feat / 2 ^ 7 % 2 = 0 → (∀ r, course s' c o r = course s c o r) ∧
        ∃ n, (core s' c).trap.cause = causeWord 3 (if v then 1 else 0) n ∧
          (core s' c).trap.count.toNat = min ((core s c).trap.count.toNat + 1) 0xFFFFFFFF))

/-! ## The host -/

/-- Word 0 of a reply: its type, and PART and SEQ of the message (R364). -/
def answerTo (type : Nat) (msg : List W32) : W32 :=
  let w := (msg.getD 0 0).toNat
  BitVec.ofNat 32 (type * 2 ^ 24 + w / 2 ^ 16 % 4 * 2 ^ 16 + w % 2 ^ 16)

/-- A status reply (R366). -/
def statusReply (msg : List W32) (n : Nat) : List W32 := [answerTo 0x83 msg, BitVec.ofNat 32 n]

/-- The module once it has taken a message, which it handles until `n` (R363, R364). -/
def holds (x : Module) (msg : List W32) (n : Nat) : Module :=
  { x with rej := false, h2d := (List.range 64).foldl (fun (t : Tab W32) i => t.put i (msg.getD i 0)) x.h2d, h2dBusy := n }

/-- A message makes of its module `f x`, where `x` is the module that has taken it; nothing else differs. -/
def Takes (s : State) (m : Nat) (msg : List W32) (i : Instr) (f : Module → Module) : Prop :=
  ∃ s' n, exec i s = .next s' ∧ s.mach.clock ≤ n ∧ OnlyModule s s' m (f (holds (module s m) msg n))

/-- Messages of the host to a device that handles none (R364, R366, R368, R369): each is done, refused or out of its state. -/
def HostMessages (s : State) : Prop :=
  ∀ m msg, (module s m).busy s.mach.clock = false →
  let x := module s m
  let u := fun (i : Nat) => (msg.getD i 0).toNat
  let part := u 0 / 2 ^ 16 % 4
  let upper := 4 ≤ x.imgStat ∧ x.imgStat ≤ 6
  let tells := fun (n : Nat) (y : Module) => { y with replies := y.replies ++ [statusReply msg n] }
  let map := (List.range 4).map fun d => u 1 / 2 ^ (8 * d) % 2 ^ 8
  let good := ∀ p, p ≤ map.foldl max 0 → p ∈ map
  let report := u 2 + 2 ^ 32 * u 3
  (¬ upper → ∀ i ∈ [Instr.quoteRequest m msg, .partitionMap m msg, .extend m msg, .certificateRequest m msg], Takes s m msg i (tells 2)) ∧
  (upper → ∃ d, s.mach.clock ≤ d ∧ Takes s m msg (.quoteRequest m msg) fun y => { y with quotes := y.quotes ++ [(part, 16, d)], quoteAsk := msg }) ∧
  (upper → x.facceptSet = true ∨ x.parts.isSome = true → Takes s m msg (.partitionMap m msg) (tells 2)) ∧
  (upper → x.facceptSet = false → x.parts = none →
    (good → Takes s m msg (.partitionMap m msg) fun y => tells 0 { y with parts := some map }) ∧ (¬ good → Takes s m msg (.partitionMap m msg) (tells 1))) ∧
  (upper → 4 ≤ u 1 → u 1 ≤ 7 → Takes s m msg (.extend m msg) fun y => tells 0 { y with
    mrs := y.mrs.modify (u 1) fun r => sha384 (r ++ (List.range 12).flatMap fun j => leBytes 4 (u (2 + j))) }) ∧
  (upper → u 1 < 4 ∨ 7 < u 1 → Takes s m msg (.extend m msg) (tells 1)) ∧
  (upper → ∃ l, l ≠ [] ∧ (∀ r ∈ l, r.head? = some (answerTo 0x84 msg) ∧ r.length ≤ 64) ∧
    Takes s m msg (.certificateRequest m msg) fun y => { y with replies := y.replies ++ l }) ∧
  Takes s m msg (.unknownMessage m msg) (fun y => { y with replies := y.replies ++ [[answerTo 0xFF msg]] }) ∧
  (x.facceptSet = false ∨ x.formed = true → Takes s m msg (.timeGroup m msg) (tells 2)) ∧
  (x.facceptSet = true → x.formed = false → ∃ s', exec (.timeGroup m msg) s = .next s' ∧ SameBytes s s' ∧ let y := module s' m
    y.num = u 1 % 2 ^ 9 ∧ y.master = decide (u 1 / 2 ^ 9 % 2 = 1) ∧ y.report = report ∧ y.formed = true ∧ y.cap ≤ 3000 ∧ y.replies = [statusReply msg 0]) ∧
  (x.facceptSet = false ∨ (x.roots.find part).isSome = true → Takes s m msg (.rootRcb m msg) (tells 2)) ∧
  (x.facceptSet = true → x.roots.find part = none →
    (part ∉ x.parts.getD [] → Takes s m msg (.rootRcb m msg) (tells 1)) ∧
    (part ∈ x.parts.getD [] → ∃ s', exec (.rootRcb m msg) s = .next s' ∧ let y := module s' m
      y.roots.find part = some { rcb := u 1 + 2 ^ 32 * u 2, priv := decide (u 3 % 2 = 1) } ∧
      y.rounds.find part = some (s.mach.clock + Config.roundCycles) ∧ y.replies = [statusReply msg 0]))

/-- Registers, windows and bring-up (R359, R363, R367 to R370). -/
def HostEvents (s : State) : Prop :=
  ∀ m, let x := module s m
  (∀ part slot d, slot ≠ 16 → leadDie (enter s) m part = some d → (∀ q ∈ x.quotes, ¬ (q.1 = part ∧ q.2.1 = slot)) → slotAsks (enter s) m part slot = true →
    ∃ s' n, exec (.kernelQuoteServe m part slot) s = .next s' ∧ s.mach.clock ≤ n ∧ OnlyModule s s' m { x with quotes := x.quotes ++ [(part, slot, n)] }) ∧
  (∀ part slot d t r a, slot ≠ 16 → leadDie (enter s) m part = some d → x.quotes = (part, slot, t) :: r → t ≤ s.mach.clock → x.faccept.getLsbD 8 = false →
    placeNow (enter s) d (mailSlot m part slot + 4) = some a → ∃ s', exec (.kernelQuoteServe m part slot) s = .next s' ∧
      Writes s s' a.1 a.2 (leBytes 4 3) ∧ module s' m = { x with quotes := r }) ∧
  (∀ v, (x.facceptSet = false → exec (.dbell m v) s = .next s) ∧
    (x.facceptSet = true → ∃ s', exec (.dbell m v) s = .next s' ∧ s'.mem = s.mem ∧ (∀ p, p < 4 → v.getLsbD p = true → (x.roots.find p).isSome = true →
        ∃ n, (module s' m).rounds.find p = some n ∧ n ≤ s.mach.clock + 940 ∧ ∀ t, x.rounds.find p = some t → n ≤ t) ∧
      (∀ p, v.getLsbD p = false ∨ x.roots.find p = none → (module s' m).rounds.find p = x.rounds.find p))) ∧
  (∀ v, x.imgStat = 1 → v.msb = true → ∃ s' n, exec (.imageLoad m v) s = .next s' ∧ s.mach.clock ≤ n ∧
    OnlyModule s s' m { x with imgLen := v.toNat % 2 ^ 32, bootDue := some n, imgStat := 2, msix := x.msix.modify 2 (· + 1) }) ∧
  (∀ v n, x.imgStat = 2 → x.bootDue = some n → n ≤ s.mach.clock → let img := s.mem.bytes .dram (dramKey (4 * m) 0) x.imgLen
    (Config.imageMagic img ≠ 0x494D → ∃ s', exec (.imageLoad m v) s = .next s' ∧
      OnlyModule s s' m { x with bootDue := none, imgStat := 0x10, msix := x.msix.modify 2 (· + 1) }) ∧
    (Config.imageMagic img = 0x494D → Config.imageSigOk img = false → ∃ s', exec (.imageLoad m v) s = .next s' ∧
      OnlyModule s s' m { x with bootDue := none, imgStat := 0x11, msix := x.msix.modify 2 (· + 1) }) ∧
    (Config.imageMagic img = 0x494D → Config.imageSigOk img = true → ∃ s' n, exec (.imageLoad m v) s = .next s' ∧ s.mach.clock ≤ n ∧
      OnlyModule s s' m { x with bootDue := some n, imgStat := 3, msix := x.msix.modify 2 (· + 1), mrs :=
        (x.mrs.modify 0 fun r => sha384 (r ++ sha384 (Config.imageHeader img))).modify 1 fun r => sha384 (r ++ sha384 (Config.imageStage1 img)) })) ∧
  (x.imgStat = 3 → let img := s.mem.bytes .dram (dramKey (4 * m) 0) x.imgLen
    ∃ s', exec (.stage2Start m) s = .next s' ∧
      (∀ a, s'.mem.byte .dram a = if dramKey (4 * m + 1) 0 ≤ a ∧ a < dramKey (4 * m + 4) 0 then 0 else s.mem.byte .dram a) ∧
      (module s' m = { x with
        bootDue := none, imgStat := 4, msix := x.msix.modify 2 (· + 1)
        mrs := x.mrs.modify 2 fun r => sha384 (r ++ sha384 (Config.imageStage2 img)) }) ∧ ∀ n, n ≠ m → module s' n = module s n) ∧
  (∃ s' n, exec (.moduleRestart m) s = .next s' ∧ s.mach.clock ≤ n ∧ module s' m = { bootDue := some n, gcc := x.gcc } ∧
    (∀ a, s'.mem.byte .dram a = if dramKey (4 * m) 0 ≤ a ∧ a < dramKey (4 * m + 4) 0 then 0 else s.mem.byte .dram a) ∧
    (∀ c o, modOf c = m → block s' c o = none ∧ (core s' c).sash = none) ∧ (∀ d, d / 4 = m → die s' d = {}) ∧
    ∀ c, modOf c ≠ m → core s' c = core s c) ∧
  (∀ off bs, (x.imgStat = 0 ∨ 64 * 2 ^ 30 < off + bs.length → exec (.hostDramWindowWrite m off bs) s = .next s) ∧
    (x.imgStat ≠ 0 → off + bs.length ≤ 64 * 2 ^ 30 → ∃ s', exec (.hostDramWindowWrite m off bs) s = .next s' ∧
      Writes s s' .dram (dramKey (4 * m + x.dwin) off) bs ∧ CoursesStand s s'))

/-- Debug commands and profiles (R371, R372, R376, R377, R384, R385): a command that its block does not refuse acts, one without a block
leaves its record in the mailbox; a finished profile leaves its record, and its string draws the next count. -/
def DebugEvents (s : State) : Prop :=
  (∀ c did x, (core s c).dbg.find? (fun x => decide (x.id = did)) = some x → tgtKey x.src x.target = c → let o := tgtOwner x.target
    let k := { core s c with dbg := (core s c).dbg.filter fun y => decide (y.id ≠ did) }
    let open_ := partOf (enter s) (dieOf c) = partOf (enter s) (dieOf x.src) ∧ (block s c o).isSome = true ∧
      ∀ n, (core s c).claims.find o = some n → n = (x.src, x.srcOwner, x.srcCr)
    (∀ e pc, x.op = .bpSet e pc → open_ → ∃ s', exec (.debugCommandArrive c did) s = .next s' ∧
      OnlyCore s s' c { k with bps := k.bps.put e { pc := pc, owner := o } }) ∧
    (∀ e, x.op = .bpClr e → open_ → ∃ s', exec (.debugCommandArrive c did) s = .next s' ∧ OnlyCore s s' c { k with bps := k.bps.erase e }) ∧
    (∀ y, x.op = .claim → open_ → course s x.src x.srcOwner x.srcCr = some y → y.gone = false → ∃ s', exec (.debugCommandArrive c did) s = .next s' ∧
      OnlyCore s s' c { k with claims := k.claims.put o (x.src, x.srcOwner, x.srcCr) }) ∧
    (x.op = .free → open_ → ∃ s', exec (.debugCommandArrive c did) s = .next s' ∧ OnlyCore s s' c { k with claims := k.claims.erase o }) ∧
    ((∀ n, x.op ≠ .samp n) → partOf (enter s) (dieOf c) = partOf (enter s) (dieOf x.src) → block s c o = none →
      ((die s (dieOf c)).mbox = none → ∃ s', exec (.debugCommandArrive c did) s = .next s' ∧ OnlyCore s s' c k) ∧
      (∀ mb, (die s (dieOf c)).mbox = some mb → ∃ s' ws, exec (.debugCommandArrive c did) s = .next s' ∧
        OnlyCore s s' c { k with recs := k.recs ++ [(0, mb, ws)] } ∧ ws.length = 16 ∧ ws.getD 0 0 = 0x0E * 2 ^ 24 ∧ ws.getD 13 0 = 2))) ∧
  (∀ c n x, (core s c).samples.find? (fun x => decide (x.str = n)) = some x → sampleOver (core s c) x = true →
    ∃ s', exec (.sampleRecord c n) s = .next s' ∧ SameBytes s s' ∧ CoursesStand s s' ∧
      (core s' c).samples = (core s c).samples.filter (fun y => decide (y.str ≠ n)) ∧ ((core s' c).str n).tagged = none ∧
      ((core s c).samp = 0 → ((core s' c).str n).draw = 0) ∧
      ((core s c).samp ≠ 0 → 1 ≤ ((core s' c).str n).draw ∧ ((core s' c).str n).draw ≤ 2 * (core s c).samp - 1) ∧
      ((die s (dieOf c)).mbox = none → (core s' c).recs = (core s c).recs) ∧
      (∀ mb, (die s (dieOf c)).mbox = some mb → ∃ ag ws, (core s' c).recs = (core s c).recs ++ [(ag, mb, ws)] ∧ ws.length = 16 ∧
        ws.getD 0 0 / 2 ^ 24 = 0x20 ∧ ws.getD 2 0 = x.mask.toNat ∧ ws.getD 6 0 + 2 ^ 32 * ws.getD 7 0 = x.issue % 2 ^ 64 ∧ ws.getD 13 0 = x.word.toNat))
end Sys2Proof.Say

open Sys2Proof Sys2Proof.Machine Sys2Proof.Say

/-! ## Encoding -/

/-- Tier 3. Decode and encode agree (R101 to R105): the word of every well-formed instruction decodes, under a driver that
accepted every feature, to that instruction with every operand it had. -/
def Obligations.DecodeEncode : Prop :=
  ∀ (i : Instr) (w : W32), i.wf = true → encode i = some w → decodeWord Config.fOffer w = .ok i

/-- Tier 3. No bit of a word is dropped (R101, R113): whatever driver accepted what, a word that decodes is the word of the
instruction it decodes to, and that instruction is well formed. -/
def Obligations.EncodeDecode : Prop :=
  ∀ (accept w : W32) (i : Instr), decodeWord accept w = .ok i → i.wf = true ∧ encode i = some w

/-- Tier 1. Words written out from the encodings of the rules decode to what they stand for (R122 to R128, R129, R151, R160,
R183, R199, R204, R209). -/
def Obligations.DecodeWords : Prop :=
  decodeWord Config.fOffer 0x0A144522 = .ok (.fmul 5 5 8 true .rz) ∧
  decodeWord Config.fOffer 0x060FFF0D = .ok (.addImm 3 3 0x3FF) ∧
  decodeWord Config.fOffer 0x0277010F = .ok (.movh 1 0x7701) ∧
  decodeWord Config.fOffer 0x15FFFF64 = .ok (.loop 10 0x1FFFF) ∧
  decodeWord Config.fOffer 0x04042D6C = .ok (.lpickBack 2 1 5 true) ∧
  decodeWord Config.fOffer 0x100BF587 = .ok (.stDie 8 2 0x7E true .b64) ∧
  decodeWord Config.fOffer 0x4407C0A0 = .ok (.talloc 4 2 3 112 .ts) ∧
  decodeWord Config.fOffer 0x000002B5 = .ok (.fence .die) ∧
  decodeWord Config.fOffer 0x000000E0 = .ok .nop

/-- Tier 2. A word has no assigned opcode exactly where the decoder says so (R111, R113), whatever its other bits and
whatever the driver accepted. -/
def Obligations.UnassignedOpcodes : Prop :=
  ∀ accept w : W32, decodeWord accept w = .error .unassigned ↔ unassigned (w.toNat % 256)

/-! ## One step -/

/-- Tier 1. A step runs the decoded instruction: where no input and no event is due and the next turn issues, a slot of
kind 0 with its reserved bit clear, whose word decodes, runs that instruction with the slot at the issue port. No sash has
a cycle left to try for its faults (R17), and the work of the cycle that comes before the turns is done (R180). -/
def Obligations.StepRunsDecoded : Prop :=
  ∀ (s : State) (t : Turn) (i : Instr), inputDue s.mach = none → nextEvent (enter s) = none → scanDue (enter s) = none →
    dueBody (enter s) (activeCores (enter s)) = none →
    nextTurn (enter s) (activeCores (enter s)) = .issue t → t.pth.slotWord.2.2 = 0 → t.pth.slotWord.2.1 % 2 = 0 →
    decodeWord (module s (modOf t.core)).faccept t.pth.slotWord.1 = .ok i →
    step s = exec i { s with mach := { s.mach with cur := some (t.issuer (vcc s t.core)) } }

/-- Tier 3. The machine never stops: a fault is a next state (R324), and so is every other outcome of a step. -/
def Obligations.StepAlwaysNext : Prop := ∀ s : State, ∃ s', step s = .next s'

/-- Tier 3. The memory keeps its canonical form: in every table the addresses rise strictly and no entry holds what an
unlisted address reads as. -/
def Obligations.StepKeepsMemoryForm : Prop := ∀ s s' : State, s.mem.wf = true → step s = .next s' → s'.mem.wf = true

/-- Tier 1. The memory after reset has that form. -/
def Obligations.ResetMemoryForm : Prop := State.reset.mem.wf = true

/-- Tier 1. The machine right after reset: no core has a sash, a block or a course; every module stands before its boot ROM,
with GCC, IMGSTAT and FACCEPT at 0, no group formed and the first RATE; no die has a table base or a mailbox. GCC and the
clock at 0, IMGSTAT and the RATE before a group forms, and the die registers at 0 are the model's choice (log entry 3), and
so is that every byte reads 0 (log entry 4). -/
def Obligations.ResetState : Prop :=
  (∀ c o r, (core State.reset c).sash = none ∧ block State.reset c o = none ∧ course State.reset c o r = none) ∧
  (∀ m, (module State.reset m).gcc = 0 ∧ (module State.reset m).imgStat = 0 ∧ (module State.reset m).faccept = 0
    ∧ (module State.reset m).formed = false ∧ (module State.reset m).rate = 0x00029F17) ∧
  (∀ d, (die State.reset d).tbase = 0 ∧ (die State.reset d).epoch = 0 ∧ (die State.reset d).mbox = none) ∧
  (∀ st a, State.reset.mem.byte st a = 0) ∧ State.reset.mach.cur = none ∧ State.reset.mach.clock = 0

/-- Tier 2. One cycle of the arithmetic clock, where nothing else is due and no mailbox record or byte charge waits for the cycle's end
(R35, R36, R43, R355, R375): GCC advances by one unless this is
a hold cycle, or becomes the master's stamp where that arrives (R341); VCC of a sash advances unless it stands paused or its
module holds, and no byte, block or course changes. -/
def Obligations.TickClocks : Prop :=
  ∀ s : State, inputDue s.mach = none → nextEvent (enter s) = none → scanDue (enter s) = none →
    dueBody (enter s) (activeCores (enter s)) = none → nextTurn (enter s) (activeCores (enter s)) = .none →
    dueTail (enter s) (activeCores (enter s)) = none → (∀ x ∈ s.mach.cores, x.2.recs = []) → (∀ x ∈ s.mach.dies, ∀ q ∈ x.2.quads, q.2.dues = []) →
    ∃ s', step s = .next s' ∧ s'.mem = s.mem ∧ s'.mach.clock = s.mach.clock + 1 ∧
      (∀ m x, s.mach.mods.find m = some x → ∃ y, s'.mach.mods.find m = some y ∧
        ((∀ l, x.loadAt = some l → s.mach.clock + 1 < l.1) → y.gcc = (if x.frozen then x.gcc else x.gcc + 1)) ∧
        (∀ l, x.loadAt = some l → l.1 ≤ s.mach.clock + 1 → y.gcc = l.2 ∧ y.loadAt = none)) ∧
      (∀ i x, sash s i = some x → ∃ y, sash s' i = some y ∧
        y = { x with vcc := if x.paused || (module s (x.die / 4)).frozen then x.vcc else x.vcc + 1 }) ∧
      (∀ c o r, block s' c o = block s c o ∧ course s' c o r = course s c o r)

/-! ## Faults in decode -/

/-- Tier 2. A privileged instruction of a block without privilege (R112, R115) takes the capability fault, code 0x07, and does nothing
else: no other course, tile, tag or arm, no debug list of any core, no mailbox or register of a die and no module changes (`DecodeFaults`). -/
def Obligations.PrivilegedFaults : Prop :=
  ∀ (i : Instr) (s : State) (t : Site), privileged i = true → At s t → t.b.bind.priv = false →
    ∃ s', exec i s = .next s' ∧ DecodeFaults s s' t 0x07 0 0

/-- Tier 2. A lane instruction of the register families that names a word outside the allotment takes the window fault,
code 0x0C, whether or not a lane is active (R12, R105, R115), and does nothing else. -/
def Obligations.WindowFaults : Prop :=
  ∀ (i : Instr) (f : Form) (s : State) (t : Site), laneForm i = some f → At s t → ¬ Fits t f.top →
    ∃ s', exec i s = .next s' ∧ DecodeFaults s s' t 0x0C 0 0

/-- Tier 2. A `bra`, `call`, `jtok` or `loop` whose target index lies below 0 takes the alignment fault, code 0x04, whatever
the lanes (R102, R115), and a `brx` or `ret` does so where a PC that an enabled lane supplies fails the checks of R95. INFO 0 of a target
below 0, and INFO of the lowest failing lane, are log entry 98; which other targets fault at the issue is log entry 122. -/
def Obligations.TargetFaults : Prop :=
  (∀ (i : Instr) (off : Int) (s : State) (t : Site), offsetOf i = some off → At s t → (t.i.pc : Int) + off < 0 →
    ∃ s', exec i s = .next s' ∧ DecodeFaults s s' t 0x04 0 0) ∧
  (∀ (a : Reg) (uni : Bool) (s : State) (t : Site) (j : Nat), At s t → (uni = true ∨ Fits t (a.toNat + 2)) → j < 32 → on t j = true →
    (∀ l, l < j → on t l = true → pcGood (t.k.src l (if uni then .uniPair a.toNat else .pair (t.k.wb + a.toNat))) = true) →
    pcGood (t.k.src j (if uni then .uniPair a.toNat else .pair (t.k.wb + a.toNat))) = false →
    (∃ s', exec (.brx a uni) s = .next s' ∧ DecodeFaults s s' t 0x04 0 (t.k.src j (if uni then .uniPair a.toNat else .pair (t.k.wb + a.toNat)))) ∧
    (∃ s', exec (.ret a uni) s = .next s' ∧ DecodeFaults s s' t 0x04 0 (t.k.src j (if uni then .uniPair a.toNat else .pair (t.k.wb + a.toNat)))))

/-! ## Issues of the register families -/

/-- Tier 2. Every lane instruction of the register families completes its issue (R16, R99, R116, R122, R129, R136 to R147, R161 to
R167, R195): the slot passes, `%dii` counts, the instruction goes over the lanes with the operands of its form, at the first
cycle its column is free (R39), and nothing else changes. -/
def Obligations.LaneIssue : Prop :=
  ∀ (i : Instr) (f : Form) (s : State) (t : Site), laneForm i = some f → At s t → Fits t f.top →
    ∃ s', exec i s = .next s' ∧ SendsLanes s s' t f 1

/-- Tier 2. So does every chained instruction (R19, R168), four cycles a lane, with the link that `.br` reads at the issue. -/
def Obligations.ChainIssue : Prop :=
  ∀ (i : Instr) (op : ChainOp) (br : Bool) (f : Form) (s : State) (t : Site), chainedForm i = some (op, br, f) → At s t → Fits t f.top →
    ∃ s' x, exec i s = .next s' ∧ SendsLanes s s' t f 4 ∧ (core s' t.i.core).flights = (core s t.i.core).flights ++ [x] ∧
      x.link = (if br then linkBits op (bridge s t) else 0) ∧ x.last = linkBits op (bridge s t) ∧ x.any = false

/-- Tier 2. Every uniform form executes once (R118, R122): its operands are read at the issue, its one result is ready L
cycles later, and nothing is written where the lowest active lane is disabled. That `usetp` writes the lanes of the path at the issue is
the model's choice (log entry 17). -/
def Obligations.UniformIssue : Prop :=
  ∀ (i : Instr) (op : AluOp) (f : Form) (s : State) (t : Site), uniForm i = some (op, f) → At s t →
    ∃ s', exec i s = .next s' ∧ LeavesResults s s' t (if once t then
      [pending s t (t.i.cyc + f.lat) (uniWrites t f.dst (aluEval op (t.k.src 0 f.a) (t.k.src 0 f.b) (t.k.src 0 f.c) (fun _ => 0)).val)] else [])

/-- Tier 1. `nop` takes its turn and does nothing else (R111). -/
def Obligations.NopIssue : Prop :=
  ∀ (s : State) (t : Site), At s t → ∃ s', exec .nop s = .next s' ∧ LeavesResults s s' t []

/-! ## Lanes -/

/-- Tier 2. A lane of a register-to-register instruction that is active and enabled reads its operands now and computes
(R8, R16, R116): its result is ready L cycles later, its draws are those of R72, and no register changes yet. The active lanes are those
that the path had at I and that have not exited, which is the model's choice (log entry 17). -/
def Obligations.LaneExecutes : Prop :=
  ∀ (s : State) (c seq j : Nat) (f : Flight) (b : Block) (k : Course) (op : AluOp), LaneDue s c seq j 1 f b k → j < 32 →
    f.form.op = .alu op → lives k f j = true → sound k f j = true →
    ∃ s' v, exec (.laneExecute c seq j) s = .next s' ∧ CoursesKept s s' ∧
      v = aluEval op (k.src j f.form.a) (k.src j f.form.b) (k.src j f.form.c)
        (fun e => (draw f.seed f.dii (BitVec.ofNat 64 ((if b.hdr.compat then j % 16 else j) + 32 * e))).toNat) ∧
      (core s' c).results = (core s c).results ++ [nextResult s c f (vcc s c + f.form.lat) (laneWrites f.form.dst j v.val) v.flags]

/-- Tier 2. A lane that is inactive, gone from the course or disabled executes nothing (R16, R155): whatever the instruction,
no result is recorded, no access made, and no register, byte or fault record changes. Cross-lane instructions collect at that
cycle and are stated apart. The last lane of a host access may leave its tag to be set (R186): no tag is cleared. The active lanes are
those that the path had at I and that have not exited (log entry 17). -/
def Obligations.LaneDisabled : Prop :=
  ∀ (s : State) (c seq j : Nat) (f : Flight) (b : Block) (k : Course), LaneDue s c seq j 1 f b k → (∀ op, f.form.op ≠ .xlane op) →
    lives k f j = false →
    ∃ s', exec (.laneExecute c seq j) s = .next s' ∧ (core s' c).results = (core s c).results ∧ (core s' c).accs = (core s c).accs ∧
      (core s' c).faults = (core s c).faults ∧ SameBytes s s' ∧ (∀ c' o r, course s' c' o r = course s c' o r) ∧
      (core s c).tags &&& ~~~(core s' c).tags = 0 ∧ ((∀ ld t sz, f.form.op ≠ .host ld t sz) → CoursesKept s s')

/-- Tier 2. Cross-lane results (R163 to R167, R178): when lane 31 has been collected, every enabled lane j receives its value at
I + j + 36, in ascending order of lane. The value is what its rule gives of the collected lanes of its partition tile (`Receives`): a
picked lane's word, a poll's truth or map, a sum, the least or greatest, the lowest enabled lane's word or number. The partition width
is a power of two, and 16 under COMPAT16 (R18). That every pick, poll and reduction then works on the halves of the course is DEDUCED in
log entry 90. -/
def Obligations.CrossLaneDelivers : Prop :=
  ∀ (s : State) (c seq : Nat) (f : Flight) (b : Block) (k : Course) (op : XOp), LaneDue s c seq 31 1 f b k → f.form.op = .xlane op →
    sound k f 31 = true → f.coll.length = 31 →
    ∃ s' coll, exec (.laneExecute c seq 31) s = .next s' ∧ CoursesKept s s' ∧ coll.length = 32 ∧ (∀ i, i < 31 → coll[i]? = f.coll[i]?) ∧
      coll[31]? = some (lives k f 31, (match op with
        | .pollAny q => if (k.pred q).getLsbD 31 then 1 else 0
        | .pollAll q => if (k.pred q).getLsbD 31 then 1 else 0
        | .pollMap q => if (k.pred q).getLsbD 31 then 1 else 0
        | _ => (k.src 31 f.form.a).truncate 32), (k.src 31 f.form.b).truncate 32) ∧
      (((core s' c).results.drop (core s c).results.length).map (fun r => (r.ready, r.writes)) =
        ((List.range 32).filter fun j => ((coll[j]?).getD (false, 0, 0)).1).map fun j =>
          (f.cyc + j + f.form.lat, laneWrites f.form.dst j ((xValue op b.hdr.compat f.part coll j).zeroExtend 64))) ∧
      ((∃ e, e ≤ 5 ∧ f.part = 2 ^ e) → (b.hdr.compat = true → f.part = 16) → let of_ := fun (n : Nat) => (coll[n]?).getD (false, 0, 0)
        ∀ j, j < 32 → (of_ j).1 = true → Receives op b.hdr.compat f.part (fun n => (of_ n).1) (fun n => (of_ n).2.1) (of_ j).2.2.toNat j
          (xValue op b.hdr.compat f.part coll j))

/-- Tier 2. One lane of a chained sweep (R19, R155, R168 to R171), lanes 0 to 31: the link is zero at a segment start unless lane 0 is
bridged; an enabled lane of the sweep that is still in the course computes op of its operands and the link, with the value of R169
(`StepValue`), and passes its result on; any other lane passes the link on and writes nothing. A lane that leaves the path leaves the
sweep's lanes (`Leaves`, log entry 17). -/
def Obligations.ChainSteps : Prop :=
  ∀ (s : State) (c seq j : Nat) (f : Flight) (b : Block) (k : Course) (op : ChainOp) (seg br : Bool), LaneDue s c seq j 4 f b k → j < 32 →
    f.form.op = .chain op seg br → sound k f j = true →
    ∃ s' link v, exec (.chainStep c seq j) s = .next s' ∧ CoursesKept s s' ∧
      link = (if (j % f.part = 0 ∨ (seg = true ∧ (k.pred 6).getLsbD j = true)) ∧ ¬ (j = 0 ∧ br = true) then 0 else f.link) ∧
      v = chainEval op (k.src j f.form.a) (k.src j f.form.b) link ∧ StepValue op (k.src j f.form.a) (k.src j f.form.b) link v ∧
      (if lives k f j then
        (core s' c).results = (core s c).results ++ [nextResult s c f (vcc s c + f.form.lat) (laneWrites f.form.dst j v.val) v.flags] ∧
        ({ f with link := linkBits op v.val, last := linkBits op v.val, any := true, next := j + 1 } : Flight) ∈ (core s' c).flights
      else (core s' c).results = (core s c).results ∧ ({ f with link := link, next := j + 1 } : Flight) ∈ (core s' c).flights)

/-- Tier 2. The end of a chained sweep (R19): `%bro` becomes the value of the last active lane, or the bridge read at the
issue where there was none, and nothing else of any course changes. That it is written then also where the course's last lane has exited
is the model's choice (log entry 18). -/
def Obligations.ChainEnds : Prop :=
  ∀ (s : State) (c seq : Nat) (f : Flight) (k : Course),
    ((core s c).flights.find? fun f => decide (f.seq = seq) && decide (f.stride = 4) && decide (32 ≤ f.next)) = some f →
    course s c f.owner f.cr = some k →
    ∃ s', exec (.broWrite c seq) s = .next s' ∧ SameBytes s s' ∧ course s' c f.owner f.cr = some { k with bro := f.last } ∧
      (∀ c' o r, c' ≠ c ∨ 32 * o + r ≠ 32 * f.owner + f.cr → course s' c' o r = course s c' o r) ∧
      (∀ c' o, block s' c' o = block s c' o) ∧ s'.mach = { s.mach with cores := s'.mach.cores }

/-- Tier 2. A result of one lane register or pair lands (R9, R16, R59, R73, R155): the words hold it in that lane, every other
word of every lane stands, so do predicates, uniform and special registers, and `%fpst` gains exactly its flags. In a lane that
has exited nothing lands (R155; log entry 87). -/
def Obligations.LaneResultLands : Prop :=
  ∀ (s : State) (c rid : Nat) (r : Result) (k : Course) (j n : Nat) (lo : W32) (hi : Option W32), Lands s c rid r k → j < 32 →
    r.writes = .lane j n lo :: (hi.map fun v => Write.lane j (n + 1) v).toList →
    ∃ s' k', exec (.resultReady c rid) s = .next s' ∧ LandsIn s s' c r k k' ∧ (∀ o, block s' c o = block s c o) ∧
      k'.preds = k.preds ∧ k'.k = k.k ∧ k'.seed = k.seed ∧ k'.tpc = k.tpc ∧
      (if k.live.getLsbD j then
        k'.reg n j = lo ∧ (∀ v, hi = some v → k'.reg (n + 1) j = v) ∧
        (∀ n' j', j' < 32 → ¬ (j' = j ∧ (n' = n ∨ (hi.isSome = true ∧ n' = n + 1))) → k'.reg n' j' = k.reg n' j') ∧
        k'.fpst = k.fpst ||| r.flags.zeroExtend 32
      else k'.regs = k.regs ∧ k'.fpst = k.fpst)

/-- Tier 2. A result of a predicate lands in the lanes of its mask that are in the course (R105, R118, R155), and a write to p7
is discarded: p7 reads true in every lane before and after. That a lane that has exited takes none is DEDUCED in log entry 87. -/
def Obligations.PredicateResultLands : Prop :=
  ∀ (s : State) (c rid : Nat) (r : Result) (k : Course) (p : BitVec 3) (m v : LaneMask), Lands s c rid r k →
    r.writes = [.pred p m v] →
    ∃ s' k', exec (.resultReady c rid) s = .next s' ∧ LandsIn s s' c r k k' ∧ (∀ o, block s' c o = block s c o) ∧
      k'.regs = k.regs ∧ k'.k = k.k ∧ k'.seed = k.seed ∧ k'.tpc = k.tpc ∧ k.pred 7 = 0xFFFFFFFF ∧ k'.pred 7 = 0xFFFFFFFF ∧
      (∀ q j, j < 32 → (k'.pred q).getLsbD j =
        if q = p ∧ p ≠ 7 ∧ m.getLsbD j = true ∧ k.live.getLsbD j = true then v.getLsbD j else (k.pred q).getLsbD j)

/-- Tier 2. A result of a uniform register or of a special register lands (R118, R162): `%seed`, `%fpst` and `%tpc` of the
course or `%bseed` of the block take the value, and nothing else of the course changes. `%fpst` keeps the five flag bits alone (R6, R73;
DEDUCED in log entry 45), and a uniform result lands whatever lanes are left (DEDUCED in log entry 87). -/
def Obligations.UniformResultLands : Prop :=
  ∀ (s : State) (c rid : Nat) (r : Result) (k : Course), Lands s c rid r k → r.flags = 0 →
    (∀ n v, r.writes = [.uni n v] → ∃ s' k', exec (.resultReady c rid) s = .next s' ∧ LandsIn s s' c r k k' ∧
      k' = { k with k := k'.k } ∧ k'.uni n = v ∧ (∀ m, m ≠ n → k'.uni m = k.uni m)) ∧
    (∀ v, r.writes = [.sr 0x0A v] → ∃ s', exec (.resultReady c rid) s = .next s' ∧ LandsIn s s' c r k { k with seed := v }) ∧
    (∀ v, r.writes = [.sr 0x11 v] → ∃ s', exec (.resultReady c rid) s = .next s' ∧ LandsIn s s' c r k { k with fpst := v.truncate 32 &&& 0x1F }) ∧
    (∀ v, r.writes = [.sr 0x12 v] → ∃ s', exec (.resultReady c rid) s = .next s' ∧ LandsIn s s' c r k { k with tpc := v }) ∧
    (∀ v b, r.writes = [.sr 0x0D v] → block s c r.owner = some b → ∃ s', exec (.resultReady c rid) s = .next s' ∧ LandsIn s s' c r k k ∧
      block s' c r.owner = some { b with bseed := v })

/-! ## Values -/

/-- Tier 2. The arithmetic families (R124), on operands of any value: sums, differences, products and product sums modulo 2^W,
saturating sums and differences, high products, and the lesser and the greater. No flag is raised. -/
def Obligations.IntegerValues : Prop :=
  ∀ (a b c : W64) (d : Nat → Nat),
    (∀ w, aluEval (.add w) a b c d = { val := written w (a.toNat + b.toNat) } ∧
      aluEval (.sub w) a b c d = { val := written w (a.toNat - b.toNat) } ∧
      aluEval (.mul w) a b c d = { val := written w (a.toNat * b.toNat) } ∧
      aluEval (.mad w) a b c d = { val := written w (a.toNat * b.toNat + c.toNat) }) ∧
    (∀ (u wide : Bool), let n := if wide then 64 else 32
      aluEval (.addSat u wide) a b c d = { val := clamped n u (low n u a + low n u b) } ∧
      aluEval (.subSat u wide) a b c d = { val := clamped n u (low n u a - low n u b) } ∧
      aluEval (.mulhi u wide) a b c d = { val := (BitVec.ofInt n (Int.fdiv (low n u a * low n u b) (2 ^ n))).zeroExtend 64 }) ∧
    (∀ u : Bool, aluEval (.min u) a b c d = { val := word (BitVec.ofInt 32 (min (low 32 u a) (low 32 u b))) } ∧
      aluEval (.max u) a b c d = { val := word (BitVec.ofInt 32 (max (low 32 u a) (low 32 u b))) })

/-- Tier 2. The logic, shift and bit families (R125): bits [31:5] of a count are ignored, and no flag is raised. -/
def Obligations.LogicValues : Prop :=
  ∀ (a b c : W32) (d : Nat → Nat),
    aluEval .and (word a) (word b) (word c) d = { val := word (a &&& b) } ∧
    aluEval .or (word a) (word b) (word c) d = { val := word (a ||| b) } ∧
    aluEval .xor (word a) (word b) (word c) d = { val := word (a ^^^ b) } ∧
    aluEval .andn (word a) (word b) (word c) d = { val := word (a &&& ~~~b) } ∧
    aluEval .shl (word a) (word b) (word c) d = { val := word (a <<< (b.toNat % 32)) } ∧
    aluEval .shrZ (word a) (word b) (word c) d = { val := word (a >>> (b.toNat % 32)) } ∧
    aluEval .shrS (word a) (word b) (word c) d = { val := word (a.sshiftRight (b.toNat % 32)) } ∧
    aluEval .rol (word a) (word b) (word c) d = { val := word (a.rotateLeft (b.toNat % 32)) } ∧
    aluEval .neg (word a) (word b) (word c) d = { val := word (-a) } ∧
    aluEval .popc (word a) (word b) (word c) d = { val := BitVec.ofNat 64 ((List.range 32).filter fun i => a.getLsbD i).length } ∧
    (∃ n, n ≤ 32 ∧ aluEval .clz (word a) (word b) (word c) d = { val := BitVec.ofNat 64 n } ∧
      (∀ i, 32 - n ≤ i → a.getLsbD i = false) ∧ (n < 32 → a.getLsbD (31 - n) = true)) ∧
    (∃ r : W32, aluEval .brev (word a) (word b) (word c) d = { val := word r } ∧ ∀ i, i < 32 → r.getLsbD i = a.getLsbD (31 - i))

/-- Tier 2. Division and remainder (R127): a zero divisor gives all ones and the dividend, the one overflow gives -2^31 and 0,
and otherwise the quotient is rounded toward zero. No case raises a flag. -/
def Obligations.DivisionValues : Prop :=
  ∀ (a b c : W64) (d : Nat → Nat) (u : Bool),
    (low 32 u b = 0 → aluEval (.div u) a b c d = { val := 0xFFFFFFFF } ∧ aluEval (.rem u) a b c d = { val := word (a.truncate 32) }) ∧
    (u = false → low 32 u a = -2 ^ 31 → low 32 u b = -1 →
      aluEval (.div u) a b c d = { val := 0x80000000 } ∧ aluEval (.rem u) a b c d = { val := 0 }) ∧
    (low 32 u b ≠ 0 → ¬ (u = false ∧ low 32 u a = -2 ^ 31 ∧ low 32 u b = -1) →
      aluEval (.div u) a b c d = { val := word (BitVec.ofInt 32 (Int.tdiv (low 32 u a) (low 32 u b))) } ∧
      aluEval (.rem u) a b c d = { val := word (BitVec.ofInt 32 (low 32 u a - Int.tdiv (low 32 u a) (low 32 u b) * low 32 u b)) })

/-- Tier 2. Comparisons under the codes of R126 at each width, and the moves of R128: `movi` gives its sign-extended immediate,
`movh` its immediate above the low 15 bits of the old register. -/
def Obligations.CompareAndMoveValues : Prop :=
  (∀ (a b c : W64) (d : Nat → Nat) (cc : CondI) (w : IntW), let n := match w with | .w32 => 32 | .w64 => 64 | .w16 => 16 | .w8 => 8
    (compare cc n a b → aluEval (.setp cc w) a b c d = { val := 1 }) ∧ (¬ compare cc n a b → aluEval (.setp cc w) a b c d = { val := 0 })) ∧
  (∀ (imm : BitVec 17) (b c : W64) (d : Nat → Nat), aluEval .mov (word (imm.signExtend 32)) b c d = { val := word (imm.signExtend 32) }) ∧
  (∀ (imm : BitVec 17) (b : W64) (c : W32) (d : Nat → Nat),
    aluEval .movh (imm.zeroExtend 64) b (word c) d = { val := word ((imm.zeroExtend 32 <<< 15) ||| (c &&& 0x7FFF)) })

/-- Tier 2. `fabs`, `fneg` and `fcpsgn` act on the sign bit alone, of FP32 and of FP64, NaNs included, and raise no flag (R133). -/
def Obligations.SignValues : Prop :=
  (∀ (a b : W32) (c : W64) (d : Nat → Nat),
    aluEval (.fabs .f32) (word a) (word b) c d = { val := word (a &&& 0x7FFFFFFF) } ∧
    aluEval (.fneg .f32) (word a) (word b) c d = { val := word (a ^^^ 0x80000000) } ∧
    aluEval (.fcpsgn .f32) (word a) (word b) c d = { val := word ((a &&& 0x7FFFFFFF) ||| (b &&& 0x80000000)) }) ∧
  (∀ (a b c : W64) (d : Nat → Nat),
    aluEval (.fabs .f64) a b c d = { val := a &&& 0x7FFFFFFFFFFFFFFF } ∧
    aluEval (.fneg .f64) a b c d = { val := a ^^^ 0x8000000000000000 } ∧
    aluEval (.fcpsgn .f64) a b c d = { val := (a &&& 0x7FFFFFFFFFFFFFFF) ||| (b &&& 0x8000000000000000) })

/-- Tier 2. `fclass` and `dclass` set exactly the bit of the operand's class, and raise no flag (R134). -/
def Obligations.ClassValues : Prop :=
  (∀ (a : W32) (b c : W64) (d : Nat → Nat), aluEval (.fclass .f32) (word a) b c d =
    { val := BitVec.ofNat 64 (2 ^ classBit a.msb (a.toNat / 2 ^ 23 % 2 ^ 8) 8 (a.toNat % 2 ^ 23) (a.getLsbD 22)) }) ∧
  (∀ (a b c : W64) (d : Nat → Nat), aluEval (.fclass .f64) a b c d =
    { val := BitVec.ofNat 64 (2 ^ classBit a.msb (a.toNat / 2 ^ 52 % 2 ^ 11) 11 (a.toNat % 2 ^ 52) (a.getLsbD 51)) })

/-- Tier 2. `fsetp` and `dsetp` compare the places of their operands in the order of values, signed zeros equal, and raise NV
for a signalling NaN under every code and no flag otherwise (R132). -/
def Obligations.FloatCompareValues : Prop :=
  (∀ (cc : CondF) (a b : W32) (c : W64) (d : Nat → Nat),
    (ordered cc (nan32 a || nan32 b) (place 32 a) (place 32 b) → (aluEval (.fsetp .f32 cc) (word a) (word b) c d).val = 1) ∧
    (¬ ordered cc (nan32 a || nan32 b) (place 32 a) (place 32 b) → (aluEval (.fsetp .f32 cc) (word a) (word b) c d).val = 0) ∧
    (aluEval (.fsetp .f32 cc) (word a) (word b) c d).flags = if snan32 a || snan32 b then flagNV else 0) ∧
  (∀ (cc : CondF) (a b c : W64) (d : Nat → Nat),
    (ordered cc (nan64 a || nan64 b) (place 64 a) (place 64 b) → (aluEval (.fsetp .f64 cc) a b c d).val = 1) ∧
    (¬ ordered cc (nan64 a || nan64 b) (place 64 a) (place 64 b) → (aluEval (.fsetp .f64 cc) a b c d).val = 0) ∧
    (aluEval (.fsetp .f64 cc) a b c d).flags = if snan64 a || snan64 b then flagNV else 0)

/-- Tier 2. `fmin` and `fmax`, `dmin` and `dmax`, and the packed `hmin` and `hmax` in each half (R131): the other operand of one NaN,
the canonical NaN of two, else the operand of lesser or greater place, bit for bit, -0 below +0; NV for a signalling NaN and no
other flag. -/
def Obligations.MinMaxValues : Prop :=
  (∀ (a b c : W64) (d : Nat → Nat) (greater : Bool),
    (∀ f ∈ [FFmt.f32, .f64], Scalar f (if greater then .fmax f else .fmin f) a b c d fun x y _ o => Lesser f greater x y o) ∧
    (∀ f ∈ [FFmt.f16, .bf16], Packed (if greater then .hmax f else .hmin f) a b c d fun x y _ o => Lesser f greater x y o)) ∧
  ∀ (a b : W32) (c : W64) (d : Nat → Nat), let fl : FpFlags := if snan32 a || snan32 b then flagNV else 0
    let before := place 32 a < place 32 b ∨ (place 32 a = place 32 b ∧ a.msb = true ∧ b.msb = false)
    (nan32 a = true → nan32 b = true → aluEval (.fmin .f32) (word a) (word b) c d = { val := 0x7FC00000, flags := fl } ∧
      aluEval (.fmax .f32) (word a) (word b) c d = { val := 0x7FC00000, flags := fl }) ∧
    (nan32 a = true → nan32 b = false → aluEval (.fmin .f32) (word a) (word b) c d = { val := word b, flags := fl } ∧
      aluEval (.fmax .f32) (word a) (word b) c d = { val := word b, flags := fl }) ∧
    (nan32 a = false → nan32 b = true → aluEval (.fmin .f32) (word a) (word b) c d = { val := word a, flags := fl } ∧
      aluEval (.fmax .f32) (word a) (word b) c d = { val := word a, flags := fl }) ∧
    (nan32 a = false → nan32 b = false →
      (before → aluEval (.fmin .f32) (word a) (word b) c d = { val := word a, flags := 0 } ∧
        aluEval (.fmax .f32) (word a) (word b) c d = { val := word b, flags := 0 }) ∧
      (¬ before → aluEval (.fmin .f32) (word a) (word b) c d = { val := word b, flags := 0 } ∧
        aluEval (.fmax .f32) (word a) (word b) c d = { val := word a, flags := 0 }))

/-- Tier 2. Sums, differences, products and fused multiply-adds of FP32, FP64 and, in each half, of the packed formats (R65, R66,
R130): a NaN operand gives the canonical NaN of the format, with NV exactly for a signalling one; so do opposite infinities of a
sum and zero times infinity, of any sign and in any order, with NV; an infinity else gives an infinity, and finite operands give
the exact value rounded once. The last four clauses spell out FP32 cases. -/
def Obligations.NanResults : Prop :=
  ∀ (rm : Round) (a b : W32) (c : W64) (d : Nat → Nat),
    (∀ f ∈ [FFmt.f32, .f64], ∀ x y z : W64, Scalar f (.fadd f rm) x y z d (fun p q _ o => Sum f rm p q o) ∧
      Scalar f (.fsub f rm) x y z d (fun p q _ o => Sum f rm p (turned f q) o) ∧ Scalar f (.fmul f rm) x y z d (fun p q _ o => Product f rm p q o) ∧
      Scalar f (.ffma f rm) x y z d fun p q r o => Fused f rm p q r o) ∧
    (∀ f ∈ [FFmt.f16, .bf16], ∀ x y z : W64, Packed (.hadd f rm) x y z d (fun p q _ o => Sum f rm p q o) ∧
      Packed (.hmul f rm) x y z d (fun p q _ o => Product f rm p q o) ∧ Packed (.hfma f rm) x y z d fun p q r o => Fused f rm p q r o) ∧
    ((nan32 a || nan32 b) = true → ∀ op ∈ [AluOp.fadd .f32 rm, .fsub .f32 rm, .fmul .f32 rm],
      aluEval op (word a) (word b) c d = { val := 0x7FC00000, flags := if snan32 a || snan32 b then flagNV else 0 }) ∧
    aluEval (.fadd .f32 rm) (word 0x7F800000) (word 0xFF800000) c d = { val := 0x7FC00000, flags := flagNV } ∧
    aluEval (.fsub .f32 rm) (word 0x7F800000) (word 0x7F800000) c d = { val := 0x7FC00000, flags := flagNV } ∧
    (a.toNat % 2 ^ 31 = 0 → aluEval (.fmul .f32 rm) (word a) (word 0x7F800000) c d = { val := 0x7FC00000, flags := flagNV })

/-- Tier 2. Rounding and the special functions. A value that a format holds is rounded to itself in every mode, subnormals
included, and raises no flag (R62); every other goes to the neighbour that the mode chooses, with the overflow, underflow and inexact
flags (R67 to R69). A special function of NaN, of an infinity, of zero and of a number outside its range gives what R143 lists; `rcp`,
`rsq` and `sqrt` give the exact value rounded once to FP32 with RNE (R142), and so do `exp2` of an integer and `log2` of a power of
two; every other result of `exp2`, `log2`, `sin` and `cos` is inexact. -/
def Obligations.RoundKeepsExact : Prop :=
  (∀ (f : FFmt) (rm : Round) (x : Nat) (sg : Bool) (m : Nat) (e : Int), x < 2 ^ fmtWidth f → unpackF f x = .num sg m e → m ≠ 0 →
    roundF f rm sg m e = (x, 0)) ∧
  (∀ (f : FFmt) (rm : Round) (sg : Bool) (m : Nat) (e : ℤ), m ≠ 0 → RoundsBy f rm sg (fun r => cmp r (m * 2 ^ e)) (roundF f rm sg m e)) ∧
  (∀ (op : Sfu) (a : W32) (b c : W64) (d : Nat → Nat), let x := a.toNat
    let y := aluEval (.sfu op) (word a) b c d
    (nan .f32 x = true → y = { val := 0x7FC00000, flags := invalid .f32 [x] }) ∧
    (∀ r, nan .f32 x = false → specialOf op x = some r → y = { val := BitVec.ofNat 64 r.1, flags := r.2 }) ∧
    (nan .f32 x = false → specialOf op x = none → let v := value .f32 x
      ∃ r : Nat × FpFlags, y = { val := BitVec.ofNat 64 r.1, flags := r.2 } ∧
        match op with
        | .rcp => Rounds .f32 .rne (1 / v) r
        | .sqrt => RoundsBy .f32 .rne false (fun q => cmp (q * q) v) r
        | .rsq => RoundsBy .f32 .rne false (fun q => cmp (q * q * v) 1) r
        | .exp2 => (∀ n : ℤ, v = n → Rounds .f32 .rne (2 ^ n) r) ∧ ((∀ n : ℤ, v ≠ n) → r.2 &&& flagNX = flagNX)
        | .log2 => (∀ n : ℤ, v = 2 ^ n → RoundsTo .f32 .rne false n r) ∧ ((∀ n : ℤ, v ≠ 2 ^ n) → r.2 &&& flagNX = flagNX)
        | _ => r.2 &&& flagNX = flagNX))

/-- Tier 2. Conversions, byte permute and dot products (R136 to R141, R145 to R147). A conversion to a floating-point format gives the
chosen source element rounded once, by the mode or by the draw, in the chosen element of its destination, whose other elements
stand; one to an integer type gives the integer of the mode, or the type's bound with NV; QN4 codes are chosen under a block scale and
give their value times it. Each byte of a permute is the chosen one of eight, as it is, cleared, filled with its sign or bit-reversed;
an integer dot product is the sum of its element products and the third operand modulo 2^32, and `hdp2` the exact sum rounded once.
Whether a result by a draw raises UF is left open (log entry 7), and so is NV of an `hdp2` with a quiet NaN and no signalling one. -/
def Obligations.PermuteAndDotValues : Prop :=
  (∀ (f : FFmt) (sel : BitVec 2) (st : SType) (rm : CvtRound) (a b c : W64) (d : Nat → Nat), floatOf st ≠ some f →
    let w := 1 + expBits f + fracBits f
    let y := aluEval (.cvtF f sel st rm) a b c d
    let at_ := fun (v : W64) (e : Nat) => v.toNat / 2 ^ (w * e) % 2 ^ w
    (w < 32 → sel.toNat < 32 / w) → (widthOf st < 32 → sel.toNat < 32 / widthOf st) →
    ∃ r, ConvertsFrom st f rm (d (if w < 32 then sel.toNat else 0)) (elementOf st sel.toNat a) r ∧ y.flags = r.2 ∧
      (32 ≤ w → y.val = BitVec.ofNat 64 r.1) ∧
      (w < 32 → y.val.toNat < 2 ^ 32 ∧ ∀ e, e < 32 / w → at_ y.val e = if e = sel.toNat then r.1 else at_ c e)) ∧
  (∀ (dt : DType) (f64 : Bool) (rm : Round) (a b c : W64) (d : Nat → Nat), let f : FFmt := if f64 then .f64 else .f32
    ∃ o, ToInteger f dt rm (a.toNat % 2 ^ (1 + expBits f + fracBits f)) o ∧
      aluEval (.cvtI dt f64 rm) a b c d = { val := if (destOf dt).1 = 64 then BitVec.ofInt 64 o.1 else word (BitVec.ofInt 32 o.1), flags := o.2 }) ∧
  (∀ (a b : W32) (c : W64) (d : Nat → Nat),
    (∀ rm, ∃ o, Quantises rm (d 0) a.toNat b.toNat o ∧ aluEval (.toQn4 rm) (word a) (word b) c d = { val := BitVec.ofNat 64 o.1, flags := o.2 }) ∧
    (∀ rm, ∃ o, Dequantises rm (a.toNat % 16) b.toNat o ∧ aluEval (.ofQn4 rm) (word a) (word b) c d = { val := BitVec.ofNat 64 o.1, flags := o.2 })) ∧
  (∀ (bf : Bool) (a b c : W32) (d : Nat → Nat), let half := fun (v : W32) => [v.toNat % 2 ^ 16, v.toNat / 2 ^ 16]
    ∃ o, DotOf (if bf then .bf16 else .f16) (half a) (half b) c.toNat o ∧
      aluEval (.hdp2 bf) (word a) (word b) (word c) d = { val := BitVec.ofNat 64 o.1, flags := o.2 }) ∧
  (∀ (a b sl : W32) (d : Nat → Nat) (i : Nat), i < 4 → let x : BitVec 8 := ((b ++ a : BitVec 64) >>> (8 * (sl.toNat / 2 ^ (8 * i) % 8))).truncate 8
    let y : BitVec 8 := ((aluEval .bsel (word a) (word b) (word sl) d).val >>> (8 * i)).truncate 8
    (aluEval .bsel (word a) (word b) (word sl) d).flags = 0 ∧
    (aluEval .bsel (word a) (word b) (word sl) d).val.toNat < 2 ^ 32 ∧
    match sl.toNat / 2 ^ (8 * i + 3) % 4 with
    | 0 => y = x
    | 1 => y = 0
    | 2 => y = if x.msb then 0xFF else 0
    | _ => ∀ k, k < 8 → y.getLsbD k = x.getLsbD (7 - k)) ∧
  (∀ (a b c : W32) (d : Nat → Nat) (sg : DotSign),
    aluEval (.dp4 sg) (word a) (word b) (word c) d = { val := word (BitVec.ofInt 32 (c.toNat +
      (element sg 8 a b 0 + element sg 8 a b 1 + element sg 8 a b 2 + element sg 8 a b 3))) } ∧
    aluEval (.dp2 sg) (word a) (word b) (word c) d = { val := word (BitVec.ofInt 32 (c.toNat +
      (element sg 16 a b 0 + element sg 16 a b 1))) })

/-! ## Transfers, exit, tokens -/

/-- Tier 2. `bra`, `call`, `brx` and `ret` complete (R151 to R153): the enabled lanes go to their targets and the others to
the next slot, and `call` with an enabled lane leaves its link in k124:k125; lanes that leave their path leave its chained
sweeps (R171), and nothing else changes. A poisoned pair of an enabled lane raises POISON instead (R332). -/
def Obligations.TransferIssue : Prop :=
  (∀ (off : BitVec 24) (s : State) (t : Site) (x : Nat), At s t → (t.i.pc : Int) + off.toInt = x →
    (∃ s', exec (.bra off) s = .next s' ∧ Leaves s s' t (went t fun _ => x) []) ∧
    (∃ s', exec (.call off) s = .next s' ∧ Leaves s s' t (went t fun _ => x)
      (if (List.range 32).any (on t) then [pending s t (t.i.cyc + 2) (uniPairWrites 124 (pcWord (t.i.pc + 1)))] else []))) ∧
  (∀ (a : Reg) (uni : Bool) (s : State) (t : Site), At s t → (uni = true ∨ Fits t (a.toNat + 2)) →
    (∀ j, j < 32 → on t j = true → pcGood (supplied t a uni j) = true) →
    ((∀ j, j < 32 → on t j = true → pairPoisoned t a uni j = false) →
      (∃ s', exec (.brx a uni) s = .next s' ∧ Leaves s s' t (went t fun j => pcIndex (supplied t a uni j)) []) ∧
      (∃ s', exec (.ret a uni) s = .next s' ∧ Leaves s s' t (went t fun j => pcIndex (supplied t a uni j)) [])) ∧
    (∀ j, j < 32 → on t j = true → pairPoisoned t a uni j = true → ∀ i ∈ [Instr.brx a uni, .ret a uni],
      ∃ s', exec i s = .next s' ∧ OnceFaults s s' t 0x09 0 1 0))

/-- Tier 2. How a transfer divides a path (R22, R151): the largest group of lanes with one target keeps the slot, of equal
ones that with the lowest lane; every other group is a path of its own at its target, and no other path changes. -/
def Obligations.TransferLanes : Prop :=
  ∀ (k : Course) (ix cyc : Nat) (p : Path) (f : Nat → Nat), k.path? ix = some p → p.mask ≠ 0 →
    ∃ l q, p.mask.getLsbD l = true ∧ (k.transfer ix cyc f).path? ix = some q ∧ q = { p with mask := q.mask, pc := f l } ∧
      (∀ j, j < 32 → q.mask.getLsbD j = together p f l j) ∧
      (∀ j, p.mask.getLsbD j = true → howMany p f j ≤ howMany p f l ∧
        (howMany p f j = howMany p f l → ∃ i, i ≤ j ∧ together p f l i = true)) ∧
      (∀ j, p.mask.getLsbD j = true → ∃ x ∈ (k.transfer ix cyc f).paths, x.2.pc = f j ∧
        ∀ i, i < 32 → x.2.mask.getLsbD i = together p f j i) ∧
      (∀ x ∈ k.paths, x.1 ≠ ix → x ∈ (k.transfer ix cyc f).paths)

/-- Tier 2. `loop` subtracts 1 from kD and goes back while the difference is not zero (R154); where the lowest active lane is
disabled it only takes its turn. -/
def Obligations.LoopExecutes : Prop :=
  ∀ (d : Reg) (off : BitVec 17) (s : State) (t : Site) (x : Nat), At s t → (t.i.pc : Int) + off.toInt = x →
    ∃ s', exec (.loop d off) s = .next s' ∧
      (once t = true → Moves s s' t (if t.k.uni d.toNat = 1 then issuedCourse t else (issuedCourse t).setPath t.i.slot { passed t with pc := x })
        [pending s t (t.i.cyc + 2) [.uni d.toNat (t.k.uni d.toNat - 1)]]) ∧
      (once t = false → Moves s s' t (issuedCourse t) [])

/-- Tier 2. `exit` (R155): the enabled lanes leave the course; while a lane is left nothing else changes; with the last lane
the course's SIG flags clear. -/
def Obligations.ExitExecutes : Prop :=
  ∀ (s : State) (t : Site), At s t → ∃ s', exec .exit s = .next s' ∧ SameBytes s s' ∧ s'.mach.cur = none ∧
    (∀ j, j < 32 → ((issuedCourse t).exitLanes t.i.slot t.i.cyc t.enabled).live.getLsbD j = (t.k.live.getLsbD j && !on t j)) ∧
    ((∃ j, j < 32 ∧ t.k.live.getLsbD j = true ∧ on t j = false) →
      Leaves s s' t ((issuedCourse t).exitLanes t.i.slot t.i.cyc t.enabled) []) ∧
    ((∀ j, j < 32 → t.k.live.getLsbD j = true → on t j = true) → ∀ b', block s' t.i.core t.i.owner = some b' →
      ∀ n, ((b'.phasers.find n).getD {}).sig.getLsbD t.i.cr = false)

/-- Tier 2. `jtok` and `join` (R26, R156, R157). `jtok` completes with a token of the path's lanes, or raises BOUND where 16 are
live. `join` completes: a path whose innermost token is not for this slot goes on; at its token it parks while a holder is
missing, and with the last holder all members unite at the next slot. -/
def Obligations.JoinTokens : Prop :=
  (∀ (off : BitVec 24) (s : State) (t : Site) (x : Nat), At s t → (t.i.pc : Int) + off.toInt = x →
    (t.k.tokens.length < 16 → ∃ s', exec (.jtok off) s = .next s' ∧
      Moves s s' t { issuedCourse t with tokens := t.k.tokens ++ [{ jaddr := x, hold := t.p.mask, parked := 0 }] } []) ∧
    (16 ≤ t.k.tokens.length → ∃ s', exec (.jtok off) s = .next s' ∧ OnceFaults s s' t 0x0B 0 1 0)) ∧
  (∀ (s : State) (t : Site), At s t →
    (∃ s', exec .join s = .next s' ∧ Leaves s s' t ((issuedCourse t).joinAt t.i.slot t.i.pc t.i.cyc) []) ∧
    (((t.k.innermost t.p.mask).bind fun n => t.k.tokens[n]?).map Token.jaddr ≠ some t.i.pc →
      ∃ s', exec .join s = .next s' ∧ Leaves s s' t (issuedCourse t) []) ∧
    (∀ n x, t.i.slot < 2 → t.k.innermost t.p.mask = some n → t.k.tokens[n]? = some x → x.jaddr = t.i.pc → ¬ allArrived t x →
      ∃ s' k', exec .join s = .next s' ∧ Leaves s s' t k' [] ∧
        k'.tokens = t.k.tokens.set n { x with parked := x.parked ||| (t.p.mask &&& x.hold) } ∧
        ∃ y ∈ k'.paths, y.2 = { passed t with st := .parked, pc := t.i.pc }) ∧
    (∀ n x, t.i.slot < 2 → t.k.innermost t.p.mask = some n → t.k.tokens[n]? = some x → x.jaddr = t.i.pc → allArrived t x →
      (∀ y ∈ t.k.paths, y.2.held = false) →
      ∃ s' k', exec .join s = .next s' ∧ Leaves s s' t k' [] ∧ k'.tokens = t.k.tokens.eraseIdx n ∧
        ∃ u ∈ k'.paths, u.2.pc = t.i.pc + 1 ∧ u.2.st = .ready ∧ (∀ j, t.p.mask.getLsbD j = true → u.2.mask.getLsbD j = true) ∧
          ∀ y ∈ t.k.paths, y.1 ≠ t.i.slot → y.2.st = .parked → t.k.innermost y.2.mask = some n →
            ∀ j, y.2.mask.getLsbD j = true → u.2.mask.getLsbD j = true)) ∧
  (∀ (k : Course) (ix cyc n : Nat) (p : Path) (x : Token), k.path? ix = some p → ix < 2 → k.innermost p.mask = some n →
    k.tokens[n]? = some x → x.hold &&& ~~~(x.parked ||| p.mask) = 0 → (∀ y ∈ k.paths, y.2.held = false) →
    ∃ u ∈ (k.joinAt ix x.jaddr cyc).paths, u.2.pc = x.jaddr + 1 ∧ u.2.st = .ready ∧ ∀ j, p.mask.getLsbD j = true → u.2.mask.getLsbD j = true)

/-- Tier 2. `wbase` moves the window or takes the window fault (R159); `part` sets the partition width, unless COMPAT16 fixes it
(R160, R178); where the lowest active lane is disabled both only take their turn. -/
def Obligations.WindowAndPartition : Prop :=
  (∀ (n : BitVec 10) (s : State) (t : Site), At s t → ∃ s', exec (.wbase n) s = .next s' ∧
    (once t = true → 32 * n.toNat < t.k.allotAt t.i.cyc → Moves s s' t { issuedCourse t with wb := 32 * n.toNat } []) ∧
    (once t = true → t.k.allotAt t.i.cyc ≤ 32 * n.toNat → OnceFaults s s' t 0x0C 0 1 0) ∧
    (once t = false → Moves s s' t (issuedCourse t) [])) ∧
  (∀ (e : BitVec 10) (s : State) (t : Site), At s t → ∃ s', exec (.part e) s = .next s' ∧
    (once t = true → t.b.hdr.compat = false → Moves s s' t { issuedCourse t with part := 2 ^ e.toNat } []) ∧
    (once t = false ∨ t.b.hdr.compat = true → Moves s s' t (issuedCourse t) []))

/-! ## Special registers and traps -/

/-- Tier 2. `mfs` to a uniform register and `mts` from one (R106, R161, R162): the value as it stands at the issue, ready two
cycles later; a `%tpc` that fails R95 faults in decode. A read of `%gcc` is an input of the log where the die records or
replays (R386). -/
def Obligations.SpecialMoves : Prop :=
  (∀ (d sr : Reg) (s : State) (t : Site), At s t → ∃ s' v, exec (.mfs d sr true) s = .next s' ∧
    course s' t.i.core t.i.owner t.i.cr = some (issuedCourse t) ∧
    (let rs := if once t then [pending s t (t.i.cyc + 2) (if srWide sr.toNat then uniPairWrites d.toNat v else [.uni d.toNat (v.truncate 32)])] else []
     (core s' t.i.core).results = (core s t.i.core).results ++ rs ∧
      (sr ≠ 5 ∨ (die s (dieOf t.i.core)).recMode = 0 → v = special s t sr.toNat (lowestLane t.p.mask) ∧ Moves s s' t (issuedCourse t) rs))) ∧
  (∀ (sr a : Reg) (s : State) (t : Site), At s t → let v := t.k.src 0 (if srWide sr.toNat then .uniPair a.toNat else .uni a.toNat)
    ∃ s', exec (.mts sr a true) s = .next s' ∧
      (once t = false → Moves s s' t (issuedCourse t) []) ∧
      (once t = true → (sr ≠ 0x12 ∨ pcGood v = true) → Moves s s' t (issuedCourse t) [pending s t (t.i.cyc + 2) [.sr sr.toNat v]]) ∧
      (once t = true → sr = 0x12 → pcGood v = false → DecodeFaults s s' t 0x04 0 v))

/-- Tier 2. `trap`, `brk` and `tret` (R172 to R175, R326): with a handler that is not yet entered the path enters it; without one,
or in one, the core's trap record counts and the path goes on; `tret` returns to `%tpc`, or faults in decode. A `brk` of a block that a
debug course has claimed traps nowhere (R377, R380): in a free launch its path is held and goes past a breakpoint of the next slot once; in
a timed one it asks for a stop at the next cycle, and no record is written at the issue. When that record is written, and which path passes
its breakpoint, are log entry 76. -/
def Obligations.TrapsTaken : Prop :=
  (∀ (code : BitVec 10) (kind : Nat) (i : Instr) (s : State) (t : Site), At s t →
    (kind = 1 ∧ i = .trap code ∨ kind = 2 ∧ i = .brk code ∧ (core s t.i.core).claims.find t.i.owner = none) →
    ∃ s', exec i s = .next s' ∧
      (once t = false → Moves s s' t (issuedCourse t) []) ∧
      (once t = true → t.b.hdr.traph = true → t.k.handler = none → t.k.live ≠ 0 →
        SameBytes s s' ∧ course s' t.i.core t.i.owner t.i.cr = some (handled t kind code) ∧
        (core s' t.i.core).trap = (core s t.i.core).trap ∧ (core s' t.i.core).results = (core s t.i.core).results ∧
        (core s' t.i.core).flights = (core s t.i.core).flights ∧ (core s' t.i.core).faults = (core s t.i.core).faults) ∧
      (once t = true → (t.b.hdr.traph = false ∨ t.k.handler.isSome = true) →
        Issued s s' t ∧ course s' t.i.core t.i.owner t.i.cr = some (issuedCourse t) ∧
        trapNoted (core s t.i.core).trap (core s' t.i.core).trap kind code t ∧ (core s' t.i.core).results = (core s t.i.core).results)) ∧
  (∀ (code : BitVec 10) (s : State) (t : Site) (n : Nat × Nat × Nat), At s t → once t = true → t.b.hdr.timed = false →
    (core s t.i.core).claims.find t.i.owner = some n →
    ∃ s', exec (.brk code) s = .next s' ∧ course s' t.i.core t.i.owner t.i.cr =
      some ((issuedCourse t).setPath t.i.slot { passed t with held := true, bpSkip := some (t.i.pc + 1) })) ∧
  (∀ (code : BitVec 10) (s : State) (t : Site) (n : Nat × Nat × Nat), At s t → once t = true → t.b.hdr.timed = true →
    (core s t.i.core).claims.find t.i.owner = some n →
    ∃ s', exec (.brk code) s = .next s' ∧
      Moves s s' t ((issuedCourse t).setPath t.i.slot { passed t with stop := some (t.i.cyc + 1, 2, code.toNat) }) []) ∧
  (∀ (s : State) (t : Site), At s t → ∃ s', exec .tret s = .next s' ∧
    (once t = true → t.k.handler.isSome = true → pcGood t.k.tpc = true →
      Moves s s' t (({ issuedCourse t with handler := none } : Course).setPath t.i.slot { passed t with pc := pcIndex t.k.tpc }) []) ∧
    (once t = true → t.k.handler.isSome = true → pcGood t.k.tpc = false → DecodeFaults s s' t 0x04 0 t.k.tpc) ∧
    (once t = false ∨ t.k.handler = none → Moves s s' t (issuedCourse t) []))

/-! ## Memory -/

/-- Tier 2. Every load, store, multicast and atomic completes its issue (R182 to R204): it goes over the lanes with the marks
that hold its path's accesses back, and a release adds its own. An acquire in a free launch leaves a mark on the path; in a
timed launch ORD has no effect. -/
def Obligations.MemoryIssue : Prop :=
  ∀ (i : Instr) (sc : Scope) (f : Form) (s : State) (t : Site), memForm i = some (sc, f) → At s t → Fits t f.top →
    let acq := f.acq && !t.b.hdr.timed
    let rel := f.rel && !t.b.hdr.timed
    ∃ s' x, exec i s = .next s' ∧ Issued s s' t ∧ (core s' t.i.core).flights = (core s t.i.core).flights ++ [x] ∧
      Flies s t { f with acq := acq, rel := rel } x ∧ x.stride = 1 ∧
      x.marks = holding s t ++ (if rel then [.performed t.seq sc t.ids] else []) ∧
      (acq = false → SendsLanes s s' t { f with acq := acq, rel := rel } 1) ∧
      (acq = true → ∃ l, course s' t.i.core t.i.owner t.i.cr =
        some ((issuedCourse t).setPath t.i.slot { passed t with marks := l ++ [.applied t.seq] }))

/-- Tier 2. `ld.host` and `st.host` complete their issue (R186): the tag clears and is noted as a host tag, and the access goes
over the lanes; a tag beyond the block's raises BOUND, with SRC 0 and also where no lane is enabled (log entry 21). -/
def Obligations.HostIssue : Prop :=
  ∀ (i : Instr) (d a : Reg) (tag : BitVec 6) (sz : Size) (f : Form) (s : State) (t : Site),
    (i = .ldHost d a tag sz ∧ f = { op := .host true tag.toNat sz, dst := laneDst (decide (sz = .b64)) d, a := .pair a.toNat } ∨
     i = .stHost d a tag sz ∧ f = { op := .host false tag.toNat sz, a := .pair a.toNat, b := laneSrc (decide (sz = .b64)) d }) →
    At s t → Fits t f.top →
    ∃ s', exec i s = .next s' ∧ (t.b.hdr.tags ≤ tag.toNat → OnceFaults s s' t 0x0B 0 0 0) ∧
      (tag.toNat < t.b.hdr.tags → ∃ x, Issued s s' t ∧ course s' t.i.core t.i.owner t.i.cr = some (issuedCourse t) ∧
        (core s' t.i.core).flights = (core s t.i.core).flights ++ [x] ∧ Flies s t f x ∧ x.stride = 1 ∧ x.marks = holding s t ∧
        (core s' t.i.core).tags = (core s t.i.core).tags &&& ~~~BitVec.ofNat 64 (2 ^ (t.b.bind.tagb + tag.toNat)) ∧
        (core s' t.i.core).hostTags = (core s t.i.core).hostTags ||| BitVec.ofNat 64 (2 ^ (t.b.bind.tagb + tag.toNat)) ∧
        (core s' t.i.core).accs = (core s t.i.core).accs ∧ (core s' t.i.core).results = (core s t.i.core).results)

/-- Tier 2. `fence` leaves a mark on its path in a free launch and shifts nothing in a timed one (R204); `mon.arm` and
`mon.disarm` become one access to the granule that their lane names (R205, R207), or raise POISON (R332). The disarm at its memory cycle and
the granule as the key of a monitor are log entry 47, and the lanes at the issue as the predicate's are log entry 17. -/
def Obligations.FenceAndMonitors : Prop :=
  (∀ (sc : Scope) (s : State) (t : Site), At s t → ∃ s', exec (.fence sc) s = .next s' ∧
    (once t = false ∨ t.b.hdr.timed = true → Moves s s' t (issuedCourse t) []) ∧
    (once t = true → t.b.hdr.timed = false → SameBytes s s' ∧ course s' t.i.core t.i.owner t.i.cr =
        some ((issuedCourse t).setPath t.i.slot { passed t with marks := holding s t ++ [.performed t.seq sc t.ids] }) ∧
      ((die s (dieOf t.i.core)).recMode = 0 → Moves s s' t ((issuedCourse t).setPath t.i.slot
        { passed t with marks := holding s t ++ [.performed t.seq sc t.ids] }) []))) ∧
  (∀ (arm : Bool) (p : BitVec 3) (a : Reg) (fab uni : Bool) (i : Instr) (s : State) (t : Site), At s t →
    (uni = true ∨ Fits t (a.toNat + 2)) → (arm = true ∧ i = .monArm p a fab uni ∨ arm = false ∧ i = .monDisarm a fab uni) →
    ∃ s', exec i s = .next s' ∧ SameBytes s s' ∧ course s' t.i.core t.i.owner t.i.cr = some (issuedCourse t) ∧
      (once t = false → Moves s s' t (issuedCourse t) []) ∧
      (once t = true → pairPoisoned t a uni (lowestLane t.p.mask) = true → OnceFaults s s' t 0x09 0 1 0) ∧
      (once t = true → pairPoisoned t a uni (lowestLane t.p.mask) = false → ∃ x, (core s' t.i.core).accs = (core s t.i.core).accs ++ [x] ∧
        x.kind = (if arm then .arm t.p.mask p else .disarm) ∧ x.space = (if fab then .fab else .die) ∧
        x.addr = (((supplied t a uni (lowestLane t.p.mask)).toNat / 8 * 8 : Nat) : Int) ∧ x.size = 8 ∧ x.done = none ∧
        x.owner = t.i.owner ∧ x.cr = t.i.cr ∧ x.seq = t.seq))

/-- Tier 2. Lane accesses at their memory cycle (R179, R180, R187, R190, R198 to R202, R239). A store to die or fabric space writes its
bytes, the low byte at the lowest address, and every other byte of every store is as it was; a load delivers the bytes of its location
at its due cycle and an atomic the old ones, while the new value of R201 replaces them. A tile access loads or stores its bytes; the
read half of a tile atomic delivers the old element and keeps the new one for its write half. A lane of a multicast becomes one
fabric store for each die of its mask. All hold in a free launch of no recording die, for an access that nothing holds back, and a
tile access whose banks no other string reserves. -/
def Obligations.StoreApplies : Prop :=
  (∀ (s : State) (c aid : Nat) (a : Access) (b : Block) (l : Leaf), (core s c).accs.find? (fun a => decide (a.id = aid)) = some a →
    block s c a.owner = some b → a.done = none → a.kind = .store → (a.space = .die ∨ a.space = .fab) → a.cross = false → a.late = false → a.xl = .ok l →
    (∀ m ∈ a.marks, markMet (enter s) c (vcc s c) m = true ∧ markStaged (enter s) c a.owner m = false) →
    l.refuses .write a.pv false = false → l.host = false → b.hdr.timed = false → b.hdr.determ = false →
    (die s (dieOf c)).recMode = 0 → (core s c).watches = [] → a.size ≤ 8 →
    let k := dramKey a.home (l.frame + a.addr.toNat % pageBytes l.large)
    ∃ s', exec (.memoryAccessApply c aid) s = .next s' ∧
      (∀ i, i < a.size → (s'.mem.byte .dram (k + i)).toNat = a.data.toNat / 2 ^ (8 * i) % 2 ^ 8) ∧
      (∀ st x, ¬ (st = .dram ∧ k ≤ x ∧ x < k + a.size) → s'.mem.byte st x = s.mem.byte st x) ∧
      (∀ o r, course s' c o r = course s c o r) ∧ (∀ o, block s' c o = block s c o)) ∧
  (∀ (s : State) (c aid : Nat) (a : Access) (b : Block) (l : Leaf), a.shadow = [] → let k := dramKey a.home (l.frame + a.addr.toNat % pageBytes l.large)
    s.mem.poisoned .dram k a.size = false →
    (Unheld s c aid a b l .read → a.kind = .load → ∃ s' v, exec (.memoryAccessApply c aid) s = .next s' ∧ SameBytes s s' ∧ CoursesStand s s' ∧
      Little s .dram k a.size v ∧ Delivers s s' c a v 0) ∧
    (∀ op w64, Unheld s c aid a b l .atomic → a.kind = .rmw op w64 → a.data.toNat < 2 ^ (8 * a.size) → a.data2.toNat < 2 ^ (8 * a.size) → 0 < a.size →
      ∃ s' v new, exec (.memoryAccessApply c aid) s = .next s' ∧ CoursesStand s s' ∧ Little s .dram k a.size v ∧
        new = newValue op (8 * a.size) v a.data.toNat a.data2.toNat ∧ Little s' .dram k a.size new ∧
        (∀ st x, ¬ (st = .dram ∧ k ≤ x ∧ x < k + a.size) → s'.mem.byte st x = s.mem.byte st x) ∧ Delivers s s' c a v 0)) ∧
  (∀ (s : State) (c aid : Nat) (a : Access) (b : Block), (core s c).accs.find? (fun a => decide (a.id = aid)) = some a →
    block s c a.owner = some b → a.done = none → (a.space = .ts ∨ a.space = .acc) → a.xl = .bad 0 → (core s c).watches = [] → a.size ≤ 8 →
    (∀ m ∈ a.marks, markMet (enter s) c (vcc s c) m = true ∧ markStaged (enter s) c a.owner m = false) →
    (a.space = .ts → collides (enter s) c a (vcc s c) = false) →
    let st := if a.space = .ts then Store.ts else .acc
    let k := levelKey (if a.space = .ts then 0 else 1) c a.addr.toNat
    (a.kind = .load → s.mem.poisoned st k a.size = false → ∃ s' v, exec (.memoryAccessApply c aid) s = .next s' ∧ SameBytes s s' ∧ CoursesStand s s' ∧
      Little s st k a.size v ∧ Delivers s s' c a v 0) ∧
    (a.kind = .store → ∃ s', exec (.memoryAccessApply c aid) s = .next s' ∧ CoursesStand s s' ∧
      (∀ i, i < a.size → (s'.mem.byte st (k + i)).toNat = a.data.toNat / 2 ^ (8 * i) % 2 ^ 8) ∧
      ∀ t x, ¬ (t = st ∧ k ≤ x ∧ x < k + a.size) → s'.mem.byte t x = s.mem.byte t x) ∧
    (∀ op fmt, a.kind = .tread op fmt → fmt = 0 ∨ fmt = 1 ∨ fmt = 4 → a.space = .ts → s.mem.poisoned .ts k 4 = false →
      (∀ x ∈ (core s c).accs, x.id ≠ aid → x.logged = false) → a.data.toNat < 2 ^ 32 →
      ∃ s' v o, exec (.memoryAccessApply c aid) s = .next s' ∧ SameBytes s s' ∧ CoursesStand s s' ∧ Little s .ts k 4 v ∧
        TileValue op fmt v a.data.toNat (a.data2.toNat % 2 ^ 32) o ∧ Delivers s s' c a v o.2 ∧
        ∃ y ∈ (core s' c).accs, y.id = aid ∧ y.logged = true ∧ y.done = none ∧ y.data = BitVec.ofNat 64 o.1 ∧ y.cyc = vcc s c + 2)) ∧
  (∀ (s : State) (c seq j : Nat) (f : Flight) (b : Block) (k : Course) (mask : BitVec 4) (sz : Size), LaneDue s c seq j 1 f b k → j < 32 →
    f.form.op = .mcast mask sz → lives k f j = true → sound k f j = true → (k.src j f.form.a).toNat % bytes sz = 0 →
    outstanding (core s c) + 4 ≤ Config.operandLog →
    ∃ s' l, exec (.laneExecute c seq j) s = .next s' ∧ SameBytes s s' ∧ CoursesStand s s' ∧ (core s' c).results = (core s c).results ∧
      (core s' c).accs = (core s c).accs ++ l ∧
      l.map (fun a => (a.kind, a.space, a.addr, a.size, a.data.toNat, a.lane)) = ((List.range 4).filter fun d => mask.getLsbD d).map fun d =>
        let x := (k.src j f.form.a).toNat
        (AccKind.store, Space.fab, ((if x < 2 ^ 57 then x / 2 ^ 48 * 2 ^ 48 + d * 2 ^ 46 + x % 2 ^ 46 else x : Nat) : Int), bytes sz,
          (k.src j f.form.b).toNat % 2 ^ (8 * bytes sz), j))

/-! ## Tiles and the row-length walker -/

/-- Tier 2. `talloc`, `tfree` and `tdesc` (R192 to R195). An allocation that the conditions of R193 allow takes the lowest free run
of the block's area and its predicate reads true; any other leaves the table and reads false. A free that is allowed clears
VALID. A handle number beyond the block's, or a free that is not allowed, takes the handle fault. The predicate is written under the lanes
of the path at the issue (log entry 17). -/
def Obligations.TileHandles : Prop :=
  (∀ (fmt : BitVec 4) (p : BitVec 3) (h : BitVec 8) (b : Reg) (lv : Level) (s : State) (t : Site), At s t →
    let u := fun (n : Nat) => (t.k.uni (b.toNat + n)).toNat
    let d : Desc := {
      rows := u 0, cols := u 1, fmt := fmt.toNat, level := levelNo lv, scale := u 2 % 256, scv := decide (u 2 / 256 % 2 = 1),
      sblk := decide (u 2 / 512 % 2 = 1), save := decide (u 2 / 1024 % 2 = 1), since := t.i.cyc + 8 }
    (once t = false → ∃ s', exec (.talloc fmt p h b lv) s = .next s' ∧ Moves s s' t (issuedCourse t) []) ∧
    (once t = true → t.b.hdr.handles ≤ h.toNat → ∃ s', exec (.talloc fmt p h b lv) s = .next s' ∧
      OnceFaults s s' t 0x05 0 1 (BitVec.ofNat 64 h.toNat)) ∧
    (once t = true → h.toNat < t.b.hdr.handles → ¬ mayAlloc s t h.toNat d ∨ (∀ v, ¬ freeRun s t d v) →
      ∃ s', exec (.talloc fmt p h b lv) s = .next s' ∧ Moves s s' t (issuedCourse t) [pending s t (t.i.cyc + 8) [.pred p t.p.mask 0]]) ∧
    (∀ v, once t = true → h.toNat < t.b.hdr.handles → mayAlloc s t h.toNat d → freeRun s t d v → (∀ y, freeRun s t d y → v ≤ y) →
      ∃ s', exec (.talloc fmt p h b lv) s = .next s' ∧
        Tables s s' t ((core s t.i.core).tiles.put (t.b.bind.hb + h.toNat) { d with base := v, owner := t.b.bind.owner, valid := true })
          [pending s t (t.i.cyc + 8) [.pred p t.p.mask 0xFFFFFFFF]])) ∧
  (∀ (h : BitVec 8) (s : State) (t : Site), At s t → let d := descOf (core s t.i.core) t.b h.toNat
    let bad := t.b.hdr.handles ≤ h.toNat ∨ d.valid = false ∨ handleInUse (core s t.i.core) t.i.owner h.toNat = true ∨ d.land = true ∨
      ∃ x ∈ validHandles (core s t.i.core) t.b, x.2.scv = true ∧ x.2.scale = h.toNat
    (once t = false → ∃ s', exec (.tfree h) s = .next s' ∧ Moves s s' t (issuedCourse t) []) ∧
    (once t = true → bad → ∃ s', exec (.tfree h) s = .next s' ∧ OnceFaults s s' t 0x05 0 1 (BitVec.ofNat 64 h.toNat)) ∧
    (once t = true → ¬ bad → ∃ s', exec (.tfree h) s = .next s' ∧
      Tables s s' t ((core s t.i.core).tiles.put (t.b.bind.hb + h.toNat) { d with valid := false, watch := false }) [])) ∧
  (∀ (d : Reg) (h : BitVec 8) (s : State) (t : Site), At s t → let v := (descOf (core s t.i.core) t.b h.toNat).bits
    ∃ s', exec (.tdesc d h true) s = .next s' ∧ (once t = false → Moves s s' t (issuedCourse t) []) ∧
      (once t = true → t.b.hdr.handles ≤ h.toNat → OnceFaults s s' t 0x05 0 1 (BitVec.ofNat 64 h.toNat)) ∧
      (once t = true → h.toNat < t.b.hdr.handles → Moves s s' t (issuedCourse t) [pending s t (t.i.cyc + 2)
        [.uni d.toNat (BitVec.ofNat 32 v), .uni (d.toNat + 1) (BitVec.ofNat 32 (v / 2 ^ 32)), .uni (d.toNat + 2) (BitVec.ofNat 32 (v / 2 ^ 64)),
         .uni (d.toNat + 3) (BitVec.ofNat 32 (v / 2 ^ 96))]]))

/-- Tier 2. `rlw.set` and `rlw.next` (R196, R197). With a table and a row count that its rule allows, `rlw.set` completes: the
string's walker takes the lengths and a position; else it raises the fault that its rule names. With a walker of the block
`rlw.next` completes: its rows go over the lanes and the position moves by 32; without one it takes the handle fault. That the lengths are
read at the issue, that a table of an earlier `talloc` is VALID from then, and INFO 0 of `rlw.next` are log entry 98; the poison of a length
is log entry 57. -/
def Obligations.RowWalker : Prop :=
  (∀ (a b : Reg) (s : State) (t : Site), At s t → let n := (t.k.uni a.toNat).toNat % 256
    let nr := (t.k.uni (a.toNat + 1)).toNat
    let d := descOf (core s t.i.core) t.b n
    let bad := t.b.hdr.handles ≤ n ∨ d.valid = false ∨ d.level ≠ 0 ∨ ¬ (d.fmt = 0 ∨ d.fmt = 1 ∨ d.fmt = 10 ∨ d.fmt = 11)
    let range := nr = 0 ∨ d.rows * d.cols < nr
    let m := if d.fmt = 0 ∨ d.fmt = 1 then 4 else 2
    let soft := fun (x : Nat) => s.mem.poisoned .ts (levelKey 0 t.i.core x) 1
    (once t = false → ∃ s', exec (.rlwSet a b) s = .next s' ∧ Moves s s' t (issuedCourse t) []) ∧
    (once t = true → bad → ∃ s', exec (.rlwSet a b) s = .next s' ∧ OnceFaults s s' t 0x05 0 1 (BitVec.ofNat 64 n)) ∧
    (once t = true → ¬ bad → range → ∃ s', exec (.rlwSet a b) s = .next s' ∧ OnceFaults s s' t 0x0B 0 1 0) ∧
    (∀ x, once t = true → ¬ bad → ¬ range → 256 * d.base ≤ x → x < 256 * d.base + nr * m → soft x = true →
      (∀ y, 256 * d.base ≤ y → y < x → soft y = false) →
      ∃ s', exec (.rlwSet a b) s = .next s' ∧ OnceFaults s s' t 0x09 0 1 (BitVec.ofNat 64 x)) ∧
    (once t = true → ¬ bad → ¬ range → (∀ x, 256 * d.base ≤ x → x < 256 * d.base + nr * m → soft x = false) →
      ∃ s', exec (.rlwSet a b) s = .next s' ∧ Moves s s' t (issuedCourse t) [] ∧
        let x := ((core s' t.i.core).str t.k.str).walker
        x.valid = true ∧ x.owner = t.i.owner ∧ x.cr = t.i.cr ∧ x.nr = nr ∧ x.pos = (t.k.uni b.toNat).toNat ∧ x.ready = t.i.cyc + 2 + (nr + 3) / 4 ∧
        x.lens = (List.range nr).map fun i => leNat (s.mem.bytes .ts (levelKey 0 t.i.core (256 * d.base + i * m)) m))) ∧
  (∀ (d : Reg) (p : BitVec 3) (s : State) (t : Site), At s t → Fits t (d.toNat + 2) → let x := ((core s t.i.core).str t.k.str).walker
    (x.valid = false ∨ x.owner ≠ t.i.owner → ∃ s', exec (.rlwNext d p) s = .next s' ∧ OnceFaults s s' t 0x05 0 0 0) ∧
    (x.valid = true → x.owner = t.i.owner → ∃ s', exec (.rlwNext d p) s = .next s' ∧ Issued s s' t ∧ OnlyPassed s s' t ∧
      ((core s' t.i.core).str t.k.str).walker = { x with pos := (x.pos + 32) % 2 ^ 32 } ∧
      (core s' t.i.core).results = (core s t.i.core).results ∧ (core s' t.i.core).accs = (core s t.i.core).accs ∧
      ∃ y, (core s' t.i.core).flights = (core s t.i.core).flights ++ [y] ∧ y.cyc = max t.i.cyc x.ready ∧ y.stride = 1 ∧ y.next = 0 ∧
        y.mask = t.p.mask ∧ y.pred = t.i.pred ∧ y.neg = t.i.neg ∧ y.form.op = .rlwNext x.pos (rowStarts x.lens).2 (rowStarts x.lens).1 p ∧
        y.form.dst = .pair (t.k.wb + d.toNat)))

/-! ## Handing over and waiting -/

/-- Tier 2. Phasers, the matrix key and register blocks at an issue that need not wait (R208 to R211, R244). A release that waits
for earlier accesses is kept by the block. A number beyond the block's phasers raises BOUND, and `key.pass` without the key
the key fault. Where the lowest active lane is disabled each only takes its turn (R118). -/
def Obligations.HandsOver : Prop :=
  (∀ (n : BitVec 4) (role : BitVec 2) (b : Reg) (s : State) (t : Site), At s t → once t = false →
    ∀ i ∈ [Instr.phReg n role, .phArrive n, .phWait n, .phExpect n b, .keyTake, .keyPass, .rbGive n, .rbClaim n],
      ∃ s', exec i s = .next s' ∧ Moves s s' t (issuedCourse t) []) ∧
  ∀ (s : State) (t : Site), At s t → once t = true →
    (∀ (n : BitVec 4) (role : BitVec 2), let x := phaser t n.toNat
      let bit := laneBit t.i.cr
      ∃ s', exec (.phReg n role) s = .next s' ∧ (t.b.hdr.phasers ≤ n.toNat → OnceFaults s s' t 0x0B 0 1 0) ∧
        (n.toNat < t.b.hdr.phasers → Hands s s' t (issuedCourse t) (withPhaser t.b n.toNat { x with
          sig := if role.getLsbD 0 then x.sig ||| bit else x.sig &&& ~~~bit
          arr := if role.getLsbD 0 then x.arr else x.arr &&& ~~~bit
          wait := if role.getLsbD 1 then x.wait ||| bit else x.wait &&& ~~~bit
          wph := if role.getLsbD 1 then x.wph.put t.i.cr x.phase else x.wph }) [])) ∧
    (∀ (n : BitVec 4), let x := phaser t n.toNat
      ∃ s', exec (.phArrive n) s = .next s' ∧ (t.b.hdr.phasers ≤ n.toNat → OnceFaults s s' t 0x0B 0 1 0) ∧
        (n.toNat < t.b.hdr.phasers → x.sig.getLsbD t.i.cr = false → Moves s s' t (issuedCourse t) []) ∧
        (n.toNat < t.b.hdr.phasers → x.sig.getLsbD t.i.cr = true → mustWait s t (.phArrive n) = none → t.i.cr < 32 →
          (atOnce s t → Hands s s' t (issuedCourse t) (withPhaser t.b n.toNat { x with arr := x.arr ||| laneBit t.i.cr }) []) ∧
          (¬ atOnce s t → Hands s s' t (issuedCourse t) { t.b with pends := t.b.pends ++ [heldBack t false n.toNat] } []))) ∧
    (∀ (n : BitVec 4), let x := phaser t n.toNat
      ∃ s', exec (.phWait n) s = .next s' ∧ (t.b.hdr.phasers ≤ n.toNat → OnceFaults s s' t 0x0B 0 1 0) ∧
        (n.toNat < t.b.hdr.phasers → x.wait.getLsbD t.i.cr = false → Moves s s' t (issuedCourse t) []) ∧
        (n.toNat < t.b.hdr.phasers → x.wait.getLsbD t.i.cr = true → ((x.wph.find t.i.cr).getD 0).toNat < x.phase.toNat →
          Hands s s' t (issuedCourse t) (withPhaser t.b n.toNat { x with wph := x.wph.put t.i.cr ((x.wph.find t.i.cr).getD 0 + 1) }) [])) ∧
    (∀ (n : BitVec 4) (b : Reg), let x := phaser t n.toNat
      ∃ s', exec (.phExpect n b) s = .next s' ∧ (t.b.hdr.phasers ≤ n.toNat → OnceFaults s s' t 0x0B 0 1 0) ∧
        (n.toNat < t.b.hdr.phasers → Hands s s' t (issuedCourse t) (withPhaser t.b n.toNat { x with bal := x.bal + t.k.uni b.toNat }) [])) ∧
    (t.b.key = t.i.cr → ∃ s', exec .keyTake s = .next s' ∧ Moves s s' t (issuedCourse t) []) ∧
    (∃ s', exec .keyPass s = .next s' ∧ (t.b.key ≠ t.i.cr → OnceFaults s s' t 0x06 0 1 0) ∧
      (t.b.key = t.i.cr → atOnce s t → Hands s s' t (issuedCourse t) { t.b with key :=
        (((List.range t.b.hdr.courses).map fun i => (t.i.cr + 1 + i) % t.b.hdr.courses).find? fun r =>
          ((course s t.i.core t.b.bind.owner r).map fun k => decide (k.live ≠ 0)).getD false).getD t.i.cr } []) ∧
      (t.b.key = t.i.cr → ¬ atOnce s t → Hands s s' t (issuedCourse t) { t.b with pends := t.b.pends ++ [heldBack t true 0] } [])) ∧
    (∀ (c : BitVec 4), let n := 32 * c.toNat
      ∃ s', exec (.rbGive c) s = .next s' ∧ (t.k.allot < n + 32 ∨ t.k.allot - n ≤ t.k.wb → OnceFaults s s' t 0x0B 0 1 0) ∧
        (n + 32 ≤ t.k.allot → t.k.wb < t.k.allot - n → Hands s s' t { issuedCourse t with allot := t.k.allot - n, grow := none }
          { t.b with pools := t.b.pools.put t.k.str ((t.b.pools.find t.k.str).getD 0 + n) } [])) ∧
    (∀ (c : BitVec 4), let n := 32 * c.toNat
      ∃ s', exec (.rbClaim c) s = .next s' ∧ (512 < t.k.allot + n → OnceFaults s s' t 0x0B 0 1 0) ∧
        (t.k.allot + n ≤ 512 → n ≤ (t.b.pools.find t.k.str).getD 0 → ∃ k', Hands s s' t k'
            { t.b with pools := t.b.pools.put t.k.str ((t.b.pools.find t.k.str).getD 0 - n) } [] ∧
          k' = { issuedCourse t with allot := t.k.allot + n, grow := some (t.i.cyc + 2, t.k.allot), regs := k'.regs, poison := k'.poison } ∧
          ∀ x j, j < 32 → k'.reg x j = if t.k.allot ≤ x ∧ x < t.k.allot + n then 0 else t.k.reg x j))

/-- Tier 2. Tag waits and `mon.wait` whose condition holds at the issue (R206, R235): they go on, with their result two cycles
later. A mask bit beyond the block's tags raises BOUND. Host tags are an input of the log where the die records or replays
(R386), so the results are stated for a die that does neither. Where the lowest active lane is disabled they only take their turn
(R118). That the predicate of `mon.wait` is written under the lanes of the path at the issue is log entry 17. -/
def Obligations.WaitsPass : Prop :=
  (∀ (d a b : Reg) (p : BitVec 3) (s : State) (t : Site), At s t → once t = false →
    ∀ i ∈ [Instr.twany a, .twall a, .twfirst d a, .monWait p b], ∃ s', exec i s = .next s' ∧ Moves s s' t (issuedCourse t) []) ∧
  ∀ (s : State) (t : Site), At s t → once t = true →
    (∀ (d a : Reg), let m := t.k.uniPair a.toNat
      let tags := blockTags (core s t.i.core) t.b
      (m.toNat / 2 ^ t.b.hdr.tags ≠ 0 → ∀ i ∈ [Instr.twany a, .twall a, .twfirst d a], ∃ s', exec i s = .next s' ∧ OnceFaults s s' t 0x0B 0 1 0) ∧
      (m.toNat / 2 ^ t.b.hdr.tags = 0 → (die s (dieOf t.i.core)).recMode = 0 →
        (m = 0 ∨ m &&& tags ≠ 0 → (∃ s', exec (.twany a) s = .next s' ∧ Moves s s' t (issuedCourse t) [pending s t (t.i.cyc + 2) []]) ∧
          (∃ s' n, exec (.twfirst d a) s = .next s' ∧ Moves s s' t (issuedCourse t) [pending s t (t.i.cyc + 2) [.uni d.toNat (BitVec.ofNat 32 n)]] ∧
            (m &&& tags = 0 → n = 64) ∧ (m &&& tags ≠ 0 → n < 64 ∧ (m &&& tags).getLsbD n = true ∧ ∀ q, q < n → (m &&& tags).getLsbD q = false))) ∧
        (m &&& ~~~tags = 0 → ∃ s', exec (.twall a) s = .next s' ∧ Moves s s' t (issuedCourse t) [pending s t (t.i.cyc + 2) []]))) ∧
    (∀ (p : BitVec 3) (b : Reg),
      (monHit (enter s) t.i.core t.i.owner t.i.cr = true → ∃ s', exec (.monWait p b) s = .next s' ∧ SameBytes s s' ∧
        course s' t.i.core t.i.owner t.i.cr = some (issuedCourse t) ∧
        (core s' t.i.core).results = (core s t.i.core).results ++ [pending s t (t.i.cyc + 2) [.pred p t.p.mask 0xFFFFFFFF]] ∧
        monHit (enter s') t.i.core t.i.owner t.i.cr = false) ∧
      (monHit (enter s) t.i.core t.i.owner t.i.cr = false → t.k.uni b.toNat = 0 →
        ∃ s', exec (.monWait p b) s = .next s' ∧ Moves s s' t (issuedCourse t) [pending s t (t.i.cyc + 2) [.pred p t.p.mask 0]]))

/-- Tier 2. Where a waiting instruction must wait, the path waits in a free launch and nothing else changes (R33); in a timed
launch it raises TIMING with subcode 5 (R54). -/
def Obligations.WaitsWait : Prop :=
  ∀ (i : Instr) (x : Wait) (s : State) (t : Site), At s t → once t = true → mustWait s t i = some x → (die s (dieOf t.i.core)).recMode = 0 →
    ∃ s', exec i s = .next s' ∧ (t.b.hdr.timed = false → Moves s s' t (waiting t x) []) ∧
      (t.b.hdr.timed = true → OnceFaults s s' t 0x02 5 1 0)

/-! ## Engines and the debugger -/

/-- Tier 2. Every engine command at its issue (R212 to R217, R225 to R233): with a descriptor that passes its checks the command of its
eight words (`Describes`) joins the core's commands and its tag clears; a descriptor that fails takes the first fault in the order of
R216, whose checks `Refuses` lists. `tland` also arms its landing and sets LAND. That an undefined descriptor value faults in execution,
counts in `%dii` and does nothing where the lowest active lane is disabled is log entry 98; which handles of the descriptor count as read
at I is log entries 51, 53 and 119. -/
def Obligations.EngineIssue : Prop :=
  (∀ (i : Instr) (op : CmdOp) (d a b : Reg) (s : State) (t : Site), engineForm i = some (op, d, a, b) → At s t →
    let c := command s t op d a b
    Describes t d a b c ∧ c.op = op ∧ c.cr = t.i.cr ∧
    (∀ r, refusal s t op d a b = some r → Refuses s t c ((t.k.uni d.toNat).toNat / 2 ^ 20 % 8) r) ∧
    (refusal s t op d a b = none → ∀ r, ¬ Refuses s t c ((t.k.uni d.toNat).toNat / 2 ^ 20 % 8) r)) ∧
  ∀ (i : Instr) (op : CmdOp) (d a b : Reg) (s : State) (t : Site), engineForm i = some (op, d, a, b) → At s t →
    ∃ s', exec i s = .next s' ∧ (once t = false → Moves s s' t (issuedCourse t) []) ∧
      (once t = true → ∀ r, refusal s t op d a b = some r → FaultsOnce (op = .tsend) s s' t r.1 r.2.1 2 r.2.2) ∧
      (once t = true → refusal s t op d a b = none → op ≠ .tland → SameBytes s s' ∧ s'.mach.cur = none ∧
        course s' t.i.core t.i.owner t.i.cr = some (issuedCourse t) ∧ (core s' t.i.core).blocks = (core s t.i.core).blocks ∧
        (core s' t.i.core).tiles = (core s t.i.core).tiles ∧ (core s' t.i.core).arms = (core s t.i.core).arms ∧
        (core s' t.i.core).cmds = (core s t.i.core).cmds ++ [command s t op d a b] ∧
        (core s' t.i.core).tags = tagsAfter s t (command s t op d a b)) ∧
      (once t = true → refusal s t op d a b = none → op = .tland → let c := command s t op d a b
        let x := descOf (core s t.i.core) t.b c.hx
        let room := (core s t.i.core).landUsed + x.bytes ≤ 65536
        (t.b.hdr.timed = true → ¬ room → OnceFaults s s' t 0x02 5 2 0) ∧
        (t.b.hdr.timed = false ∨ room → SameBytes s s' ∧ s'.mach.cur = none ∧ course s' t.i.core t.i.owner t.i.cr = some (issuedCourse t) ∧
          (core s' t.i.core).cmds = (core s t.i.core).cmds ++ [{ c with st := .away, s := some t.i.cyc }] ∧
          (core s' t.i.core).tags = tagsAfter s t c ∧
          (core s' t.i.core).tiles = (core s t.i.core).tiles.put (t.b.bind.hb + c.hx) { x with land := true, stamp := c.w1 } ∧
          ∃ y, (core s' t.i.core).arms = (core s t.i.core).arms ++ [y] ∧ y.owner = t.i.owner ∧ y.hnum = c.hx ∧ y.stamp = c.w1 ∧
            y.size = x.bytes ∧ (y.room = true ↔ room)))

/-- Tier 2. The privileged instructions in a block with privilege (R112, R346, R371–R374, R376, R383, R386): a drift command joins those of
the module that it names, a debug command is on its way to its target core within 64 cycles or behind an earlier one, and one whose CORE is
above 335 has no effect but the KIND 0x0E record of CODE 1; `dbg.mbox` writes its KIND 0x10 record, the mailbox base and the recording mode
are set; a module outside the group raises XLATE. The model's choices: when a command arrives, and that a CORE above 335 is refused at the
issue (log entry 75), what fields without a subject hold (log entry 112), and MODE 3 (log entry 78). -/
def Obligations.PrivilegedIssue : Prop :=
  ∀ (s : State) (t : Site), At s t → t.b.bind.priv = true →
    (∀ i : Instr, privileged i = true → once t = false → ∃ s', exec i s = .next s' ∧ Moves s s' t (issuedCourse t) []) ∧
    (once t = true → ∀ (set : Bool) (a b : Reg) (i : Instr), (set = true ∧ i = .driftSet a b ∨ set = false ∧ i = .driftStep a b) →
      let n := (t.k.uni a.toNat).toNat % 512
      let v := (t.k.uni b.toNat).toNat
      ∃ s', exec i s = .next s' ∧
        (moduleByNum s.mach n = none → OnceFaults s s' t 0x03 0 1 (BitVec.ofNat 64 n)) ∧
        (∀ m, moduleByNum s.mach n = some m → SameBytes s s' ∧ course s' t.i.core t.i.owner t.i.cr = some (issuedCourse t) ∧
          ∃ x, module s' m = { module s m with drifts := (module s m).drifts ++ [x] } ∧ x.set = set ∧
            x.value = (if set then v else v % 256) ∧ s.mach.clock ≤ x.due)) ∧
    (once t = true → ∀ (i : Instr) (op : DbgOp) (v : W32), debugForm t i = some (op, v) → ∃ s', exec i s = .next s' ∧
      course s' t.i.core t.i.owner t.i.cr = some (issuedCourse t) ∧
      (336 ≤ v.toNat / 2 ^ 23 → SameBytes s s' ∧ (∀ c, (core s' c).dbg = (core s c).dbg) ∧ Mailed s s' t.i.core (refusedWords v)) ∧
      (v.toNat / 2 ^ 23 < 336 → SameBytes s s' ∧ ∃ x, (core s' (targetCore t v)).dbg = (core s (targetCore t v)).dbg ++ [x] ∧
        x.op = op ∧ x.target = v ∧ x.src = t.i.core ∧ x.srcOwner = t.i.owner ∧ x.srcCr = t.i.cr ∧
        (x.due ≤ s.mach.clock + 64 ∨ ∃ y ∈ (core s (targetCore t v)).dbg, y.due = x.due))) ∧
    (once t = true → ∀ (a b : Reg),
      (∃ s', exec (.dbgMbox a b) s = .next s' ∧ course s' t.i.core t.i.owner t.i.cr = some (issuedCourse t) ∧
        ((die s (dieOf t.i.core)).mbox = none → Moves s s' t (issuedCourse t) []) ∧ SameBytes s s' ∧
        ∃ held, held ≤ 1 ∧ Mailed s s' t.i.core (mboxWords s t held (t.k.uniPair a.toNat).toNat (t.k.uni b.toNat).toNat)) ∧
      (∃ s', exec (.dbgMboxBase a b) s = .next s' ∧ course s' t.i.core t.i.owner t.i.cr = some (issuedCourse t) ∧
        (die s' (dieOf t.i.core)).mbox = some ((t.k.uniPair a.toNat).toNat / 64 * 64)) ∧
      (∃ s', exec (.dbgMboxRec a b) s = .next s' ∧ SameBytes s s' ∧ course s' t.i.core t.i.owner t.i.cr = some (issuedCourse t) ∧
        ((t.k.uni b.toNat).toNat % 4 ≠ 3 → (die s' (dieOf t.i.core)).recMode = (t.k.uni b.toNat).toNat % 4)))

/-! ## Events -/

/-- Tier 2. What stops and starts a sash (R42 to R45, R356): a stop keeps the cycle and notes GCC; a refresh adds a cause 32
cycles ahead or later, or at any cycle from the present one on while the sash stands; a throttle run adds one 32 cycles ahead,
or follows the run that the sash stands for; a restart is fixed 24 real cycles ahead, which a cause effective later does not
change, and then every cause up to the stop is gone. Stated for a die that neither records nor replays (R386 to R388). -/
def Obligations.SashEvents : Prop :=
  ∀ (s : State) (i : Nat) (x : Sash), sash s i = some x → (die s x.die).recMode = 0 →
    let g := (module s (x.die / 4)).gcc
    let h := sashHold (enter s) x
    (∃ s', exec (.pauseStop i) s = .next s' ∧ OnlySash s s' i
      (let y := if throttleCause (enter s) x then { x with throttled := some g } else x
       if x.paused then y else { y with paused := true, stopGcc := g, resume := none })) ∧
    (∀ p dur, x.vcc + (if x.paused then 0 else 32) ≤ p → ∃ s', exec (.dramRefresh i p dur) s = .next s' ∧
      OnlySash s s' i { x with causes := x.causes ++ [{ p := p, src := .refresh dur }], resume := if p ≤ x.vcc then none else x.resume }) ∧
    (∀ p dur, p < x.vcc + (if x.paused then 0 else 32) → exec (.dramRefresh i p dur) s = .next s) ∧
    (h ≠ 0 → (∀ y ∈ x.causes, ∀ n, x.paused = true → y.p ≤ x.vcc → y.src ≠ .throttle n) → ∃ s', exec (.throttleHold i) s = .next s' ∧
      OnlySash s s' i { x with causes := x.causes ++ [{ p := x.vcc + 32, src := .throttle 40 }], nextHold := nextRunAt g h }) ∧
    (∀ q n, h ≠ 0 → x.paused = true → x.causes = [{ p := q, src := .throttle n }] → q ≤ x.vcc → 0 < n → g + 32 ≤ x.stopGcc + n + 24 →
      ∃ s', exec (.throttleHold i) s = .next s' ∧ OnlySash s s' i { x with
        causes := x.causes ++ [{ p := x.vcc, src := .throttle (n + 64) }], resume := none, throttled := some g, nextHold := nextRunAt g h }) ∧
    (x.paused = false ∨ sashHeld (enter s) x = true → exec (.sashResume i) s = .next s) ∧
    (x.paused = true → sashHeld (enter s) x = false → x.resume = none → ∃ s', exec (.sashResume i) s = .next s' ∧
      OnlySash s s' i { x with resume := some (s.mach.clock + 24) }) ∧
    (∀ n, x.paused = true → sashHeld (enter s) x = false → x.resume = some n → ∃ s', exec (.sashResume i) s = .next s' ∧ SameBytes s s' ∧
      sash s' i = some { x with
        paused := false, resume := none, scanned := none, causes := x.causes.filter fun y => decide (x.vcc < y.p)
        throttled := if throttleCause (enter s) x then some g else x.throttled })

/-- Tier 2. The drift unit, the ports and the registers of a module (R342 to R347, R359 to R366, R370): what each event makes of
the module; no other module changes, but that a port's loss notes which drift commands have come, and no byte but for the boot ROM,
which zeroes die 0's DRAM, and for drift reports that a port held. FACCEPT is taken in IMGSTAT 4 alone (log entry 64, R370), the ROM
zeroes all of die 0's DRAM (log entry 105), and a register is written only once the ROM runs (log entry 72): these are the model's
choices. -/
def Obligations.ModuleEvents : Prop :=
  ∀ (s : State) (m : Nat), let x := module s m
    (∃ s', exec (.driftHoldCycle m) s = .next s' ∧ OnlyModule s s' m (if x.hold then { x with hold := false, frozen := true } else x)) ∧
    (∀ c, arrivedDrift (enter s) m = some c →
      (c.set = true → ∃ s', exec (.driftSetApply m) s = .next s' ∧
        OnlyModule s s' m { x with drifts := x.drifts.erase c, rate := BitVec.ofNat 32 (min c.value Config.maxRate.toNat) }) ∧
      (c.set = false → ∃ s', exec (.driftStepApply m) s = .next s' ∧
        OnlyModule s s' m { x with drifts := x.drifts.erase c, step := min 255 (x.step + c.value) })) ∧
    (∀ p y, x.ports.find p = some y →
      (∃ s', exec (.portLinkLoss m p) s = .next s' ∧ SameBytes s s' ∧ (module s' m).ports = x.ports.put p { y with lost := true } ∧
        (∀ n, n ≠ m → (module s' n).ports = (module s n).ports) ∧
        (∀ n, { module s' n with ports := (module s n).ports, drifts := (module s n).drifts } = module s n ∧
          (module s' n).drifts = (module s n).drifts.map fun c => { c with came := c.came || (decide (c.due ≤ s.mach.clock) && routeUp (enter s) c.src n) }) ∧
        ((∀ n, (module s n).drifts = []) → OnlyModule s s' m { x with ports := x.ports.put p { y with lost := true } })) ∧
      (∃ s', exec (.portRetrained m p) s = .next s' ∧ (∀ c o r, course s' c o r = course s c o r) ∧
        (module s' m).ports = x.ports.put p { y with lost := false } ∧ (∀ n, n ≠ m → (module s' n).ports = (module s n).ports) ∧
        (∀ n, (module s' n).gcc = (module s n).gcc ∧ (module s' n).drifts.length = (module s n).drifts.length) ∧
        ((∀ n, (module s n).reports = []) → SameBytes s s'))) ∧
    (x.imgStat = 0 → ∃ s', exec (.romStart m) s = .next s' ∧
      (∀ st a, s'.mem.byte st a = if st = .dram ∧ dramKey (4 * m) 0 ≤ a ∧ a < dramKey (4 * m) 0 + Config.dramSpan then 0 else s.mem.byte st a) ∧
      module s' m = { x with bootDue := none, full := false, imgStat := 1, msix := x.msix.modify 2 (· + 1) } ∧
      (∀ n, n ≠ m → module s' n = module s n)) ∧
    (∀ v, (x.facceptSet = true ∨ x.imgStat ≠ 4 → exec (.facceptWrite m v) s = .next s) ∧
      (x.facceptSet = false → x.imgStat = 4 → ∃ s', exec (.facceptWrite m v) s = .next s' ∧ SameBytes s s' ∧ (module s' m).facceptSet = true ∧
        (module s' m).faccept = v.truncate 32 &&& Config.fOffer ∧ (module s' m).imgStat = 5)) ∧
    (∀ v, x.imgStat ≠ 0 →
      (∃ s', exec (.registerWrite m 0x18 v) s = .next s' ∧ OnlyModule s s' m { x with dwin := v.toNat % 4 }) ∧
      (∃ s', exec (.registerWrite m 0x40 v) s = .next s' ∧ OnlyModule s s' m
        { x with pcap := if v.toNat % 2 ^ 16 = 0 ∨ 3000 < v.toNat % 2 ^ 16 then 3000 else v.toNat % 2 ^ 16 })) ∧
    (∀ h r, x.outq = h :: r → ∃ s', exec (.d2hAck m) s = .next s' ∧
      OnlyModule s s' m { x with d2h := h, full := true, outq := r, msix := x.msix.modify 0 (· + 1) }) ∧
    (x.outq = [] → ∃ s', exec (.d2hAck m) s = .next s' ∧ OnlyModule s s' m { x with full := false }) ∧
    (∀ msg, s.mach.clock < x.h2dBusy ∨ x.replies ≠ [] ∨ (∃ q ∈ x.quotes, q.2.1 = 16) →
      ∀ i ∈ [Instr.quoteRequest m msg, .partitionMap m msg, .timeGroup m msg, .rootRcb m msg, .extend m msg, .certificateRequest m msg, .unknownMessage m msg],
        ∃ s', exec i s = .next s' ∧ OnlyModule s s' m { x with rej := true })

/-- Tier 2. Walks, verdicts, shoot-downs and soft errors on a die (R308, R312, R317, R321, R332): a walk that ends in a leaf
or a fault code keeps it for what waits, and so do the walks of other parts of that page (R316); a verdict frees the request's
slot and answers every walk that joined it; SDCMD is taken unless one is busy, and completes within
512 cycles; an uncorrectable error marks its granule and is counted, with the bytes as they were. The numbers of the stores in that event
are the model's choice (log entry 40). -/
def Obligations.DieEvents : Prop :=
  ∀ (s : State) (d : Nat), let x := die s d
    (∀ wid k, x.walks.find? (fun k => decide (k.wid = wid)) = some k →
      (∀ code, walkOut (enter s) d k.off = .bad code → ∃ s', exec (.pageWalk d wid) s = .next s' ∧
        OnlyDie s s' d { x with walks := x.walks.map fun y => if y.wid = wid then { y with code := code } else y }) ∧
      (∀ l, walkOut (enter s) d k.off = .leaf l → ∃ s', exec (.pageWalk d wid) s = .next s' ∧
        OnlyDie s s' d { x with
          walks := x.walks.map fun y =>
            if y.wid = wid ∨ l.covers y.off = true ∧ y.slot = none ∧ y.found = none ∧ y.code = 0 then { y with found := some l } else y
          dirs := (die s' d).dirs
          tlb := (die s' d).tlb } ∧ l ∈ (die s' d).tlb)) ∧
    (∀ slot r, x.reqs.find slot = some r →
      (∃ s', exec (.pageVerdictFail d slot) s = .next s' ∧ OnlyDie s s' d { x with
        reqs := x.reqs.erase slot
        walks := x.walks.map fun y => if y.slot = some slot then { y with slot := none, code := 0x03, due := s.mach.clock } else y }) ∧
      (∃ s' n, exec (.pageVerdictRetry d slot) s = .next s' ∧ s.mach.clock ≤ n ∧ OnlyDie s s' d { x with
        reqs := x.reqs.erase slot
        walks := x.walks.map fun y => if y.slot = some slot then { y with slot := none, due := n } else y })) ∧
    (∀ (i : Instr) (page : BitVec 32) (size : Nat), (i = .shootdownSmall d page ∧ size = 0 ∨ i = .shootdownLarge d page ∧ size = 1 ∨
        i = .shootdownBoth d page ∧ size = 2 ∨ i = .shootdownAll d ∧ size = 3 ∧ page = 0) →
      let v : W64 := BitVec.ofNat 64 (2 ^ 63 + size * 2 ^ 61 + page.toNat * 2 ^ 14)
      (x.busy.isSome = true → exec i s = .next s) ∧
      (x.busy = none → ∃ s' n, exec i s = .next s' ∧ n ≤ s.mach.clock + 512 ∧ OnlyDie s s' d { x with sdcmd := v, busy := some (v, n) })) ∧
    (∃ s', exec (.scrub d) s = .next s' ∧ OnlyDie s s' d { x with corr := min (x.corr + 1) (2 ^ 32 - 1) }) ∧
    (∀ g, 8 * g / Config.dramSpan = d → ∃ s', exec (.uncorrectableError 0 g) s = .next s' ∧
      (∀ st a, s'.mem.byte st a = s.mem.byte st a) ∧ s'.mem.poisoned .dram (8 * g) 8 = true ∧
      die s' d = { x with uncorr := min (x.uncorr + 1) (2 ^ 32 - 1) })

/-- Tier 2. What moves a path or a lane access on (R25, R27, R28, R176, R199, R206, R210, R377, R378): the end of a fill, which leaves the
records of the stacked paths in the stack area, the timeout of `mon.wait`, the arrival of the matrix key, an asynchronous trap, a breakpoint
and a hold of a free launch, and the write half of a tile atomic. The model's choices: which pending trap comes first (`pendingTrap`, log
entry 36), that the stopped path alone passes its breakpoint (log entry 76), and that the stack area is written when a transfer ends (log
entry 104). -/
def Obligations.PathEvents : Prop :=
  ∀ (s : State) (c o r slot : Nat) (b : Block) (k : Course), block s c o = some b → course s c o r = some k →
    (∃ s', exec (.pathFillComplete c o r slot) s = .next s' ∧ (k.stack = [] → SameBytes s s') ∧
      course s' c o r = some (if slot = 0 then { k with win0 := 0, filling := k.filling.filter (· ≠ slot) }
        else { k with win1 := 0, filling := k.filling.filter (· ≠ slot) }) ∧
      (∀ l, slot ∉ k.filling → let at_ := b.bind.ctx + 8192 + 4096 * r + 0x800
        walkOut (enter s) (dieOf c) at_ = .leaf l → l.refuses .write true true = false → at_ % 2 ^ 14 + 32 * k.stack.length ≤ 2 ^ 14 →
        Writes s s' (l.place (dieOf c) at_).1 (l.place (dieOf c) at_).2 (k.stack.flatMap (pathRecord k)))) ∧
    (∀ p, k.path? slot = some p →
      (∀ q n, p.st = .waiting (.mon q n) → ∃ s', exec (.monWaitTimeout c o r slot) s = .next s' ∧ SameBytes s s' ∧
        course s' c o r = some (k.setPath slot { p with st := .ready, turns := 0 }) ∧
        (core s' c).results = (core s c).results ++ [{
          id := (core s c).nextId, seq := (core s c).seq, owner := o, cr := r, ready := vcc s c + 2, writes := [.pred q p.mask 0], flags := 0,
          pc := p.pc - 1, word := ({ p with pc := p.pc - 1 } : Path).slotWord.1 }]) ∧
      (p.st = .waiting .key → b.key = k.cr → b.pends = [] → ∃ s', exec (.waitWake c o r slot) s = .next s' ∧ SameBytes s s' ∧
        course s' c o r = some (k.setPath slot { p with st := .ready, turns := 0 }) ∧ block s' c o = some b) ∧
      (∀ kind code, k.pendingTrap = some (kind, code) → k.handler = none → b.hdr.traph = true → k.live ≠ 0 →
        ∃ s' k', exec (.asyncTrapTake c o r slot) s = .next s' ∧ SameBytes s s' ∧ course s' c o r = some k' ∧
          k'.tpc = pcWord p.pc ∧ k'.tcause = BitVec.ofNat 32 (kind * 2 ^ 28 + code % 2 ^ 10 * 2 ^ 16 + slot % 2 ^ 5) ∧
          k'.handler = some ((k.paths.map fun x => x.2.id).filter (· ≠ p.id)) ∧
          k'.path? slot = some { p with pc := 3 * ((b.bind.hdr + b.hdr.entry) / 16 + b.hdr.hoff), turns := p.turns + 1, fetch := .idle }) ∧
      (∀ e, matchBp (core s c) o p = some e → b.hdr.timed = false → ∃ s', exec (.breakpointMatch c o r slot) s = .next s' ∧
        course s' c o r = some (k.setPath slot { p with held := true, stepping := false, bpSkip := some p.pc })) ∧
      (b.hdr.timed = false → p.holdReq = true → ∃ s', exec (.debugHoldTake c o r slot) s = .next s' ∧
        course s' c o r = some (k.setPath slot { p with held := true, holdReq := false, bpSkip := some p.pc }))) ∧
    (∀ aid a, (core s c).accs.find? (fun a => decide (a.id = aid)) = some a → a.done = none → a.logged = true → a.space = .ts →
      let n := levelKey 0 c a.addr.toNat
      ∃ s', exec (.tatomWriteHalf c aid) s = .next s' ∧
        (∀ i, i < 4 → (s'.mem.byte .ts (n + i)).toNat = a.data.toNat / 2 ^ (8 * i) % 2 ^ 8) ∧
        (∀ st x, ¬ (st = .ts ∧ n ≤ x ∧ x < n + 4) → s'.mem.byte st x = s.mem.byte st x) ∧ course s' c o r = some k)


/-- Tier 2. What every event of the machine does that is stated nowhere else, each with the next state that it makes: the engines
(`EngineEvents`), timed sends (`MessageEvents`), blocks (`BlockEvents`), the management cores with the containment of faults
(`ManagementEvents`), fetch, translation and late accesses (`MemoryEvents`), timing and power (`PowerEvents`), the host's messages and
registers (`HostMessages`, `HostEvents`) and the debug unit (`DebugEvents`). Choices of the model in them: log entries 52, 53 and 62 of the
engines, 61, 80 and 81 of sends, 13, 28, 102 and 104 of blocks, 35 and 92 of containment, 15, 25, 94, 100 and 111 of memory, 37, 38, 39, 41
and 82 of power, 65 to 69, 71, 74, 84, 105 and 107 of the host, 75, 77 and 112 of the debug unit. -/
def Obligations.EventsComplete : Prop :=
  ∀ s : State, EngineEvents s ∧ MessageEvents s ∧ BlockEvents s ∧ ManagementEvents s ∧ MemoryEvents s ∧ PowerEvents s ∧
    HostMessages s ∧ HostEvents s ∧ DebugEvents s
end

