-- ==== Sys2Proof/Laws/Tab.lean ====
section
/-! SUPPORT. What the operations on sparse tables do: reading after writing, and the canonical form. -/

namespace Sys2Proof.Tab

variable {α : Type}

/-! ## Reading after writing -/

/-- An entry put is found. -/
@[simp] theorem find_put_same (t : Tab α) (k : Nat) (v : α) : (t.put k v).find k = some v := by
  induction t with
  | nil => simp [put, find]
  | cons x r ih =>
    simp only [put]
    split
    · simp [find]
    · next hk =>
      split
      · simp [find]
      · simpa [find, hk] using ih

/-- Putting an entry leaves the other keys. -/
theorem find_put_other (t : Tab α) {k j : Nat} (v : α) (hj : j ≠ k) : (t.put k v).find j = t.find j := by
  induction t with
  | nil => simp [put, find, hj]
  | cons x r ih =>
    simp only [put]
    split
    · next hk => simp [find, hj, ← hk]
    · split
      · simp [find, hj]
      · simp [find, ih]

/-- Erasing is dropping every entry of the key. -/
theorem erase_eq (t : Tab α) (k : Nat) : t.erase k = t.filter fun x => decide (x.1 ≠ k) := by
  induction t with
  | nil => rfl
  | cons x r ih =>
    obtain ⟨a, w⟩ := x
    by_cases h : k = a
    · subst h; simpa [erase] using ih
    · simp [erase, h, ih, Ne.symm h]

/-- An entry erased is not found. -/
@[simp] theorem find_erase_same (t : Tab α) (k : Nat) : (t.erase k).find k = none := by
  induction t with
  | nil => rfl
  | cons x r ih =>
    obtain ⟨a, v⟩ := x
    by_cases h : k = a
    · subst h; simpa [erase] using ih
    · simpa [erase, find, h] using ih

/-- Erasing an entry leaves the other keys. -/
theorem find_erase_other (t : Tab α) {k j : Nat} (hj : j ≠ k) : (t.erase k).find j = t.find j := by
  induction t with
  | nil => rfl
  | cons x r ih =>
    obtain ⟨a, v⟩ := x
    by_cases h : k = a
    · subst h; simp only [erase, if_true, find, if_neg hj, ih]
    · simp [erase, find, h, ih]

/-- Dropping entries of other keys leaves a key. -/
theorem find_filter (t : Tab α) (p : Nat × α → Bool) (j : Nat) (h : ∀ v, p (j, v) = true) : Tab.find (t.filter p) j = t.find j := by
  induction t with
  | nil => rfl
  | cons x r ih =>
    obtain ⟨a, v⟩ := x
    by_cases hj : j = a
    · subst hj; simp [h v, find]
    · by_cases hp : p (a, v) = true
      · simp [hp, find, hj, ih]
      · simp [hp, find, hj, ih]

/-- Dropping every entry of a key leaves it unlisted. -/
theorem find_filter_none (t : Tab α) (p : Nat × α → Bool) (j : Nat) (h : ∀ v, p (j, v) = false) : Tab.find (t.filter p) j = none := by
  induction t with
  | nil => rfl
  | cons x r ih =>
    obtain ⟨a, v⟩ := x
    by_cases hj : j = a
    · subst hj; simpa [h v] using ih
    · by_cases hp : p (a, v) = true
      · simp [hp, find, hj, ih]
      · simpa [hp] using ih

/-- A write reads back. -/
theorem get_set_same [DecidableEq α] (d : α) (t : Tab α) (k : Nat) (v : α) : get d (set d t k v) k = v := by
  unfold get set
  split
  · next h => simp [h]
  · simp

/-- A write leaves every other key. -/
theorem get_set_other [DecidableEq α] (d : α) (t : Tab α) {k j : Nat} (v : α) (hj : j ≠ k) : get d (set d t k v) j = get d t j := by
  unfold get set
  split
  · rw [find_erase_other _ hj]
  · rw [find_put_other _ _ hj]

/-! ## The canonical form -/

/-- The canonical form with no lower bound follows from one with a bound. -/
theorem wfFrom_weaken [DecidableEq α] {d : α} {lo : Option Nat} {t : Tab α} (h : wfFrom d lo t = true) :
    wfFrom d none t = true := by
  cases t with
  | nil => rfl
  | cons x r => simp_all [wfFrom]

/-- A lower bound may be lowered. -/
theorem wfFrom_lower [DecidableEq α] {d : α} {lo hi : Nat} {t : Tab α} (hle : lo ≤ hi)
    (h : wfFrom d (some hi) t = true) : wfFrom d (some lo) t = true := by
  cases t with
  | nil => rfl
  | cons x r =>
    simp only [wfFrom, Bool.and_eq_true, decide_eq_true_eq] at h ⊢
    exact ⟨⟨by omega, h.1.2⟩, h.2⟩

/-- Dropping entries keeps the canonical form. -/
theorem wfFrom_filter [DecidableEq α] {d : α} {lo : Option Nat} {t : Tab α} (p : Nat × α → Bool) (h : wfFrom d lo t = true) :
    wfFrom d lo (t.filter p) = true := by
  induction t generalizing lo with
  | nil => simpa using h
  | cons x r ih =>
    simp only [wfFrom, Bool.and_eq_true, decide_eq_true_eq] at h
    rw [List.filter_cons]
    split
    · simp only [wfFrom, Bool.and_eq_true, decide_eq_true_eq]
      exact ⟨h.1, ih h.2⟩
    · refine ih ?_
      cases lo with
      | none => exact wfFrom_weaken h.2
      | some l => exact wfFrom_lower (Nat.le_of_lt (by simpa using h.1.1)) h.2

/-- Putting an entry that differs from the default keeps the canonical form. -/
theorem wfFrom_put [DecidableEq α] {d : α} {lo : Option Nat} {t : Tab α} (h : wfFrom d lo t = true) (k : Nat) {v : α} (hv : v ≠ d)
    (hk : ∀ l, lo = some l → l < k) : wfFrom d lo (t.put k v) = true := by
  induction t generalizing lo with
  | nil => cases lo <;> simp_all [wfFrom, put]
  | cons x r ih =>
    obtain ⟨a, w⟩ := x
    simp only [wfFrom, Bool.and_eq_true, decide_eq_true_eq] at h
    simp only [put]
    split
    · next hka => subst hka; simpa [wfFrom, hv] using ⟨h.1.1, h.2⟩
    · next hka =>
      split
      · next hlt =>
        cases lo with
        | none => simp [wfFrom, hv, hlt, h.1.2, h.2]
        | some l => simp [wfFrom, hv, hlt, h.1.2, h.2, hk l rfl]
      · next hge =>
        simp only [wfFrom, Bool.and_eq_true, decide_eq_true_eq]
        exact ⟨h.1, ih h.2 (by intro l hl; cases hl; omega)⟩

/-- Dropping entries keeps the canonical form. -/
theorem wf_filter [DecidableEq α] {d : α} {t : Tab α} (p : Nat × α → Bool) (h : wf d t = true) : wf d (t.filter p) = true :=
  wfFrom_filter p h

/-- A write keeps the canonical form. -/
theorem wf_set [DecidableEq α] {d : α} {t : Tab α} (h : wf d t = true) (k : Nat) (v : α) : wf d (set d t k v) = true := by
  unfold set
  split
  · rw [erase_eq]; exact wf_filter _ h
  · next hv => exact wfFrom_put h k hv (by simp)

end Sys2Proof.Tab
end

