-- ==== Sys2Proof/Laws/Memory.lean ====
section
/-! SUPPORT. What the memory operations do: reading a byte after a write, and the canonical form, which every
operation keeps. -/

namespace Sys2Proof.Machine

/-- The canonical form, table by table. -/
theorem memory_wf_iff {m : Memory} :
    m.wf = true ↔ (∀ st, Tab.wf 0 (m.tab st) = true) ∧ Tab.wf false m.poison = true := by
  simp only [Memory.wf, Bool.and_eq_true]
  constructor
  · rintro ⟨⟨⟨⟨⟨h1, h2⟩, h3⟩, h4⟩, h5⟩, h6⟩
    exact ⟨fun st => by cases st <;> assumption, h6⟩
  · rintro ⟨h, h6⟩
    exact ⟨⟨⟨⟨⟨h .dram, h .host⟩, h .ts⟩, h .acc⟩, h .trn⟩, h6⟩

@[simp] theorem tab_setTab_same (m : Memory) (st : Store) (t : Tab Byte) : (m.setTab st t).tab st = t := by cases st <;> rfl

theorem tab_setTab_other (m : Memory) {st st' : Store} (t : Tab Byte) (h : st' ≠ st) : (m.setTab st t).tab st' = m.tab st' := by
  cases st <;> cases st' <;> first | rfl | exact absurd rfl h

@[simp] theorem poison_setTab (m : Memory) (st : Store) (t : Tab Byte) : (m.setTab st t).poison = m.poison := by cases st <;> rfl

/-- Replacing a table by a canonical one keeps the form. -/
theorem wf_setTab {m : Memory} {st : Store} {t : Tab Byte} (h : m.wf = true) (ht : Tab.wf 0 t = true) : (m.setTab st t).wf = true := by
  rw [memory_wf_iff] at h ⊢
  refine ⟨fun st' => ?_, by simpa using h.2⟩
  by_cases e : st' = st
  · subst e; simpa using ht
  · rw [tab_setTab_other m t e]; exact h.1 st'

/-- Replacing the poison table by a canonical one keeps the form. -/
theorem wf_setPoison {m : Memory} {t : Tab Bool} (h : m.wf = true) (ht : Tab.wf false t = true) : ({ m with poison := t } : Memory).wf = true := by
  rw [memory_wf_iff] at h ⊢
  exact ⟨fun st => by have := h.1 st; cases st <;> exact this, ht⟩

theorem wf_putByte {m : Memory} (h : m.wf = true) (st : Store) (a : Nat) (v : Byte) : (m.putByte st a v).wf = true :=
  wf_setTab h (Tab.wf_set ((memory_wf_iff.mp h).1 st) a v)

theorem wf_putBytes {m : Memory} (h : m.wf = true) (st : Store) (a : Nat) (bs : List Byte) : (m.putBytes st a bs).wf = true := by
  induction bs generalizing m a with
  | nil => exact h
  | cons b r ih => exact ih (wf_putByte h st a b) (a + 1)

theorem wf_clean {m : Memory} (h : m.wf = true) (st : Store) (g n : Nat) : (m.clean st g n).wf = true := by
  induction n generalizing m g with
  | zero => exact h
  | succ n ih => exact ih (wf_setPoison h (Tab.wf_set (memory_wf_iff.mp h).2 _ _)) (g + 1)

/-- One write keeps the canonical form, whichever it is. -/
theorem wf_apply {m : Memory} (h : m.wf = true) (x : MemWrite) : (m.apply x).wf = true := by
  cases x with
  | bytes st a bs => exact wf_clean (wf_putBytes h st a bs) st _ _
  | zero st a n =>
    have h1 := wf_setTab (st := st) h (Tab.wf_filter
      (fun (x : Nat × Byte) => decide (x.1 < a) || decide (a + n ≤ x.1)) ((memory_wf_iff.mp h).1 st))
    exact wf_setPoison h1 (Tab.wf_filter _ (by simpa using (memory_wf_iff.mp h).2))
  | mark st g => exact wf_setPoison h (Tab.wf_set (memory_wf_iff.mp h).2 _ _)

/-- A list of writes keeps the canonical form. -/
theorem wf_applyAll {m : Memory} (h : m.wf = true) (l : List MemWrite) : (m.applyAll l).wf = true := by
  induction l generalizing m with
  | nil => exact h
  | cons x r ih => exact ih (wf_apply h x)

/-- The memory after reset has the canonical form. -/
theorem wf_reset : State.reset.mem.wf = true := rfl

/-! ## Reading a byte after a write -/

@[simp] theorem byte_setPoison (m : Memory) (t : Tab Bool) (st : Store) (a : Nat) :
    ({ m with poison := t } : Memory).byte st a = m.byte st a := by cases st <;> rfl

@[simp] theorem byte_clean (m : Memory) (st st' : Store) (g n a : Nat) : (m.clean st g n).byte st' a = m.byte st' a := by
  induction n generalizing m g with
  | zero => rfl
  | succ n ih => rw [Memory.clean, ih, byte_setPoison]

theorem byte_putByte_same (m : Memory) (st : Store) (a : Nat) (v : Byte) : (m.putByte st a v).byte st a = v := by
  simp only [Memory.byte, Memory.putByte, tab_setTab_same]
  exact Tab.get_set_same _ _ a v

theorem byte_putByte_other (m : Memory) {st st' : Store} {a a' : Nat} (v : Byte) (hne : st' ≠ st ∨ a' ≠ a) :
    (m.putByte st a v).byte st' a' = m.byte st' a' := by
  simp only [Memory.byte, Memory.putByte]
  by_cases e : st' = st
  · subst e
    rw [tab_setTab_same]
    exact Tab.get_set_other _ _ v (hne.resolve_left (fun h => h rfl))
  · rw [tab_setTab_other m _ e]

/-- A write of bytes leaves every byte outside them. -/
theorem byte_putBytes_other (m : Memory) {st st' : Store} {a a' : Nat} (bs : List Byte)
    (hne : st' ≠ st ∨ a' < a ∨ a + bs.length ≤ a') : (m.putBytes st a bs).byte st' a' = m.byte st' a' := by
  induction bs generalizing m a with
  | nil => rfl
  | cons b r ih =>
    rw [Memory.putBytes, ih]
    · refine byte_putByte_other _ b ?_
      rcases hne with hne | hne | hne
      · exact .inl hne
      · exact .inr (by omega)
      · simp only [List.length_cons] at hne; exact .inr (by omega)
    · rcases hne with hne | hne | hne
      · exact .inl hne
      · exact .inr (.inl (by omega))
      · simp only [List.length_cons] at hne; exact .inr (.inr (by omega))

/-- A byte written reads back. -/
theorem byte_putBytes_same (m : Memory) (st : Store) (a i : Nat) (bs : List Byte) (hi : i < bs.length) :
    (m.putBytes st a bs).byte st (a + i) = bs[i] := by
  induction bs generalizing m a i with
  | nil => simp at hi
  | cons b r ih =>
    rw [Memory.putBytes]
    cases i with
    | zero =>
      rw [byte_putBytes_other _ r (.inr (.inl (by omega)))]
      simpa using byte_putByte_same m st a b
    | succ i =>
      have := ih (m.putByte st a b) (a + 1) i (by simpa using hi)
      rw [show a + (i + 1) = a + 1 + i by omega, this]
      simp

/-- What one write of bytes leaves. -/
theorem byte_apply_bytes_other (m : Memory) {st st' : Store} {a a' : Nat} (bs : List Byte)
    (hne : st' ≠ st ∨ a' < a ∨ a + bs.length ≤ a') : (m.apply (.bytes st a bs)).byte st' a' = m.byte st' a' := by
  simp only [Memory.apply, byte_clean]
  exact byte_putBytes_other m bs hne

/-- A byte that one write of bytes writes reads back. -/
theorem byte_apply_bytes_same (m : Memory) (st : Store) (a i : Nat) (bs : List Byte) (hi : i < bs.length) :
    (m.apply (.bytes st a bs)).byte st (a + i) = bs[i] := by
  simp only [Memory.apply, byte_clean]
  exact byte_putBytes_same m st a i bs hi

/-- A mark of poison changes no byte. -/
@[simp] theorem byte_apply_mark (m : Memory) (st st' : Store) (g a : Nat) : (m.apply (.mark st g)).byte st' a = m.byte st' a := by
  simp [Memory.apply]

end Sys2Proof.Machine
end

