-- ==== Sys2Proof/Laws/State.lean ====
section
/-! SUPPORT. One lemma per field and update: what each named update of the state changes and what it leaves. All hold by
definition. -/

namespace Sys2Proof.Machine

/-! ## Opening and closing a state -/

@[simp] theorem enter_mem (s : State) : (enter s).mem = s.mem := rfl
@[simp] theorem enter_mach (s : State) : (enter s).mach = s.mach := rfl
@[simp] theorem enter_out (s : State) : (enter s).out = [] := rfl
@[simp] theorem commit_mach (s : State) (w : World) : (commit s w).mach = w.mach := rfl
@[simp] theorem commit_mem (s : State) (w : World) : (commit s w).mem = s.mem.applyAll w.out := rfl
@[simp] theorem applyAll_nil (m : Memory) : m.applyAll [] = m := rfl

/-! ## Updates of a world -/

@[simp] theorem setCore_mem (w : World) (c : Nat) (k : Core) : (w.setCore c k).mem = w.mem := rfl
@[simp] theorem setCore_out (w : World) (c : Nat) (k : Core) : (w.setCore c k).out = w.out := rfl
@[simp] theorem setCore_clock (w : World) (c : Nat) (k : Core) : (w.setCore c k).mach.clock = w.mach.clock := rfl
@[simp] theorem setCore_inputs (w : World) (c : Nat) (k : Core) : (w.setCore c k).mach.inputs = w.mach.inputs := rfl
@[simp] theorem setCore_cur (w : World) (c : Nat) (k : Core) : (w.setCore c k).mach.cur = w.mach.cur := rfl
@[simp] theorem setCore_freeCtr (w : World) (c : Nat) (k : Core) : (w.setCore c k).mach.freeCtr = w.mach.freeCtr := rfl
@[simp] theorem setCore_mods (w : World) (c : Nat) (k : Core) : (w.setCore c k).mach.mods = w.mach.mods := rfl
@[simp] theorem setCore_dies (w : World) (c : Nat) (k : Core) : (w.setCore c k).mach.dies = w.mach.dies := rfl
@[simp] theorem setCore_cores (w : World) (c : Nat) (k : Core) : (w.setCore c k).mach.cores = w.mach.cores.put c k := rfl
@[simp] theorem setCore_sashes (w : World) (c : Nat) (k : Core) : (w.setCore c k).mach.sashes = w.mach.sashes := rfl
@[simp] theorem setCore_nextSash (w : World) (c : Nat) (k : Core) : (w.setCore c k).mach.nextSash = w.mach.nextSash := rfl
@[simp] theorem setCore_routes (w : World) (c : Nat) (k : Core) : (w.setCore c k).mach.routes = w.mach.routes := rfl

@[simp] theorem setDie_mem (w : World) (d : Nat) (k : Die) : (w.setDie d k).mem = w.mem := rfl
@[simp] theorem setDie_out (w : World) (d : Nat) (k : Die) : (w.setDie d k).out = w.out := rfl
@[simp] theorem setDie_clock (w : World) (d : Nat) (k : Die) : (w.setDie d k).mach.clock = w.mach.clock := rfl
@[simp] theorem setDie_inputs (w : World) (d : Nat) (k : Die) : (w.setDie d k).mach.inputs = w.mach.inputs := rfl
@[simp] theorem setDie_cur (w : World) (d : Nat) (k : Die) : (w.setDie d k).mach.cur = w.mach.cur := rfl
@[simp] theorem setDie_freeCtr (w : World) (d : Nat) (k : Die) : (w.setDie d k).mach.freeCtr = w.mach.freeCtr := rfl
@[simp] theorem setDie_mods (w : World) (d : Nat) (k : Die) : (w.setDie d k).mach.mods = w.mach.mods := rfl
@[simp] theorem setDie_dies (w : World) (d : Nat) (k : Die) : (w.setDie d k).mach.dies = w.mach.dies.put d k := rfl
@[simp] theorem setDie_cores (w : World) (d : Nat) (k : Die) : (w.setDie d k).mach.cores = w.mach.cores := rfl
@[simp] theorem setDie_sashes (w : World) (d : Nat) (k : Die) : (w.setDie d k).mach.sashes = w.mach.sashes := rfl
@[simp] theorem setDie_nextSash (w : World) (d : Nat) (k : Die) : (w.setDie d k).mach.nextSash = w.mach.nextSash := rfl
@[simp] theorem setDie_routes (w : World) (d : Nat) (k : Die) : (w.setDie d k).mach.routes = w.mach.routes := rfl

@[simp] theorem setModule_mem (w : World) (m : Nat) (k : Module) : (w.setModule m k).mem = w.mem := rfl
@[simp] theorem setModule_out (w : World) (m : Nat) (k : Module) : (w.setModule m k).out = w.out := rfl
@[simp] theorem setModule_clock (w : World) (m : Nat) (k : Module) : (w.setModule m k).mach.clock = w.mach.clock := rfl
@[simp] theorem setModule_inputs (w : World) (m : Nat) (k : Module) : (w.setModule m k).mach.inputs = w.mach.inputs := rfl
@[simp] theorem setModule_cur (w : World) (m : Nat) (k : Module) : (w.setModule m k).mach.cur = w.mach.cur := rfl
@[simp] theorem setModule_freeCtr (w : World) (m : Nat) (k : Module) : (w.setModule m k).mach.freeCtr = w.mach.freeCtr := rfl
@[simp] theorem setModule_mods (w : World) (m : Nat) (k : Module) : (w.setModule m k).mach.mods = w.mach.mods.put m k := rfl
@[simp] theorem setModule_dies (w : World) (m : Nat) (k : Module) : (w.setModule m k).mach.dies = w.mach.dies := rfl
@[simp] theorem setModule_cores (w : World) (m : Nat) (k : Module) : (w.setModule m k).mach.cores = w.mach.cores := rfl
@[simp] theorem setModule_sashes (w : World) (m : Nat) (k : Module) : (w.setModule m k).mach.sashes = w.mach.sashes := rfl
@[simp] theorem setModule_nextSash (w : World) (m : Nat) (k : Module) : (w.setModule m k).mach.nextSash = w.mach.nextSash := rfl
@[simp] theorem setModule_routes (w : World) (m : Nat) (k : Module) : (w.setModule m k).mach.routes = w.mach.routes := rfl

@[simp] theorem setSash_mem (w : World) (i : Nat) (k : Sash) : (w.setSash i k).mem = w.mem := rfl
@[simp] theorem setSash_out (w : World) (i : Nat) (k : Sash) : (w.setSash i k).out = w.out := rfl
@[simp] theorem setSash_clock (w : World) (i : Nat) (k : Sash) : (w.setSash i k).mach.clock = w.mach.clock := rfl
@[simp] theorem setSash_inputs (w : World) (i : Nat) (k : Sash) : (w.setSash i k).mach.inputs = w.mach.inputs := rfl
@[simp] theorem setSash_cur (w : World) (i : Nat) (k : Sash) : (w.setSash i k).mach.cur = w.mach.cur := rfl
@[simp] theorem setSash_freeCtr (w : World) (i : Nat) (k : Sash) : (w.setSash i k).mach.freeCtr = w.mach.freeCtr := rfl
@[simp] theorem setSash_mods (w : World) (i : Nat) (k : Sash) : (w.setSash i k).mach.mods = w.mach.mods := rfl
@[simp] theorem setSash_dies (w : World) (i : Nat) (k : Sash) : (w.setSash i k).mach.dies = w.mach.dies := rfl
@[simp] theorem setSash_cores (w : World) (i : Nat) (k : Sash) : (w.setSash i k).mach.cores = w.mach.cores := rfl
@[simp] theorem setSash_sashes (w : World) (i : Nat) (k : Sash) : (w.setSash i k).mach.sashes = w.mach.sashes.put i k := rfl
@[simp] theorem setSash_nextSash (w : World) (i : Nat) (k : Sash) : (w.setSash i k).mach.nextSash = w.mach.nextSash := rfl
@[simp] theorem setSash_routes (w : World) (i : Nat) (k : Sash) : (w.setSash i k).mach.routes = w.mach.routes := rfl

@[simp] theorem dropSash_mem (w : World) (i : Nat) : (w.dropSash i).mem = w.mem := rfl
@[simp] theorem dropSash_out (w : World) (i : Nat) : (w.dropSash i).out = w.out := rfl
@[simp] theorem dropSash_clock (w : World) (i : Nat) : (w.dropSash i).mach.clock = w.mach.clock := rfl
@[simp] theorem dropSash_inputs (w : World) (i : Nat) : (w.dropSash i).mach.inputs = w.mach.inputs := rfl
@[simp] theorem dropSash_cur (w : World) (i : Nat) : (w.dropSash i).mach.cur = w.mach.cur := rfl
@[simp] theorem dropSash_freeCtr (w : World) (i : Nat) : (w.dropSash i).mach.freeCtr = w.mach.freeCtr := rfl
@[simp] theorem dropSash_mods (w : World) (i : Nat) : (w.dropSash i).mach.mods = w.mach.mods := rfl
@[simp] theorem dropSash_dies (w : World) (i : Nat) : (w.dropSash i).mach.dies = w.mach.dies := rfl
@[simp] theorem dropSash_cores (w : World) (i : Nat) : (w.dropSash i).mach.cores = w.mach.cores := rfl
@[simp] theorem dropSash_sashes (w : World) (i : Nat) : (w.dropSash i).mach.sashes = w.mach.sashes.erase i := rfl
@[simp] theorem dropSash_nextSash (w : World) (i : Nat) : (w.dropSash i).mach.nextSash = w.mach.nextSash := rfl
@[simp] theorem dropSash_routes (w : World) (i : Nat) : (w.dropSash i).mach.routes = w.mach.routes := rfl

@[simp] theorem step_mem (w : World) : (w.step).mem = w.mem := rfl
@[simp] theorem step_out (w : World) : (w.step).out = w.out := rfl
@[simp] theorem step_clock (w : World) : (w.step).mach.clock = w.mach.clock := rfl
@[simp] theorem step_inputs (w : World) : (w.step).mach.inputs = w.mach.inputs := rfl
@[simp] theorem step_cur (w : World) : (w.step).mach.cur = w.mach.cur := rfl
@[simp] theorem step_freeCtr (w : World) : (w.step).mach.freeCtr = w.mach.freeCtr + 1 := rfl
@[simp] theorem step_mods (w : World) : (w.step).mach.mods = w.mach.mods := rfl
@[simp] theorem step_dies (w : World) : (w.step).mach.dies = w.mach.dies := rfl
@[simp] theorem step_cores (w : World) : (w.step).mach.cores = w.mach.cores := rfl
@[simp] theorem step_sashes (w : World) : (w.step).mach.sashes = w.mach.sashes := rfl
@[simp] theorem step_nextSash (w : World) : (w.step).mach.nextSash = w.mach.nextSash := rfl
@[simp] theorem step_routes (w : World) : (w.step).mach.routes = w.mach.routes := rfl

@[simp] theorem write_mach (w : World) (st : Store) (a : Nat) (bs : List Byte) : (w.write st a bs).mach = w.mach := rfl
@[simp] theorem write_mem (w : World) (st : Store) (a : Nat) (bs : List Byte) : (w.write st a bs).mem = w.mem.apply (.bytes st a bs) := rfl
@[simp] theorem write_out (w : World) (st : Store) (a : Nat) (bs : List Byte) : (w.write st a bs).out = w.out ++ [.bytes st a bs] := rfl
@[simp] theorem zero_mach (w : World) (st : Store) (a n : Nat) : (w.zero st a n).mach = w.mach := rfl
@[simp] theorem zero_mem (w : World) (st : Store) (a n : Nat) : (w.zero st a n).mem = w.mem.apply (.zero st a n) := rfl
@[simp] theorem zero_out (w : World) (st : Store) (a n : Nat) : (w.zero st a n).out = w.out ++ [.zero st a n] := rfl
@[simp] theorem poison_mach (w : World) (st : Store) (g : Nat) : (w.poison st g).mach = w.mach := rfl
@[simp] theorem poison_mem (w : World) (st : Store) (g : Nat) : (w.poison st g).mem = w.mem.apply (.mark st g) := rfl
@[simp] theorem poison_out (w : World) (st : Store) (g : Nat) : (w.poison st g).out = w.out ++ [.mark st g] := rfl

/-! ## Reading back -/

@[simp] theorem core_setCore_same (w : World) (c : Nat) (k : Core) : (w.setCore c k).core c = k := by simp [World.core]
theorem core_setCore_other (w : World) {c c' : Nat} (k : Core) (h : c' ≠ c) : (w.setCore c k).core c' = w.core c' := by
  simp [World.core, Tab.find_put_other _ _ h]
@[simp] theorem die_setDie_same (w : World) (d : Nat) (k : Die) : (w.setDie d k).die d = k := by simp [World.die]
@[simp] theorem module_setModule_same (w : World) (m : Nat) (k : Module) : (w.setModule m k).module m = k := by simp [World.module]
@[simp] theorem sash_setSash_same (w : World) (i : Nat) (k : Sash) : (w.setSash i k).sash? i = some k := by simp [World.sash?]
@[simp] theorem core_modCore_same (w : World) (c : Nat) (f : Core → Core) : (w.modCore c f).core c = f (w.core c) := by simp [World.modCore]
theorem core_modCore_other (w : World) {c c' : Nat} (f : Core → Core) (h : c' ≠ c) : (w.modCore c f).core c' = w.core c' :=
  core_setCore_other w _ h
@[simp] theorem modCore_mem (w : World) (c : Nat) (f : Core → Core) : (w.modCore c f).mem = w.mem := rfl
@[simp] theorem modCore_out (w : World) (c : Nat) (f : Core → Core) : (w.modCore c f).out = w.out := rfl
@[simp] theorem modDie_out (w : World) (d : Nat) (f : Die → Die) : (w.modDie d f).out = w.out := rfl
@[simp] theorem modModule_out (w : World) (m : Nat) (f : Module → Module) : (w.modModule m f).out = w.out := rfl
@[simp] theorem course_setCourse_same (w : World) (c o r : Nat) (k : Course) : (w.setCourse c o r k).course? c o r = some k := by
  simp [World.course?, World.setCourse]
@[simp] theorem setCourse_mem (w : World) (c o r : Nat) (k : Course) : (w.setCourse c o r k).mem = w.mem := rfl
@[simp] theorem setCourse_out (w : World) (c o r : Nat) (k : Course) : (w.setCourse c o r k).out = w.out := rfl
@[simp] theorem modCourse_mem (w : World) (c o r : Nat) (f : Course → Course) : (w.modCourse c o r f).mem = w.mem := by
  unfold World.modCourse; split <;> rfl
@[simp] theorem modCourse_out (w : World) (c o r : Nat) (f : Course → Course) : (w.modCourse c o r f).out = w.out := by
  unfold World.modCourse; split <;> rfl
@[simp] theorem modBlock_mem (w : World) (c o : Nat) (f : Block → Block) : (w.modBlock c o f).mem = w.mem := by
  unfold World.modBlock; split <;> rfl
@[simp] theorem modBlock_out (w : World) (c o : Nat) (f : Block → Block) : (w.modBlock c o f).out = w.out := by
  unfold World.modBlock; split <;> rfl
@[simp] theorem modSashOf_mem (w : World) (c : Nat) (f : Sash → Sash) : (modSashOf w c f).mem = w.mem := by
  unfold modSashOf; split <;> (try split) <;> rfl
@[simp] theorem modSashOf_out (w : World) (c : Nat) (f : Sash → Sash) : (modSashOf w c f).out = w.out := by
  unfold modSashOf; split <;> (try split) <;> rfl

/-! ## Updates of a course -/

@[simp] theorem setReg_owner (k : Course) (x j : Nat) (v : W32) : (k.setReg x j v).owner = k.owner := rfl
@[simp] theorem setReg_cr (k : Course) (x j : Nat) (v : W32) : (k.setReg x j v).cr = k.cr := rfl
@[simp] theorem setReg_str (k : Course) (x j : Nat) (v : W32) : (k.setReg x j v).str = k.str := rfl
@[simp] theorem setReg_rot (k : Course) (x j : Nat) (v : W32) : (k.setReg x j v).rot = k.rot := rfl
@[simp] theorem setReg_drot (k : Course) (x j : Nat) (v : W32) : (k.setReg x j v).drot = k.drot := rfl
@[simp] theorem setReg_allot (k : Course) (x j : Nat) (v : W32) : (k.setReg x j v).allot = k.allot := rfl
@[simp] theorem setReg_grow (k : Course) (x j : Nat) (v : W32) : (k.setReg x j v).grow = k.grow := rfl
@[simp] theorem setReg_wb (k : Course) (x j : Nat) (v : W32) : (k.setReg x j v).wb = k.wb := rfl
@[simp] theorem setReg_part (k : Course) (x j : Nat) (v : W32) : (k.setReg x j v).part = k.part := rfl
@[simp] theorem setReg_regs (k : Course) (x j : Nat) (v : W32) : (k.setReg x j v).regs = Tab.set 0 k.regs (x * 32 + j) v := rfl
@[simp] theorem setReg_poison (k : Course) (x j : Nat) (v : W32) : (k.setReg x j v).poison = k.poison := rfl
@[simp] theorem setReg_preds (k : Course) (x j : Nat) (v : W32) : (k.setReg x j v).preds = k.preds := rfl
@[simp] theorem setReg_k (k : Course) (x j : Nat) (v : W32) : (k.setReg x j v).k = k.k := rfl
@[simp] theorem setReg_live (k : Course) (x j : Nat) (v : W32) : (k.setReg x j v).live = k.live := rfl
@[simp] theorem setReg_seed (k : Course) (x j : Nat) (v : W32) : (k.setReg x j v).seed = k.seed := rfl
@[simp] theorem setReg_dii (k : Course) (x j : Nat) (v : W32) : (k.setReg x j v).dii = k.dii := rfl
@[simp] theorem setReg_fpst (k : Course) (x j : Nat) (v : W32) : (k.setReg x j v).fpst = k.fpst := rfl
@[simp] theorem setReg_tpc (k : Course) (x j : Nat) (v : W32) : (k.setReg x j v).tpc = k.tpc := rfl
@[simp] theorem setReg_tcause (k : Course) (x j : Nat) (v : W32) : (k.setReg x j v).tcause = k.tcause := rfl
@[simp] theorem setReg_bro (k : Course) (x j : Nat) (v : W32) : (k.setReg x j v).bro = k.bro := rfl
@[simp] theorem setReg_slot0 (k : Course) (x j : Nat) (v : W32) : (k.setReg x j v).slot0 = k.slot0 := rfl
@[simp] theorem setReg_slot1 (k : Course) (x j : Nat) (v : W32) : (k.setReg x j v).slot1 = k.slot1 := rfl
@[simp] theorem setReg_stack (k : Course) (x j : Nat) (v : W32) : (k.setReg x j v).stack = k.stack := rfl
@[simp] theorem setReg_win0 (k : Course) (x j : Nat) (v : W32) : (k.setReg x j v).win0 = k.win0 := rfl
@[simp] theorem setReg_win1 (k : Course) (x j : Nat) (v : W32) : (k.setReg x j v).win1 = k.win1 := rfl
@[simp] theorem setReg_filling (k : Course) (x j : Nat) (v : W32) : (k.setReg x j v).filling = k.filling := rfl
@[simp] theorem setReg_div (k : Course) (x j : Nat) (v : W32) : (k.setReg x j v).div = k.div := rfl
@[simp] theorem setReg_tokens (k : Course) (x j : Nat) (v : W32) : (k.setReg x j v).tokens = k.tokens := rfl
@[simp] theorem setReg_handler (k : Course) (x j : Nat) (v : W32) : (k.setReg x j v).handler = k.handler := rfl
@[simp] theorem setReg_shutter (k : Course) (x j : Nat) (v : W32) : (k.setReg x j v).shutter = k.shutter := rfl
@[simp] theorem setReg_stepT (k : Course) (x j : Nat) (v : W32) : (k.setReg x j v).stepT = k.stepT := rfl
@[simp] theorem setReg_watchT (k : Course) (x j : Nat) (v : W32) : (k.setReg x j v).watchT = k.watchT := rfl
@[simp] theorem setReg_nextPath (k : Course) (x j : Nat) (v : W32) : (k.setReg x j v).nextPath = k.nextPath := rfl

@[simp] theorem setUni_owner (k : Course) (n : Nat) (v : W32) : (k.setUni n v).owner = k.owner := rfl
@[simp] theorem setUni_cr (k : Course) (n : Nat) (v : W32) : (k.setUni n v).cr = k.cr := rfl
@[simp] theorem setUni_str (k : Course) (n : Nat) (v : W32) : (k.setUni n v).str = k.str := rfl
@[simp] theorem setUni_rot (k : Course) (n : Nat) (v : W32) : (k.setUni n v).rot = k.rot := rfl
@[simp] theorem setUni_drot (k : Course) (n : Nat) (v : W32) : (k.setUni n v).drot = k.drot := rfl
@[simp] theorem setUni_allot (k : Course) (n : Nat) (v : W32) : (k.setUni n v).allot = k.allot := rfl
@[simp] theorem setUni_grow (k : Course) (n : Nat) (v : W32) : (k.setUni n v).grow = k.grow := rfl
@[simp] theorem setUni_wb (k : Course) (n : Nat) (v : W32) : (k.setUni n v).wb = k.wb := rfl
@[simp] theorem setUni_part (k : Course) (n : Nat) (v : W32) : (k.setUni n v).part = k.part := rfl
@[simp] theorem setUni_regs (k : Course) (n : Nat) (v : W32) : (k.setUni n v).regs = k.regs := rfl
@[simp] theorem setUni_poison (k : Course) (n : Nat) (v : W32) : (k.setUni n v).poison = k.poison := rfl
@[simp] theorem setUni_preds (k : Course) (n : Nat) (v : W32) : (k.setUni n v).preds = k.preds := rfl
@[simp] theorem setUni_k (k : Course) (n : Nat) (v : W32) : (k.setUni n v).k = Tab.set 0 k.k n v := rfl
@[simp] theorem setUni_live (k : Course) (n : Nat) (v : W32) : (k.setUni n v).live = k.live := rfl
@[simp] theorem setUni_seed (k : Course) (n : Nat) (v : W32) : (k.setUni n v).seed = k.seed := rfl
@[simp] theorem setUni_dii (k : Course) (n : Nat) (v : W32) : (k.setUni n v).dii = k.dii := rfl
@[simp] theorem setUni_fpst (k : Course) (n : Nat) (v : W32) : (k.setUni n v).fpst = k.fpst := rfl
@[simp] theorem setUni_tpc (k : Course) (n : Nat) (v : W32) : (k.setUni n v).tpc = k.tpc := rfl
@[simp] theorem setUni_tcause (k : Course) (n : Nat) (v : W32) : (k.setUni n v).tcause = k.tcause := rfl
@[simp] theorem setUni_bro (k : Course) (n : Nat) (v : W32) : (k.setUni n v).bro = k.bro := rfl
@[simp] theorem setUni_slot0 (k : Course) (n : Nat) (v : W32) : (k.setUni n v).slot0 = k.slot0 := rfl
@[simp] theorem setUni_slot1 (k : Course) (n : Nat) (v : W32) : (k.setUni n v).slot1 = k.slot1 := rfl
@[simp] theorem setUni_stack (k : Course) (n : Nat) (v : W32) : (k.setUni n v).stack = k.stack := rfl
@[simp] theorem setUni_win0 (k : Course) (n : Nat) (v : W32) : (k.setUni n v).win0 = k.win0 := rfl
@[simp] theorem setUni_win1 (k : Course) (n : Nat) (v : W32) : (k.setUni n v).win1 = k.win1 := rfl
@[simp] theorem setUni_filling (k : Course) (n : Nat) (v : W32) : (k.setUni n v).filling = k.filling := rfl
@[simp] theorem setUni_div (k : Course) (n : Nat) (v : W32) : (k.setUni n v).div = k.div := rfl
@[simp] theorem setUni_tokens (k : Course) (n : Nat) (v : W32) : (k.setUni n v).tokens = k.tokens := rfl
@[simp] theorem setUni_handler (k : Course) (n : Nat) (v : W32) : (k.setUni n v).handler = k.handler := rfl
@[simp] theorem setUni_shutter (k : Course) (n : Nat) (v : W32) : (k.setUni n v).shutter = k.shutter := rfl
@[simp] theorem setUni_stepT (k : Course) (n : Nat) (v : W32) : (k.setUni n v).stepT = k.stepT := rfl
@[simp] theorem setUni_watchT (k : Course) (n : Nat) (v : W32) : (k.setUni n v).watchT = k.watchT := rfl
@[simp] theorem setUni_nextPath (k : Course) (n : Nat) (v : W32) : (k.setUni n v).nextPath = k.nextPath := rfl

@[simp] theorem raise_owner (k : Course) (fl : FpFlags) : (k.raise fl).owner = k.owner := rfl
@[simp] theorem raise_cr (k : Course) (fl : FpFlags) : (k.raise fl).cr = k.cr := rfl
@[simp] theorem raise_str (k : Course) (fl : FpFlags) : (k.raise fl).str = k.str := rfl
@[simp] theorem raise_rot (k : Course) (fl : FpFlags) : (k.raise fl).rot = k.rot := rfl
@[simp] theorem raise_drot (k : Course) (fl : FpFlags) : (k.raise fl).drot = k.drot := rfl
@[simp] theorem raise_allot (k : Course) (fl : FpFlags) : (k.raise fl).allot = k.allot := rfl
@[simp] theorem raise_grow (k : Course) (fl : FpFlags) : (k.raise fl).grow = k.grow := rfl
@[simp] theorem raise_wb (k : Course) (fl : FpFlags) : (k.raise fl).wb = k.wb := rfl
@[simp] theorem raise_part (k : Course) (fl : FpFlags) : (k.raise fl).part = k.part := rfl
@[simp] theorem raise_regs (k : Course) (fl : FpFlags) : (k.raise fl).regs = k.regs := rfl
@[simp] theorem raise_poison (k : Course) (fl : FpFlags) : (k.raise fl).poison = k.poison := rfl
@[simp] theorem raise_preds (k : Course) (fl : FpFlags) : (k.raise fl).preds = k.preds := rfl
@[simp] theorem raise_k (k : Course) (fl : FpFlags) : (k.raise fl).k = k.k := rfl
@[simp] theorem raise_live (k : Course) (fl : FpFlags) : (k.raise fl).live = k.live := rfl
@[simp] theorem raise_seed (k : Course) (fl : FpFlags) : (k.raise fl).seed = k.seed := rfl
@[simp] theorem raise_dii (k : Course) (fl : FpFlags) : (k.raise fl).dii = k.dii := rfl
@[simp] theorem raise_fpst (k : Course) (fl : FpFlags) : (k.raise fl).fpst = k.fpst ||| fl.zeroExtend 32 := rfl
@[simp] theorem raise_tpc (k : Course) (fl : FpFlags) : (k.raise fl).tpc = k.tpc := rfl
@[simp] theorem raise_tcause (k : Course) (fl : FpFlags) : (k.raise fl).tcause = k.tcause := rfl
@[simp] theorem raise_bro (k : Course) (fl : FpFlags) : (k.raise fl).bro = k.bro := rfl
@[simp] theorem raise_slot0 (k : Course) (fl : FpFlags) : (k.raise fl).slot0 = k.slot0 := rfl
@[simp] theorem raise_slot1 (k : Course) (fl : FpFlags) : (k.raise fl).slot1 = k.slot1 := rfl
@[simp] theorem raise_stack (k : Course) (fl : FpFlags) : (k.raise fl).stack = k.stack := rfl
@[simp] theorem raise_win0 (k : Course) (fl : FpFlags) : (k.raise fl).win0 = k.win0 := rfl
@[simp] theorem raise_win1 (k : Course) (fl : FpFlags) : (k.raise fl).win1 = k.win1 := rfl
@[simp] theorem raise_filling (k : Course) (fl : FpFlags) : (k.raise fl).filling = k.filling := rfl
@[simp] theorem raise_div (k : Course) (fl : FpFlags) : (k.raise fl).div = k.div := rfl
@[simp] theorem raise_tokens (k : Course) (fl : FpFlags) : (k.raise fl).tokens = k.tokens := rfl
@[simp] theorem raise_handler (k : Course) (fl : FpFlags) : (k.raise fl).handler = k.handler := rfl
@[simp] theorem raise_shutter (k : Course) (fl : FpFlags) : (k.raise fl).shutter = k.shutter := rfl
@[simp] theorem raise_stepT (k : Course) (fl : FpFlags) : (k.raise fl).stepT = k.stepT := rfl
@[simp] theorem raise_watchT (k : Course) (fl : FpFlags) : (k.raise fl).watchT = k.watchT := rfl
@[simp] theorem raise_nextPath (k : Course) (fl : FpFlags) : (k.raise fl).nextPath = k.nextPath := rfl

/-! ## Updates of a core -/

@[simp] theorem core_setStr_sash (k : Core) (i : Nat) (x : Str) : (k.setStr i x).sash = k.sash := rfl
@[simp] theorem core_setStr_slots (k : Core) (i : Nat) (x : Str) : (k.setStr i x).slots = k.slots := rfl
@[simp] theorem core_setStr_blocks (k : Core) (i : Nat) (x : Str) : (k.setStr i x).blocks = k.blocks := rfl
@[simp] theorem core_setStr_courses (k : Core) (i : Nat) (x : Str) : (k.setStr i x).courses = k.courses := rfl
@[simp] theorem core_setStr_tiles (k : Core) (i : Nat) (x : Str) : (k.setStr i x).tiles = k.tiles := rfl
@[simp] theorem core_setStr_tags (k : Core) (i : Nat) (x : Str) : (k.setStr i x).tags = k.tags := rfl
@[simp] theorem core_setStr_hostTags (k : Core) (i : Nat) (x : Str) : (k.setStr i x).hostTags = k.hostTags := rfl
@[simp] theorem core_setStr_strs (k : Core) (i : Nat) (x : Str) : (k.setStr i x).strs = k.strs.put i x := rfl
@[simp] theorem core_setStr_flights (k : Core) (i : Nat) (x : Str) : (k.setStr i x).flights = k.flights := rfl
@[simp] theorem core_setStr_results (k : Core) (i : Nat) (x : Str) : (k.setStr i x).results = k.results := rfl
@[simp] theorem core_setStr_accs (k : Core) (i : Nat) (x : Str) : (k.setStr i x).accs = k.accs := rfl
@[simp] theorem core_setStr_log (k : Core) (i : Nat) (x : Str) : (k.setStr i x).log = k.log := rfl
@[simp] theorem core_setStr_ctxs (k : Core) (i : Nat) (x : Str) : (k.setStr i x).ctxs = k.ctxs := rfl
@[simp] theorem core_setStr_resv (k : Core) (i : Nat) (x : Str) : (k.setStr i x).resv = k.resv := rfl
@[simp] theorem core_setStr_cmds (k : Core) (i : Nat) (x : Str) : (k.setStr i x).cmds = k.cmds := rfl
@[simp] theorem core_setStr_beats (k : Core) (i : Nat) (x : Str) : (k.setStr i x).beats = k.beats := rfl
@[simp] theorem core_setStr_q (k : Core) (i : Nat) (x : Str) : (k.setStr i x).q = k.q := rfl
@[simp] theorem core_setStr_beatAt (k : Core) (i : Nat) (x : Str) : (k.setStr i x).beatAt = k.beatAt := rfl
@[simp] theorem core_setStr_arr (k : Core) (i : Nat) (x : Str) : (k.setStr i x).arr = k.arr := rfl
@[simp] theorem core_setStr_arms (k : Core) (i : Nat) (x : Str) : (k.setStr i x).arms = k.arms := rfl
@[simp] theorem core_setStr_msgs (k : Core) (i : Nat) (x : Str) : (k.setStr i x).msgs = k.msgs := rfl
@[simp] theorem core_setStr_credits (k : Core) (i : Nat) (x : Str) : (k.setStr i x).credits = k.credits := rfl
@[simp] theorem core_setStr_landUsed (k : Core) (i : Nat) (x : Str) : (k.setStr i x).landUsed = k.landUsed := rfl
@[simp] theorem core_setStr_ldisc (k : Core) (i : Nat) (x : Str) : (k.setStr i x).ldisc = k.ldisc := rfl
@[simp] theorem core_setStr_past (k : Core) (i : Nat) (x : Str) : (k.setStr i x).past = k.past := rfl
@[simp] theorem core_setStr_hadBlock (k : Core) (i : Nat) (x : Str) : (k.setStr i x).hadBlock = k.hadBlock := rfl
@[simp] theorem core_setStr_killed (k : Core) (i : Nat) (x : Str) : (k.setStr i x).killed = k.killed := rfl
@[simp] theorem core_setStr_undo (k : Core) (i : Nat) (x : Str) : (k.setStr i x).undo = k.undo := rfl
@[simp] theorem core_setStr_faults (k : Core) (i : Nat) (x : Str) : (k.setStr i x).faults = k.faults := rfl
@[simp] theorem core_setStr_waiting (k : Core) (i : Nat) (x : Str) : (k.setStr i x).waiting = k.waiting := rfl
@[simp] theorem core_setStr_pardons (k : Core) (i : Nat) (x : Str) : (k.setStr i x).pardons = k.pardons := rfl
@[simp] theorem core_setStr_passed (k : Core) (i : Nat) (x : Str) : (k.setStr i x).passed = k.passed := rfl
@[simp] theorem core_setStr_trap (k : Core) (i : Nat) (x : Str) : (k.setStr i x).trap = k.trap := rfl
@[simp] theorem core_setStr_tlb (k : Core) (i : Nat) (x : Str) : (k.setStr i x).tlb = k.tlb := rfl
@[simp] theorem core_setStr_bps (k : Core) (i : Nat) (x : Str) : (k.setStr i x).bps = k.bps := rfl
@[simp] theorem core_setStr_watches (k : Core) (i : Nat) (x : Str) : (k.setStr i x).watches = k.watches := rfl
@[simp] theorem core_setStr_claims (k : Core) (i : Nat) (x : Str) : (k.setStr i x).claims = k.claims := rfl
@[simp] theorem core_setStr_dbg (k : Core) (i : Nat) (x : Str) : (k.setStr i x).dbg = k.dbg := rfl
@[simp] theorem core_setStr_recs (k : Core) (i : Nat) (x : Str) : (k.setStr i x).recs = k.recs := rfl
@[simp] theorem core_setStr_stepEnds (k : Core) (i : Nat) (x : Str) : (k.setStr i x).stepEnds = k.stepEnds := rfl
@[simp] theorem core_setStr_samp (k : Core) (i : Nat) (x : Str) : (k.setStr i x).samp = k.samp := rfl
@[simp] theorem core_setStr_samples (k : Core) (i : Nat) (x : Str) : (k.setStr i x).samples = k.samples := rfl
@[simp] theorem core_setStr_chunk (k : Core) (i : Nat) (x : Str) : (k.setStr i x).chunk = k.chunk := rfl
@[simp] theorem core_setStr_acts (k : Core) (i : Nat) (x : Str) : (k.setStr i x).acts = k.acts := rfl
@[simp] theorem core_setStr_endActs (k : Core) (i : Nat) (x : Str) : (k.setStr i x).endActs = k.endActs := rfl
@[simp] theorem core_setStr_seq (k : Core) (i : Nat) (x : Str) : (k.setStr i x).seq = k.seq := rfl
@[simp] theorem core_setStr_nextId (k : Core) (i : Nat) (x : Str) : (k.setStr i x).nextId = k.nextId := rfl

@[simp] theorem core_setTag_sash (k : Core) (n : Nat) (b : Bool) : (k.setTag n b).sash = k.sash := rfl
@[simp] theorem core_setTag_slots (k : Core) (n : Nat) (b : Bool) : (k.setTag n b).slots = k.slots := rfl
@[simp] theorem core_setTag_blocks (k : Core) (n : Nat) (b : Bool) : (k.setTag n b).blocks = k.blocks := rfl
@[simp] theorem core_setTag_courses (k : Core) (n : Nat) (b : Bool) : (k.setTag n b).courses = k.courses := rfl
@[simp] theorem core_setTag_tiles (k : Core) (n : Nat) (b : Bool) : (k.setTag n b).tiles = k.tiles := rfl
@[simp] theorem core_setTag_tags (k : Core) (n : Nat) (b : Bool) : (k.setTag n b).tags = if b then k.tags ||| BitVec.ofNat 64 (2 ^ n) else k.tags &&& ~~~BitVec.ofNat 64 (2 ^ n) := rfl
@[simp] theorem core_setTag_hostTags (k : Core) (n : Nat) (b : Bool) : (k.setTag n b).hostTags = k.hostTags := rfl
@[simp] theorem core_setTag_strs (k : Core) (n : Nat) (b : Bool) : (k.setTag n b).strs = k.strs := rfl
@[simp] theorem core_setTag_flights (k : Core) (n : Nat) (b : Bool) : (k.setTag n b).flights = k.flights := rfl
@[simp] theorem core_setTag_results (k : Core) (n : Nat) (b : Bool) : (k.setTag n b).results = k.results := rfl
@[simp] theorem core_setTag_accs (k : Core) (n : Nat) (b : Bool) : (k.setTag n b).accs = k.accs := rfl
@[simp] theorem core_setTag_log (k : Core) (n : Nat) (b : Bool) : (k.setTag n b).log = k.log := rfl
@[simp] theorem core_setTag_ctxs (k : Core) (n : Nat) (b : Bool) : (k.setTag n b).ctxs = k.ctxs := rfl
@[simp] theorem core_setTag_resv (k : Core) (n : Nat) (b : Bool) : (k.setTag n b).resv = k.resv := rfl
@[simp] theorem core_setTag_cmds (k : Core) (n : Nat) (b : Bool) : (k.setTag n b).cmds = k.cmds := rfl
@[simp] theorem core_setTag_beats (k : Core) (n : Nat) (b : Bool) : (k.setTag n b).beats = k.beats := rfl
@[simp] theorem core_setTag_q (k : Core) (n : Nat) (b : Bool) : (k.setTag n b).q = k.q := rfl
@[simp] theorem core_setTag_beatAt (k : Core) (n : Nat) (b : Bool) : (k.setTag n b).beatAt = k.beatAt := rfl
@[simp] theorem core_setTag_arr (k : Core) (n : Nat) (b : Bool) : (k.setTag n b).arr = k.arr := rfl
@[simp] theorem core_setTag_arms (k : Core) (n : Nat) (b : Bool) : (k.setTag n b).arms = k.arms := rfl
@[simp] theorem core_setTag_msgs (k : Core) (n : Nat) (b : Bool) : (k.setTag n b).msgs = k.msgs := rfl
@[simp] theorem core_setTag_credits (k : Core) (n : Nat) (b : Bool) : (k.setTag n b).credits = k.credits := rfl
@[simp] theorem core_setTag_landUsed (k : Core) (n : Nat) (b : Bool) : (k.setTag n b).landUsed = k.landUsed := rfl
@[simp] theorem core_setTag_ldisc (k : Core) (n : Nat) (b : Bool) : (k.setTag n b).ldisc = k.ldisc := rfl
@[simp] theorem core_setTag_past (k : Core) (n : Nat) (b : Bool) : (k.setTag n b).past = k.past := rfl
@[simp] theorem core_setTag_hadBlock (k : Core) (n : Nat) (b : Bool) : (k.setTag n b).hadBlock = k.hadBlock := rfl
@[simp] theorem core_setTag_killed (k : Core) (n : Nat) (b : Bool) : (k.setTag n b).killed = k.killed := rfl
@[simp] theorem core_setTag_undo (k : Core) (n : Nat) (b : Bool) : (k.setTag n b).undo = k.undo := rfl
@[simp] theorem core_setTag_faults (k : Core) (n : Nat) (b : Bool) : (k.setTag n b).faults = k.faults := rfl
@[simp] theorem core_setTag_waiting (k : Core) (n : Nat) (b : Bool) : (k.setTag n b).waiting = k.waiting := rfl
@[simp] theorem core_setTag_pardons (k : Core) (n : Nat) (b : Bool) : (k.setTag n b).pardons = k.pardons := rfl
@[simp] theorem core_setTag_passed (k : Core) (n : Nat) (b : Bool) : (k.setTag n b).passed = k.passed := rfl
@[simp] theorem core_setTag_trap (k : Core) (n : Nat) (b : Bool) : (k.setTag n b).trap = k.trap := rfl
@[simp] theorem core_setTag_tlb (k : Core) (n : Nat) (b : Bool) : (k.setTag n b).tlb = k.tlb := rfl
@[simp] theorem core_setTag_bps (k : Core) (n : Nat) (b : Bool) : (k.setTag n b).bps = k.bps := rfl
@[simp] theorem core_setTag_watches (k : Core) (n : Nat) (b : Bool) : (k.setTag n b).watches = k.watches := rfl
@[simp] theorem core_setTag_claims (k : Core) (n : Nat) (b : Bool) : (k.setTag n b).claims = k.claims := rfl
@[simp] theorem core_setTag_dbg (k : Core) (n : Nat) (b : Bool) : (k.setTag n b).dbg = k.dbg := rfl
@[simp] theorem core_setTag_recs (k : Core) (n : Nat) (b : Bool) : (k.setTag n b).recs = k.recs := rfl
@[simp] theorem core_setTag_stepEnds (k : Core) (n : Nat) (b : Bool) : (k.setTag n b).stepEnds = k.stepEnds := rfl
@[simp] theorem core_setTag_samp (k : Core) (n : Nat) (b : Bool) : (k.setTag n b).samp = k.samp := rfl
@[simp] theorem core_setTag_samples (k : Core) (n : Nat) (b : Bool) : (k.setTag n b).samples = k.samples := rfl
@[simp] theorem core_setTag_chunk (k : Core) (n : Nat) (b : Bool) : (k.setTag n b).chunk = k.chunk := rfl
@[simp] theorem core_setTag_acts (k : Core) (n : Nat) (b : Bool) : (k.setTag n b).acts = k.acts := rfl
@[simp] theorem core_setTag_endActs (k : Core) (n : Nat) (b : Bool) : (k.setTag n b).endActs = k.endActs := rfl
@[simp] theorem core_setTag_seq (k : Core) (n : Nat) (b : Bool) : (k.setTag n b).seq = k.seq := rfl
@[simp] theorem core_setTag_nextId (k : Core) (n : Nat) (b : Bool) : (k.setTag n b).nextId = k.nextId := rfl

@[simp] theorem core_pushFault_sash (k : Core) (x : FaultRec) : (k.pushFault x).sash = k.sash := by unfold Core.pushFault; split <;> rfl
@[simp] theorem core_pushFault_slots (k : Core) (x : FaultRec) : (k.pushFault x).slots = k.slots := by unfold Core.pushFault; split <;> rfl
@[simp] theorem core_pushFault_blocks (k : Core) (x : FaultRec) : (k.pushFault x).blocks = k.blocks := by unfold Core.pushFault; split <;> rfl
@[simp] theorem core_pushFault_courses (k : Core) (x : FaultRec) : (k.pushFault x).courses = k.courses := by unfold Core.pushFault; split <;> rfl
@[simp] theorem core_pushFault_tiles (k : Core) (x : FaultRec) : (k.pushFault x).tiles = k.tiles := by unfold Core.pushFault; split <;> rfl
@[simp] theorem core_pushFault_tags (k : Core) (x : FaultRec) : (k.pushFault x).tags = k.tags := by unfold Core.pushFault; split <;> rfl
@[simp] theorem core_pushFault_hostTags (k : Core) (x : FaultRec) : (k.pushFault x).hostTags = k.hostTags := by unfold Core.pushFault; split <;> rfl
@[simp] theorem core_pushFault_strs (k : Core) (x : FaultRec) : (k.pushFault x).strs = k.strs := by unfold Core.pushFault; split <;> rfl
@[simp] theorem core_pushFault_flights (k : Core) (x : FaultRec) : (k.pushFault x).flights = k.flights := by unfold Core.pushFault; split <;> rfl
@[simp] theorem core_pushFault_results (k : Core) (x : FaultRec) : (k.pushFault x).results = k.results := by unfold Core.pushFault; split <;> rfl
@[simp] theorem core_pushFault_accs (k : Core) (x : FaultRec) : (k.pushFault x).accs = k.accs := by unfold Core.pushFault; split <;> rfl
@[simp] theorem core_pushFault_log (k : Core) (x : FaultRec) : (k.pushFault x).log = k.log := by unfold Core.pushFault; split <;> rfl
@[simp] theorem core_pushFault_ctxs (k : Core) (x : FaultRec) : (k.pushFault x).ctxs = k.ctxs := by unfold Core.pushFault; split <;> rfl
@[simp] theorem core_pushFault_resv (k : Core) (x : FaultRec) : (k.pushFault x).resv = k.resv := by unfold Core.pushFault; split <;> rfl
@[simp] theorem core_pushFault_cmds (k : Core) (x : FaultRec) : (k.pushFault x).cmds = k.cmds := by unfold Core.pushFault; split <;> rfl
@[simp] theorem core_pushFault_beats (k : Core) (x : FaultRec) : (k.pushFault x).beats = k.beats := by unfold Core.pushFault; split <;> rfl
@[simp] theorem core_pushFault_q (k : Core) (x : FaultRec) : (k.pushFault x).q = k.q := by unfold Core.pushFault; split <;> rfl
@[simp] theorem core_pushFault_beatAt (k : Core) (x : FaultRec) : (k.pushFault x).beatAt = k.beatAt := by unfold Core.pushFault; split <;> rfl
@[simp] theorem core_pushFault_arr (k : Core) (x : FaultRec) : (k.pushFault x).arr = k.arr := by unfold Core.pushFault; split <;> rfl
@[simp] theorem core_pushFault_arms (k : Core) (x : FaultRec) : (k.pushFault x).arms = k.arms := by unfold Core.pushFault; split <;> rfl
@[simp] theorem core_pushFault_msgs (k : Core) (x : FaultRec) : (k.pushFault x).msgs = k.msgs := by unfold Core.pushFault; split <;> rfl
@[simp] theorem core_pushFault_credits (k : Core) (x : FaultRec) : (k.pushFault x).credits = k.credits := by unfold Core.pushFault; split <;> rfl
@[simp] theorem core_pushFault_landUsed (k : Core) (x : FaultRec) : (k.pushFault x).landUsed = k.landUsed := by unfold Core.pushFault; split <;> rfl
@[simp] theorem core_pushFault_ldisc (k : Core) (x : FaultRec) : (k.pushFault x).ldisc = k.ldisc := by unfold Core.pushFault; split <;> rfl
@[simp] theorem core_pushFault_past (k : Core) (x : FaultRec) : (k.pushFault x).past = k.past := by unfold Core.pushFault; split <;> rfl
@[simp] theorem core_pushFault_hadBlock (k : Core) (x : FaultRec) : (k.pushFault x).hadBlock = k.hadBlock := by unfold Core.pushFault; split <;> rfl
@[simp] theorem core_pushFault_killed (k : Core) (x : FaultRec) : (k.pushFault x).killed = k.killed := by unfold Core.pushFault; split <;> rfl
@[simp] theorem core_pushFault_undo (k : Core) (x : FaultRec) : (k.pushFault x).undo = k.undo := by unfold Core.pushFault; split <;> rfl
@[simp] theorem core_pushFault_pardons (k : Core) (x : FaultRec) : (k.pushFault x).pardons = k.pardons := by unfold Core.pushFault; split <;> rfl
@[simp] theorem core_pushFault_passed (k : Core) (x : FaultRec) : (k.pushFault x).passed = k.passed := by unfold Core.pushFault; split <;> rfl
@[simp] theorem core_pushFault_trap (k : Core) (x : FaultRec) : (k.pushFault x).trap = k.trap := by unfold Core.pushFault; split <;> rfl
@[simp] theorem core_pushFault_tlb (k : Core) (x : FaultRec) : (k.pushFault x).tlb = k.tlb := by unfold Core.pushFault; split <;> rfl
@[simp] theorem core_pushFault_bps (k : Core) (x : FaultRec) : (k.pushFault x).bps = k.bps := by unfold Core.pushFault; split <;> rfl
@[simp] theorem core_pushFault_watches (k : Core) (x : FaultRec) : (k.pushFault x).watches = k.watches := by unfold Core.pushFault; split <;> rfl
@[simp] theorem core_pushFault_claims (k : Core) (x : FaultRec) : (k.pushFault x).claims = k.claims := by unfold Core.pushFault; split <;> rfl
@[simp] theorem core_pushFault_dbg (k : Core) (x : FaultRec) : (k.pushFault x).dbg = k.dbg := by unfold Core.pushFault; split <;> rfl
@[simp] theorem core_pushFault_recs (k : Core) (x : FaultRec) : (k.pushFault x).recs = k.recs := by unfold Core.pushFault; split <;> rfl
@[simp] theorem core_pushFault_stepEnds (k : Core) (x : FaultRec) : (k.pushFault x).stepEnds = k.stepEnds := by unfold Core.pushFault; split <;> rfl
@[simp] theorem core_pushFault_samp (k : Core) (x : FaultRec) : (k.pushFault x).samp = k.samp := by unfold Core.pushFault; split <;> rfl
@[simp] theorem core_pushFault_samples (k : Core) (x : FaultRec) : (k.pushFault x).samples = k.samples := by unfold Core.pushFault; split <;> rfl
@[simp] theorem core_pushFault_chunk (k : Core) (x : FaultRec) : (k.pushFault x).chunk = k.chunk := by unfold Core.pushFault; split <;> rfl
@[simp] theorem core_pushFault_acts (k : Core) (x : FaultRec) : (k.pushFault x).acts = k.acts := by unfold Core.pushFault; split <;> rfl
@[simp] theorem core_pushFault_endActs (k : Core) (x : FaultRec) : (k.pushFault x).endActs = k.endActs := by unfold Core.pushFault; split <;> rfl
@[simp] theorem core_pushFault_seq (k : Core) (x : FaultRec) : (k.pushFault x).seq = k.seq := by unfold Core.pushFault; split <;> rfl
@[simp] theorem core_pushFault_nextId (k : Core) (x : FaultRec) : (k.pushFault x).nextId = k.nextId := by unfold Core.pushFault; split <;> rfl
@[simp] theorem core_pushFault_faults (k : Core) (x : FaultRec) :
    (k.pushFault x).faults = if k.faults.length < Config.faultQueue then k.faults ++ [x] else k.faults := by
  unfold Core.pushFault; split <;> rfl
@[simp] theorem core_pushFault_waiting (k : Core) (x : FaultRec) :
    (k.pushFault x).waiting = if k.faults.length < Config.faultQueue then k.waiting else k.waiting ++ [x] := by
  unfold Core.pushFault; split <;> rfl

end Sys2Proof.Machine
end

