-- ==== Sys2Proof/Laws/Issue.lean ====
section
/-! SUPPORT. What the shared operations of every instruction and event can do: an event answers a next state, an issue
answers one when the port holds a bound course, and which of the checks of R115 decides. -/

namespace Sys2Proof.Machine

/-- The answer of an event. -/
theorem runEvent_eq (f : World → World) (s : State) : runEvent f s = .next (commit s (f (enter s))) := rfl

/-- What a site is made of. -/
theorem siteOf_some {w : World} {t : Site} (h : siteOf w = some t) :
    w.mach.cur = some t.i ∧ w.block? t.i.core t.i.owner = some t.b ∧ w.course? t.i.core t.i.owner t.i.cr = some t.k
      ∧ t.k.path? t.i.slot = some t.p ∧ t.seq = (w.core t.i.core).seq := by
  unfold siteOf at h
  split at h
  · cases h
  · next i hi =>
    split at h
    · next b k hb hk =>
      split at h
      · next p hp => cases h; exact ⟨hi, hb, hk, hp, rfl⟩
      · cases h
    · cases h

/-- A port that holds a bound course and a path of it has a site. -/
theorem siteOf_of {w : World} {i : Issuer} {b : Block} {k : Course} {p : Path} (hi : w.mach.cur = some i)
    (hb : w.block? i.core i.owner = some b) (hk : w.course? i.core i.owner i.cr = some k) (hp : k.path? i.slot = some p) :
    siteOf w = some { i := i, b := b, k := k, p := p, seq := (w.core i.core).seq } := by
  unfold siteOf; simp only [hi, hb, hk, hp]

/-- The answer of an issue at a site. -/
theorem issue_eq {s : State} {t : Site} (h : siteOf (enter s) = some t) (priv : Bool) (top : Nat) (bad : Site → Option W64)
    (act : Site → World → World) :
    issue priv top bad act s = .next (commit s (endStep t (issueWorld priv top bad act t (enter s)))) := by
  unfold issue; rw [h]

/-- Without a site nothing issues. -/
theorem issue_none {s : State} (h : siteOf (enter s) = none) (priv : Bool) (top : Nat) (bad : Site → Option W64)
    (act : Site → World → World) : issue priv top bad act s = .fault .noIssuer := by
  unfold issue; rw [h]

/-- A path that is not stepped ends its issue as it stands. -/
theorem endStep_plain {t : Site} (h : t.p.stepping = false) (w : World) : endStep t w = w := by
  simp [endStep, h]

/-- An issue whose checks all hold does the instruction's own effect. -/
theorem issueWorld_run {priv : Bool} {top : Nat} {bad : Site → Option W64} {act : Site → World → World} {t : Site} {w : World}
    (hp : priv = true → t.b.bind.priv = true) (hw : top = 0 ∨ t.k.wb + top ≤ t.k.allotAt t.i.cyc) (hb : bad t = none) :
    issueWorld priv top bad act t w = act t (beginIssue t w) := by
  unfold issueWorld
  rw [if_neg (by cases priv <;> simp_all), if_neg (by simp only [Bool.and_eq_true, decide_eq_true_eq]; omega), hb]

/-- A privileged instruction of a block without privilege faults in decode, whatever else holds. -/
theorem issueWorld_priv {top : Nat} {bad : Site → Option W64} {act : Site → World → World} {t : Site} {w : World}
    (hp : t.b.bind.priv = false) : issueWorld true top bad act t w = decodeFault 0x07 0 0 w := by
  simp [issueWorld, hp]

/-- A register above the allotment faults in decode. -/
theorem issueWorld_window {priv : Bool} {top : Nat} {bad : Site → Option W64} {act : Site → World → World} {t : Site} {w : World}
    (hp : priv = true → t.b.bind.priv = true) (ht : top ≠ 0) (hw : t.k.allotAt t.i.cyc < t.k.wb + top) :
    issueWorld priv top bad act t w = decodeFault 0x0C 0 0 w := by
  unfold issueWorld
  rw [if_neg (by cases priv <;> simp_all), if_pos (by simp [ht, hw])]

/-- A bad target faults in decode. -/
theorem issueWorld_bad {priv : Bool} {top : Nat} {bad : Site → Option W64} {act : Site → World → World} {t : Site} {w : World} {a : W64}
    (hp : priv = true → t.b.bind.priv = true) (hw : top = 0 ∨ t.k.wb + top ≤ t.k.allotAt t.i.cyc) (hb : bad t = some a) :
    issueWorld priv top bad act t w = decodeFault 0x04 0 a w := by
  unfold issueWorld
  rw [if_neg (by cases priv <;> simp_all), if_neg (by simp only [Bool.and_eq_true, decide_eq_true_eq]; omega), hb]

/-! ## What every issue does -/

@[simp] theorem beginIssue_mem (t : Site) (w : World) : (beginIssue t w).mem = w.mem := rfl
@[simp] theorem beginIssue_out (t : Site) (w : World) : (beginIssue t w).out = w.out := rfl
@[simp] theorem beginIssue_cur (t : Site) (w : World) : (beginIssue t w).mach.cur = none := rfl
@[simp] theorem beginIssue_dies (t : Site) (w : World) : (beginIssue t w).mach.dies = w.mach.dies := rfl
@[simp] theorem beginIssue_mods (t : Site) (w : World) : (beginIssue t w).mach.mods = w.mach.mods := rfl
@[simp] theorem beginIssue_sashes (t : Site) (w : World) : (beginIssue t w).mach.sashes = w.mach.sashes := rfl
@[simp] theorem beginIssue_clock (t : Site) (w : World) : (beginIssue t w).mach.clock = w.mach.clock := rfl
@[simp] theorem beginIssue_freeCtr (t : Site) (w : World) : (beginIssue t w).mach.freeCtr = w.mach.freeCtr := rfl

/-- Other cores stand as they were. -/
theorem beginIssue_core_other (t : Site) (w : World) {c : Nat} (h : c ≠ t.i.core) : (beginIssue t w).core c = w.core c := by
  unfold beginIssue
  exact core_setCore_other _ _ h

/-- The issuing course after an issue: its slot has passed to the next instruction, and `%dii` has counted. -/
theorem beginIssue_course (t : Site) (w : World) :
    (beginIssue t w).course? t.i.core t.i.owner t.i.cr =
      some { t.k.setPath t.i.slot (t.p.issued t.i.cyc) with dii := t.k.dii + 1 } := by
  unfold beginIssue
  simp [World.course?]

/-- Blocks stand as they were. -/
theorem beginIssue_block (t : Site) (w : World) (c o : Nat) : (beginIssue t w).block? c o = w.block? c o := by
  by_cases h : c = t.i.core
  · subst h; unfold beginIssue; simp [World.block?, World.core]
  · simp only [World.block?, beginIssue_core_other t w h]

/-! ## The registers of a course -/

/-- A lane register written reads back. -/
theorem reg_setReg_same (k : Course) (x j : Nat) (v : W32) : (k.setReg x j v).reg x j = v :=
  Tab.get_set_same _ _ _ _

/-- A lane register written leaves the others, and every other lane. -/
theorem reg_setReg_other (k : Course) {x j x' j' : Nat} (v : W32) (hj : j < 32) (hj' : j' < 32)
    (hne : x' ≠ x ∨ j' ≠ j) : (k.setReg x j v).reg x' j' = k.reg x' j' :=
  Tab.get_set_other _ _ v (by omega)

/-- Predicate 7 reads true in every lane. -/
@[simp] theorem pred_seven (k : Course) : k.pred 7 = 0xFFFFFFFF := rfl

/-- A write to predicate 7 is discarded. -/
@[simp] theorem setPred_seven (k : Course) (m v : LaneMask) : k.setPred 7 m v = k := rfl

end Sys2Proof.Machine
end

