-- ==== Sys2Proof/Laws/Dispatch.lean ====
section
/-! SUPPORT. What every instruction and every event can answer: a next state whose bytes are those of the state before it
with a list of writes applied, or, with no course at the issue port, the model's own stop. -/

namespace Sys2Proof.Machine

/-- The answers of a meaning in a state. -/
def Closed (s : State) (o : Host.Outcome State Fault Refusal) : Prop := (∃ w, o = .next (commit s w)) ∨ o = .fault .noIssuer

theorem closed_runEvent (f : World → World) (s : State) : Closed s (runEvent f s) := .inl ⟨_, rfl⟩

theorem closed_issue (priv : Bool) (top : Nat) (bad : Site → Option W64) (act : Site → World → World) (s : State) :
    Closed s (issue priv top bad act s) := by
  cases h : siteOf (enter s) with
  | none => exact .inr (issue_none h ..)
  | some t => exact .inl ⟨_, issue_eq h ..⟩

/-- Every instruction and event answers a next state of that form, or the model's own stop. -/
theorem exec_closed (i : Instr) (s : State) : Closed s (exec i s) := by
  cases i
  case mfs d sr uni => cases uni <;> exact closed_issue ..
  case mts sr a uni => cases uni <;> exact closed_issue ..
  case tdesc d h uni => cases uni <;> exact closed_issue ..
  all_goals first
    | exact closed_issue ..
    | exact closed_runEvent ..

/-- Every event that a step performs answers a next state of that form. -/
theorem perform_closed (e : Event) (s : State) : ∃ w, perform e s = .next (commit s w) := by
  cases e <;> exact ⟨_, rfl⟩

end Sys2Proof.Machine
end

