-- ==== Sys2Proof/Laws/Fault.lean ====
section
/-! SUPPORT. What stopping a sash and taking a fault can do: the record joins the core's queue, the sash stands at its present
cycle, one free value is drawn, and nothing else changes. -/

namespace Sys2Proof.Machine

/-! ## Changing the sash of a core -/

theorem modSashOf_some {w : World} {c i : Nat} {x : Sash} (f : Sash → Sash) (hi : (w.core c).sash = some i) (hx : w.sash? i = some x) :
    modSashOf w c f = w.setSash i (f x) := by
  unfold modSashOf; rw [hi]; simp only [hx]

@[simp] theorem modSashOf_cores (w : World) (c : Nat) (f : Sash → Sash) : (modSashOf w c f).mach.cores = w.mach.cores := by
  unfold modSashOf; split <;> (try split) <;> rfl
@[simp] theorem modSashOf_core (w : World) (c c' : Nat) (f : Sash → Sash) : (modSashOf w c f).core c' = w.core c' := by
  simp [World.core]
@[simp] theorem modSashOf_cur (w : World) (c : Nat) (f : Sash → Sash) : (modSashOf w c f).mach.cur = w.mach.cur := by
  unfold modSashOf; split <;> (try split) <;> rfl
@[simp] theorem modSashOf_mods (w : World) (c : Nat) (f : Sash → Sash) : (modSashOf w c f).mach.mods = w.mach.mods := by
  unfold modSashOf; split <;> (try split) <;> rfl
@[simp] theorem modSashOf_dies (w : World) (c : Nat) (f : Sash → Sash) : (modSashOf w c f).mach.dies = w.mach.dies := by
  unfold modSashOf; split <;> (try split) <;> rfl
@[simp] theorem modSashOf_clock (w : World) (c : Nat) (f : Sash → Sash) : (modSashOf w c f).mach.clock = w.mach.clock := by
  unfold modSashOf; split <;> (try split) <;> rfl

/-- A stopped sash keeps its cycle. -/
theorem stop_paused (x : Sash) (g : Nat) : (x.stop g).paused = true ∧ (x.stop g).vcc = x.vcc := by
  unfold Sash.stop; split
  · next h => exact ⟨h, rfl⟩
  · exact ⟨rfl, rfl⟩

/-- Stopping the sash of a core leaves every core, byte and other table. -/
theorem pauseNow_core (w : World) (c c' : Nat) (src : CauseBy) : (pauseNow w c src).core c' = w.core c' := by
  unfold pauseNow addCause; simp
theorem pauseNow_out (w : World) (c : Nat) (src : CauseBy) : (pauseNow w c src).out = w.out := by
  unfold pauseNow addCause; simp
theorem pauseNow_mem (w : World) (c : Nat) (src : CauseBy) : (pauseNow w c src).mem = w.mem := by
  unfold pauseNow addCause; simp
theorem pauseNow_cur (w : World) (c : Nat) (src : CauseBy) : (pauseNow w c src).mach.cur = w.mach.cur := by
  unfold pauseNow addCause; simp

/-- The sash of the core stands at its present cycle (R43). -/
theorem pauseNow_sash {w : World} {c i : Nat} {x : Sash} (src : CauseBy) (hi : (w.core c).sash = some i) (hx : w.sash? i = some x) :
    ∃ x', (pauseNow w c src).sash? i = some x' ∧ x'.paused = true ∧ x'.vcc = x.vcc := by
  unfold pauseNow addCause
  rw [modSashOf_some _ hi hx]
  have e : ∀ (y : Sash) (f : Sash → Sash), modSashOf (w.setSash i y) c f = (w.setSash i y).setSash i (f y) :=
    fun y f => modSashOf_some f hi (sash_setSash_same _ _ _)
  simp only [e]
  exact ⟨_, sash_setSash_same _ _ _, stop_paused _ _⟩

/-! ## Taking a fault (R324) -/

theorem vccOf_step_modCore (w : World) (c : Nat) (f : Core → Core) (h : (f (w.core c)).sash = (w.core c).sash) (c' : Nat) :
    vccOf (w.step.modCore c f) c' = vccOf w c' := by
  unfold vccOf sashOf
  by_cases hc : c' = c
  · subst hc; rw [core_modCore_same]; change ((((f (w.core c')).sash).bind w.sash?).map Sash.vcc).getD 0 = _; rw [h]
  · rw [core_modCore_other _ _ hc]; rfl

/-- Where no record of the cut has been handled by the ignore policy, a fault pushes its record, with the cycle of the fault,
and stops the sash. -/
theorem takeFault_plain {w : World} {c : Nat} (f : FaultRec) (h : (w.core c).pardons = []) :
    takeFault w c f = pauseNow (w.step.modCore c fun k => k.pushFault { f with vcc := BitVec.ofNat 64 (vccOf w c), due := w.later 0 }) c (.fault c) := by
  have h' : ((w.step).core c).pardons = [] := h
  simp only [takeFault, h', List.any_nil, Bool.false_eq_true, if_false]

/-- The record joins the queue of the core with the cycle of the fault. -/
theorem takeFault_core {w : World} {c : Nat} (f : FaultRec) (h : (w.core c).pardons = []) :
    (takeFault w c f).core c = (w.core c).pushFault { f with vcc := BitVec.ofNat 64 (vccOf w c), due := w.later 0 } := by
  rw [takeFault_plain f h, pauseNow_core, core_modCore_same]; rfl

/-- Other cores stand as they were. -/
theorem takeFault_core_other (w : World) {c c' : Nat} (f : FaultRec) (h : c' ≠ c) : (takeFault w c f).core c' = w.core c' := by
  unfold takeFault; simp only; split
  · rw [core_modCore_other _ _ h]; rfl
  · rw [pauseNow_core, core_modCore_other _ _ h]; rfl

theorem takeFault_out (w : World) (c : Nat) (f : FaultRec) : (takeFault w c f).out = w.out := by
  unfold takeFault; simp only; split
  · rfl
  · rw [pauseNow_out]; rfl
theorem takeFault_mem (w : World) (c : Nat) (f : FaultRec) : (takeFault w c f).mem = w.mem := by
  unfold takeFault; simp only; split
  · rfl
  · rw [pauseNow_mem]; rfl
theorem takeFault_cur (w : World) (c : Nat) (f : FaultRec) : (takeFault w c f).mach.cur = w.mach.cur := by
  unfold takeFault; simp only; split
  · rfl
  · rw [pauseNow_cur]; rfl

/-- The sash of the core stands. -/
theorem takeFault_sash {w : World} {c i : Nat} {x : Sash} (f : FaultRec) (hp : (w.core c).pardons = []) (hi : (w.core c).sash = some i)
    (hx : w.sash? i = some x) : ∃ x', (takeFault w c f).sash? i = some x' ∧ x'.paused = true ∧ x'.vcc = x.vcc := by
  rw [takeFault_plain f hp]
  exact pauseNow_sash _ (by rw [core_modCore_same, core_pushFault_sash]; exact hi) hx

end Sys2Proof.Machine
end

