-- ==== Sys2Proof/Safety.lean ====
section
/-! DEFINITION. What a safe step is: one that answers a next state. -/

namespace Sys2Proof.Machine

/-- The step of a state answers a next state. -/
def State.Runs (s : State) : Prop := ∃ t, step s = .next t

end Sys2Proof.Machine
end

