-- ==== Sys2Proof/Tests/Slice0.lean ====
section
/-! SUPPORT. The model's own tests: words against the encodings of the spec, terms that are no instructions, values of
the spec's worked examples, one step of a small machine, and a witness for the hypotheses of every statement. -/

namespace Sys2Proof.Tests

open Sys2Proof.Machine Sys2Proof.Say

set_option Elab.async false

/-! ## Decoding -/

/-- Every word of the list decodes to its instruction, which is well formed and has that word. -/
def reads (l : List (W32 × Instr)) : Bool :=
  l.all fun x => decide (decodeWord Config.fOffer x.1 = .ok x.2) && x.2.wf && decide (encode x.2 = some x.1)

/-- `nop` is the word 0xE0 (R111). -/
theorem test_decode_nop : decodeTableWord 32 0xE0 = some .nop := by decide

/-- Words of the integer family, their fields laid out as the spec's encodings place them (R122 to R128). -/
def words_integer : List (W32 × Instr) := [
    (0x06103200, .add 3 4 6 false .w16),
    (0x0C104501, .sub 6 4 8 true .w64),
    (0x06102802, .addSat 3 4 5 false false false),
    (0x10182703, .subSat 8 6 4 true true true),
    (0xFF000B04, .mul 127 64 1 false .w8),
    (0x121C2A05, .mulhi 9 7 5 false true false),
    (0x14082006, .mad 10 2 4 false .w32),
    (0x06102D07, .min 3 4 5 true true),
    (0x06102A07, .max 3 4 5 false false),
    (0x02081C08, .and 1 2 3 true),
    (0x02081908, .or 1 2 3 false),
    (0x02081E08, .xor 1 2 3 true),
    (0x02081B08, .andn 1 2 3 false),
    (0x0A183C09, .shl 5 6 7 true),
    (0x0A183909, .shrZ 5 6 7 false),
    (0x0A183E09, .shrS 5 6 7 true),
    (0x0A183B09, .rol 5 6 7 false),
    (0x140C4C0A, .setp .ne 2 3 9 true .w32),
    (0x0A18000B, .popc 5 6),
    (0x0A18010B, .clz 5 6),
    (0x0A18020B, .brev 5 6),
    (0x0A18030B, .neg 5 6),
    (0x0E1C1D0C, .div 7 7 3 true true),
    (0x0E201A0C, .rem 7 8 3 false false),
    (0x060FFF0D, .addImm 3 3 0x3FF),
    (0x0200810E, .movi 1 0x81),
    (0x0277010F, .movh 1 0x7701)]

theorem test_decode_integer : reads words_integer = true := by decide +kernel

/-- Words of the uniform family, their fields laid out as the spec's encodings place them (R118, R122). -/
def words_uniform : List (W32 × Instr) := [
    (0x06103310, .uadd 3 4 6 .w8),
    (0x0C104111, .usub 6 4 8 .w64),
    (0x06102A12, .uaddSat 3 4 5 true false),
    (0x10182113, .usubSat 8 6 4 false true),
    (0xFF000814, .umul 127 64 1 .w32),
    (0x14203315, .umulhi 10 8 6 true true),
    (0x14082216, .umad 10 2 4 .w16),
    (0x06102817, .umin 3 4 5 false),
    (0x06102B17, .umax 3 4 5 true),
    (0x02081818, .uand 1 2 3),
    (0x02081918, .uor 1 2 3),
    (0x02081A18, .uxor 1 2 3),
    (0x02081B18, .uandn 1 2 3),
    (0x02081819, .ushl 1 2 3),
    (0x02081919, .ushrZ 1 2 3),
    (0x02081A19, .ushrS 1 2 3),
    (0x02081B19, .urol 1 2 3),
    (0x9A18411A, .usetp .gez 5 6 8 .w64),
    (0x0A18001B, .upopc 5 6),
    (0x0A18011B, .uclz 5 6),
    (0x0A18021B, .ubrev 5 6),
    (0x0A18031B, .uneg 5 6),
    (0x0E20181C, .udiv 7 8 3 false),
    (0x0E201B1C, .urem 7 8 3 true),
    (0x0612001D, .uaddImm 3 4 0x200),
    (0x03FFFF1E, .umovi 1 0x1FFFF),
    (0x0500001F, .umovh 2 0x10000)]

theorem test_decode_uniform : reads words_uniform = true := by decide +kernel

/-- Words of the floating point family, their fields laid out as the spec's encodings place them (R129 to R135). -/
def words_floating_point : List (W32 × Instr) := [
    (0x02081820, .fadd 1 2 3 false .rne),
    (0x02081E21, .fsub 1 2 3 true .rd),
    (0x0A144522, .fmul 5 5 8 true .rz),
    (0x020BF323, .ffma 1 2 126 false .ru),
    (0x02081C24, .fmin 1 2 3 true),
    (0x02081924, .fmax 1 2 3 false),
    (0xA6041025, .fsetp .ltu 3 1 2 false),
    (0x02080026, .fabs 1 2),
    (0x02080126, .fneg 1 2),
    (0x02081E26, .fcpsgn 1 2 3 true),
    (0x02080027, .fclass 1 2),
    (0x04103728, .dadd 2 4 6 true .ru),
    (0x04103129, .dsub 2 4 6 false .rz),
    (0x0410342A, .dmul 2 4 6 true .rne),
    (0x0410302B, .dfma 2 4 6 false .rne),
    (0x0410302C, .dmin 2 4 6 false),
    (0x0410352C, .dmax 2 4 6 true),
    (0xDC10442D, .dsetp .geu 6 4 8 true),
    (0x0410002E, .dabs 2 4),
    (0x0410012E, .dneg 2 4),
    (0x0410322E, .dcpsgn 2 4 6 false),
    (0x0610002F, .dclass 3 4),
    (0x02081930, .haddF16 1 2 3 false .rz),
    (0x02081E31, .hmulF16 1 2 3 true .rd),
    (0x02081B32, .hfmaF16 1 2 3 false .ru),
    (0x02081C33, .hminF16 1 2 3 true),
    (0x02081933, .hmaxF16 1 2 3 false),
    (0x02081C34, .haddBf16 1 2 3 true .rne),
    (0x02081935, .hmulBf16 1 2 3 false .rz),
    (0x02081E36, .hfmaBf16 1 2 3 true .rd),
    (0x02081837, .hminBf16 1 2 3 false),
    (0x02081D37, .hmaxBf16 1 2 3 true)]

theorem test_decode_floating_point : reads words_floating_point = true := by decide +kernel

/-- Words of the conversion family, their fields laid out as the spec's encodings place them (R136 to R147). -/
def words_conversion : List (W32 × Instr) := [
    (0x060A4040, .cvtToF32 3 2 2 .e4m3 (.det .rne)),
    (0x08181A41, .cvtToF64 4 6 0 .z64 (.det .rd)),
    (0x0A192C42, .cvtToF16 5 6 1 .f64 .sr),
    (0x0C092443, .cvtToBf16 6 2 1 .f32 .sr),
    (0x0E0F6344, .cvtToE4m3 7 3 3 .s8 (.det .ru)),
    (0x0E0D5945, .cvtToE5m2 7 3 1 .z16 (.det .rz)),
    (0x120C2346, .cvtQn4F32 9 3 4 (.det .ru)),
    (0x120C2647, .cvtF32Qn4 9 3 4 true .rd),
    (0x0A062148, .cvtToInteger 5 1 .s16 false .rz),
    (0x0A180049, .rcp 5 6),
    (0x0A18004A, .rsq 5 6),
    (0x0A18004B, .sqrt 5 6),
    (0x0A18004C, .exp2 5 6),
    (0x0A18004D, .log2 5 6),
    (0x0A18004E, .sin 5 6),
    (0x0A18004F, .cos 5 6),
    (0x02081C50, .bsel 1 2 3 true),
    (0x02081A51, .dp4 1 2 3 false .sz),
    (0x02081F52, .dp2 1 2 3 true .zs),
    (0x02081953, .hdp2 1 2 3 false true)]

theorem test_decode_conversion : reads words_conversion = true := by decide +kernel

/-- Words of the control family, their fields laid out as the spec's encodings place them (R151 to R162, R173 to R175). -/
def words_control : List (W32 × Instr) := [
    (0xFFFFFC60, .bra 0xFFFFFC),
    (0x00100161, .brx 4 true),
    (0x80000162, .call 0x800001),
    (0x00180063, .ret 6 false),
    (0x15FFFF64, .loop 10 0x1FFFF),
    (0x00000065, .exit),
    (0x00000366, .jtok 0x000003),
    (0x00000067, .join),
    (0x00000268, .wbase 2),
    (0x00000369, .part 3),
    (0x0810016A, .mfs 4 4 true),
    (0x1450016B, .mts 0x0A 20 true),
    (0x0000017D, .trap 1),
    (0x0003FF7E, .brk 0x3FF),
    (0x0000007F, .tret)]

theorem test_decode_control : reads words_control = true := by decide +kernel

/-- Words of the cross-lane and chained family, their fields laid out as the spec's encodings place them (R163 to R170). -/
def words_cross_lane_and_chained : List (W32 × Instr) := [
    (0x0208186C, .lpickAt 1 2 3 false),
    (0x04042D6C, .lpickBack 2 1 5 true),
    (0x02081A6C, .lpickFwd 1 2 3 false),
    (0x02081F6C, .lpickXor 1 2 3 true),
    (0x0614006D, .lpollAny 3 5),
    (0x0A0C016D, .lpollAll 5 3),
    (0x121C026D, .lpollMap 9 7),
    (0x0208046E, .redAdd 1 2 true),
    (0x0208016E, .redMin 1 2 false),
    (0x0208066E, .redMax 1 2 true),
    (0x0208016F, .first 1 2 true),
    (0x06040070, .caddS32 3 1 false false),
    (0x06040272, .caddF32 3 1 true false),
    (0x06040174, .cminS32 3 1 false true),
    (0x06040375, .cminF32 3 1 true true),
    (0x06040076, .cmaxS32 3 1 false false),
    (0x06040277, .cmaxF32 3 1 true false),
    (0x06040178, .cmulF32 3 1 false true),
    (0x0604037B, .cxorB32 3 1 true true),
    (0x04100271, .caddS64 2 4 true false),
    (0x04100173, .caddF64 2 4 false true),
    (0x0A041179, .cfmaF32 5 1 2 false false true),
    (0x0C10167A, .cfmaF64 6 4 2 true true false),
    (0x0804017C, .cpassB64 4 1 false true)]

theorem test_decode_cross_lane_and_chained : reads words_cross_lane_and_chained = true := by decide +kernel

/-- Words of the memory family, their fields laid out as the spec's encodings place them (R183 to R190, R201). -/
def words_memory : List (W32 × Instr) := [
    (0x06060780, .ldLn 3 1 0x40 true .b8),
    (0x0605FA81, .stLn 3 1 0x3F false .b16),
    (0x0C060082, .ldTs 6 3 0 .b32),
    (0x0DFFF983, .stTs 6 255 126 .b64),
    (0x0B01FE84, .ldAcc 5 128 127 .b16),
    (0x0A020B85, .stAcc 5 1 2 .b8),
    (0x0C081086, .ldDie 6 2 2 false .b32),
    (0x100BF587, .stDie 8 2 0x7E true .b64),
    (0x0E100E88, .ldFab 7 4 1 true .b16),
    (0x0E13FB89, .stFab 7 4 0x7F false .b8),
    (0x0C08288A, .ldHost 6 2 5 .b32),
    (0x0C09F98B, .stHost 6 2 63 .b64),
    (0x0C08788C, .stMc 6 2 0xF false .b32),
    (0x14082190, .atomAdd 10 2 4 true false),
    (0x14082391, .atomMin 10 2 4 true true false),
    (0x14082492, .atomMax 10 2 4 false false true),
    (0x14082699, .fatomMin 10 2 4 false true true),
    (0x1408219A, .fatomMax 10 2 4 true false false),
    (0x14082093, .atomAnd 10 2 4 false false),
    (0x14082194, .atomOr 10 2 4 true false),
    (0x14082495, .atomXor 10 2 4 false true),
    (0x14082596, .atomExch 10 2 4 true true),
    (0x14082097, .atomCas 10 2 4 false false),
    (0x14082198, .fatomAdd 10 2 4 true false),
    (0x1408249B, .fatomAnd 10 2 4 false true),
    (0x1408259C, .fatomOr 10 2 4 true true),
    (0x1408209D, .fatomXor 10 2 4 false false),
    (0x1408219E, .fatomExch 10 2 4 true false),
    (0x1408249F, .fatomCas 10 2 4 false true)]

theorem test_decode_memory : reads words_memory = true := by decide +kernel

/-- Words of the tile and synchronisation family, their fields laid out as the spec's encodings place them (R191 to R209). -/
def words_tile_and_synchronisation : List (W32 × Instr) := [
    (0x4407C0A0, .talloc 4 2 3 112 .ts),
    (0x019000A1, .tfree 200),
    (0x110201A2, .tdesc 8 129 true),
    (0x00A150A3, .rlwSet 40 42),
    (0x140028A4, .rlwNext 10 5),
    (0x120A08A5, .tatomAdd 9 5 2),
    (0x120A08A6, .tatomMin 9 5 2),
    (0x13F5F8A7, .tatomMax 9 250 126),
    (0x120A08A8, .tatomExch 9 5 2),
    (0x120A08A9, .tatomCas 9 5 2),
    (0x160002AA, .phReg 11 2),
    (0x1E0000AB, .phArrive 15),
    (0x020000AC, .phWait 1),
    (0x040060AD, .phExpect 2 12),
    (0x000000AE, .keyTake),
    (0x000000AF, .keyPass),
    (0x000008B0, .rbGive 1),
    (0x000010B1, .rbClaim 2),
    (0x061000B2, .monArm 3 4 false false),
    (0x0600A0B3, .monWait 3 20),
    (0x001803B4, .monDisarm 6 true true),
    (0x000002B5, .fence .die)]

theorem test_decode_tile_and_synchronisation : reads words_tile_and_synchronisation = true := by decide +kernel

/-- Words of the engine and debug family, their fields laid out as the spec's encodings place them (R213, R214, R235, R346, R371). -/
def words_engine_and_debug : List (W32 × Instr) := [
    (0xE02050C0, .cpFill 112 8 10),
    (0x080BF0C1, .cpDrain 4 2 126),
    (0xF10100C2, .cpTt 120 64 32),
    (0x101011C3, .cpHost 8 4 2 true),
    (0x101010C4, .cpFab 8 4 2 false),
    (0x101011C5, .cpGth 8 4 2 true),
    (0x101010C6, .cpTrn 8 4 2 false),
    (0x101014C7, .cpAcc 8 4 2 .sr),
    (0x101015C8, .mx 8 4 2 .qn4),
    (0xE04050C9, .tsend 112 16 10),
    (0xE05050CA, .tland 112 20 10),
    (0x005000CB, .twany 20),
    (0x01D800CC, .twall 118),
    (0x3DD800CD, .twfirst 30 118),
    (0x000000E0, .nop),
    (0x3068E0E1, .launch 24 26 28),
    (0x00A148E2, .driftSet 40 41),
    (0x00A151E2, .driftStep 40 42),
    (0x0E00C0E8, .dbgBpClr 7 24),
    (0x0450C1E8, .dbgBpSet 2 20 24),
    (0x0000C2E8, .dbgBpClaim 24),
    (0x0000CBE8, .dbgBpFree 25),
    (0x0000C0E9, .dbgHold 24 false),
    (0x0000C0EA, .dbgStep 24),
    (0x0000C9EA, .dbgStepTrap 25),
    (0x0000C1EB, .dbgRun 24 true),
    (0x409130EC, .dbgWatch 32 36 38),
    (0x0050B0ED, .dbgMbox 20 22),
    (0x0050B1ED, .dbgMboxBase 20 22),
    (0x0050B2ED, .dbgMboxSamp 20 22),
    (0x0050B3ED, .dbgMboxRec 20 22)]

theorem test_decode_engine_and_debug : reads words_engine_and_debug = true := by decide +kernel

/-! ## Terms and words that are no instructions -/

/-- Ill-formed terms: one for each check of WellFormed. -/
def illFormed : List Instr := [
  .add 1 2 4 false .w64, .add 2 3 4 false .w64, .add 2 4 5 false .w64,
  .addSat 1 2 4 false false true, .mulhi 2 3 4 false false true, .mad 1 2 127 false .w32, .mad 2 4 126 false .w64,
  .setp .eq 1 3 4 false .w64, .usetp .eq 1 4 5 .w64, .umad 1 2 127 .w8,
  .ffma 1 2 127 false .rne, .dadd 1 2 4 false .rne, .dfma 2 4 126 false .rne, .dmin 2 4 5 false, .dsetp .eq 1 3 4 false,
  .dabs 1 2, .dneg 2 1, .dcpsgn 2 4 7 false, .dclass 1 3, .hfmaF16 1 2 127 false .rne, .hfmaBf16 1 2 127 false .rne,
  .cvtToF32 1 2 0 .f32 (.det .rne), .cvtToF32 1 2 1 .s32 (.det .rne), .cvtToF64 1 2 0 .f32 (.det .rne), .cvtToF64 2 3 0 .s64 (.det .rne),
  .cvtToF16 1 2 2 .f32 (.det .rne), .cvtToBf16 1 2 0 .s32 .sr, .cvtToE4m3 1 2 2 .f16 (.det .rne), .cvtToE5m2 1 2 0 .e5m2 (.det .rne),
  .cvtToInteger 1 2 .s64 false .rne, .cvtToInteger 1 3 .s32 true .rne,
  .bsel 1 2 127 false, .dp4 1 2 127 false .ss, .dp2 1 2 127 false .ss, .hdp2 1 2 127 false false,
  .brx 1 true, .ret 3 false, .part 0, .part 6, .mfs 4 20 true, .mfs 5 4 true, .mts 4 2 true, .mts 10 3 true,
  .caddS64 1 2 false false, .caddF64 2 3 false false, .cfmaF64 2 4 5 false false false, .cpassB64 1 2 false false,
  .ldLn 1 2 0 false .b64, .stDie 2 3 0 false .b32, .ldFab 3 2 0 false .b64, .stHost 2 3 0 .b32, .stMc 2 4 0 false .b32, .stMc 2 3 1 false .b32,
  .ldTs 2 0 127 .b32, .stTs 3 0 2 .b64, .ldAcc 3 0 127 .b64, .atomAdd 2 3 4 false false, .atomMin 2 4 5 true false false, .atomCas 1 2 127 false false,
  .fatomCas 2 4 126 true false, .talloc 0 1 2 126 .ts, .tdesc 2 1 true, .rlwSet 127 1, .rlwNext 127 1, .rlwNext 2 6,
  .tatomAdd 1 2 127, .tatomCas 127 2 1, .rbGive 0, .rbClaim 0, .monArm 1 3 false true, .monDisarm 3 false true,
  .cpFill 2 4 6, .cpHost 4 5 6 true, .mx 4 6 7 .f64, .twany 3, .twfirst 3 5, .dbgBpSet 1 3 4, .dbgWatch 2 4 6, .dbgMbox 3 4]

theorem test_wellFormed_refuses : illFormed.all (fun i => !i.wf) = true := by decide +kernel

/-- Words that the rules reserve, with the subcode of UNDEF that they raise (R113): an unassigned opcode, a reserved
modifier, a reserved bit, an odd pair, and a feature that was not accepted. -/
theorem test_decode_refuses :
    decodeWord Config.fOffer 0x00000038 = .error .unassigned ∧ decodeTableWord 32 0x38 = none ∧
    decodeWord Config.fOffer 0x00000410 = .error .modifier ∧ decodeWord Config.fOffer 0x00000669 = .error .modifier ∧
    decodeWord Config.fOffer 0x0C09A443 = .error .reserved ∧ decodeWord Config.fOffer 0x02000028 = .error .register ∧
    decodeWord 0 0x3068E0E1 = .error .feature := by decide +kernel

/-! ## Values of the worked examples -/

/-- What an operation gives on words. -/
def val (op : AluOp) (a b c : W32) : W64 := (aluEval op (word a) (word b) (word c) fun _ => 0).val

/-- R124: the two saturating examples. -/
theorem test_saturation : val (.subSat true false) 3 5 0 = 0 ∧ val (.addSat false false) 0x7FFFFFFF 1 0 = 0x7FFFFFFF := by decide +kernel

/-- R125: rotation by a count whose high bits are ignored; leading zeros of 0; the negation of the least number. -/
theorem test_logic : val .rol 0x80000001 0x21 0 = 0x3 ∧ val .clz 0 0 0 = 32 ∧ val .neg 0x80000000 0 0 = 0x80000000 := by decide +kernel

/-- R127: the table of quotients and remainders. -/
theorem test_division :
    val (.div false) 7 0xFFFFFFFE 0 = 0xFFFFFFFD ∧ val (.rem false) 7 0xFFFFFFFE 0 = 1 ∧
    val (.div false) 0xFFFFFFF9 2 0 = 0xFFFFFFFD ∧ val (.rem false) 0xFFFFFFF9 2 0 = 0xFFFFFFFF ∧
    val (.div false) 5 0 0 = 0xFFFFFFFF ∧ val (.rem false) 5 0 0 = 5 ∧
    val (.div false) 0x80000000 0xFFFFFFFF 0 = 0x80000000 ∧ val (.rem false) 0x80000000 0xFFFFFFFF 0 = 0 ∧
    val (.div true) 0xFFFFFFF9 2 0 = 0x7FFFFFFC ∧ val (.rem true) 0xFFFFFFF9 2 0 = 1 := by decide +kernel

/-- R128: `movi` and `movh` build 0x3B80_8081. -/
theorem test_moves : val .movh 0x7701 0 0x81 = 0x3B808081 := by decide +kernel

/-- R71, R72: an unseeded `cvt.bf16.f32.sr` of 1 + 2^-9 rounds up to 0x3F81. -/
theorem test_stochastic : (aluEval (.cvtF .bf16 0 .f32 .sr) (word 0x3F804000) 0 0 fun e =>
    (draw 0 0 (BitVec.ofNat 64 (32 * e))).toNat).val = 0x3F81 := by decide +kernel

/-- R140: QN4 codes of 0.3, -0.04 and 1.25 under the scale 1. -/
theorem test_quantise :
    val (.toQn4 (.det .rne)) 0x3E99999A 0x3F800000 0 = 11 ∧ val (.toQn4 (.det .rz)) 0x3E99999A 0x3F800000 0 = 10 ∧
    val (.toQn4 (.det .rne)) 0xBD23D70A 0x3F800000 0 = 7 ∧ val (.toQn4 (.det .rd)) 0xBD23D70A 0x3F800000 0 = 6 ∧
    (aluEval (.toQn4 (.det .rne)) (word 0x3FA00000) (word 0x3F800000) 0 fun _ => 0).val = 15 := by decide +kernel

/-- R141: byte [23:16] of 0x0038_7E01 is 1.0 in E4M3. -/
theorem test_convert_element : val (.cvtF .f32 2 .e4m3 (.det .rne)) 0x00387E01 0 0 = 0x3F800000 := by decide +kernel

/-- R145: the worked selector. -/
theorem test_bsel : val .bsel 0x88442211 0x000000F0 0x1C130A00 = 0x0FFF0011 := by decide +kernel

/-! ## A small machine -/

/-- The machine with the next turn's slot at the issue port. -/
def ported (s : State) : State :=
  match nextTurn (enter s) (activeCores (enter s)) with
  | .issue t => { s with mach := (World.port (enter s) t).mach }
  | _ => s

/-- Core 0 of a machine changed. -/
def onCore (s : State) (f : Core → Core) : State :=
  { s with mach := { s.mach with cores := s.mach.cores.map fun x => if x.1 = 0 then (x.1, f x.2) else x } }

/-- A free privileged block of one course at the issue port of core 0, its block and course changed. -/
def issuing (fb : Block → Block) (fk : Course → Course) : State :=
  onCore (ported (State.reset.withFetchWord 32 0xE0)) fun c =>
    { c with blocks := c.blocks.map fun x => (x.1, fb x.2), courses := c.courses.map fun x => (x.1, fk x.2) }

/-- The same, unchanged. -/
def bare : State := issuing id id

/-- A machine after an instruction. -/
def after (i : Instr) (s : State) : State :=
  match exec i s with
  | .next s' => s'
  | _ => s

/-- A uniform register of a course set. -/
def withUni (k : Course) (n : Nat) (v : W32) : Course := { k with k := k.k.set 0 n v }

/-- The block as a block of a timed launch. -/
def timedBlock (b : Block) : Block := { b with hdr := { b.hdr with timed := true } }

/-- A site of a state that the issue port holds and of which a condition holds. -/
theorem at_of (s : State) (P : Site → Prop) [DecidablePred P]
    (h : (siteOf (enter s)).any (fun t => !t.p.stepping && decide (P t)) = true) : ∃ t, At s t ∧ P t := by
  rw [Option.any_eq_true] at h
  obtain ⟨t, ht, hp⟩ := h
  rw [Bool.and_eq_true, Bool.not_eq_true', decide_eq_true_iff] at hp
  exact ⟨t, ⟨ht, hp.1⟩, hp.2⟩

/-- An outcome that is a next state. -/
theorem next_of {o : Host.Outcome State Fault Refusal} (h : (match o with | .next _ => true | _ => false) = true) : ∃ s', o = .next s' := by
  cases o with
  | next s' => exact ⟨s', rfl⟩
  | fault _ => cases h
  | refused _ => cases h

/-! ## Witnesses: the hypotheses of every statement can be met -/

theorem wit_DecodeEncode : Instr.wf (.mx 8 4 2 .qn4) = true ∧ encode (.mx 8 4 2 .qn4) = some 0x101015C8 := by decide +kernel

theorem wit_EncodeDecode : decodeWord 0 0x0A144522 = .ok (.fmul 5 5 8 true .rz) := by decide +kernel

theorem wit_UnassignedOpcodes : unassigned 0x38 ∧ unassigned 0xFF ∧ ¬ unassigned 0xED ∧ ¬ unassigned 0x53 := by
  unfold unassigned; omega

/-- The bare machine before its slot is at the port: nothing is due and its turn issues `nop`. -/
theorem wit_StepRunsDecoded : let s := State.reset.withFetchWord 32 0xE0
    inputDue s.mach = none ∧ nextEvent (enter s) = none ∧ scanDue (enter s) = none ∧ dueBody (enter s) (activeCores (enter s)) = none ∧
    (match nextTurn (enter s) (activeCores (enter s)) with
      | .issue t => decide (t.pth.slotWord.2.2 = 0) && decide (t.pth.slotWord.2.1 % 2 = 0) &&
          decide (decodeWord (module s (modOf t.core)).faccept t.pth.slotWord.1 = .ok .nop)
      | _ => false) = true := by decide +kernel

theorem wit_StepKeepsMemoryForm : State.reset.mem.wf = true ∧ ∃ s', step State.reset = .next s' :=
  ⟨by decide +kernel, next_of (by decide +kernel)⟩

/-- A machine with a sash and a module but no block: nothing is due and no turn comes. -/
def idle (paused frozen : Bool) : State :=
  let s := onCore (State.reset.withFetchWord 32 0xE0) fun c => { c with slots := [], blocks := [], courses := [] }
  { s with mach := { s.mach with
      mods := s.mach.mods.map fun x => (x.1, { x.2 with frozen := frozen })
      sashes := s.mach.sashes.map fun x => (x.1, { x.2 with paused := paused, causes := if paused then [{ p := 1024, src := .debug }] else [] }) } }

theorem wit_TickClocks : ∀ b ∈ [false, true], inputDue (idle b false).mach = none ∧ nextEvent (enter (idle b false)) = none ∧
    scanDue (enter (idle b false)) = none ∧ dueBody (enter (idle b false)) (activeCores (enter (idle b false))) = none ∧
    nextTurn (enter (idle b false)) (activeCores (enter (idle b false))) = .none ∧
    dueTail (enter (idle b false)) (activeCores (enter (idle b false))) = none ∧
    ((idle b false).mach.mods.find 0).isSome = true ∧ (sash (idle b false) 1).isSome = true := by decide +kernel

/-- The master's stamp arrives with the next cycle. -/
def stamped : State := { idle false false with mach := { (idle false false).mach with
  mods := (idle false false).mach.mods.map fun x => (x.1, { x.2 with loadAt := some ((idle false false).mach.clock + 1, 500) }) } }

theorem wit_TickClocks_stamp : inputDue stamped.mach = none ∧ nextEvent (enter stamped) = none ∧ scanDue (enter stamped) = none ∧
    dueBody (enter stamped) (activeCores (enter stamped)) = none ∧ nextTurn (enter stamped) (activeCores (enter stamped)) = .none ∧
    dueTail (enter stamped) (activeCores (enter stamped)) = none ∧
    (stamped.mach.mods.find 0).bind Machine.Module.loadAt = some (stamped.mach.clock + 1, 500) := by decide +kernel

/-- A block without privilege. -/
theorem wit_PrivilegedFaults : ∃ t, At (issuing (fun b => { b with bind := { b.bind with priv := false } }) id) t ∧
    t.b.bind.priv = false := at_of _ _ (by decide +kernel)

/-- An allotment of 32 words, and a register beyond it: word 32 exactly, and the last that fits. -/
def narrow : State := issuing id fun k => { k with allot := 32 }

theorem wit_WindowFaults : ∃ t, At narrow t ∧ laneForm (.fabs 32 1) = some (lane1 (.fabs .f32) false false 32 1 4 .fp) ∧
    ¬ Fits t (lane1 (.fabs .f32) false false 32 1 4 .fp).top := by
  obtain ⟨t, h, p⟩ := at_of narrow (fun t => t.k.wb = 0 ∧ t.k.allotAt t.i.cyc = 32) (by decide +kernel)
  refine ⟨t, h, rfl, ?_⟩
  simp [Fits, p.1, p.2, Form.top, lane1, laneDst, laneSrc, Dst.top, Src.top]

theorem wit_TargetFaults : ∃ t, At bare t ∧ (t.i.pc : Int) + (-97) < 0 ∧ offsetOf (.bra 0xFFFF9F) = some (-97) :=
  at_of _ _ (by decide +kernel)

/-- k4:k5 holds the PC of no slot. -/
theorem wit_TargetFaults_supplied : ∃ t, At (issuing id fun k => withUni k 4 0x10) t ∧ on t 0 = true ∧
    pcGood (t.k.src 0 (.uniPair 4)) = false := at_of _ _ (by decide +kernel)

theorem wit_LaneIssue : ∃ t, At narrow t ∧ laneForm (.fabs 31 1) = some (lane1 (.fabs .f32) false false 31 1 4 .fp) ∧
    Fits t (lane1 (.fabs .f32) false false 31 1 4 .fp).top := by
  obtain ⟨t, h, p⟩ := at_of narrow (fun t => t.k.wb = 0 ∧ t.k.allotAt t.i.cyc = 32) (by decide +kernel)
  refine ⟨t, h, rfl, .inr ?_⟩
  simp [p.1, p.2, Form.top, lane1, laneDst, laneSrc, Dst.top, Src.top]

theorem wit_ChainIssue : ∃ t op br f, At bare t ∧ chainedForm (.cfmaF64 6 4 2 true true true) = some (op, br, f) ∧ Fits t f.top := by
  obtain ⟨t, h, p⟩ := at_of bare (fun t => t.k.wb = 0 ∧ t.k.allotAt t.i.cyc = 512) (by decide +kernel)
  refine ⟨t, _, _, _, h, rfl, .inr ?_⟩
  simp [p.1, p.2, Form.top, bSrc, uniSrc, laneDst, Dst.top, Src.top]

/-- Clauses of a site: the lowest active lane enabled, and disabled by a predicate that is false in lane 0. -/
def disabled : State :=
  let s := issuing id fun k => { k with preds := [(0, 0xFFFFFFFE)] }
  { s with mach := { s.mach with cur := s.mach.cur.map fun i => { i with pred := 0 } } }

theorem wit_once : ∃ t, At bare t ∧ once t = true := at_of _ _ (by decide +kernel)
theorem wit_not_once : ∃ t, At disabled t ∧ once t = false ∧ on t 1 = true := at_of _ _ (by decide +kernel)

theorem wit_UniformIssue : (uniForm (.udiv 1 2 3 true)).isSome = true ∧ (∃ t, At bare t ∧ once t = true) ∧
    (∃ t, At disabled t ∧ once t = false) := ⟨by decide +kernel, at_of _ _ (by decide +kernel), at_of _ _ (by decide +kernel)⟩

/-! ### Lanes -/

/-- The machine after an instruction has issued, its one flight changed. -/
def flying (i : Instr) (f : Flight → Flight) (s : State) : State := onCore (after i s) fun c => { c with flights := c.flights.map f }

/-- Lane `j` of the one flight of core 0 is next, and a condition holds of it and its course. -/
def due (s : State) (j stride : Nat) (P : Flight → Course → Bool) : Bool :=
  match (Say.core s 0).flights.find? fun f => decide (f.seq = 0) && decide (f.stride = stride) && decide (f.next = j) with
  | some f => (match block s 0 f.owner, course s 0 f.owner f.cr with | some _, some k => P f k | _, _ => false)
  | none => false

theorem due_of {s : State} {j stride : Nat} {P : Flight → Course → Bool} (h : due s j stride P = true) :
    ∃ f b k, LaneDue s 0 0 j stride f b k ∧ P f k = true := by
  unfold due at h
  split at h
  · split at h
    · exact ⟨_, _, _, ⟨‹_›, ‹_›, ‹_›⟩, h⟩
    · cases h
  · cases h

theorem wit_LaneExecutes : ∃ f b k, LaneDue (flying (.fadd 3 1 2 false .rne) id bare) 0 0 0 1 f b k ∧
    (decide (f.form.op = .alu (.fadd .f32 .rne)) && lives k f 0 && sound k f 0) = true := due_of (by decide +kernel)

/-- Lane 31 is the last. -/
theorem wit_LaneExecutes_last : ∃ f b k, LaneDue (flying (.fadd 3 1 2 false .rne) (fun f => { f with next := 31 }) bare) 0 0 31 1 f b k ∧
    (decide (f.form.op = .alu (.fadd .f32 .rne)) && lives k f 31 && sound k f 31) = true := due_of (by decide +kernel)

theorem wit_LaneDisabled : ∃ f b k, LaneDue (flying (.ldDie 3 2 0 false .b32) id disabled) 0 0 0 1 f b k ∧
    (!lives k f 0 && decide (f.form.op = .load .die .b32 0)) = true := due_of (by decide +kernel)

theorem wit_CrossLaneDelivers : ∃ f b k, LaneDue (flying (.lpickXor 3 1 2 false)
      (fun f => { f with next := 31, coll := List.replicate 31 (true, 7, 1) }) bare) 0 0 31 1 f b k ∧
    (decide (f.form.op = .xlane .pickXor) && sound k f 31 && decide (f.coll.length = 31)) = true := due_of (by decide +kernel)

theorem wit_ChainSteps : ∃ f b k, LaneDue (flying (.caddF32 3 1 false true) id bare) 0 0 0 4 f b k ∧
    (decide (f.form.op = .chain .addF32 false true) && sound k f 0 && lives k f 0) = true := due_of (by decide +kernel)

theorem wit_ChainSteps_passes : ∃ f b k, LaneDue (flying (.caddF32 3 1 false true) id disabled) 0 0 0 4 f b k ∧
    (decide (f.form.op = .chain .addF32 false true) && sound k f 0 && !lives k f 0) = true := due_of (by decide +kernel)

theorem wit_ChainEnds : let s := flying (.caddF32 3 1 false true) (fun f => { f with next := 32 }) bare
    (match (Say.core s 0).flights.find? fun f => decide (f.seq = 0) && decide (f.stride = 4) && decide (32 ≤ f.next) with
      | some f => (course s 0 f.owner f.cr).isSome
      | none => false) = true := by decide +kernel

/-! ### Results -/

/-- A machine with one result. -/
def landing (ws : List Machine.Write) (fl : FpFlags) : State := onCore bare fun c =>
  { c with results := [{ id := 5, seq := 0, owner := 0, cr := 0, ready := 1024, writes := ws, flags := fl }] }

/-- The result with its course. -/
def lands (s : State) (P : Result → Course → Bool) : Bool :=
  match (Say.core s 0).results.find? fun r => decide (r.id = 5) with
  | some r => (match course s 0 r.owner r.cr with | some k => P r k | none => false)
  | none => false

theorem lands_of {s : State} {P : Result → Course → Bool} (h : lands s P = true) : ∃ r k, Lands s 0 5 r k ∧ P r k = true := by
  unfold lands at h
  split at h
  · split at h
    · exact ⟨_, _, ⟨‹_›, ‹_›⟩, h⟩
    · cases h
  · cases h

theorem wit_LaneResultLands : ∃ r k, Lands (landing [.lane 31 4 1, .lane 31 5 2] 1) 0 5 r k ∧
    (Tab.wf 0 k.regs && k.live.getLsbD 31 &&
      decide (r.writes = .lane 31 4 1 :: ((some 2 : Option W32).map fun v => Machine.Write.lane 31 (4 + 1) v).toList)) = true :=
  lands_of (by decide +kernel)

/-- The lane has exited. -/
theorem wit_LaneResultLands_exited : ∃ r k, Lands (onCore (landing [.lane 0 4 1] 1) fun c =>
      { c with courses := c.courses.map fun x => (x.1, { x.2 with live := 2 }) }) 0 5 r k ∧
    (Tab.wf 0 k.regs && !k.live.getLsbD 0 && decide (r.writes = .lane 0 4 1 :: ((none : Option W32).map fun v => Machine.Write.lane 0 (4 + 1) v).toList)) = true :=
  lands_of (by decide +kernel)

theorem wit_PredicateResultLands : ∃ r k, Lands (landing [.pred 7 0xFFFFFFFF 0] 0) 0 5 r k ∧
    (Tab.wf 0 k.preds && decide (r.writes = [.pred 7 0xFFFFFFFF 0])) = true := lands_of (by decide +kernel)

theorem wit_UniformResultLands : ∃ r k, Lands (landing [.uni 127 9] 0) 0 5 r k ∧
    (Tab.wf 0 k.k && decide (r.flags = 0) && decide (r.writes = [.uni 127 9])) = true := lands_of (by decide +kernel)

theorem wit_UniformResultLands_special : ∀ n ∈ [0x0A, 0x0D, 0x11, 0x12], lands (landing [.sr n 9] 0) (fun r k =>
    Tab.wf 0 k.k && decide (r.flags = 0) && decide (r.writes = [.sr n 9])) = true ∧ (block (landing [.sr n 9] 0) 0 0).isSome = true := by
  decide +kernel

/-! ### Values -/

theorem wit_DivisionValues : low 32 true 0 = 0 ∧ low 32 false 0x80000000 = -2 ^ 31 ∧ low 32 false 0xFFFFFFFF = -1 ∧
    low 32 true 0xFFFFFFFF ≠ 0 := by decide +kernel

theorem wit_CompareAndMoveValues : compare .lts 8 0x80 0x7F ∧ ¬ compare .ltz 8 0x80 0x7F ∧ compare .gez 64 0 0 ∧ ¬ compare .ne 16 0x10000 0 := by
  simp only [Say.compare]; decide +kernel

theorem wit_FloatCompareValues : ordered .equ true 0 1 ∧ ¬ ordered .ne true 0 1 ∧ ordered .eq false (place 32 0x80000000) (place 32 0) ∧
    ordered .lt false (place 64 0xFFF0000000000000) (place 64 0) := by
  simp only [ordered]; decide +kernel

theorem wit_MinMaxValues : nan32 0x7F800001 = true ∧ nan32 0x7F800000 = false ∧ snan32 0x7F800001 = true ∧ snan32 0x7FC00000 = false ∧
    place 32 0x80000000 = place 32 0 ∧ (0x80000000 : W32).msb = true ∧ place 32 0xFF800000 < place 32 0x7F800000 := by decide +kernel

theorem wit_NanResults : (nan32 0xFFFFFFFF || nan32 0) = true ∧ (0x80000000 : W32).toNat % 2 ^ 31 = 0 := by decide +kernel

/-- The least subnormal of E5M2 and the greatest finite number of E4M3. -/
theorem wit_RoundKeepsExact : 1 < 2 ^ fmtWidth .e5m2 ∧ (∃ sg m e, unpackF .e5m2 1 = .num sg m e ∧ m ≠ 0) ∧
    0x7E < 2 ^ fmtWidth .e4m3 ∧ ∃ sg m e, unpackF .e4m3 0x7E = .num sg m e ∧ m ≠ 0 := by
  refine ⟨by decide, ⟨_, _, _, rfl, by decide +kernel⟩, by decide, _, _, _, rfl, by decide +kernel⟩

/-! ### Control -/

theorem wit_TransferIssue : ∃ t, At (issuing id fun k => withUni k 4 0x24) t ∧ ((t.i.pc : Int) + (-96) = (0 : Nat)) ∧
    (∀ j, j < 32 → on t j = true → pcGood (supplied t 4 true j) = true) ∧
    (∀ j, j < 32 → on t j = true → pairPoisoned t 4 true j = false) := at_of _ _ (by decide +kernel)

/-- The registers v4 and v5 of every lane hold a PC, and in lane 31 v4 is poisoned. -/
def poisonedPair : State := issuing id fun k => (List.range 32).foldl (fun k j => k.setReg 4 j 0x24)
  { k with poison := Tab.set false k.poison (4 / 2 * 32 + 31) true }

theorem wit_TransferIssue_poison : ∃ t, At poisonedPair t ∧ t.k.wb + 6 ≤ t.k.allotAt t.i.cyc ∧
    (∀ j, j < 32 → on t j = true → pcGood (supplied t 4 false j) = true) ∧ on t 31 = true ∧ pairPoisoned t 4 false 31 = true ∧
    pairPoisoned t 4 false 0 = false := at_of _ _ (by decide +kernel)

theorem wit_TransferLanes : ∃ t, At bare t ∧ t.k.path? 0 = some t.p ∧ t.p.mask ≠ 0 := at_of _ _ (by decide +kernel)

/-- The last and the last but one of a loop, to slot 0. -/
theorem wit_LoopExecutes :
    (∃ t, At (issuing id fun k => withUni k 10 1) t ∧ once t = true ∧ t.k.uni 10 = 1 ∧ (t.i.pc : Int) + (-96) = (0 : Nat)) ∧
    (∃ t, At (issuing id fun k => withUni k 10 2) t ∧ once t = true ∧ t.k.uni 10 = 2 ∧ (t.i.pc : Int) + (-96) = (0 : Nat)) :=
  ⟨at_of _ _ (by decide +kernel), at_of _ _ (by decide +kernel)⟩

theorem wit_ExitExecutes : (∃ t, At bare t ∧ ∀ j, j < 32 → t.k.live.getLsbD j = true → on t j = true) ∧
    (∃ t, At disabled t ∧ ∃ j, j < 32 ∧ t.k.live.getLsbD j = true ∧ on t j = false) :=
  ⟨at_of _ _ (by decide +kernel), at_of _ _ (by decide +kernel)⟩

/-- A course with sixteen tokens, and one with fifteen. -/
def tokened (n : Nat) (hold : LaneMask) (a : Nat) : State :=
  issuing id fun k => { k with tokens := List.replicate n { jaddr := a, hold := hold, parked := 0 } }

theorem wit_JoinTokens : (∃ t, At (tokened 15 1 0) t ∧ t.k.tokens.length < 16 ∧ (t.i.pc : Int) + (-96) = (0 : Nat)) ∧
    (∃ t, At (tokened 16 1 0) t ∧ 16 ≤ t.k.tokens.length) := ⟨at_of _ _ (by decide +kernel), at_of _ _ (by decide +kernel)⟩

theorem wit_JoinTokens_elsewhere : ∃ t, At bare t ∧ ((t.k.innermost t.p.mask).bind fun n => t.k.tokens[n]?).map Token.jaddr ≠ some t.i.pc :=
  at_of _ _ (by decide +kernel)

/-- Lane 32 of another path is missing; nobody is. -/
theorem wit_JoinTokens_join :
    (∃ t, At (issuing id fun k => { k with
        slot0 := k.slot0.map fun p => { p with mask := 1 }, tokens := [{ jaddr := 96, hold := 0x80000001, parked := 0 }] }) t ∧
      t.i.slot < 2 ∧ t.k.innermost t.p.mask = some 0 ∧ t.k.tokens[0]? = some { jaddr := 96, hold := 0x80000001, parked := 0 } ∧
      t.i.pc = 96 ∧ ¬ allArrived t { jaddr := 96, hold := 0x80000001, parked := 0 }) ∧
    (∃ t, At (tokened 1 0xFFFFFFFF 96) t ∧ t.i.slot < 2 ∧ t.k.innermost t.p.mask = some 0 ∧
      t.k.tokens[0]? = some { jaddr := 96, hold := 0xFFFFFFFF, parked := 0 } ∧ t.i.pc = 96 ∧
      allArrived t { jaddr := 96, hold := 0xFFFFFFFF, parked := 0 } ∧ ∀ y ∈ t.k.paths, y.2.held = false) :=
  ⟨at_of _ _ (by decide +kernel), at_of _ _ (by decide +kernel)⟩

theorem wit_JoinTokens_unites : ∃ t, At (tokened 1 0xFFFFFFFF 96) t ∧ (t.k.path? 0 = some t.p ∧ t.k.innermost t.p.mask = some 0 ∧
    t.k.tokens[0]? = some { jaddr := 96, hold := 0xFFFFFFFF, parked := 0 } ∧ (0xFFFFFFFF : LaneMask) &&& ~~~((0 : LaneMask) ||| t.p.mask) = 0 ∧
    ∀ y ∈ t.k.paths, y.2.held = false) := at_of _ _ (by decide +kernel)

theorem wit_WindowAndPartition : (∃ t, At bare t ∧ once t = true ∧ 32 * (15 : BitVec 10).toNat < t.k.allotAt t.i.cyc) ∧
    (∃ t, At bare t ∧ once t = true ∧ t.k.allotAt t.i.cyc ≤ 32 * (16 : BitVec 10).toNat) ∧
    (∃ t, At bare t ∧ once t = true ∧ t.b.hdr.compat = false) ∧
    (∃ t, At (issuing (fun b => { b with hdr := { b.hdr with compat := true } }) id) t ∧ t.b.hdr.compat = true) :=
  ⟨at_of _ _ (by decide +kernel), at_of _ _ (by decide +kernel), at_of _ _ (by decide +kernel), at_of _ _ (by decide +kernel)⟩

/-! ### Special registers and traps -/

theorem wit_SpecialMoves : (∃ t, At bare t ∧ once t = true ∧ (die bare (dieOf t.i.core)).recMode = 0) ∧
    (∃ t, At (issuing id fun k => withUni k 4 0x24) t ∧ once t = true ∧ pcGood (t.k.src 0 (.uniPair 4)) = true) ∧
    (∃ t, At (issuing id fun k => withUni k 4 0x20) t ∧ once t = true ∧ pcGood (t.k.src 0 (.uniPair 4)) = false) :=
  ⟨at_of _ _ (by decide +kernel), at_of _ _ (by decide +kernel), at_of _ _ (by decide +kernel)⟩

/-- A block with a handler. -/
def handling (h : Option (List Nat)) (tpc : W64) : State :=
  issuing (fun b => { b with hdr := { b.hdr with traph := true, hoff := 1 } }) fun k => { k with handler := h, tpc := tpc }

theorem wit_TrapsTaken : (∃ t, At (handling none 0) t ∧ once t = true ∧ t.b.hdr.traph = true ∧ t.k.handler = none ∧ t.k.live ≠ 0 ∧
      (Say.core (handling none 0) t.i.core).claims.find t.i.owner = none) ∧
    (∃ t, At bare t ∧ once t = true ∧ t.b.hdr.traph = false) ∧ (∃ t, At (handling (some []) 0) t ∧ once t = true ∧ t.k.handler.isSome = true) :=
  ⟨at_of _ _ (by decide +kernel), at_of _ _ (by decide +kernel), at_of _ _ (by decide +kernel)⟩

theorem wit_TrapsTaken_claimed : ∃ t, At (onCore bare fun c => { c with claims := [(0, (0, 1, 0))] }) t ∧ once t = true ∧
    t.b.hdr.timed = false ∧ (Say.core (onCore bare fun c => { c with claims := [(0, (0, 1, 0))] }) t.i.core).claims.find t.i.owner = some (0, 1, 0) :=
  at_of _ _ (by decide +kernel)

/-- A timed block that a debugger has claimed. -/
def claimedTimed : State :=
  onCore (issuing (fun b => { b with hdr := { b.hdr with timed := true } }) id) fun c => { c with claims := [(0, (0, 1, 0))] }

theorem wit_TrapsTaken_claimed_timed : ∃ t, At claimedTimed t ∧ once t = true ∧
    t.b.hdr.timed = true ∧ (Say.core claimedTimed t.i.core).claims.find t.i.owner = some (0, 1, 0) :=
  at_of _ _ (by decide +kernel)

theorem wit_TrapsTaken_return : (∃ t, At (handling (some []) 0x4) t ∧ once t = true ∧ t.k.handler.isSome = true ∧ pcGood t.k.tpc = true) ∧
    (∃ t, At (handling (some []) 0) t ∧ once t = true ∧ t.k.handler.isSome = true ∧ pcGood t.k.tpc = false) ∧
    (∃ t, At bare t ∧ t.k.handler = none) := ⟨at_of _ _ (by decide +kernel), at_of _ _ (by decide +kernel), at_of _ _ (by decide +kernel)⟩

/-! ### Memory -/

theorem wit_MemoryIssue : (∃ t sc f, At bare t ∧ memForm (.atomCas 2 4 6 true true) = some (sc, f) ∧ Fits t f.top ∧ (f.acq && !t.b.hdr.timed) = true) ∧
    (∃ t sc f, At (issuing timedBlock id) t ∧ memForm (.atomCas 2 4 6 true true) = some (sc, f) ∧ Fits t f.top ∧ (f.acq && !t.b.hdr.timed) = false) := by
  constructor
  · obtain ⟨t, h, p⟩ := at_of bare (fun t => t.k.wb = 0 ∧ t.k.allotAt t.i.cyc = 512 ∧ t.b.hdr.timed = false) (by decide +kernel)
    refine ⟨t, _, _, h, rfl, .inr ?_, by simp [p.2.2, rmwForm]⟩
    simp [p.1, p.2.1, Form.top, rmwForm, laneSrc, laneDst, cSrc, Dst.top, Src.top]
  · obtain ⟨t, h, p⟩ := at_of (issuing timedBlock id) (fun t => t.k.wb = 0 ∧ t.k.allotAt t.i.cyc = 512 ∧ t.b.hdr.timed = true) (by decide +kernel)
    refine ⟨t, _, _, h, rfl, .inr ?_, by simp [p.2.2]⟩
    simp [p.1, p.2.1, Form.top, rmwForm, laneSrc, laneDst, cSrc, Dst.top, Src.top]

/-- A block with five tags. -/
theorem wit_HostIssue : ∃ t, At (issuing (fun b => { b with hdr := { b.hdr with tags := 5 } }) id) t ∧ t.k.wb + 4 ≤ t.k.allotAt t.i.cyc ∧
    t.b.hdr.tags ≤ (5 : BitVec 6).toNat ∧ (4 : BitVec 6).toNat < t.b.hdr.tags := at_of _ _ (by decide +kernel)

theorem wit_FenceAndMonitors_poison :
    (∃ t, At poisonedPair t ∧ once t = true ∧ t.k.wb + 6 ≤ t.k.allotAt t.i.cyc ∧ pairPoisoned t 4 false (lowestLane t.p.mask) = false) ∧
    (∃ t, At (issuing id fun k => { k with poison := Tab.set false k.poison (4 / 2 * 32) true }) t ∧ once t = true ∧
      pairPoisoned t 4 false (lowestLane t.p.mask) = true) := ⟨at_of _ _ (by decide +kernel), at_of _ _ (by decide +kernel)⟩

theorem wit_FenceAndMonitors : (∃ t, At bare t ∧ once t = true ∧ t.b.hdr.timed = false ∧ (die bare (dieOf t.i.core)).recMode = 0) ∧
    (∃ t, At (issuing timedBlock id) t ∧ t.b.hdr.timed = true) ∧ (∃ t, At disabled t ∧ once t = false) :=
  ⟨at_of _ _ (by decide +kernel), at_of _ _ (by decide +kernel), at_of _ _ (by decide +kernel)⟩

/-- A store of eight bytes at the end of a small page, translated and due. -/
def storing : State := onCore bare fun c => { c with accs := [{
  id := 7, seq := 0, owner := 0, cr := 0, str := 0, path := 0, pathIx := 0, lane := 0, pc := 96, word := 0, kind := .store, space := .die,
  addr := 16376, size := 8, data := 0x0807060504030201, cyc := 1024, due := 1024, home := 0,
  xl := .ok { base := 0, large := false, pte := 0x8800000000004000, epoch := 0 } }] }

theorem wit_StoreApplies : (match (Say.core storing 0).accs.find? fun a => decide (a.id = 7) with
    | some a => (match block storing 0 a.owner, a.xl with
      | some b, .ok l => decide (a.done = none) && decide (a.kind = .store) && decide (a.space = .die) && !a.cross && !a.late &&
          decide (a.marks = []) && !l.refuses .write a.pv false && !l.host && !b.hdr.timed && !b.hdr.determ &&
          decide ((die storing (dieOf 0)).recMode = 0) && decide ((Say.core storing 0).watches = []) && decide (a.size ≤ 8)
      | _, _ => false)
    | none => false) = true := by decide +kernel

/-! ### Tiles -/

/-- A block with two handles; k0 to k2 hold a shape, and handle 0 a tile. -/
def tiled (rows : W32) (d : Desc) : State :=
  onCore (issuing (fun b => { b with hdr := { b.hdr with handles := 2 } }) fun k => withUni (withUni k 0 rows) 1 8) fun c => { c with tiles := [(0, d)] }

/-- A VALID tile of 8 rows and 8 columns of s32. -/
def tile : Desc := { rows := 8, cols := 8, fmt := 0, valid := true }

theorem wit_TileHandles_talloc : (∃ t, At (tiled 8 tile) t ∧ once t = true ∧ t.b.hdr.handles ≤ (2 : BitVec 8).toNat) ∧
    (∃ t, At (tiled 0 {}) t ∧ once t = true ∧ (1 : BitVec 8).toNat < t.b.hdr.handles ∧
      ¬ mayAlloc (tiled 0 {}) t 1 { rows := 0, cols := 8, fmt := 4, since := t.i.cyc + 8 }) ∧
    (∃ t, At (tiled 8 tile) t ∧ once t = true ∧ (1 : BitVec 8).toNat < t.b.hdr.handles ∧
      (let d : Desc := { rows := 8, cols := 8, fmt := 4, since := t.i.cyc + 8 }
       decide (mayAlloc (tiled 8 tile) t 1 d) && decide (freeRun (tiled 8 tile) t d 1) && !decide (freeRun (tiled 8 tile) t d 0)) = true) :=
  ⟨at_of _ _ (by decide +kernel), at_of _ _ (by decide +kernel), at_of _ _ (by decide +kernel)⟩

theorem wit_TileHandles_tfree : (∃ t, At (tiled 8 tile) t ∧ once t = true ∧ t.b.hdr.handles ≤ (2 : BitVec 8).toNat) ∧
    (∃ t, At (tiled 8 {}) t ∧ once t = true ∧ (descOf (Say.core (tiled 8 {}) t.i.core) t.b 0).valid = false) ∧
    (∃ t, At (tiled 8 tile) t ∧ once t = true ∧ let d := descOf (Say.core (tiled 8 tile) t.i.core) t.b 0
      ¬ (t.b.hdr.handles ≤ 0 ∨ d.valid = false ∨ handleInUse (Say.core (tiled 8 tile) t.i.core) t.i.owner 0 = true ∨ d.land = true ∨
        ∃ x ∈ validHandles (Say.core (tiled 8 tile) t.i.core) t.b, x.2.scv = true ∧ x.2.scale = 0)) :=
  ⟨at_of _ _ (by decide +kernel), at_of _ _ (by decide +kernel), at_of _ _ (by decide +kernel)⟩

/-- The table of lengths in handle 0: none, all 64, and one more than there are. -/
def walking (nr : W32) (p : Bool) : State :=
  let s := onCore (issuing (fun b => { b with hdr := { b.hdr with handles := 2 } }) fun k => withUni k 1 nr) fun c => { c with tiles := [(0, tile)] }
  if p then { s with mem := s.mem.apply (.mark .ts 0) } else s

theorem wit_RowWalker : (∃ t, At (walking 64 false) t ∧ once t = true ∧ t.b.hdr.handles ≤ 2 ∧ (t.k.uni 1).toNat = 64) ∧
    (∃ t, At (walking 65 false) t ∧ once t = true ∧ (descOf (Say.core (walking 65 false) t.i.core) t.b 0).valid = true ∧
      8 * 8 < (t.k.uni 1).toNat) ∧
    (∃ t, At (walking 64 true) t ∧ once t = true ∧ (walking 64 true).mem.poisoned .ts (levelKey 0 t.i.core 0) 1 = true) ∧
    (∃ t, At (walking 64 false) t ∧ once t = true ∧ ∀ x, x < 0 + 64 * 4 → (walking 64 false).mem.poisoned .ts (levelKey 0 t.i.core x) 1 = false) :=
  ⟨at_of _ _ (by decide +kernel), at_of _ _ (by decide +kernel), at_of _ _ (by decide +kernel), at_of _ _ (by decide +kernel)⟩

/-- A string with the block's walker. -/
def walker : State := onCore bare fun c => { c with strs := [(0, { walker := { valid := true, owner := 0, nr := 1, lens := [5] } })] }

theorem wit_RowWalker_next : (∃ t, At walker t ∧ t.k.wb + 4 ≤ t.k.allotAt t.i.cyc ∧ ((Say.core walker t.i.core).str t.k.str).walker.valid = true ∧
      ((Say.core walker t.i.core).str t.k.str).walker.owner = t.i.owner) ∧
    (∃ t, At bare t ∧ t.k.wb + 4 ≤ t.k.allotAt t.i.cyc ∧ ((Say.core bare t.i.core).str t.k.str).walker.valid = false) :=
  ⟨at_of _ _ (by decide +kernel), at_of _ _ (by decide +kernel)⟩

/-! ### Handing over and waiting -/

/-- A block of one phaser in which course 0 signals and waits, its phase and that course's count, and its arrival. -/
def phased (ph wph : W32) (sig arr : LaneMask) : State :=
  issuing (fun b => { b with hdr := { b.hdr with phasers := 1 }, phasers := [(0, { phase := ph, sig := sig, arr := arr, wait := sig, wph := [(0, wph)] })] }) id

theorem wit_HandsOver_phasers : (∃ t, At (phased 1 0 3 0) t ∧ once t = true ∧ t.b.hdr.phasers ≤ (1 : BitVec 4).toNat ∧ (0 : BitVec 4).toNat < t.b.hdr.phasers ∧
      (phaser t 0).sig.getLsbD t.i.cr = true ∧ mustWait (phased 1 0 3 0) t (.phArrive 0) = none ∧ t.i.cr < 32 ∧ markMet (enter (phased 1 0 3 0)) t.i.core t.i.cyc
        (.performed t.seq .blk t.ids) = true ∧
      (phaser t 0).wait.getLsbD t.i.cr = true ∧ (((phaser t 0).wph.find t.i.cr).getD 0).toNat < (phaser t 0).phase.toNat) ∧
    (∃ t, At (phased 1 0 0 0) t ∧ once t = true ∧ (phaser t 0).sig.getLsbD t.i.cr = false ∧ (phaser t 0).wait.getLsbD t.i.cr = false) := by
  constructor
  · exact at_of _ _ (by unfold mustWait; decide +kernel)
  · exact at_of _ _ (by decide +kernel)

/-- A path with an access that is not yet performed. -/
def busy (s : State) : State := onCore s fun c => { c with
  seq := 3
  accs := [{
    id := 7, seq := 0, owner := 0, cr := 0, str := 0, path := 0, pathIx := 0, lane := 0, pc := 96, word := 0, kind := .store,
    space := .die, addr := 0, size := 4, cyc := 1030, due := 1030, home := 0 }] }

theorem wit_HandsOver_held : ∃ t, At (busy (phased 1 0 3 0)) t ∧ once t = true ∧ (phaser t 0).sig.getLsbD t.i.cr = true ∧ t.b.hdr.timed = false ∧
    markMet (enter (busy (phased 1 0 3 0))) t.i.core t.i.cyc (.performed t.seq .blk t.ids) = false := at_of _ _ (by decide +kernel)

theorem wit_HandsOver_key : (∃ t, At bare t ∧ once t = true ∧ t.b.key = t.i.cr) ∧
    (∃ t, At (issuing (fun b => { b with key := 3 }) id) t ∧ once t = true ∧ t.b.key ≠ t.i.cr) :=
  ⟨at_of _ _ (by decide +kernel), at_of _ _ (by decide +kernel)⟩

/-- An allotment of 512 words and one of 32, with a pool of 32. -/
def pooled (a : Nat) : State := issuing (fun b => { b with pools := [(0, 32)] }) fun k => { k with allot := a }

theorem wit_HandsOver_blocks : (∃ t, At (pooled 512) t ∧ once t = true ∧ 32 * (15 : BitVec 4).toNat + 32 ≤ t.k.allot ∧
      t.k.wb < t.k.allot - 32 * (15 : BitVec 4).toNat ∧ 512 < t.k.allot + 32 * (1 : BitVec 4).toNat) ∧
    (∃ t, At (pooled 32) t ∧ once t = true ∧ t.k.allot < 32 * (1 : BitVec 4).toNat + 32 ∧ t.k.allot + 32 * (1 : BitVec 4).toNat ≤ 512 ∧
      32 * (1 : BitVec 4).toNat ≤ (t.b.pools.find t.k.str).getD 0) := ⟨at_of _ _ (by decide +kernel), at_of _ _ (by decide +kernel)⟩

/-- A block of two tags; tag 0 is set; k0:k1 hold a mask. -/
def tagged (m : W32) : State :=
  onCore (issuing (fun b => { b with hdr := { b.hdr with tags := 2 } }) fun k => withUni k 0 m) fun c => { c with tags := 1 }

theorem wit_WaitsPass : (∃ t, At (tagged 4) t ∧ once t = true ∧ (t.k.uniPair 0).toNat / 2 ^ t.b.hdr.tags ≠ 0) ∧
    (∃ t, At (tagged 0) t ∧ once t = true ∧ t.k.uniPair 0 = 0 ∧ (t.k.uniPair 0).toNat / 2 ^ t.b.hdr.tags = 0) ∧
    (∃ t, At (tagged 1) t ∧ once t = true ∧ (die (tagged 1) (dieOf t.i.core)).recMode = 0 ∧
      t.k.uniPair 0 &&& blockTags (Say.core (tagged 1) t.i.core) t.b ≠ 0 ∧ t.k.uniPair 0 &&& ~~~blockTags (Say.core (tagged 1) t.i.core) t.b = 0) :=
  ⟨at_of _ _ (by decide +kernel), at_of _ _ (by decide +kernel), at_of _ _ (by decide +kernel)⟩

/-- A monitor of the issuing course has triggered. -/
def hit : State := { bare with mach := { bare.mach with dies := [(0, { mons := [{ granule := 0, core := 0, owner := 0, cr := 0, fab := false, trig := true }] })] } }

theorem wit_WaitsPass_monitor : (∃ t, At hit t ∧ once t = true ∧ monHit (enter hit) t.i.core t.i.owner t.i.cr = true) ∧
    (∃ t, At bare t ∧ once t = true ∧ monHit (enter bare) t.i.core t.i.owner t.i.cr = false ∧ t.k.uni 3 = 0) :=
  ⟨at_of _ _ (by decide +kernel), at_of _ _ (by decide +kernel)⟩

/-- Each of the eight instructions that can wait must wait somewhere. -/
theorem wit_WaitsWait :
    (∃ t, At (tagged 2) t ∧ once t = true ∧ mustWait (tagged 2) t (.twany 0) = some (.tagAny 2)) ∧
    (∃ t, At (tagged 3) t ∧ once t = true ∧ mustWait (tagged 3) t (.twall 0) = some (.tagAll 3)) ∧
    (∃ t, At (tagged 2) t ∧ once t = true ∧ mustWait (tagged 2) t (.twfirst 9 0) = some (.tagFirst 9 2)) ∧
    (∃ t, At (issuing id fun k => withUni k 3 5) t ∧ once t = true ∧
      mustWait (issuing id fun k => withUni k 3 5) t (.monWait 1 3) = some (.mon 1 (t.i.cyc + 5))) ∧
    (∃ t, At (issuing (fun b => { b with key := 3 }) id) t ∧ once t = true ∧
      mustWait (issuing (fun b => { b with key := 3 }) id) t .keyTake = some .key) ∧
    (∃ t, At (pooled 32) t ∧ once t = true ∧ mustWait (pooled 32) t (.rbClaim 2) = some (.claim 64)) ∧
    (∃ t, At (phased 1 1 3 1) t ∧ once t = true ∧ mustWait (phased 1 1 3 1) t (.phArrive 0) = some (.phArrive 0)) ∧
    (∃ t, At (phased 1 1 3 1) t ∧ once t = true ∧ mustWait (phased 1 1 3 1) t (.phWait 0) = some (.phWait 0)) := by
  refine ⟨?_, ?_, ?_, ?_, ?_, ?_, ?_, ?_⟩ <;> exact at_of _ _ (by unfold mustWait; decide +kernel)

/-! ### Engines and the debugger -/

/-- k24 holds the first word of a descriptor: TAG 1, TGV. -/
def commanding (w0 : W32) : State := issuing id fun k => withUni k 24 w0

theorem wit_EngineIssue : (∃ t, At (commanding 0x06000000) t ∧ once t = true ∧ refusal (commanding 0x06000000) t .launch 24 26 28 = none) ∧
    (∃ t, At (commanding 0) t ∧ once t = true ∧ refusal (commanding 0) t .launch 24 26 28 = some (0x01, 4, 0)) := by
  constructor <;> exact at_of _ _ (by unfold refusal; decide +kernel)

/-- A `tland` into handle 0, sent by core 1 of module 0, with room for it and without. -/
def arming (timed : Bool) (used : Nat) : State :=
  let s := onCore (issuing (if timed then timedBlock else id) fun k => withUni (withUni k 24 0x06000000) 25 4096) fun c =>
    { c with tiles := [(0, tile)], landUsed := used }
  { s with mach := { s.mach with mods := s.mach.mods.map fun x => (x.1, { x.2 with formed := true }) } }

theorem wit_EngineIssue_tland :
    (∃ t, At (arming false 65281) t ∧ once t = true ∧ refusal (arming false 65281) t .tland 24 26 28 = none ∧ t.b.hdr.timed = false) ∧
    (∃ t, At (arming true 65280) t ∧ once t = true ∧ refusal (arming true 65280) t .tland 24 26 28 = none ∧
      (Say.core (arming true 65280) t.i.core).landUsed + (descOf (Say.core (arming true 65280) t.i.core) t.b 0).bytes ≤ 65536) ∧
    (∃ t, At (arming true 65281) t ∧ once t = true ∧ refusal (arming true 65281) t .tland 24 26 28 = none ∧ t.b.hdr.timed = true ∧
      ¬ (Say.core (arming true 65281) t.i.core).landUsed + (descOf (Say.core (arming true 65281) t.i.core) t.b 0).bytes ≤ 65536) := by
  refine ⟨?_, ?_, ?_⟩ <;> exact at_of _ _ (by unfold refusal; decide +kernel)

/-- The module of the group with number 0. -/
def grouped : State := { bare with mach := { bare.mach with mods := bare.mach.mods.map fun x => (x.1, { x.2 with formed := true }) } }

theorem wit_PrivilegedIssue : (∃ t, At grouped t ∧ once t = true ∧ t.b.bind.priv = true ∧ moduleByNum grouped.mach 0 = some 0 ∧ moduleByNum grouped.mach 1 = none) ∧
    (∃ t, At disabled t ∧ once t = false ∧ t.b.bind.priv = true) := ⟨at_of _ _ (by decide +kernel), at_of _ _ (by decide +kernel)⟩

/-- The last core of the die, and one beyond it; a die without a mailbox. -/
theorem wit_PrivilegedIssue_debug : (∃ t, At (issuing id fun k => withUni k 3 (335 * 2 ^ 23)) t ∧ once t = true ∧ t.b.bind.priv = true ∧
      debugForm t (.dbgStep 3) = some (.step false, 335 * 2 ^ 23) ∧ (335 * 2 ^ 23 : W32).toNat / 2 ^ 23 < 336 ∧
      (die (issuing id fun k => withUni k 3 (335 * 2 ^ 23)) (dieOf t.i.core)).mbox = none) ∧
    (∃ t, At (issuing id fun k => withUni k 3 (336 * 2 ^ 23)) t ∧ once t = true ∧ t.b.bind.priv = true ∧
      debugForm t (.dbgStep 3) = some (.step false, 336 * 2 ^ 23) ∧ 336 ≤ (336 * 2 ^ 23 : W32).toNat / 2 ^ 23) :=
  ⟨at_of _ _ (by decide +kernel), at_of _ _ (by decide +kernel)⟩

/-! ### Events -/

/-- A machine whose sash 1 is as given, with a hold in quadrant 0. -/
def sashed (f : Sash → Sash) : State :=
  { bare with mach := { bare.mach with
      sashes := bare.mach.sashes.map fun x => (x.1, f x.2), dies := [(0, { quads := [(0, { hold := 100 })] })] } }

theorem wit_SashEvents : (match sash (sashed id) 1 with
      | some x => decide ((die (sashed id) x.die).recMode = 0) && !x.paused && decide (sashHold (enter (sashed id)) x ≠ 0)
      | none => false) = true ∧
    (∀ r ∈ [none, some 7], (match sash (sashed fun x => { x with paused := true, resume := r }) 1 with
      | some x => x.paused && !sashHeld (enter (sashed fun x => { x with paused := true, resume := r })) x && decide (x.resume = r)
      | none => false) = true) := by decide +kernel

/-- A sash that stands for a throttle run. -/
theorem wit_SashEvents_run : let f := fun (x : Sash) => { x with paused := true, causes := [{ p := x.vcc, src := .throttle 40 }], stopGcc := 0 }
    (match sash (sashed f) 1 with
      | some x => x.paused && decide (x.causes = [{ p := x.vcc, src := .throttle 40 }]) && decide (sashHold (enter (sashed f)) x ≠ 0) &&
          decide ((module (sashed f) (x.die / 4)).gcc + 32 ≤ x.stopGcc + 40 + 24)
      | none => false) = true := by decide +kernel

/-- A module with a port, a message to come out, and two drift commands that have arrived. -/
def moduled (set : Bool) : State := { State.reset with mach := { State.reset.mach with
  clock := 9, mods := [(0, { ports := [(3, {})], outq := [[1, 2]], h2dBusy := 10, imgStat := if set then 0 else 4, drifts := [{ set := set, value := 300, due := 8 }] })] } }

theorem wit_ModuleEvents : ∀ b ∈ [false, true], ((arrivedDrift (enter (moduled b)) 0).map DriftCmd.set = some b ∧
    (module (moduled b) 0).ports.find 3 = some {} ∧ (module (moduled b) 0).outq = [[1, 2]] ∧ 9 < (module (moduled b) 0).h2dBusy ∧
    (module (moduled b) 0).facceptSet = false ∧ (module (moduled b) 0).imgStat = (if b then 0 else 4) ∧ (module State.reset 0).outq = []) := by decide +kernel

/-- A die with a walk that waits in a request slot: without a table base. -/
def walked : State := { State.reset with mach := { State.reset.mach with
  dies := [(0, { walks := [{ wid := 1, off := 0, va := 0, use := .read, due := 0, slot := some 0 }], reqs := [(0, { gcc := 0, use := .read, level := 1, va := 0, wid := 1 })] })] } }

theorem wit_DieEvents : (walkOut (enter walked) 0 0 = .bad 0x03 ∧ (die walked 0).walks.map Walk.wid = [1] ∧ ((die walked 0).reqs.find 0).isSome = true ∧
    (die walked 0).busy = none ∧ 8 * 0 / Config.dramSpan = 0) := by decide +kernel

/-- The same die with tables at 0, 0x8000 and 0x1000. -/
def mapped : State :=
  let m := ((State.reset.mem.apply (.bytes .dram 0 [0, 0x80, 0, 0, 0, 0, 0, 0x80])).apply (.bytes .dram 0x8000 [0, 0x10, 0, 0, 0, 0, 0, 0x80])).apply
    (.bytes .dram 0x1000 [0, 0x40, 0, 0, 0, 0, 0, 0x84])
  { walked with mem := m, mach := { walked.mach with dies := walked.mach.dies.map fun x => (x.1, { x.2 with tbase := 1 }) } }

theorem wit_DieEvents_leaf : ∃ l, walkOut (enter mapped) 0 0 = .leaf l :=
  ⟨{ base := 0, large := false, pte := 0x8400000000004000, epoch := 0 }, by decide +kernel⟩

/-- A path of course 0 that waits for a monitor, or for the key it holds; one with a trap to take, a breakpoint, a hold. -/
def pathed (st : PathSt) (tr : Option Bool) (hold : Bool) (bp : Bool) : State :=
  onCore (issuing (fun b => { b with hdr := { b.hdr with traph := true } })
      fun k => { k with shutter := tr, slot0 := k.slot0.map fun p => { p with st := st, holdReq := hold } }) fun c =>
    { c with bps := if bp then [(0, { pc := pcWord 96, owner := 0 })] else [] }

theorem wit_PathEvents : (match block (pathed .ready (some true) true true) 0 0, course (pathed .ready (some true) true true) 0 0 0 with
    | some b, some k => (match k.path? 0 with
      | some p => k.pendingTrap.isSome && k.handler.isNone && b.hdr.traph && decide (k.live ≠ 0) &&
          (matchBp (Say.core (pathed .ready (some true) true true) 0) 0 p).isSome && !b.hdr.timed && !p.stopNext && p.holdReq
      | none => false)
    | _, _ => false) = true := by decide +kernel

theorem wit_PathEvents_waits : (∀ st ∈ [PathSt.waiting (.mon 1 9), .waiting .key],
    (match block (pathed st none false false) 0 0, course (pathed st none false false) 0 0 0 with
    | some b, some k => decide ((k.path? 0).map Path.st = some st) && decide (b.key = k.cr) && decide (b.pends = [])
    | _, _ => false) = true) := by decide +kernel

/-- The write half of a tile atomic is due. -/
theorem wit_PathEvents_atomic : let s := onCore bare fun c => { c with accs := [{
      id := 7, seq := 0, owner := 0, cr := 0, str := 0, path := 0, pathIx := 0, lane := 0, pc := 96, word := 0, kind := .tread .add 0, space := .ts,
      addr := 4, size := 4, data := 0x01020304, cyc := 1024, due := 1024, home := 0, logged := true }] }
    (match (Say.core s 0).accs.find? fun a => decide (a.id = 7) with
      | some a => decide (a.done = none) && a.logged && decide (a.space = .ts)
      | none => false) = true := by decide +kernel

/-! ### Events -/

/-- A command of an engine, of the course at the issue port, on handles 2 to 0. -/
def order (op : CmdOp) : Cmd := {
  id := 4, seq := 2, owner := 0, cr := 0, str := 0, path := 0, pathIx := 0, mask := 0xFFFFFFFF, pc := 96, word := 0, op := op, tag := 1, tgv := true
  acq := false, rel := false, sc := .blk, xp := 0, phv := false, ph := 0, in0 := 0, in0v := false, w1 := 7, start := 1060, mxv := false, mxp := 0
  fv := false, fid := 0, side := false, hz := 2, hy := 1, hx := 0, nrows := 0, row0 := 0, addr := 0, w6 := 0, w7 := 0, kd := 24, pv := false, issue := 1000 }

/-- A block with four handles and such a command; three handles hold tiles, the first two in the tile store. -/
def ordered (op : CmdOp) (f : Cmd → Cmd) (g : Core → Core) : State :=
  onCore (issuing (fun b => { b with hdr := { b.hdr with handles := 4, tags := 4, tsb := 4096, acc := 4 } }) id) fun c => g { c with
    tiles := [(0, { rows := 4, cols := 4, fmt := 4, valid := true }), (1, { rows := 4, cols := 4, fmt := 4, base := 16, valid := true }),
      (2, { rows := 4, cols := 4, fmt := 4, level := 1, valid := true })]
    cmds := [f (order op)], nextId := 50, tags := 1 }

/-- One beat of it. -/
def beat : Beat := { id := 9, cmd := 4, no := 1, t := 1024, rd := 1024, wr := 1032 }

/-- The same machine in a time group of its own. -/
def inGroup (s : State) : State := { s with mach := { s.mach with mods := s.mach.mods.map fun x => (x.1, { x.2 with formed := true }) } }

theorem wit_EngineEvents_start : ∀ op ∈ [CmdOp.mx .f32, .launch, .tt, .acc (.det .rne), .fill, .drain],
    (match (Say.core (ordered op id id) 0).cmds with
    | [y] => (match block (ordered op id id) 0 y.owner with
      | some b => decide (y.s = none) && !y.in0v && decide (y.op = op) &&
          (match op with | .mx _ => true | .launch => true | _ => decide (beatCount (Say.core (ordered op id id) 0) b y ≠ 0))
      | none => false)
    | _ => false) = true := by decide +kernel

/-- A message that has come, and the arm that awaits it. -/
def message : Msg := { id := 6, sender := 3, hnum := 1, stamp := 24, cancel := false, data := (List.range 64).map fun i => BitVec.ofNat 8 (i + 1), due := 0, arrived := some 1000 }
def armed (ms : List Msg) : State := ordered .tland id fun c => { c with
  msgs := ms, arms := [{ id := 8, cmd := 4, owner := 0, hnum := 1, sender := 3, stamp := 24, size := 64, issue := 1000 }] }

/-- A machine whose die 0 maps its first 8 MiB by large pages for reading and writing; the root's RCB limits nothing. -/
def paged (policy : Nat) (s : State) : State :=
  let leaf := fun (n : Nat) => [0, 0, BitVec.ofNat 8 (16 * n), 0, 0, 0, 0, 0x8C]
  let m := (((s.mem.apply (.bytes .dram 0 [0, 0x80, 0, 0, 0, 0, 0, 0x80])).apply (.bytes .dram 0x8000 [0, 0x10, 0, 0, 0, 0, 0, 0xC0])).apply
    (.bytes .dram 0x1000 ((List.range 8).flatMap leaf))).apply (.bytes .dram 0x9028 (leBytes 4 policy ++ List.replicate 28 0xFF))
  { s with mem := m, mach := { s.mach with dies := [(0, { tbase := 1 })] } }

/-- A block with little state, changed. -/
def small (f : Block → Block) : State :=
  issuing (fun b => f { b with hdr := { b.hdr with tsb := 512, trn := 0, acc := 1, handles := 4, phasers := 0, tags := 4, part := 0 } }) id

/-- A launch of that block. -/
def launch : Launch := {
  lid := 1, die := 0, rcb := 0x9000, recAt := 0x9800, part := 0, hdrAt := 0, hdr := bareHdr, grid := 4, nparam := 0, param := 0, start := 0
  preds := [], place := 0, dv := none, bseed := 0, state := 2, round := 0, bound := 1, priv := true }

/-- It is live on a module of one partition. -/
def launched (s : State) (f : Launch → Launch) : State :=
  let g := fun (x : Module) => { x with parts := some [0, 0, 0, 0], roots := [(0, { rcb := 0x9000, priv := true })], launches := [f launch] }
  { s with mach := { s.mach with mods := s.mach.mods.map fun x => (x.1, g x.2) } }

/-- Core 0 with a record of a fault in its queue, and a pause for it. -/
def faulted (policy : Nat) (f : FaultRec → FaultRec) : State :=
  let s := onCore (launched (small fun b => { b with bind := { b.bind with rcb := 0x9000 } }) id) fun c => { c with faults := [f { code := 2, owner := 0, vcc := 1024, lid := 1 }] }
  paged policy { s with mach := { s.mach with sashes := s.mach.sashes.map fun x => (x.1, x.2.cause 1024 (.fault 0)) } }

/-- The path of course 0 waits for its next clause, which has come over a page for execution. -/
def codePage : Leaf := { base := 0, large := true, pte := 0x9400000000000000, epoch := 0 }
def fetching : State := issuing id fun k => { k with slot0 := k.slot0.map fun p => { p with pc := 99, fetch := .coming codePage 0 } }

/-- An access of a lane of the block. -/
def access : Access := {
  id := 7, seq := 0, owner := 0, cr := 0, str := 0, path := 0, pathIx := 0, lane := 3, pc := 96, word := 0, kind := .load, space := .die
  addr := 0x2000, size := 4, cyc := 1030, due := 1040, home := 0, dst := .reg 5 }
def accessing (f : Access → Access) (g : Core → Core) : State := onCore bare fun c => g { c with accs := [f access], nextId := 20 }

/-- Two modules with a trained port between them; the first is the master of a group that has formed. -/
def linked (lost : Bool) : State :=
  let a : Module := { facceptSet := true, master := true, formed := true, ports := [(3, { peer := 1, peerPort := 2, trained := true, lost := lost })] }
  let b : Module := {
    num := 1, formed := true, gcc := 77, report := 0x2000, maxabs := 9, alarm := true
    ports := [(2, { peer := 0, peerPort := 3, trained := true, lat := 512 })] }
  { bare with mach := { bare.mach with mods := [(0, a), (1, b)], routes := [{ src := 1, dst := 0, sum := 300, ports := [(1, 2), (0, 3)] }] } }

/-- A debug command at its target, core 0, from a course of core 1 on the same die; and that die's mailbox. -/
def debugging (op : DbgOp) (owner : Nat) : State :=
  let s := onCore bare fun c => { c with dbg := [{ id := 2, due := 0, op := op, target := BitVec.ofNat 32 (owner * 2 ^ 17), src := 0, srcOwner := 0, srcCr := 0, str := 0 }] }
  { s with mach := { s.mach with dies := [(0, { mbox := some 0x4000 })] } }

/-- A profile of string 0 whose instruction is over. -/
def profile : Sample := { str := 0, seq := 3, owner := 0, cr := 0, path := 0, mask := 0xF, pc := 96, word := 0xE0, issue := 1000, fetch := 990 }
def profiled (n : Nat) : State := onCore (debugging .free 0) fun c => { c with samples := [profile], samp := n }

/-! The hypotheses of every clause of the events, each met by one of these machines. -/

/-- The first block, the first course and the first command of core 0. -/
def inBlock (s : State) (P : Block → Bool) : Bool := match block s 0 0 with
  | some b => P b
  | none => false
def inCourse (s : State) (P : Course → Bool) : Bool := match course s 0 0 0 with
  | some k => P k
  | none => false
def inCmd (s : State) (P : Cmd → Block → Bool) : Bool := match (Say.core s 0).cmds with
  | [y] => inBlock s (P y)
  | _ => false
def inSash (s : State) (P : Sash → Bool) : Bool := match (Say.core s 0).sash with
  | some i => (match sash s i with
    | some x => P x
    | none => false)
  | none => false

def moving (f : Cmd → Cmd) (bs : List Beat) : State :=
  ordered .tt (fun y => f { y with s := some 1000, st := .started, beats := 3 }) fun c => { c with beats := bs }

theorem wit_EngineEvents_beats :
    (inCmd (moving id []) (fun y _ => decide (queueHead (enter (moving id [])) 0 0 = some y)) &&
     inCmd (moving id [beat]) (fun y b => decide (y.op = .tt) && decide (y.xp = 0) && decide (beat.no < beatCount (Say.core (moving id [beat]) 0) b y) &&
       decide (beat.data = none) && !beat.away && !beat.late && decide ((Say.core (moving id [beat]) 0).watches = [])) &&
     inCmd (moving id [beat]) (fun y b => !y.phv && decide (y.landed + 1 < beatCount (Say.core (moving id [beat]) 0) b y) &&
       decide (beat.fin = none) && !beat.sent && decide (beat.bad = []) && decide (0 < (stretch (Say.core (moving id [beat]) 0) b y 1).2.2))) = true := by
  decide +kernel

theorem wit_EngineEvents_matrix : let s := ordered (.mx .f32) (fun y => { y with s := some 1000, st := .away, hx := 2, hy := 0, hz := 1 }) fun c => {
      c with arr := { runs := [{ cmd := 4, s := 1000 }] } }
    (inCmd s (fun _ _ => true) && decide (s.mem.poison = []) && (((Say.core s 0).arr.runs.find? fun r => decide (r.cmd = 4)).isSome)) = true := by decide +kernel

def sending : State := inGroup (ordered .tsend (fun y => { y with addr := 1 }) id)

theorem wit_MessageEvents_send :
    (inCmd sending (fun y _ => decide (destCore (enter sending) 0 y = some 1) && !y.in0v && !creditHeld (enter sending) 0 y) && inSash sending (fun _ => true) &&
     decide ((Say.core sending 0).watches = [] ∧ (Say.core sending 0).undo.1 ≠ vcc sending 0) &&
     (let s := onCore sending fun c => { c with credits := [{ id := 3, recv := 1, hnum := 1, stamp := 7 + coreLat (enter sending) 0 1, due := 0, held := true }] }
      inCmd s fun y _ => creditHeld (enter s) 0 y)) = true := by decide +kernel

theorem wit_MessageEvents_landing :
    ((match (Say.core (armed [message]) 0).arms with
      | [a] => decide (matchOf (Say.core (armed [message]) 0) a = some message) && decide (message.data.length = a.size) && !message.cancel &&
          inCmd (armed [message]) fun y _ => decide (y.id = a.cmd) && decide (a.owner = y.owner)
      | _ => false) &&
     (match (Say.core (armed []) 0).arms with
      | [a] => decide (matchOf (Say.core (armed []) 0) a = none) && inSash (armed []) fun _ => true
      | _ => false)) = true := by decide +kernel

def unstarted (f : Block → Block) : State := small fun b => f { b with started := false }

theorem wit_BlockEvents_start :
    (inBlock (unstarted id) (fun b => !b.started && !b.hdr.timed && decide (0 < b.hdr.courses) && decide (b.bind.tagb + b.hdr.tags ≤ 64)) &&
     (List.all [1024, 1000] fun n => inBlock (unstarted fun b => { timedBlock b with bind := { b.bind with start := n } }) fun b => b.hdr.timed && !b.started &&
       decide (b.bind.start ≤ vcc (unstarted id) 0)) && decide (vcc (unstarted id) 0 = 1024) && decide (launchOf (enter (unstarted id)) 0 1 = none)) = true := by
  decide +kernel

/-- A staged write of the block; a block that is cut, ready to be saved; and the machine after it. -/
def stagedWrite : Staged := { cyc := 1010, str := 0, lane := 3, seq := 1, home := 0, st := .dram, key := dramKey 0 0x2000, data := [7, 8, 9], off := 0x2000 }
def cut : State :=
  paged 0x300000 (launched (small fun b => { b with preempt := .cut 1024, bind := { b.bind with ctx := 0x100000, rcb := 0x9000 } }) id)
def saved : State :=
  let v : Option Saved := (block cut 0 0).map fun b => {
    die := 0, core := 0, lid := b.bind.lid, block := { b with preempt := .none }, courses := [], flights := [], results := [], accs := [], tiles := [], tags := 0
    walkers := [], p := 1024 }
  let s := onCore cut fun c => { c with blocks := [], courses := [], slots := [], sash := none }
  { s with mach := { s.mach with sashes := [], mods := s.mach.mods.map fun x => (x.1, { x.2 with saved := v.toList }) } }

theorem wit_BlockEvents :
    (inBlock (issuing (fun b => { b with staged := [stagedWrite], preempt := .asked }) id) (fun b => decide (b.staged = [stagedWrite]) && !b.spent &&
       decide (stagedWrite.atom = none) && !crosses b 0 .fab stagedWrite.home && decide (pageGate stagedWrite.pages .write stagedWrite.pv = .clear) &&
       decide (b.preempt = .asked)) &&
     decide ((die bare 0).recMode = 0)) = true := by decide +kernel

theorem leafSlot_large {w : World} {d off a : Nat} (h : leafSlot w d (off / 2 ^ 20 * 2 ^ 20) = .ok (a, true)) : leafSlot w d off = .ok (a, true) := by
  have h1 : off / 2 ^ 20 * 2 ^ 20 / 2 ^ 35 = off / 2 ^ 35 := by omega
  have h2 : off / 2 ^ 20 * 2 ^ 20 / 2 ^ 23 = off / 2 ^ 23 := by omega
  have h3 : off / 2 ^ 20 * 2 ^ 20 / 2 ^ 20 = off / 2 ^ 20 := by omega
  unfold leafSlot l1Offset at h ⊢
  rw [h1] at h
  dsimp only at h ⊢
  split at h
  · cases h
  · rename_i e0
    rw [if_neg e0]
    split at h
    · cases h
    · rename_i e1 he1
      split at h
      · cases h
      · rename_i e2
        rw [if_neg e2]
        unfold l2Offset at h ⊢
        rw [h2] at h
        split at h
        · cases h
        · split at h
          · cases h
          · split at h
            · rename_i e4 e5
              rw [if_neg e4, if_pos e5]
              rw [h3] at h
              exact h
            · cases h

theorem leafSlot_error (w : World) (d off : Nat) (l : Leaf) : leafSlot w d off ≠ .error (.leaf l) := by
  intro h
  unfold leafSlot at h
  dsimp only at h
  split at h
  · cases h
  · split at h
    · cases h
    · split at h
      · cases h
      · split at h
        · cases h
        · split at h
          · cases h
          · split at h <;> cases h

/-- A large page is one leaf. -/
theorem walk_large {w : World} {d off : Nat} {l : Leaf} (h : walkOut w d (off / 2 ^ 20 * 2 ^ 20) = .leaf l) (hl : l.large = true) :
    walkOut w d off = .leaf l := by
  unfold walkOut at h ⊢
  split at h
  · rename_i r hr
    rw [h] at hr
    exact absurd hr (leafSlot_error _ _ _ _)
  · rename_i a large he
    have hb : large = true := by
      split at h
      · cases h
      · split at h
        · cases h
        · dsimp only at h
          split at h <;> cases h
          exact hl
    subst hb
    rw [leafSlot_large he]
    have e : off / 2 ^ 20 * 2 ^ 20 / pageBytes true * pageBytes true = off / pageBytes true * pageBytes true := by
      simp only [pageBytes, if_true]; omega
    rw [e] at h
    exact h


/-- The large pages under a stretch are there for its traffic. -/
def areaOk (w : World) (d off n : Nat) (write : Bool) : Bool :=
  (List.range ((off + n) / 2 ^ 20 + 1)).all fun k => decide ((k + 1) * 2 ^ 20 ≤ off) ||
    match walkOut w d (k * 2 ^ 20) with
    | .leaf l => l.large && !l.refuses (if write then .write else .read) true true
    | _ => false

theorem area_page {w : World} {d off n i : Nat} {write : Bool} (h : areaOk w d off n write = true)
    (hi : i < (off + n + 2 ^ 14 - 1) / 2 ^ 14 - off / 2 ^ 14) :
    ∃ l, walkOut w d ((off / 2 ^ 14 + i) * 2 ^ 14) = .leaf l ∧ l.refuses (if write then .write else .read) true true = false := by
  simp only [areaOk, List.all_eq_true, List.mem_range, Bool.or_eq_true, decide_eq_true_eq] at h
  rcases h ((off / 2 ^ 14 + i) * 2 ^ 14 / 2 ^ 20) (by omega) with hk | hk
  · omega
  · split at hk
    · next l hw =>
      simp only [Bool.and_eq_true, Bool.not_eq_true'] at hk
      exact ⟨l, walk_large hw hk.1, hk.2⟩
    · cases hk

theorem area_clear {w : World} {d off n : Nat} {write : Bool} (h : areaOk w d off n write = true) :
    absentPages w d off n = [] ∧ ctxRefused w d off n write = false := by
  constructor
  · rw [absentPages, List.filter_eq_nil_iff]
    simp only [List.mem_map, List.mem_range]
    rintro _ ⟨i, hi, rfl⟩
    obtain ⟨l, hw, -⟩ := area_page h hi
    rw [hw]; exact Bool.false_ne_true
  · rw [ctxRefused, List.any_eq_false]
    simp only [List.mem_range]
    intro i hi
    obtain ⟨l, hw, hr⟩ := area_page h hi
    rw [hw]; dsimp only; rw [hr]; exact Bool.false_ne_true

theorem inBlock_mono {s : State} {f g : Block → Bool} (h : inBlock s f = true) (hfg : ∀ b, f b = true → g b = true) : inBlock s g = true := by
  unfold inBlock at h ⊢
  split at h <;> simp_all

theorem wit_BlockEvents_save : inBlock cut (fun b => (launchOf (enter cut) 0 b.bind.lid).isSome && decide (b.preempt = .cut 1024) &&
    decide (absentPages (enter cut) 0 b.bind.ctx (ctxMap b.hdr).lane = []) && !ctxRefused (enter cut) 0 b.bind.ctx (ctxMap b.hdr).lane true) = true := by
  have h : inBlock cut (fun b => (launchOf (enter cut) 0 b.bind.lid).isSome && decide (b.preempt = .cut 1024) &&
    areaOk (enter cut) 0 b.bind.ctx (ctxMap b.hdr).lane true) = true := by decide +kernel
  refine inBlock_mono h fun b hb => ?_
  simp only [Bool.and_eq_true] at hb
  simp [hb.1, area_clear hb.2]

theorem wit_BlockEvents_restore : (match (module saved 0).saved, (module saved 0).launches with
    | [v], [l] => (restorePlace (enter saved) l v).isSome && decide (l.lid = v.lid) && (partOf (enter saved) v.die == some l.part) &&
        decide (absentPages (enter saved) v.die v.block.bind.ctx (ctxMap v.block.hdr).lane = []) &&
        !ctxRefused (enter saved) v.die v.block.bind.ctx (ctxMap v.block.hdr).lane false
    | _, _ => false) = true := by
  have h : (match (module saved 0).saved, (module saved 0).launches with
    | [v], [l] => (restorePlace (enter saved) l v).isSome && decide (l.lid = v.lid) && (partOf (enter saved) v.die == some l.part) &&
        areaOk (enter saved) v.die v.block.bind.ctx (ctxMap v.block.hdr).lane false
    | _, _ => false) = true := by decide +kernel
  revert h
  generalize (module saved 0).saved = a
  generalize (module saved 0).launches = b
  intro h
  split at h
  · simp only [Bool.and_eq_true] at h
    simp [h.1, area_clear h.2]
  · cases h

theorem wit_ManagementEvents :
    ((let s := paged 0x300000 (launched (small id) id)
      decide (leadDie (enter s) 0 0 = some 0) && ((module s 0).roots.find 0).isSome) &&
     (let s := launched (ordered .launch id id) id
      let s : State := { s with mach := { s.mach with mods := s.mach.mods.map fun x => (x.1, { x.2 with devs := [{ core := 0, cid := 4, due := 0, status := some 0x77 }] }) } }
      inCmd s (fun y _ => decide (y.id = 4) && decide ((module s 0).devs.map (fun z => (z.core, z.cid, z.status)) = [(0, y.id, some 0x77)]))) &&
     (let s := launched (issuing timedBlock id) id
      let x : Sash := { num := 1, die := 0, cores := [0], vcc := 1024, timed := some 1 }
      let s : State := { s with mach := { s.mach with sashes := [(1, x)] } }
      (launchOf (enter s) 0 1).isSome)) = true := by decide +kernel

/-- Policies 0 to 3, ignored, retried and killed (3 is reserved), with the fault at its cut (R327, R328). -/
theorem wit_ManagementEvents_faults : (List.range 4).all (fun p =>
    let s := faulted (0x300000 + p * 2 ^ 26 + 3 * 2 ^ 22) fun f => { f with cut := true }
    inBlock s fun b => (launchOf (enter s) 0 b.bind.lid).isSome && decide ((Say.core s 0).passed = []) && decide ((Say.core s 0).faults.map FaultRec.owner = [0]) &&
      let q := policyAt (enter s) 0 (pathOf (enter s) 0 b.bind.rcb)
      decide (q.2 = min p 2) && decide (b.retries < retryOf (enter s) 0 (pathOf (enter s) 0 q.1))) = true := by decide +kernel

/-- A fault of lanes, whose work an ignored fault still does. -/
theorem wit_ManagementEvents_lanes : (match (Say.core (after (.add 4 1 2 false .w32) bare) 0).flights with
    | [g] => (let s := faulted 0x300000 fun f => { f with work := .lanes g, mask := 0x10 }
      (match (Say.core s 0).faults with
      | [f] => !f.cut && decide (f.work = .lanes g) && decide (g.form.op = .alu (.add .w32)) && decide (g.form.dst = .reg 4)
      | _ => false))
    | _ => false) = true := by decide +kernel

theorem wit_MemoryEvents_fetch : inCourse fetching (fun k => (match k.path? 0 with
    | some p => !p.atHand && decide (p.fetch = .coming codePage 0) && codePage.covers (16 * (p.pc / 3)) && inSash fetching (fun x => !x.paused) &&
        (let a := codePage.place 0 (16 * (p.pc / 3)); !fetching.mem.poisoned a.1 a.2 16)
    | none => false)) = true := by decide +kernel

theorem wit_MemoryEvents_access : let s := accessing (fun a => { a with xl := .wait 0 5 }) id
    ((match (Say.core s 0).accs with
      | [a] => a.unsure (enter s) 0 && decide (ticketAsks (enter s) 0 (Say.core s 0) = none) && inSash s fun x => !x.paused && decide (x.causes = [])
      | _ => false) &&
     (let h := accessing (fun a => { a with space := .host }) id
      (match (Say.core h 0).accs with
      | [a] => decide (a.marks = []) && decide (a.kind = .load) && decide ((die h 0).recMode = 0) && inBlock h fun _ => true
      | _ => false))) = true := by decide +kernel

/-- A page that reads and writes, and a crossing write that waits at its home. -/
def openPage : Leaf := { base := 0, large := true, pte := 0x8C00000000000000, epoch := 0 }
def crossing : State := { bare with mach := { bare.mach with dies := [(0, {
  heldW := [{ id := 3, src := 1, clk := [], mat := [], core := 336, owner := 0, aid := 9, cyc := 1000, due := 0, pieces := [(0x2000, [5, 6, 7], [])]
              pages := [(0, 0x2000, .ok openPage)], use := .write, pv := false }]
  walks := [{ wid := 5, off := 0x2000, va := 0x2000, use := .read, due := 0, found := some openPage }], busy := some (0, 0) })] } }

theorem wit_MemoryEvents_home : (match (die crossing 0).heldW, (die crossing 0).walks with
    | [h], [k] => decide (pageGate h.pages h.use h.pv = .clear) && decide ((Say.core crossing 336).beats = []) && decide ((Say.core crossing 336).accs = []) &&
        decide (k.found = some openPage) && !openPage.host && (die crossing 0).busy.isSome && decide ((die crossing 0).recMode = 0) &&
        crossing.mach.cores.all fun x => decide (x.2.ctxs = [])
    | _, _ => false) = true := by decide +kernel

/-- A recording core whose chunk's commit is asked for. -/
def recording (at_ : Option Nat) : State :=
  let s := onCore bare fun c => { c with chunk := some { start := 1000, asked := at_ } }
  { s with mach := { s.mach with dies := [(0, { recMode := 1 })], sashes := s.mach.sashes.map fun x => (x.1, { x.2 with paused := true, causes := [{ p := 1024, src := .chunk 0 }] }) } }

theorem wit_MemoryEvents_chunk : [none, some 0].all (fun a => inSash (recording a) fun x => x.paused && x.causes.any (fun y => decide (y.src = .chunk 0 ∧ y.p ≤ x.vcc)) &&
    decide ((die (recording a) 0).recMode = 1) && decide (1000 < vcc (recording a) 0)) = true := by decide +kernel

theorem wit_PowerEvents :
    ((match (module (linked false) 1).ports.find 2, (module (linked false) 0).ports.find 3 with
      | some y, some z => y.trained && !y.lost && !z.lost && decide (y.flits = []) && decide (y.peer = 0 ∧ y.peerPort = 3)
      | _, _ => false) &&
     decide ((groupMaster (linked true).mach).map Prod.fst = some 0) && !routeUp (enter (linked true)) 1 0 && routeUp (enter (linked false)) 1 0 &&
     decide ((module (linked true) 1).reports = []) && decide (groupMaster bare.mach = none ∨ (groupMaster bare.mach).isSome = true) &&
     (placeNow (enter (paged 0 (linked false))) 0 0x2020).isSome &&
     (let s : State := { bare with mach := { bare.mach with dies := [(0, { quads := [(2, { used := 55, raise := some (2, 0) })] })] } }
      decide ((((die s 0).quad 2).raise) = some (2, 0)) && s.mach.cores.all fun x => decide (x.2.accs = [] ∧ x.2.beats = []))) = true := by decide +kernel

theorem wit_PowerEvents_shutter : [0, 128].all (fun feat =>
    let s := issuing (fun b => { b with hdr := { b.hdr with traph := true, feat := feat } }) id
    inBlock s (fun b => b.hdr.traph && !b.hdr.timed && decide (b.hdr.feat / 2 ^ 7 % 2 = feat / 128)) && inSash s (fun _ => true) &&
      (match firstCourse (enter s) 0 0 with
      | some k => decide (k.owner = 0)
      | none => false)) = true := by decide +kernel

/-- A module's host registers. -/
def hosted (f : Module → Module) : State := { bare with mach := { bare.mach with mods := [(0, f { imgStat := 5, facceptSet := true, h2dBusy := 0 })] } }

theorem wit_HostMessages : [hosted id, hosted fun x => { x with imgStat := 3 }, hosted fun x => { x with facceptSet := false },
    hosted fun x => { x with parts := some [0, 1, 1, 0] }].all (fun s => !(module s 0).busy s.mach.clock) = true := by decide +kernel

/-- Die 0 maps the page of one offset by the upper entries that the walkers keep, and both words there are 1. -/
def pageEntry : W64 := 0x8C00000000800000
def leaves : Memory := (launched bare id).mem.apply (.bytes .dram 0x1000 ((List.range 8).flatMap fun _ => leBytes 8 pageEntry.toNat))
def mailed (off : Nat) (qs : List (Nat × Nat × Nat) := []) : State :=
  let s := launched bare id
  { s with
    mem := leaves.putBytes .dram (2 ^ 23 + off % 2 ^ 20) [1, 0, 0, 0, 1, 0, 0, 0]
    mach := { s.mach with mods := s.mach.mods.map fun x => (x.1, { x.2 with faccept := 0, quotes := qs }), dies := [(0, { tbase := 1, dirs := [(8 * (off / 2 ^ 35 % 2 ^ 11), 0x8000000000008000), (2 ^ 15 + 8 * (off / 2 ^ 23 % 2 ^ 12), 0xC000000000001000)] })] } }

theorem poison_putBytes (m : Memory) (st : Store) (a : Nat) (l : List Byte) : (m.putBytes st a l).poison = m.poison := by
  induction l generalizing m a with
  | nil => rfl
  | cons b r ih => rw [Memory.putBytes, ih]; cases st <;> rfl

theorem poisoned_nil {m : Memory} (h : m.poison = []) (st : Store) (a n : Nat) : m.poisoned st a n = false := by
  simp [Memory.poisoned, h, Tab.get, Tab.find]

theorem mailed_entry (off : Nat) (qs : List (Nat × Nat × Nat)) (i : Nat) (h : i < 8) : tableEntry (enter (mailed off qs)) 0 (0x1000 + 8 * i) = .ok pageEntry := by
  have hb : (mailed off qs).mem.bytes .dram (dramKey 0 (0x1000 + 8 * i)) 8 = leaves.bytes .dram (dramKey 0 (0x1000 + 8 * i)) 8 := by
    refine List.map_congr_left fun j hj => byte_putBytes_other _ _ (.inr (.inl ?_))
    simp only [List.mem_range] at hj
    simp only [dramKey]
    omega
  have hp : (mailed off qs).mem.poisoned .dram (dramKey 0 (0x1000 + 8 * i)) 8 = false :=
    poisoned_nil ((poison_putBytes _ _ _ _).trans (by decide +kernel)) _ _ _
  rw [tableEntry, if_neg (by simp only [Config.dieDram]; omega)]
  change (if (mailed off qs).mem.poisoned .dram (dramKey 0 (0x1000 + 8 * i)) 8 then _ else Except.ok (BitVec.ofNat 64 (leNat ((mailed off qs).mem.bytes .dram _ 8)))) = _
  rw [hp, hb]
  have := (by decide +kernel : ∀ i, i < 8 → BitVec.ofNat 64 (leNat (leaves.bytes .dram (dramKey 0 (0x1000 + 8 * i)) 8)) = pageEntry) i h
  simpa using this

theorem mailed_place (off : Nat) (qs : List (Nat × Nat × Nat)) (x : Nat) (h1 : x / 2 ^ 35 = off / 2 ^ 35) (h2 : x / 2 ^ 23 = off / 2 ^ 23) :
    placeNow (enter (mailed off qs)) 0 x = some (.dram, 2 ^ 23 + x % 2 ^ 20) := by
  have hd : (enter (mailed off qs)).die 0 = { tbase := 1, dirs := [(8 * (off / 2 ^ 35 % 2 ^ 11), 0x8000000000008000),
    (2 ^ 15 + 8 * (off / 2 ^ 23 % 2 ^ 12), 0xC000000000001000)] } := rfl
  have e1 : l1Offset ((enter (mailed off qs)).die 0) x = 8 * (off / 2 ^ 35 % 2 ^ 11) := by rw [hd, l1Offset, h1]; simp
  have e2 : l2Offset 0x8000000000008000 x = 2 ^ 15 + 8 * (off / 2 ^ 23 % 2 ^ 12) := by rw [l2Offset, h2]; simp
  have hs : leafSlot (enter (mailed off qs)) 0 x = .ok (0x1000 + 8 * (x / 2 ^ 20 % 8), true) := by
    rw [leafSlot, e1]
    have d1 : dirEntry (enter (mailed off qs)) 0 (8 * (off / 2 ^ 35 % 2 ^ 11)) = .ok 0x8000000000008000 := by
      rw [dirEntry, hd]; simp
    have d2 : dirEntry (enter (mailed off qs)) 0 (2 ^ 15 + 8 * (off / 2 ^ 23 % 2 ^ 12)) = .ok 0xC000000000001000 := by
      rw [dirEntry, hd]
      have : 8 * (off / 2 ^ 35 % 2 ^ 11) ≠ 2 ^ 15 + 8 * (off / 2 ^ 23 % 2 ^ 12) := by omega
      rw [List.find?_cons_of_neg (by simpa using this), List.find?_cons_of_pos (by simp)]
    rw [d1, hd]
    simp only [bit64]
    rw [e2, d2]
    simp
  rw [placeNow, walkOut, hs]
  dsimp only
  rw [mailed_entry off qs _ (Nat.mod_lt _ (by decide))]
  simp [bit64, pageEntry, Leaf.host, Leaf.frame, Leaf.place, Config.dieDram, pageBytes, dramKey]

theorem mailed_word (off x i : Nat) (hi : i = 0 ∨ i = 4) (hx : x = off + i) (h : off % 2 ^ 20 + 8 ≤ 2 ^ 20) : dieWord (enter (mailed off)) 0 x = 1 := by
  rw [dieWord, mailed_place off [] x (by omega) (by omega)]
  change leNat ((mailed off).mem.bytes .dram (2 ^ 23 + x % 2 ^ 20) 4) = 1
  have hb : (mailed off).mem.bytes .dram (2 ^ 23 + x % 2 ^ 20) 4 = [1, 0, 0, 0] := by
    rw [show 2 ^ 23 + x % 2 ^ 20 = 2 ^ 23 + off % 2 ^ 20 + i by omega]
    apply List.ext_getElem (by simp [Memory.bytes])
    intro j h1 h2
    simp only [List.length_cons, List.length_nil] at h2
    simp only [Memory.bytes, List.getElem_map, List.getElem_range]
    rw [show 2 ^ 23 + off % 2 ^ 20 + i + j = 2 ^ 23 + off % 2 ^ 20 + (i + j) by omega]
    have := byte_putBytes_same leaves .dram (2 ^ 23 + off % 2 ^ 20) (i + j) [1, 0, 0, 0, 1, 0, 0, 0] (by simp; omega)
    refine Eq.trans this ?_
    rcases hi with rfl | rfl <;> (have : j = 0 ∨ j = 1 ∨ j = 2 ∨ j = 3 := by omega) <;> rcases this with rfl | rfl | rfl | rfl <;> rfl
  rw [hb]; rfl

theorem wit_HostEvents_asks : leadDie (enter (mailed (mailSlot 0 0 2))) 0 0 = some 0 ∧ slotAsks (enter (mailed (mailSlot 0 0 2))) 0 0 2 = true ∧
    (module (mailed (mailSlot 0 0 2)) 0).quotes = [] := by
  have hl : leadDie (enter (mailed (mailSlot 0 0 2))) 0 0 = some 0 := by decide +kernel
  have hm : (mailSlot 0 0 2) % 2 ^ 20 + 8 ≤ 2 ^ 20 := by simp only [mailSlot, mailBox]; omega
  refine ⟨hl, ?_, by decide +kernel⟩
  have h0 := mailed_word (mailSlot 0 0 2) (mailSlot 0 0 2) 0 (.inl rfl) rfl hm
  have h4 := mailed_word (mailSlot 0 0 2) _ 4 (.inr rfl) rfl hm
  rw [slotAsks, hl]
  dsimp only
  rw [h0, h4]
  rfl

/-- The answer of a request is due, and its slot's page is there. -/
theorem wit_HostEvents_quote : let s := mailed (mailSlot 0 0 2) [(0, 2, 0)]
    leadDie (enter s) 0 0 = some 0 ∧ (placeNow (enter s) 0 (mailSlot 0 0 2 + 4)).isSome = true ∧ (module s 0).quotes = [(0, 2, 0)] ∧
      (module s 0).faccept.getLsbD 8 = false := by
  refine ⟨by decide +kernel, ?_, by decide +kernel, by decide +kernel⟩
  rw [mailed_place _ _ _ (by simp only [mailSlot, mailBox]; omega) (by simp only [mailSlot, mailBox]; omega)]
  rfl

theorem wit_DebugEvents : [DbgOp.bpSet 3 0x77, .bpClr 3, .claim, .free].all (fun op => let s := debugging op 0
    (match (Say.core s 0).dbg with
    | [x] => decide (tgtKey x.src x.target = 0) && decide (tgtOwner x.target = 0) && decide (partOf (enter s) (dieOf 0) = partOf (enter s) (dieOf x.src)) &&
        inBlock s (fun _ => true) && decide ((Say.core s 0).claims.find 0 = none) && inCourse s fun k => !k.gone
    | _ => false) && (match (Say.core (debugging op 9) 0).dbg with
    | [x] => decide (block (debugging op 9) 0 (tgtOwner x.target) = none)
    | _ => false)) = true := by decide +kernel

theorem wit_DebugEvents_profile : [0, 5].all (fun n => (match (Say.core (profiled n) 0).samples with
    | [x] => sampleOver (Say.core (profiled n) 0) x && decide (x.str = 0)
    | _ => false)) = true := by decide +kernel

/-! ### More clauses -/

theorem wit_TickClocks_ends : (idle false false).mach.cores.all (fun x => decide (x.2.recs = [])) = true ∧
    (idle false false).mach.dies.all (fun x => x.2.quads.all fun q => decide (q.2.dues = [])) = true := by decide +kernel

/-- The last lane of a chained sweep. -/
theorem wit_ChainSteps_last : ∃ f b k, LaneDue (flying (.caddF32 3 1 false true) (fun f => { f with next := 31 }) bare) 0 0 31 4 f b k ∧
    (decide (f.form.op = .chain .addF32 false true) && sound k f 31 && lives k f 31) = true := due_of (by decide +kernel)

/-- A partition of 16 under COMPAT16 (R18). -/
theorem wit_CrossLaneDelivers_compat : ∃ f b k, LaneDue (flying (.lpickXor 3 1 2 false)
      (fun f => { f with next := 31, part := 16, coll := List.replicate 31 (true, 7, 1) }) (issuing (fun b => { b with hdr := { b.hdr with compat := true } }) id)) 0 0 31 1 f b k ∧
    (decide (f.form.op = .xlane .pickXor) && sound k f 31 && decide (f.coll.length = 31) && decide (f.part = 2 ^ 4)) = true := due_of (by decide +kernel)

/-- Patterns of every kind: NaNs, infinities, zeros and finite numbers of a wide, a narrow and a packed format. -/
theorem wit_NanResults_kinds : nan .f64 0x7FF0000000000001 = true ∧ snan .f64 0x7FF0000000000001 = true ∧ infinite .f64 0xFFF0000000000000 = true ∧
    negative .f64 0xFFF0000000000000 = true ∧ zero .f64 0x8000000000000000 = true ∧ finite .f64 0x3FF0000000000000 = true ∧
    nan .bf16 0x7FC1 = true ∧ snan .bf16 0x7FC1 = false ∧ infinite .bf16 0x7F80 = true ∧ finite .f16 0x7BFF = true ∧ infinite .f16 0xFC00 = true ∧
    infinite .e4m3 0x7F = false ∧ nan .e4m3 0x7F = true ∧ turned .f32 0 = 0x80000000 := by decide +kernel

/-- Arguments of the special functions with a listed result, and without one; a conversion whose formats differ. -/
theorem wit_RoundKeepsExact_special : specialOf .rcp 0x80000000 = some (0xFF800000, flagDZ) ∧ specialOf .log2 0xBF800000 = some (0x7FC00000, flagNV) ∧
    specialOf .sin 0xBF800000 = none ∧ nan .f32 0x3F800000 = false := by decide +kernel
theorem wit_PermuteAndDotValues : floatOf .e4m3 ≠ some .f16 ∧ (1 : BitVec 2).toNat < 32 / (1 + expBits .f16 + fracBits .f16) ∧
    (1 : BitVec 2).toNat < 32 / widthOf .e4m3 ∧ infinite .f16 0x7C00 = true ∧ finite .f32 0x3F800000 = true := by decide +kernel

/-- A lane access of a kind to a page that reads and writes, or to a level of the tile store. -/
def touching (kind : AccKind) (sp : Space) : State := onCore storing fun c => { c with accs := c.accs.map fun a => { a with
  kind := kind, space := sp, addr := 40, size := 4, data := 5, dst := .reg 6
  xl := if sp = .die then .ok { base := 0, large := false, pte := 0x8C00000000004000, epoch := 0 } else .bad 0 } }

theorem wit_StoreApplies_die : [AccKind.load, .rmw .add false].all (fun kd => let s := touching kd .die
    match (Say.core s 0).accs with
    | [a] => (match block s 0 a.owner, a.xl with
      | some b, .ok l => decide (a.done = none ∧ a.kind = kd ∧ a.space = .die ∧ a.shadow = [] ∧ a.marks = [] ∧ b.staged = []) && !a.cross && !a.late &&
          !l.refuses .read a.pv false && !l.refuses .atomic a.pv false && !l.host && !b.hdr.timed && !b.hdr.determ &&
          !s.mem.poisoned .dram (dramKey a.home (l.frame + a.addr.toNat % pageBytes l.large)) a.size && decide (a.data.toNat < 2 ^ (8 * a.size)) &&
          decide ((die s (dieOf 0)).recMode = 0) && decide ((Say.core s 0).watches = [])
      | _, _ => false)
    | _ => false) = true := by decide +kernel

theorem wit_StoreApplies_tile : [(AccKind.load, Space.ts), (.store, .acc), (.tread .add 4, .ts)].all (fun x => let s := touching x.1 x.2
    match (Say.core s 0).accs with
    | [a] => decide (a.done = none ∧ a.kind = x.1 ∧ a.space = x.2 ∧ a.marks = [] ∧ a.xl = .bad 0 ∧ a.size ≤ 8) && (block s 0 a.owner).isSome &&
        decide ((Say.core s 0).watches = []) && !collides (enter s) 0 a (vcc s 0) && !s.mem.poisoned .ts (levelKey 0 0 40) 4 && !s.mem.poisoned .acc (levelKey 1 0 40) 4
    | _ => false) = true := by decide +kernel

/-- A multicast of four bytes whose lanes hold the address 0x48. -/
theorem wit_StoreApplies_multicast : ∃ f b k, LaneDue (flying (.stMc 2 4 15 false .b32) (fun f => { f with next := 3 })
      (issuing id fun k => { k with regs := [(4 * 32 + 3, 0x48)] })) 0 0 3 1 f b k ∧
    (decide (f.form.op = .mcast 15 .b32) && lives k f 3 && sound k f 3 && decide ((k.src 3 f.form.a).toNat % bytes .b32 = 0) &&
      decide (outstanding (Say.core bare 0) + 4 ≤ Config.operandLog)) = true := due_of (by decide +kernel)

/-- A command in each of the cases of R216: a value that is not listed, a tag, a handle, a range, an address, no gather channel, no key. -/
def ordering (words : List (Nat × W32)) (f : Block → Block) : State :=
  onCore (issuing (fun b => f { b with hdr := { b.hdr with handles := 2, tags := 4 } }) fun k => words.foldl (fun k x => withUni k x.1 x.2) k) fun c => { c with
    tiles := [(0, tile), (1, tile)] }
def refusedAs (op : CmdOp) (words : List (Nat × W32)) (f : Block → Block) (P : Option (Nat × Nat × W64) → Bool) : Bool :=
  (siteOf (enter (ordering words f))).any fun t => once t && P (refusal (ordering words f) t op 24 26 28)

theorem wit_EngineIssue_checks :
    refusedAs .fill [(24, 0)] id (· == some (0x01, 4, 0)) = true ∧ refusedAs .fill [(24, 0x12000000)] id (· == some (0x0B, 0, 0)) = true ∧
    refusedAs .fill [(24, 0x02000000), (26, 9)] id (· == some (0x05, 0, 9)) = true ∧
    refusedAs .fill [(24, 0x02000000), (27, 9)] id (· == some (0x0B, 0, 0)) = true ∧
    refusedAs .drain [(24, 0x02000000), (26, 0), (28, 0)] id (· == none) = true := by
  refine ⟨?_, ?_, ?_, ?_, ?_⟩ <;> decide +kernel

/-- A course with a stacked path, its stack area in a page that is there. -/
def stacked : State :=
  let s := paged 0 (pathed .ready none false false)
  onCore s fun c => { c with courses := c.courses.map fun x => (x.1, { x.2 with stack := [{ id := 5, mask := 0xF0, pc := 99 }] }) }

theorem wit_PathEvents_fill : (inBlock stacked fun b => (let at_ := b.bind.ctx + 8192 + 0x800
    (match walkOut (enter stacked) 0 at_ with
      | .leaf l => !l.refuses .write true true && decide (at_ % 2 ^ 14 + 32 ≤ 2 ^ 14)
      | _ => false)) && inCourse stacked fun k => decide (k.stack.length = 1) && decide (0 ∉ k.filling)) = true := by decide +kernel

/-- A mailbox for the record of `dbg.mbox`, and for that of a refused command. -/
theorem wit_PrivilegedIssue_mailbox : let s := { bare with mach := { bare.mach with dies := [(0, { mbox := some 0x4000 })] } }
    ∃ t, At s t ∧ once t = true ∧ t.b.bind.priv = true ∧ (die s (dieOf t.i.core)).mbox = some 0x4000 := at_of _ _ (by decide +kernel)

/-- A port, with a drift command on its way over it and with none. -/
theorem wit_ModuleEvents_port : ((module (linked false) 1).ports.find 2).isSome = true ∧ (module (linked false) 0).drifts = [] ∧
    (module (linked false) 1).drifts = [] ∧ (module (linked false) 1).reports = [] := by decide +kernel

/-- The lowest lane is disabled: `once` fails for the hand-overs and the waits. -/
theorem wit_HandsOver_disabled : ∃ t, At disabled t ∧ once t = false := at_of _ _ (by decide +kernel)
theorem wit_WaitsPass_disabled : ∃ t, At disabled t ∧ once t = false := at_of _ _ (by decide +kernel)

end Sys2Proof.Tests
end

/-! SUPPORT. What RESULT_READY does (R9, R16, R73): a result that lands gives a core one new course and one new table of
blocks, each a function of the result and of what the core held, and leaves all else of the machine. -/

namespace Sys2Proof.Machine

open Sys2Proof.Say

/-! ## What a result makes of its course and of the blocks of its core -/

/-- A course with a special register of its own written; `%bseed` and any other number leave it. -/
def Course.landSr (k : Course) (n : Nat) (v : W64) : Course :=
  match n with
  | 0x0A => { k with seed := v }
  | 0x11 => { k with fpst := (v.truncate 5 : BitVec 5).zeroExtend 32 }
  | 0x12 => { k with tpc := v }
  | _ => k

/-- A course with one write delivered: a lane register or predicate in live lanes only, a uniform register always (log entry 87). -/
def Course.land (k : Course) : Write → Course
  | .lane j n v => if k.live.getLsbD j then k.setReg n j v else k
  | .pred p m v => k.setPred p (m &&& k.live) v
  | .uni n v => k.setUni n v
  | .sr n v => k.landSr n v

/-- The blocks of a core with one write of block `o` delivered: `%bseed` alone is a register of the block. -/
def landBlocks (o : Nat) (bs : Tab Block) : Write → Tab Block
  | .sr 0x0D v => match bs.find o with
    | some b => bs.put o { b with bseed := v }
    | none => bs
  | _ => bs

/-- A course with a result landed: its writes, the poison they clear (R332), and its flags (R73). -/
def Course.landed (k : Course) (r : Result) : Course :=
  let k := r.writes.foldl (clearGranule · r.writes) (r.writes.foldl Course.land k)
  if resultLive k r.writes then k.raise r.flags else k

/-- Of a course nothing differs but its registers, predicates, special registers and flags. -/
def Course.SameBut (k k' : Course) : Prop :=
  k' = { k with regs := k'.regs, poison := k'.poison, preds := k'.preds, k := k'.k, seed := k'.seed, fpst := k'.fpst, tpc := k'.tpc }

theorem Course.SameBut.refl (k : Course) : k.SameBut k := Eq.refl k

theorem Course.SameBut.trans {k k' k'' : Course} (h : k.SameBut k') (h' : k'.SameBut k'') : k.SameBut k'' := by
  unfold Course.SameBut at *; rw [h', h]

theorem Course.SameBut.foldl {f : Course → Write → Course} (hf : ∀ (k : Course) (x : Write), k.SameBut (f k x)) (ws : List Write) (k : Course) :
    k.SameBut (ws.foldl f k) := by
  induction ws generalizing k with
  | nil => exact .refl k
  | cons x ws ih => exact (hf k x).trans (ih _)

theorem land_sameBut (k : Course) (x : Write) : k.SameBut (k.land x) := by
  cases x with
  | lane j n v => simp only [Course.land]; split <;> exact Eq.refl _
  | pred p m v => simp only [Course.land, Course.setPred]; split <;> exact Eq.refl _
  | uni n v => exact Eq.refl _
  | sr n v => simp only [Course.land, Course.landSr]; split <;> exact Eq.refl _

theorem clearGranule_sameBut (k : Course) (ws : List Write) (x : Write) : k.SameBut (clearGranule k ws x) := by
  cases x with
  | lane j n v => simp only [clearGranule]; split <;> exact Eq.refl _
  | _ => exact .refl k

theorem landed_sameBut (k : Course) (r : Result) : k.SameBut (k.landed r) := by
  have h := (Course.SameBut.foldl land_sameBut r.writes k).trans
    (.foldl (fun k x => clearGranule_sameBut k r.writes x) r.writes (r.writes.foldl Course.land k))
  simp only [Course.landed]
  split
  · exact h.trans (Eq.refl _)
  · exact h

/-- No flags are no change. -/
@[simp] theorem raise_zero (k : Course) : k.raise 0#5 = k := by simp [Course.raise]

/-- One write of a uniform register and no flags (R118, R162): the course has that register written, whatever lanes are left. -/
theorem landed_uni {r : Result} {n : Nat} {v : W32} (k : Course) (hw : r.writes = [.uni n v]) (hf : r.flags = 0) :
    k.landed r = k.setUni n v := by
  simp [Course.landed, hw, hf, clearGranule, resultLive, Course.land]

/-- So does one write of a special register; `%bseed` leaves the course as it is. -/
theorem landed_sr {r : Result} {n : Nat} {v : W64} (k : Course) (hw : r.writes = [.sr n v]) (hf : r.flags = 0) :
    k.landed r = k.landSr n v := by
  simp [Course.landed, hw, hf, clearGranule, resultLive, Course.land]

/-- A uniform register written reads back, and the others stand. -/
theorem uni_setUni_same (k : Course) (n : Nat) (v : W32) : (k.setUni n v).uni n = v := Tab.get_set_same ..
theorem uni_setUni_other (k : Course) {n m : Nat} (v : W32) (h : m ≠ n) : (k.setUni n v).uni m = k.uni m := Tab.get_set_other _ _ v h

/-! ## The world of a landing -/

/-- `w'` is `w` with the course `r` of block `o` of core `c` become `k` and the blocks of that core become `bs`: no byte, no
other course or core, and nothing of the machine outside its cores has changed. -/
structure CourseBecomes (w w' : World) (c o r : Nat) (k : Course) (bs : Tab Block) : Prop where
  out : w'.out = w.out
  mach : w'.mach = { w.mach with cores := w'.mach.cores }
  cores : ∀ c', c' ≠ c → w'.core c' = w.core c'
  course : w'.course? c o r = some k
  others : ∀ o' r', 32 * o' + r' ≠ 32 * o + r → w'.course? c o' r' = w.course? c o' r'
  blocks : (w'.core c).blocks = bs

variable {w w' : World} {c o r : Nat} {k : Course} {bs : Tab Block}

/-- Before anything has changed. -/
theorem CourseBecomes.start (hk : w.course? c o r = some k) : CourseBecomes w w c o r k (w.core c).blocks :=
  ⟨rfl, rfl, fun _ _ => rfl, hk, fun _ _ _ => rfl, rfl⟩

/-- A change of the core that is none of its courses and blocks. -/
theorem CourseBecomes.setCore (h : CourseBecomes w w' c o r k bs) {x : Core} (hc : x.courses = (w'.core c).courses)
    (hb : x.blocks = (w'.core c).blocks) : CourseBecomes w (w'.setCore c x) c o r k bs where
  out := h.out
  mach := by rw [World.setCore, h.mach]
  cores c' hne := by rw [core_setCore_other _ _ hne, h.cores c' hne]
  course := by simpa only [World.course?, core_setCore_same, hc] using h.course
  others o' r' hne := by simpa only [World.course?, core_setCore_same, hc] using h.others o' r' hne
  blocks := by rw [core_setCore_same, hb, h.blocks]

theorem CourseBecomes.touchSample (h : CourseBecomes w w' c o r k bs) (seq : Nat) (f : Sample → Sample) :
    CourseBecomes w (touchSample w' c seq f) c o r k bs := by
  simp only [Machine.touchSample]
  split
  · exact h.setCore rfl rfl
  · exact h

theorem CourseBecomes.modCourse (h : CourseBecomes w w' c o r k bs) (f : Course → Course) :
    CourseBecomes w (w'.modCourse c o r f) c o r (f k) bs := by
  have he : w'.modCourse c o r f = w'.setCourse c o r (f k) := by simp only [World.modCourse, h.course]
  rw [he]
  exact {
    out := h.out
    mach := by rw [World.setCourse, World.modCore, World.setCore, h.mach]
    cores := fun c' hne => by rw [World.setCourse, core_modCore_other _ _ hne, h.cores c' hne]
    course := course_setCourse_same ..
    others := fun o' r' hne => by
      rw [← h.others o' r' hne]
      simp only [World.course?, World.setCourse, core_modCore_same, Tab.find_put_other _ _ hne]
    blocks := by rw [World.setCourse, core_modCore_same, h.blocks] }

theorem CourseBecomes.setBlock (h : CourseBecomes w w' c o r k bs) (b : Block) :
    CourseBecomes w (w'.setBlock c o b) c o r k (bs.put o b) where
  out := h.out
  mach := by rw [World.setBlock, World.modCore, World.setCore, h.mach]
  cores c' hne := by rw [World.setBlock, core_modCore_other _ _ hne, h.cores c' hne]
  course := by simpa only [World.course?, World.setBlock, core_modCore_same] using h.course
  others o' r' hne := by simpa only [World.course?, World.setBlock, core_modCore_same] using h.others o' r' hne
  blocks := by rw [World.setBlock, core_modCore_same, h.blocks]

/-- `%bseed` is written in the block, where it is there. -/
theorem CourseBecomes.bseed (h : CourseBecomes w w' c o r k bs) (v : W64) :
    CourseBecomes w (w'.modBlock c o fun b => { b with bseed := v }) c o r k (landBlocks o bs (.sr 0x0D v)) := by
  simp only [World.modBlock, World.block?, h.blocks, landBlocks]
  cases bs.find o with
  | none => exact h
  | some b => exact h.setBlock _

theorem CourseBecomes.deliver (h : CourseBecomes w w' c o r k bs) (x : Write) :
    CourseBecomes w (deliverWrite c o r w' x) c o r (k.land x) (landBlocks o bs x) := by
  cases x with
  | lane j n v => exact h.modCourse _
  | pred p m v => exact h.modCourse _
  | uni n v => exact h.modCourse _
  | sr n v =>
    simp only [deliverWrite, Course.land]
    split
    · exact h.modCourse _
    · exact h.bseed v
    · exact h.modCourse _
    · exact h.modCourse _
    · next ha hd hf ht =>
      have hk : k.landSr n v = k := by unfold Course.landSr; split <;> simp_all
      have hb : landBlocks o bs (.sr n v) = bs := by unfold landBlocks; split <;> simp_all
      rwa [hk, hb]

theorem CourseBecomes.deliverAll (h : CourseBecomes w w' c o r k bs) (ws : List Write) :
    CourseBecomes w (ws.foldl (deliverWrite c o r) w') c o r (ws.foldl Course.land k) (ws.foldl (landBlocks o) bs) := by
  induction ws generalizing w' k bs with
  | nil => exact h
  | cons x ws ih => exact ih (h.deliver x)

/-- What RESULT_READY does with a result that its core holds. -/
theorem resultReady_becomes {rid : Nat} {x : Result} (hx : ((w.core c).results.find? fun r => decide (r.id = rid)) = some x)
    (hk : w.course? c x.owner x.cr = some k) :
    CourseBecomes w (resultReady c rid w) c x.owner x.cr (k.landed x) (x.writes.foldl (landBlocks x.owner) (w.core c).blocks) := by
  unfold resultReady
  rw [hx]
  have h : CourseBecomes w (w.modCore c fun k => { k with results := k.results.filter fun y => decide (y.id ≠ rid) })
      c x.owner x.cr k (w.core c).blocks := (CourseBecomes.start hk).setCore rfl rfl
  exact ((h.touchSample x.seq _).deliverAll x.writes).modCourse _

/-- A result that lands in a state: its course and the blocks of its core are those of `landed` and `landBlocks`, and all else
stands. -/
theorem exec_resultReady {s : State} {rid : Nat} {x : Result} (h : Lands s c rid x k) :
    ∃ s', exec (.resultReady c rid) s = .next s' ∧ LandsIn s s' c x k (k.landed x) ∧
      (Say.core s' c).blocks = x.writes.foldl (landBlocks x.owner) (Say.core s c).blocks := by
  obtain ⟨hx, hk⟩ := h
  have hb := resultReady_becomes hx hk
  refine ⟨commit s (resultReady c rid (enter s)), rfl, ⟨?_, hb.course, ?_, ?_, hb.mach, landed_sameBut k x⟩, hb.blocks⟩
  · have hm : (commit s (resultReady c rid (enter s))).mem = s.mem := by rw [commit_mem, hb.out]; rfl
    exact ⟨fun st a => by rw [hm], by rw [hm]⟩
  · intro c' o hne
    exact congrArg (fun y : Core => y.blocks.find o) (hb.cores c' hne)
  · intro c' o q hne
    by_cases hc : c' = c
    · subst hc; exact hb.others o q (hne.resolve_left (· rfl))
    · exact congrArg (fun y : Core => y.courses.find (32 * o + q)) (hb.cores c' hc)

/-! ## Results of uniform and special registers (R118, R162) -/

/-- The five flag bits of a value of `%fpst` (R73; log entry 45), as the low bits and as a mask. -/
theorem flagBits_eq (v : W64) : (v.truncate 5 : BitVec 5).zeroExtend 32 = v.truncate 32 &&& 0x1F := by
  have hm : (0x1F : W32).toNat = 2 ^ 5 - 1 := rfl
  refine BitVec.eq_of_toNat_eq ?_
  rw [BitVec.toNat_and, hm, Nat.and_two_pow_sub_one_eq_mod]
  simp only [BitVec.truncate_eq_setWidth, BitVec.toNat_setWidth]
  omega

end Sys2Proof.Machine

namespace Sys2Proof.Proofs

open Sys2Proof.Machine Sys2Proof.Say

/-- Settles O25: RESULT_READY gives the course of `landed` and the blocks of `landBlocks`, and one write of a uniform or special
register changes one register there. -/
theorem uniformResultLands : Obligations.UniformResultLands := by
  intro s c rid r k h hf
  obtain ⟨s', he, hl, hb⟩ := exec_resultReady h
  refine ⟨fun n v hw => ?uniform, fun v hw => ?seed, fun v hw => ?fpst, fun v hw => ?tpc, fun v b hw hblock => ?bseed⟩
  case uniform =>
    rw [landed_uni k hw hf] at hl
    exact ⟨s', _, he, hl, rfl, uni_setUni_same k n v, fun m hm => uni_setUni_other k v hm⟩
  all_goals rw [landed_sr k hw hf] at hl
  case seed => exact ⟨s', he, hl⟩
  case fpst => exact ⟨s', he, by rwa [← flagBits_eq]⟩
  case tpc => exact ⟨s', he, hl⟩
  case bseed =>
    have hfind : (Say.core s c).blocks.find r.owner = some b := hblock
    refine ⟨s', he, hl, ?_⟩
    change (Say.core s' c).blocks.find r.owner = _
    rw [hb, hw, List.foldl_cons, List.foldl_nil, landBlocks, hfind, Tab.find_put_same]

end Sys2Proof.Proofs

/-! SUPPORT. What a step does with the slot that takes the turn (R8, R99, R111), what the landing of a lane's words makes of its
course (R9, R16, R59, R73, R155), and what the work of lanes leaves of a core (R16, R116). -/

namespace Sys2Proof.Machine

open Sys2Proof.Say

/-! ## The turn of a step -/

/-- A turn whose slot passes the checks of R115 that come before the instruction's own runs the word that its module decodes. -/
theorem issueAct_run {w : World} {t : Turn} {i : Instr} (hkind : t.pth.slotWord.2.2 = 0) (hres : t.pth.slotWord.2.1 % 2 = 0)
    (hdec : decodeWord (w.module (modOf t.core)).faccept t.pth.slotWord.1 = .ok i) : issueAct w t = .run i := by
  simp [issueAct, hkind, hres, hdec]

/-- A step in which nothing comes before the turns does what the next turn does. -/
theorem step_turn {s : State} {t : Turn} (hin : inputDue s.mach = none) (hev : nextEvent (enter s) = none) (hscan : scanDue (enter s) = none)
    (hbody : dueBody (enter s) (activeCores (enter s)) = none) (hturn : nextTurn (enter s) (activeCores (enter s)) = .issue t) :
    step s = runTurn (.issue t) s := by
  simp only [step, hin, hev, hscan, hbody, hturn]

/-! ## Words of a lane that land (R59) -/

/-- A course with a word of a lane written, and with the word above it where there is one. -/
def Course.setWords (k : Course) (n j : Nat) (lo : W32) : Option W32 → Course
  | none => k.setReg n j lo
  | some v => (k.setReg n j lo).setReg (n + 1) j v

/-- Those words read back. -/
theorem setWords_low (k : Course) (n j : Nat) (lo : W32) (hi : Option W32) (hj : j < 32) : (k.setWords n j lo hi).reg n j = lo := by
  cases hi with
  | none => exact reg_setReg_same k n j lo
  | some v => exact (reg_setReg_other _ v hj hj (.inl (by omega))).trans (reg_setReg_same k n j lo)

theorem setWords_high (k : Course) (n j : Nat) (lo v : W32) : (k.setWords n j lo (some v)).reg (n + 1) j = v :=
  reg_setReg_same _ _ j v

/-- Every other word of every lane stands. -/
theorem setWords_other (k : Course) {n j n' j' : Nat} (lo : W32) (hi : Option W32) (hj : j < 32) (hj' : j' < 32)
    (hne : ¬ (j' = j ∧ (n' = n ∨ (hi.isSome = true ∧ n' = n + 1)))) : (k.setWords n j lo hi).reg n' j' = k.reg n' j' := by
  have hlow : (k.setReg n j lo).reg n' j' = k.reg n' j' := reg_setReg_other k lo hj hj' (by tauto)
  cases hi with
  | none => exact hlow
  | some v => exact (reg_setReg_other _ v hj hj' (by simp only [Option.isSome_some] at hne; tauto)).trans hlow

/-- Of a course in which words land nothing but its registers differs. -/
theorem setWords_regs (k : Course) (n j : Nat) (lo : W32) (hi : Option W32) :
    k.setWords n j lo hi = { k with regs := (k.setWords n j lo hi).regs } := by cases hi <;> rfl

/-- The writes of a word of a lane, and of the word above it where there is one. -/
def wordWrites (n j : Nat) (lo : W32) (hi : Option W32) : List Write := .lane j n lo :: (hi.map fun v => Write.lane j (n + 1) v).toList

/-- In a lane of the course they write their words. -/
theorem land_wordWrites_live {k : Course} {j : Nat} (h : k.live.getLsbD j = true) (n : Nat) (lo : W32) (hi : Option W32) :
    (wordWrites n j lo hi).foldl Course.land k = k.setWords n j lo hi := by
  cases hi <;> simp [wordWrites, Course.land, Course.setWords, h]

/-- In a lane that has exited they write nothing (log entry 87). -/
theorem land_wordWrites_gone {k : Course} {j : Nat} (h : k.live.getLsbD j = false) (n : Nat) (lo : W32) (hi : Option W32) :
    (wordWrites n j lo hi).foldl Course.land k = k := by
  cases hi <;> simp [wordWrites, Course.land, h]

/-- They write no block. -/
theorem landBlocks_wordWrites (o : Nat) (bs : Tab Block) (n j : Nat) (lo : W32) (hi : Option W32) :
    (wordWrites n j lo hi).foldl (landBlocks o) bs = bs := by cases hi <;> rfl

/-- Their lane is that of the result. -/
theorem resultLive_wordWrites (k : Course) (n j : Nat) (lo : W32) (hi : Option W32) :
    resultLive k (wordWrites n j lo hi) = k.live.getLsbD j := rfl

/-- Clearing the granules of writes changes a course's poison alone (R332). -/
theorem clearGranules_poison (k : Course) (ws us : List Write) :
    us.foldl (clearGranule · ws) k = { k with poison := (us.foldl (clearGranule · ws) k).poison } := by
  induction us generalizing k with
  | nil => rfl
  | cons x us ih =>
    have hx : clearGranule k ws x = { k with poison := (clearGranule k ws x).poison } := by
      cases x with
      | lane j n v => simp only [clearGranule]; split <;> rfl
      | _ => rfl
    rw [List.foldl_cons, ih, hx]

/-- Words that land in a lane of the course (R59, R73): it holds them, its poison aside, and raises their flags. -/
theorem landed_wordWrites_live {k : Course} {r : Result} {n j : Nat} {lo : W32} {hi : Option W32} (hw : r.writes = wordWrites n j lo hi)
    (h : k.live.getLsbD j = true) :
    ∃ p, k.landed r = { k with regs := (k.setWords n j lo hi).regs, poison := p, fpst := k.fpst ||| r.flags.zeroExtend 32 } := by
  simp only [Course.landed, hw, land_wordWrites_live h, resultLive_wordWrites]
  rw [clearGranules_poison, setWords_regs, if_pos h]
  exact ⟨_, rfl⟩

/-- Words that land in a lane that has exited leave the course as it is, its poison aside (R155; log entry 87). -/
theorem landed_wordWrites_gone {k : Course} {r : Result} {n j : Nat} {lo : W32} {hi : Option W32} (hw : r.writes = wordWrites n j lo hi)
    (h : k.live.getLsbD j = false) : ∃ p, k.landed r = { k with poison := p } := by
  simp only [Course.landed, hw, land_wordWrites_gone h, resultLive_wordWrites]
  rw [clearGranules_poison, if_neg (by simp [h])]
  exact ⟨_, rfl⟩

/-! ## Lanes that execute (R16) -/

/-- `w'` is `w` with work of lanes of core `c` done that adds the results `rs`: of the core its flights, profiles and activity
counters have moved on too; no byte, no other core, and nothing of the machine outside its cores has changed. -/
structure LanesMove (w w' : World) (c : Nat) (rs : List Result) : Prop where
  out : w'.out = w.out
  mach : w'.mach = { w.mach with cores := w'.mach.cores }
  cores : ∀ c', c' ≠ c → w'.core c' = w.core c'
  own : w'.core c = { w.core c with
    flights := (w'.core c).flights, samples := (w'.core c).samples, acts := (w'.core c).acts
    results := (w.core c).results ++ rs, nextId := (w.core c).nextId + rs.length }

variable {w w' : World} {c : Nat} {rs : List Result}

/-- Before anything has changed. -/
theorem LanesMove.start (w : World) (c : Nat) : LanesMove w w c [] := ⟨rfl, rfl, fun _ _ => rfl, by simp⟩

/-- A change of the core's flights, profiles and activity counters. -/
theorem LanesMove.modCore (h : LanesMove w w' c rs) {f : Core → Core}
    (hf : ∀ x, f x = { x with flights := (f x).flights, samples := (f x).samples, acts := (f x).acts }) : LanesMove w (w'.modCore c f) c rs where
  out := h.out
  mach := by rw [World.modCore, World.setCore, h.mach]
  cores c' hne := by rw [core_modCore_other _ _ hne, h.cores c' hne]
  own := by rw [core_modCore_same, hf, h.own]

theorem LanesMove.touchSample (h : LanesMove w w' c rs) (seq : Nat) (f : Sample → Sample) : LanesMove w (touchSample w' c seq f) c rs := by
  simp only [Machine.touchSample]
  split
  · exact h.modCore (f := fun k => { k with samples := k.samples.map fun x => if x.seq = seq then f x else x }) fun _ => rfl
  · exact h

theorem LanesMove.countAct (h : LanesMove w w' c rs) (o : Nat) (f : Activity → Activity) : LanesMove w (countAct w' c o f) c rs :=
  h.modCore fun _ => rfl

theorem LanesMove.setFlight (h : LanesMove w w' c rs) (f : Flight) : LanesMove w (setFlight w' c f) c rs := by
  unfold Machine.setFlight
  exact h.modCore fun _ => rfl

theorem LanesMove.pushResult (h : LanesMove w w' c rs) (o r seq ready : Nat) (src : Nat × W32) (ws : List Write) (fl : FpFlags) :
    LanesMove w (pushResult w' c o r seq ready src ws fl) c (rs ++ [{
      id := (w.core c).nextId + rs.length, seq := seq, owner := o, cr := r, ready := ready, writes := ws, flags := fl, pc := src.1, word := src.2 }]) where
  out := h.out
  mach := by rw [Machine.pushResult, World.modCore, World.setCore, h.mach]
  cores c' hne := by rw [Machine.pushResult, core_modCore_other _ _ hne, h.cores c' hne]
  own := by
    rw [Machine.pushResult, core_modCore_same, h.own]
    simp [Nat.add_assoc]

/-- Its cycle stands. -/
theorem LanesMove.vcc (h : LanesMove w w' c rs) : vccOf w' c = vccOf w c := by
  unfold vccOf sashOf World.sash?
  rw [h.mach, h.own]

/-- In a state such work leaves every course and block. -/
theorem LanesMove.coursesKept {s : State} (h : LanesMove (enter s) w c rs) : CoursesKept s (commit s w) := by
  have hmem : (commit s w).mem = s.mem := by rw [commit_mem, h.out]; rfl
  have hcore : ∀ c', ∃ f g a r n, w.core c' = { (enter s).core c' with flights := f, samples := g, acts := a, results := r, nextId := n } :=
    fun c' => by
      by_cases hc : c' = c
      · subst hc; exact ⟨_, _, _, _, _, h.own⟩
      · exact ⟨_, _, _, _, _, h.cores c' hc⟩
  refine ⟨⟨fun st a => by rw [hmem], by rw [hmem]⟩, h.mach, fun c' o r => ?course, fun c' o => ?block, fun c' => ?rest⟩ <;>
    obtain ⟨f, g, a, rs, n, hc⟩ := hcore c'
  case course =>
    change (w.core c').courses.find _ = ((enter s).core c').courses.find _
    rw [hc]
  case block =>
    change (w.core c').blocks.find _ = ((enter s).core c').blocks.find _
    rw [hc]
  case rest =>
    have hc' : Say.core (commit s w) c' = _ := hc
    rw [hc']
    exact ⟨rfl, rfl, rfl, rfl, rfl⟩

/-- And it adds its results. -/
theorem LanesMove.results {s : State} (h : LanesMove (enter s) w c rs) :
    (Say.core (commit s w) c).results = (Say.core s c).results ++ rs :=
  congrArg Core.results h.own

/-- A lane of a flight is on where it is active, in the course and enabled (R16, R99, R155). -/
theorem laneOn_eq_lives (k : Course) (f : Flight) {j : Nat} (hj : j < 32) : laneOn k f j = lives k f j := by
  cases hn : f.neg <;> simp [laneOn, lives, Course.enabled, hn, hj]

/-- A sound lane reads no poison. -/
theorem laneReadsPoison_of_sound {k : Course} {f : Flight} {j : Nat} (h : sound k f j = true) : laneReadsPoison k f j = false := by
  simp only [sound, Bool.not_eq_true'] at h
  rw [laneReadsPoison, h, Bool.false_and]

/-- The product of a machine word and a constant, and a word xored with itself shifted, as numbers (R72). -/
theorem toNat_mul_const (x : W64) (n : Nat) : (x * (OfNat.ofNat n : W64)).toNat = x.toNat * n % 2 ^ 64 := by
  change (x * BitVec.ofNat 64 n).toNat = _
  rw [BitVec.toNat_mul, BitVec.toNat_ofNat, Nat.mul_mod_mod]

theorem toNat_xor_shift (x : W64) (n : Nat) : (x ^^^ (x >>> n)).toNat = x.toNat ^^^ (x.toNat / 2 ^ n) := by
  rw [BitVec.toNat_xor, BitVec.toNat_ushiftRight, Nat.shiftRight_eq_div_pow]

/-- The draw of R71 and R72 in machine words is the model's on numbers. -/
theorem draw_toNat (seed dii : W64) (n : Nat) : (draw seed dii (BitVec.ofNat 64 n)).toNat = srDraw seed.toNat dii.toNat n := by
  unfold draw srDraw srHash
  rw [BitVec.toNat_ushiftRight, Nat.shiftRight_eq_div_pow, toNat_xor_shift, toNat_mul_const, toNat_xor_shift, toNat_mul_const, toNat_xor_shift,
    BitVec.toNat_xor, BitVec.toNat_xor, toNat_mul_const, toNat_mul_const, BitVec.toNat_ofNat, Nat.mod_mul_mod]

/-- So are the draws of a lane of a flight. -/
theorem drawOf_eq_draw (b : Block) (f : Flight) (j : Nat) :
    drawOf b f j = fun e => (draw f.seed f.dii (BitVec.ofNat 64 ((if b.hdr.compat then j % 16 else j) + 32 * e))).toNat := by
  funext e
  rw [draw_toNat, drawOf]

/-- What `aluEval` makes of a lane's operands and draws, as they are read now. -/
def laneValue (b : Block) (k : Course) (f : Flight) (op : AluOp) (j : Nat) : AluOut :=
  aluEval op (k.src j f.form.a) (k.src j f.form.b) (k.src j f.form.c) (drawOf b f j)

/-- LANE_EXECUTE of an enabled lane whose operands are sound leaves one result, L cycles later, with the writes of its destination. -/
theorem laneExecute_alu {seq j : Nat} {f : Flight} {b : Block} {k : Course} {op : AluOp}
    (hf : ((w.core c).flights.find? fun f => decide (f.seq = seq) && decide (f.stride = 1) && decide (f.next = j)) = some f)
    (hb : w.block? c f.owner = some b) (hk : w.course? c f.owner f.cr = some k) (hop : f.form.op = .alu op)
    (hon : laneOn k f j = true) (hp : laneReadsPoison k f j = false) :
    LanesMove w (laneExecute c seq j w) c [{
      id := (w.core c).nextId, seq := f.seq, owner := f.owner, cr := f.cr, ready := vccOf w c + f.form.lat,
      writes := dstWrites f.form.dst j (laneValue b k f op j).val, flags := (laneValue b k f op j).flags, pc := f.pc, word := f.word }] := by
  have h := (((LanesMove.start w c).touchSample f.seq fun x => { x with read := vccOf w c - f.issue, exec := vccOf w c - f.issue }).countAct
    f.owner (·.lane f.form.col)).setFlight { f with next := j + 1 }
  have hv := h.vcc
  have h := h.pushResult f.owner f.cr f.seq (vccOf w c + f.form.lat) f.from_ (dstWrites f.form.dst j (laneValue b k f op j).val)
    (laneValue b k f op j).flags
  simp only [laneExecute, hf, hb, hk, hop, hon, hp, isMemOp, hostTagEnd, laneAct, Bool.and_false, Bool.false_and, Bool.not_true,
    Bool.false_eq_true, if_false, if_true]
  rw [hv]
  exact h

/-- In a state: an enabled lane of a register-to-register instruction leaves its result pending, and no course or block changes. -/
theorem exec_laneExecute_alu {s : State} {seq j : Nat} {f : Flight} {b : Block} {k : Course} {op : AluOp} (h : LaneDue s c seq j 1 f b k)
    (hj : j < 32) (hop : f.form.op = .alu op) (hl : lives k f j = true) (hs : sound k f j = true) :
    ∃ s', exec (.laneExecute c seq j) s = .next s' ∧ CoursesKept s s' ∧
      (Say.core s' c).results = (Say.core s c).results ++ [nextResult s c f (vcc s c + f.form.lat)
        (dstWrites f.form.dst j (laneValue b k f op j).val) (laneValue b k f op j).flags] := by
  obtain ⟨hf, hb, hk⟩ := h
  have hm := laneExecute_alu hf hb hk hop (by rwa [laneOn_eq_lives k f hj]) (laneReadsPoison_of_sound hs)
  exact ⟨commit s (laneExecute c seq j (enter s)), rfl, hm.coursesKept, hm.results⟩

/-! ## Destinations of lanes (R59, R116) -/

/-- A destination in lanes: a register, a pair, a predicate, or none. -/
def Dst.perLane : Dst → Bool
  | .none => true
  | .reg _ => true
  | .pair _ => true
  | .pred _ => true
  | _ => false

/-- Such a destination takes the words of R59. -/
theorem dstWrites_eq_laneWrites {d : Dst} (h : d.perLane = true) (j : Nat) (v : W64) : dstWrites d j v = laneWrites d j v := by
  cases d with
  | none | reg | pair | pred => rfl
  | quad | uni | uniPair => cases h

@[simp] theorem perLane_reg (n : Nat) : (Dst.reg n).perLane = true := rfl
@[simp] theorem perLane_pred (p : BitVec 3) : (Dst.pred p).perLane = true := rfl
@[simp] theorem perLane_laneDst (wide : Bool) (d : Reg) : (laneDst wide d).perLane = true := by cases wide <;> rfl

@[simp] theorem perLane_resolve (d : Dst) (wb : Nat) : (d.resolve wb).perLane = d.perLane := by cases d <;> rfl

/-- Every register-to-register instruction has one; the four words of a `tdesc` are of another kind. -/
theorem laneForm_perLane {i : Instr} {f : Form} {op : AluOp} (h : laneForm i = some f) (hop : f.op = .alu op) : f.dst.perLane = true := by
  cases i
  case mfs _ _ uni | mts _ _ uni | tdesc _ _ uni =>
    cases uni <;> cases h
    cases hop
  all_goals cases h <;> simp [lane1, lane2, lane3, lanePred]

/-- So has every flight that an issue of one sends over the lanes. -/
theorem flies_perLane {s : State} {t : Site} {i : Instr} {f : Form} {x : Flight} {op : AluOp} (hi : laneForm i = some f)
    (hx : Flies s t f x) (hop : x.form.op = .alu op) : x.form.dst.perLane = true := by
  rw [hx.form] at hop ⊢
  exact (perLane_resolve f.dst t.k.wb).trans (laneForm_perLane hi hop)

/-- A lane of a flight whose destination is in lanes leaves the words of R59 pending, computed with the draws of R72. -/
theorem exec_laneExecute_perLane {s : State} {seq j : Nat} {f : Flight} {b : Block} {k : Course} {op : AluOp}
    (h : LaneDue s c seq j 1 f b k) (hj : j < 32) (hop : f.form.op = .alu op) (hl : lives k f j = true) (hs : sound k f j = true)
    (hd : f.form.dst.perLane = true) :
    ∃ s' v, exec (.laneExecute c seq j) s = .next s' ∧ CoursesKept s s' ∧
      v = aluEval op (k.src j f.form.a) (k.src j f.form.b) (k.src j f.form.c)
        (fun e => (draw f.seed f.dii (BitVec.ofNat 64 ((if b.hdr.compat then j % 16 else j) + 32 * e))).toNat) ∧
      (Say.core s' c).results = (Say.core s c).results ++ [nextResult s c f (vcc s c + f.form.lat) (laneWrites f.form.dst j v.val) v.flags] := by
  obtain ⟨s', he, hk, hr⟩ := exec_laneExecute_alu h hj hop hl hs
  rw [dstWrites_eq_laneWrites hd] at hr
  exact ⟨s', laneValue b k f op j, he, hk, by rw [laneValue, drawOf_eq_draw], hr⟩

end Sys2Proof.Machine

namespace Sys2Proof.Proofs

open Sys2Proof.Machine Sys2Proof.Say

/-- Settles O5: a step that reaches the turns runs the next turn's slot, which passes the checks before the instruction's own. -/
theorem stepRunsDecoded : Obligations.StepRunsDecoded := by
  intro s t i hin hev hscan hbody hturn hkind hres hdec
  rw [step_turn hin hev hscan hbody hturn, runTurn, issueAct_run hkind hres hdec]
  rfl

/-- Settles O23: the course becomes that of `landed`, which in a lane of the course holds the words and the flags, and in a lane that
has exited differs in its poison alone. -/
theorem laneResultLands : Obligations.LaneResultLands := by
  intro s c rid r k j n lo hi h hj hw
  obtain ⟨s', he, hl, hb⟩ := exec_resultReady h
  rw [hw, ← wordWrites, landBlocks_wordWrites] at hb
  have hblocks : ∀ o, block s' c o = block s c o := fun o => congrArg (Tab.find · o) hb
  refine ⟨s', k.landed r, he, hl, hblocks, ?_⟩
  cases hlive : k.live.getLsbD j with
  | true =>
    obtain ⟨p, hp⟩ := landed_wordWrites_live hw hlive
    rw [hp]
    refine ⟨rfl, rfl, rfl, rfl, setWords_low k n j lo hi hj, fun v hv => ?high,
      fun n' j' hj' hne => setWords_other k lo hi hj hj' hne, rfl⟩
    case high => subst hv; exact setWords_high k n j lo v
  | false =>
    obtain ⟨p, hp⟩ := landed_wordWrites_gone hw hlive
    rw [hp]
    exact ⟨rfl, rfl, rfl, rfl, rfl, rfl⟩

/-- A flight whose `mov` has the uniform register k0 as its destination, which no issue over the lanes sends. -/
def uniformFlight : Flight :=
  { seq := 0, owner := 0, cr := 0, path := 0, pathIx := 0, pc := 96, word := 0, mask := 1, pred := 7, neg := false, issue := 0, cyc := 0,
    form := { op := .alu .mov, dst := .uni 0, a := .imm 9 }, part := 32, seed := 0, dii := 0 }

/-- The block and the course of that flight. -/
def uniformBlock : Block := { bind := bareBind, hdr := bareHdr, bseed := 0 }
def uniformCourse : Course := { owner := 0, cr := 0, str := 0, rot := 0, drot := 1, allot := 32, part := 32 }

/-- The machine after reset, with that flight on core 0. -/
def uniformState : State :=
  { mach := { cores := [(0, { blocks := [(0, uniformBlock)], courses := [(0, uniformCourse)], flights := [uniformFlight] })] } }

/-- Lane 0 of that flight is due, enabled and sound. -/
theorem uniformFlight_due : LaneDue uniformState 0 0 0 1 uniformFlight uniformBlock uniformCourse := ⟨rfl, rfl, rfl⟩

/-- Refutes O18: the statement lets the flight have a destination that is not in lanes. Lane 0 of `uniformFlight` leaves a write of k0
pending, where `laneWrites` has none. With a destination in lanes, as every issue sends it (`flies_perLane`), the statement holds
(`exec_laneExecute_perLane`). -/
theorem not_laneExecutes : ¬ Obligations.LaneExecutes := by
  intro h
  have hlives : lives uniformCourse uniformFlight 0 = true := by decide
  have hsound : sound uniformCourse uniformFlight 0 = true := by decide
  obtain ⟨s₁, he₁, -, hr₁⟩ := exec_laneExecute_alu uniformFlight_due (by decide) rfl hlives hsound
  obtain ⟨s₂, v, he₂, -, -, hr₂⟩ := h _ _ _ _ _ _ _ _ uniformFlight_due (by decide) rfl hlives hsound
  obtain rfl : s₁ = s₂ := Host.Outcome.next.inj (he₁.symm.trans he₂)
  have hwrites : [[Write.uni 0 9]] = [[]] := congrArg (List.map Result.writes) (hr₁.symm.trans hr₂)
  exact absurd hwrites (by decide)

end Sys2Proof.Proofs

/-! SUPPORT. How a course holds its paths (R22 to R27): reading a path after another was put, and what parking, filling and
settling keep; how a transfer divides a path (R151), and what a `join` makes of the paths at its token (R26, R157). -/

namespace Sys2Proof.Machine

open Sys2Proof.Say

/-! ## Paths by index -/

/-- The paths of a course are those that its path table holds, each with its index. -/
theorem mem_paths {k : Course} {i : Nat} {p : Path} : (i, p) ∈ k.paths ↔ k.path? i = some p := by
  match i with
  | 0 => simp [Course.paths, Course.path?]
  | 1 => simp [Course.paths, Course.path?]
  | n + 2 => simp [Course.paths, Course.path?, List.mem_mapIdx, List.getElem?_eq_some_iff]

/-- They stand in rising order of index. -/
theorem paths_sorted (k : Course) : k.paths.Pairwise fun x y => x.1 < y.1 := by
  have hstack : (k.stack.mapIdx fun n p => (n + 2, p)).Pairwise fun x y => x.1 < y.1 := by
    rw [List.pairwise_iff_getElem]
    intro i j hi hj hij
    simpa using hij
  cases h0 : k.slot0 <;> cases h1 : k.slot1 <;>
    simp [Course.paths, h0, h1, hstack, List.mem_mapIdx] <;> grind

/-- A path put at its index reads back. -/
theorem path_setPath_same {k : Course} {i : Nat} {p : Path} (q : Path) (h : k.path? i = some p) : (k.setPath i q).path? i = some q := by
  match i with
  | 0 => rfl
  | 1 => rfl
  | n + 2 =>
    have hn : n < k.stack.length := (List.getElem?_eq_some_iff.mp h).1
    simp [Course.setPath, Course.path?, hn]

/-- So does one put in a resident slot, full or empty. -/
theorem path_setPath_resident (k : Course) {i : Nat} (q : Path) (h : i < 2) : (k.setPath i q).path? i = some q := by
  match i, h with
  | 0, _ => rfl
  | 1, _ => rfl

/-- It leaves every other index. -/
theorem path_setPath_other (k : Course) {i j : Nat} (q : Path) (h : j ≠ i) : (k.setPath i q).path? j = k.path? j := by
  match i, j with
  | 0, 0 => exact absurd rfl h
  | 1, 1 => exact absurd rfl h
  | 0, 1 | 1, 0 | 0, n + 2 | 1, n + 2 | m + 2, 0 | m + 2, 1 => rfl
  | m + 2, n + 2 =>
    have hmn : m ≠ n := by omega
    simp [Course.setPath, Course.path?, hmn]

@[simp] theorem setPath_tokens (k : Course) (i : Nat) (q : Path) : (k.setPath i q).tokens = k.tokens := by
  unfold Course.setPath; split <;> rfl
@[simp] theorem setPath_div (k : Course) (i : Nat) (q : Path) : (k.setPath i q).div = k.div := by
  unfold Course.setPath; split <;> rfl
@[simp] theorem path_setWindow (k : Course) (s c i : Nat) : (k.setWindow s c).path? i = k.path? i := by
  unfold Course.setWindow; split <;> rfl
@[simp] theorem setWindow_tokens (k : Course) (s c : Nat) : (k.setWindow s c).tokens = k.tokens := by
  unfold Course.setWindow; split <;> rfl

/-- Tokens are found by the lanes that they hold alone. -/
theorem innermost_congr {k k' : Course} (h : k'.tokens.map Token.hold = k.tokens.map Token.hold) (m : LaneMask) :
    k'.innermost m = k.innermost m := by
  have hlen : k'.tokens.length = k.tokens.length := by simpa using congrArg List.length h
  simp only [Course.innermost, hlen]
  congr 1
  funext n
  have hn : (k'.tokens[n]?).map Token.hold = (k.tokens[n]?).map Token.hold := by
    simpa only [List.getElem?_map] using congrArg (·[n]?) h
  cases h' : k'.tokens[n]? <;> cases h'' : k.tokens[n]? <;> simp_all

end Sys2Proof.Machine

namespace Sys2Proof.Machine

open Sys2Proof.Say

/-! ## Masks of lanes -/

/-- The lanes of a mask, ascending. -/
theorem mem_lanesOf {m : LaneMask} {j : Nat} : j ∈ lanesOf m ↔ m.getLsbD j = true := by
  simp only [lanesOf, List.mem_filter, List.mem_range, and_iff_right_iff_imp]
  intro h
  by_contra hj
  rw [BitVec.getLsbD_of_ge m j (by omega)] at h
  cases h

theorem lanesOf_sorted (m : LaneMask) : (lanesOf m).Pairwise (· < ·) :=
  List.pairwise_lt_range.filter _

/-- A mask with a lane has a lowest one. -/
theorem lanesOf_ne_nil {m : LaneMask} (h : m ≠ 0) : lanesOf m ≠ [] := by
  intro hn
  refine h (BitVec.eq_of_getLsbD_eq fun j _ => ?_)
  have : j ∉ lanesOf m := by simp [hn]
  simpa [mem_lanesOf] using this

@[simp] theorem getLsbD_laneBit {i : Nat} (j : Nat) (hi : i < 32) : (laneBit j).getLsbD i = decide (i = j) := by
  rw [laneBit, BitVec.getLsbD_ofNat, Nat.testBit_two_pow, decide_eq_true hi, Bool.true_and]
  exact decide_eq_decide.mpr eq_comm

/-- The mask of a list of lanes. -/
theorem getLsbD_foldl_laneBit (l : List Nat) (m : LaneMask) {i : Nat} (hi : i < 32) :
    (l.foldl (fun m j => m ||| laneBit j) m).getLsbD i = (m.getLsbD i || decide (i ∈ l)) := by
  induction l generalizing m with
  | nil => simp
  | cons j l ih => simp only [List.foldl_cons, ih, BitVec.getLsbD_or, getLsbD_laneBit j hi, List.mem_cons, Bool.decide_or, Bool.or_assoc]

/-! ## The groups of a transfer (R151) -/

/-- The lanes of a path that go where lane `j` goes, as a mask. -/
def Path.group (p : Path) (f : Nat → Nat) (j : Nat) : LaneMask :=
  ((lanesOf p.mask).filter fun l => decide (f l = f j)).foldl (fun m l => m ||| laneBit l) 0

/-- The lowest lane of each group, ascending. -/
def Path.firsts (p : Path) (f : Nat → Nat) : List Nat :=
  (lanesOf p.mask).filter fun j => !(((lanesOf p.mask).filter fun l => decide (l < j)).any fun l => decide (f l = f j))

/-- The lane of a list after `b` for which a count is greatest, the first of equal ones. -/
def greatest (n : Nat → Nat) (b : Nat) (l : List Nat) : Nat := l.foldl (fun b j => if n b < n j then j else b) b

/-- The lowest lane of the group that keeps the slot. -/
def Path.keeper (p : Path) (f : Nat → Nat) : Nat :=
  greatest (fun j => laneCount (p.group f j)) ((p.firsts f).headD 0) (p.firsts f)

variable {p : Path} {f : Nat → Nat}

theorem getLsbD_group {i : Nat} (j : Nat) (hi : i < 32) : (p.group f j).getLsbD i = together p f j i := by
  rw [Path.group, getLsbD_foldl_laneBit _ _ hi]
  simp [together, mem_lanesOf, Bool.decide_and]

theorem laneCount_group (j : Nat) : laneCount (p.group f j) = howMany p f j := by
  unfold laneCount lanesOf howMany
  congr 1
  exact List.filter_congr fun i hi => getLsbD_group j (List.mem_range.mp hi)

theorem mem_firsts {j : Nat} : j ∈ p.firsts f ↔ p.mask.getLsbD j = true ∧ ∀ l, l < j → p.mask.getLsbD l = true → f l ≠ f j := by
  simp [Path.firsts, mem_lanesOf]
  grind

/-- Every lane of the path goes with a lane that is the first of its group. -/
theorem exists_first {j : Nat} (h : p.mask.getLsbD j = true) : ∃ i ∈ p.firsts f, i ≤ j ∧ f i = f j := by
  induction j using Nat.strong_induction_on with
  | _ j ih =>
    by_cases hj : j ∈ p.firsts f
    · exact ⟨j, hj, le_rfl, rfl⟩
    · rw [mem_firsts] at hj
      push Not at hj
      obtain ⟨l, hl, hm, hf⟩ := hj h
      obtain ⟨i, hi, hle, hfi⟩ := ih l hl hm
      exact ⟨i, hi, by omega, hfi.trans hf⟩

/-- Lanes with one target have one group. -/
theorem together_congr {i j : Nat} (h : f i = f j) : together p f i = together p f j := by
  funext l
  simp [together, h]

theorem howMany_congr {i j : Nat} (h : f i = f j) : howMany p f i = howMany p f j := by
  rw [howMany, together_congr h, howMany]

/-- In rising lanes the one that `greatest` finds has the greatest count, and is the lowest with it. -/
theorem greatest_spec (n : Nat → Nat) (b : Nat) (l : List Nat) (hs : (b :: l).Pairwise (· < ·)) :
    greatest n b l ∈ b :: l ∧ ∀ j ∈ b :: l, n j ≤ n (greatest n b l) ∧ (n j = n (greatest n b l) → greatest n b l ≤ j) := by
  induction l generalizing b with
  | nil => simp [greatest]
  | cons a l ih =>
    obtain ⟨hb, ha⟩ := List.pairwise_cons.mp hs
    have hstep : greatest n b (a :: l) = greatest n (if n b < n a then a else b) l := rfl
    rw [hstep]
    split
    · next hlt =>
      obtain ⟨hm, hg⟩ := ih a ha
      refine ⟨.tail _ hm, fun j hj => ?_⟩
      rcases List.mem_cons.mp hj with rfl | hj
      · have := (hg a (by simp)).1
        exact ⟨by omega, by omega⟩
      · exact hg j hj
    · next hge =>
      have hbl : (b :: l).Pairwise (· < ·) :=
        List.pairwise_cons.mpr ⟨fun x hx => hb x (.tail _ hx), (List.pairwise_cons.mp ha).2⟩
      obtain ⟨hm, hg⟩ := ih b hbl
      have hgb := hg b (by simp)
      refine ⟨?_, fun j hj => ?_⟩
      · rcases List.mem_cons.mp hm with h | h
        · rw [h]; simp
        · simp [h]
      · rcases List.mem_cons.mp hj with rfl | hj
        · exact hgb
        · rcases List.mem_cons.mp hj with rfl | hj
          · have := hb j (by simp)
            exact ⟨by omega, fun h => by have := hgb.2 (by omega); omega⟩
          · exact hg j (.tail _ hj)

/-- The lane that keeps the slot is the first of its group, its group is the largest, and of equal ones that with the lowest lane. -/
theorem keeper_spec (h : p.mask ≠ 0) : p.keeper f ∈ p.firsts f ∧ ∀ j ∈ p.firsts f,
    howMany p f j ≤ howMany p f (p.keeper f) ∧ (howMany p f j = howMany p f (p.keeper f) → p.keeper f ≤ j) := by
  have hsorted : (p.firsts f).Pairwise (· < ·) := (lanesOf_sorted p.mask).filter _
  obtain ⟨j, hj⟩ := List.exists_mem_of_ne_nil _ (lanesOf_ne_nil h)
  obtain ⟨i, hi, -⟩ := exists_first (f := f) (mem_lanesOf.mp hj)
  unfold Path.keeper
  simp only [laneCount_group]
  cases hl : p.firsts f with
  | nil => simp [hl] at hi
  | cons b l =>
    have hfirst : greatest (howMany p f) b (b :: l) = greatest (howMany p f) b l := by simp [greatest]
    rw [List.headD_cons, hfirst]
    exact greatest_spec (howMany p f) b l (hl ▸ hsorted)

/-! ## Where a transfer puts the groups (R22, R25, R151) -/

/-- Every path of `k` is one of `k'`, at its index. -/
def Course.Extends (k k' : Course) : Prop := ∀ i q, k.path? i = some q → k'.path? i = some q

theorem Course.Extends.refl (k : Course) : k.Extends k := fun _ _ h => h

theorem Course.Extends.trans {k k' k'' : Course} (h : k.Extends k') (h' : k'.Extends k'') : k.Extends k'' :=
  fun i q hq => h' i q (h i q hq)

/-- A path of the lanes of a group, at its target, which a transfer at a cycle makes of a path. -/
def Path.part (p : Path) (f : Nat → Nat) (cyc j : Nat) (id : Nat) : Path :=
  { id := id, anc := p.id :: (p.merged ++ p.anc), mask := p.group f j, pc := f j, lastIssue := cyc, marks := p.marks }

/-- A new path goes to an empty slot, or to the end of the stack; `r.2` counts the latter. -/
def Course.place (p : Path) (f : Nat → Nat) (cyc : Nat) (r : Course × Nat) (j : Nat) : Course × Nat :=
  let g := p.part f cyc j r.1.nextPath
  let k := { r.1 with nextPath := r.1.nextPath + 1 }
  if k.slot0.isNone then (k.setPath 0 g, r.2)
  else if k.slot1.isNone then (k.setPath 1 g, r.2)
  else ({ k with stack := k.stack ++ [g] }, r.2 + 1)

/-- A course whose slots issue on turns of their own from a cycle (R23). -/
def Course.diverge (k : Course) (cyc : Nat) : Course :=
  match k.div with
  | some _ => k
  | none => { k with div := some cyc, win1 := 0 }

/-- A transfer keeps the group of `keeper` in the slot and places the others. -/
theorem transfer_eq {k : Course} {ix cyc : Nat} (h : k.path? ix = some p) :
    k.transfer ix cyc f =
      let k' := k.setPath ix { p with mask := p.group f (p.keeper f), pc := f (p.keeper f) }
      let others := (p.firsts f).filter fun j => decide (j ≠ p.keeper f)
      if others.isEmpty then k'
      else
        let r := others.foldl (Course.place p f cyc) (k'.diverge cyc, 0)
        if r.2 = 0 then r.1 else r.1.setWindow ix (cyc + 24 * r.2 + 1) := by
  unfold Course.transfer
  rw [h]
  rfl

theorem path_diverge (k : Course) (cyc i : Nat) : (k.diverge cyc).path? i = k.path? i := by
  unfold Course.diverge; split <;> rfl

/-- Placing a path leaves those that are there, and the new one is there. -/
theorem place_spec (cyc : Nat) (r : Course × Nat) (j : Nat) :
    r.1.Extends (Course.place p f cyc r j).1 ∧ ∃ i id, (Course.place p f cyc r j).1.path? i = some (p.part f cyc j id) := by
  obtain ⟨k, n⟩ := r
  unfold Course.place
  simp only
  split
  · next h0 =>
    refine ⟨fun i q hq => ?_, 0, k.nextPath, rfl⟩
    rw [path_setPath_other _ _ (by rintro rfl; simp_all [Course.path?])]
    exact hq
  · split
    · next h1 =>
      refine ⟨fun i q hq => ?_, 1, k.nextPath, rfl⟩
      rw [path_setPath_other _ _ (by rintro rfl; simp_all [Course.path?])]
      exact hq
    · refine ⟨fun i q hq => ?_, k.stack.length + 2, k.nextPath, by simp [Course.path?]⟩
      match i with
      | 0 | 1 => exact hq
      | i + 2 =>
        have hlt : i < k.stack.length := (List.getElem?_eq_some_iff.mp hq).1
        simpa [Course.path?, List.getElem?_append_left hlt] using hq

/-- So does placing a list of them. -/
theorem placeAll_spec (cyc : Nat) (js : List Nat) (r : Course × Nat) :
    r.1.Extends (js.foldl (Course.place p f cyc) r).1 ∧
      ∀ j ∈ js, ∃ i id, (js.foldl (Course.place p f cyc) r).1.path? i = some (p.part f cyc j id) := by
  induction js generalizing r with
  | nil => exact ⟨.refl _, by simp⟩
  | cons a js ih =>
    obtain ⟨hext, i, id, hnew⟩ := place_spec (p := p) (f := f) cyc r a
    obtain ⟨hrest, hall⟩ := ih (Course.place p f cyc r a)
    refine ⟨hext.trans hrest, fun j hj => ?_⟩
    rcases List.mem_cons.mp hj with rfl | hj
    · exact ⟨i, id, hrest _ _ hnew⟩
    · exact hall j hj

/-- A transfer puts the keeper's group in the slot, leaves every other path, and gives every other group a path. -/
theorem transfer_spec {k : Course} {ix : Nat} (cyc : Nat) (h : k.path? ix = some p) :
    (k.setPath ix { p with mask := p.group f (p.keeper f), pc := f (p.keeper f) }).Extends (k.transfer ix cyc f) ∧
      ∀ j ∈ p.firsts f, j ≠ p.keeper f → ∃ i id, (k.transfer ix cyc f).path? i = some (p.part f cyc j id) := by
  rw [transfer_eq h]
  simp only
  generalize k.setPath ix _ = k'
  split
  · next hnone =>
    refine ⟨.refl _, fun j hj hne => ?_⟩
    rw [List.isEmpty_iff, List.filter_eq_nil_iff] at hnone
    exact absurd (decide_eq_true hne) (hnone j hj)
  · obtain ⟨hext, hall⟩ := placeAll_spec (p := p) (f := f) cyc ((p.firsts f).filter fun j => decide (j ≠ p.keeper f)) (k'.diverge cyc, 0)
    have hext' : k'.Extends (List.foldl (Course.place p f cyc) (k'.diverge cyc, 0) ((p.firsts f).filter fun j => decide (j ≠ p.keeper f))).1 :=
      fun i q hq => hext i q (by rwa [path_diverge])
    have hall' := fun j (hj : j ∈ p.firsts f) (hne : j ≠ p.keeper f) => hall j (by simp [hj, hne])
    split
    · exact ⟨hext', hall'⟩
    · refine ⟨fun i q hq => ?_, fun j hj hne => ?_⟩
      · rw [path_setWindow]; exact hext' i q hq
      · simpa only [path_setWindow] using hall' j hj hne

end Sys2Proof.Machine

namespace Sys2Proof.Proofs

open Sys2Proof.Machine Sys2Proof.Say

/-- Settles O38: the groups are those of their first lanes; the one that `keeper` finds keeps the slot, and `place` gives every other
one a path where none was. -/
theorem transferLanes : Obligations.TransferLanes := by
  intro k ix cyc p f hp hmask
  obtain ⟨hkeep, hmost⟩ := keeper_spec (f := f) hmask
  obtain ⟨hext, hothers⟩ := transfer_spec (f := f) cyc hp
  have hslot := hext ix _ (path_setPath_same _ hp)
  refine ⟨p.keeper f, _, (mem_firsts.mp hkeep).1, hslot, rfl, fun j hj => getLsbD_group _ hj, fun j hj => ?largest, fun j hj => ?group,
    fun x hx hne => ?other⟩
  case largest =>
    obtain ⟨i, hi, hle, hf⟩ := exists_first (f := f) hj
    obtain ⟨hcount, htie⟩ := hmost i hi
    rw [← howMany_congr hf]
    refine ⟨hcount, fun h => ⟨p.keeper f, (htie h).trans hle, ?_⟩⟩
    simp [together, (mem_firsts.mp hkeep).1]
  case group =>
    obtain ⟨i, hi, -, hf⟩ := exists_first (f := f) hj
    rw [← together_congr hf, ← hf]
    by_cases hik : i = p.keeper f
    · exact ⟨_, mem_paths.mpr hslot, by rw [hik], fun l hl => by rw [hik]; exact getLsbD_group _ hl⟩
    · obtain ⟨n, id, hn⟩ := hothers i hi hik
      exact ⟨_, mem_paths.mpr hn, rfl, fun l hl => getLsbD_group _ hl⟩
  case other =>
    obtain ⟨i, q⟩ := x
    exact mem_paths.mpr (hext i q ((path_setPath_other _ _ hne).trans (mem_paths.mp hx)))

end Sys2Proof.Proofs

namespace Sys2Proof.Machine

open Sys2Proof.Say

/-! ## Filling, parking and settling (R25) -/

/-- A path is in one of the two slots or in the stack. -/
def Course.Has (k : Course) (q : Path) : Prop := k.slot0 = some q ∨ k.slot1 = some q ∨ q ∈ k.stack

theorem has_of_path {k : Course} {i : Nat} {q : Path} (h : k.path? i = some q) : k.Has q := by
  match i with
  | 0 => exact .inl h
  | 1 => exact .inr (.inl h)
  | n + 2 => exact .inr (.inr (List.mem_of_getElem? h))

theorem has_iff {k : Course} {q : Path} : k.Has q ↔ ∃ x ∈ k.paths, x.2 = q := by
  constructor
  · rintro (h | h | h)
    · exact ⟨(0, q), mem_paths.mpr h, rfl⟩
    · exact ⟨(1, q), mem_paths.mpr h, rfl⟩
    · obtain ⟨n, hn⟩ := List.mem_iff_getElem?.mp h
      exact ⟨(n + 2, q), mem_paths.mpr hn, rfl⟩
  · rintro ⟨⟨i, q⟩, h, rfl⟩
    exact has_of_path (mem_paths.mp h)

@[simp] theorem has_setWindow (k : Course) (s c : Nat) (q : Path) : (k.setWindow s c).Has q ↔ k.Has q := by
  unfold Course.setWindow; split <;> rfl
@[simp] theorem has_setFill (k : Course) (s c : Nat) (q : Path) : (k.setFill s c).Has q ↔ k.Has q := has_setWindow k s c q
@[simp] theorem path_setFill (k : Course) (s c i : Nat) : (k.setFill s c).path? i = k.path? i := path_setWindow k s c i
@[simp] theorem setFill_tokens (k : Course) (s c : Nat) : (k.setFill s c).tokens = k.tokens := setWindow_tokens k s c

variable {k : Course} {s : Nat} (cyc : Nat)

theorem path_clearSlot_other {i : Nat} (hs : s < 2) (h : i ≠ s) : (k.clearSlot s).path? i = k.path? i := by
  match s, hs, i with
  | 0, _, 0 | 1, _, 1 => exact absurd rfl h
  | 0, _, 1 | 1, _, 0 | 0, _, n + 2 | 1, _, n + 2 => rfl
@[simp] theorem clearSlot_tokens : (k.clearSlot s).tokens = k.tokens := by
  unfold Course.clearSlot; split <;> rfl

/-- Acting on a slot fills it from the stack or leaves the course. -/
theorem vacate_cases : k.vacate s cyc = k ∨ ∃ n p, k.stack[n]? = some p ∧
    (∀ q, k.path? s = some q → k.vacate s cyc = ({ k with stack := k.stack.eraseIdx n ++ [q] }.setPath s p).setFill s (cyc + 49)) ∧
    (k.path? s = none → k.vacate s cyc = ({ k with stack := k.stack.eraseIdx n }.setPath s p).setFill s (cyc + 25)) := by
  unfold Course.vacate
  cases k.fillable with
  | none => exact .inl rfl
  | some n =>
    cases hn : k.stack[n]? with
    | none => exact .inl (by simp [hn])
    | some p =>
      refine .inr ⟨n, p, hn, fun q hq => ?_, fun hq => ?_⟩ <;> simp only [hn, hq]

@[simp] theorem vacate_tokens : (k.vacate s cyc).tokens = k.tokens := by
  obtain h | ⟨n, p, -, hsome, hnone⟩ := vacate_cases (k := k) (s := s) cyc
  · rw [h]
  · cases hq : k.path? s with
    | some q => rw [hsome q hq]; simp
    | none => rw [hnone hq]; simp

/-- A path in the other slot stays there. -/
theorem path_vacate_other {i : Nat} (hi : i < 2) (h : i ≠ s) : (k.vacate s cyc).path? i = k.path? i := by
  have hstack : ∀ (l : List Path) (p : Path) (c : Nat), (({ k with stack := l }.setPath s p).setFill s c).path? i = k.path? i := by
    intro l p c
    rw [path_setFill, path_setPath_other _ _ h]
    match i, hi with
    | 0, _ | 1, _ => rfl
  obtain h | ⟨n, p, -, hsome, hnone⟩ := vacate_cases (k := k) (s := s) cyc
  · rw [h]
  · cases hq : k.path? s with
    | some q => rw [hsome q hq, hstack]
    | none => rw [hnone hq, hstack]

/-- No path is lost where the slot's own goes to the stack. -/
theorem has_vacate {q p : Path} (hs : s < 2) (hp : k.path? s = some p) (h : k.Has q) : (k.vacate s cyc).Has q := by
  obtain hv | ⟨n, r, hr, hsome, -⟩ := vacate_cases (k := k) (s := s) cyc
  · rwa [hv]
  · rw [hsome p hp, has_setFill]
    have hmem : q ∈ k.stack → q = r ∨ q ∈ k.stack.eraseIdx n := fun hq => by
      rw [List.mem_eraseIdx_iff_getElem?]
      obtain ⟨m, hm⟩ := List.mem_iff_getElem?.mp hq
      by_cases hmn : m = n
      · subst hmn; exact .inl (Option.some.inj (hm.symm.trans hr))
      · exact .inr ⟨m, hmn, hm⟩
    match s, hs with
    | 0, _ | 1, _ =>
      simp only [Course.Has, Course.setPath, Course.path?, List.mem_append, List.mem_singleton] at h hp ⊢
      grind

/-- Settling keeps every path. -/
theorem has_settle {q : Path} (h : k.Has q) : (k.settle cyc).Has q := by
  unfold Course.settle
  split
  · next _ _ ix p _ hpaths _ =>
    obtain ⟨x, hx, rfl⟩ := has_iff.mp h
    rw [hpaths, List.mem_singleton] at hx
    subst hx
    split
    · exact h
    · split
      · exact .inl rfl
      · rw [has_setFill]; exact .inl rfl
  · exact h

@[simp] theorem settle_tokens : (k.settle cyc).tokens = k.tokens := by
  unfold Course.settle
  split
  · split
    · rfl
    · split
      · rfl
      · rw [setFill_tokens]
  · rfl

/-! ## Completing a token (R26) -/

/-- The members of a token's join: the parked paths whose innermost token it is. -/
def Course.members (k : Course) (n : Nat) : List (Nat × Path) :=
  k.paths.filter fun x => decide (x.2.st = .parked) && decide (k.innermost x.2.mask = some n)

theorem mem_members {n : Nat} {x : Nat × Path} :
    x ∈ k.members n ↔ x ∈ k.paths ∧ x.2.st = .parked ∧ k.innermost x.2.mask = some n := by
  simp [Course.members]

/-- A path of the members' names leaves its slot, unless it is the slot of the united path. -/
def Course.dropMember (ids : List Nat) (ix cyc : Nat) (k : Course) (slot : Nat) : Course :=
  match k.path? slot with
  | some p => if ids.contains p.id && decide (slot ≠ ix) then (k.clearSlot slot).vacate slot cyc else k
  | none => k

theorem path_dropMember (ids : List Nat) {ix : Nat} (hix : ix < 2) (hs : s < 2) :
    (k.dropMember ids ix cyc s).path? ix = k.path? ix := by
  unfold Course.dropMember
  split
  · split
    · next h =>
      have hne : ix ≠ s := by simp at h; omega
      rw [path_vacate_other cyc hix hne, path_clearSlot_other hs hne]
    · rfl
  · rfl

@[simp] theorem dropMember_tokens (ids : List Nat) (ix : Nat) : (k.dropMember ids ix cyc s).tokens = k.tokens := by
  unfold Course.dropMember
  split
  · split
    · simp
    · rfl
  · rfl

/-- The lanes of every member are in the union. -/
theorem getLsbD_union {l : List Path} {m : LaneMask} {j : Nat} :
    (l.foldl (fun m p => m ||| p.mask) m).getLsbD j = (m.getLsbD j || l.any fun p => p.mask.getLsbD j) := by
  induction l generalizing m with
  | nil => simp
  | cons p l ih => simp only [List.foldl_cons, ih, BitVec.getLsbD_or, List.any_cons, Bool.or_assoc]

/-- Where the lowest member is in a resident slot, completing puts the united path there. -/
theorem complete_eq {n ix : Nat} {t : Token} {u : Path} {rest : List (Nat × Path)} (ht : k.tokens[n]? = some t)
    (hm : k.members n = (ix, u) :: rest) (hix : ix < 2) :
    ∃ k' : Course, k'.tokens = k.tokens.eraseIdx n ∧
      k.complete n cyc = Course.dropMember ((u :: rest.map Prod.snd).map Path.id) ix cyc
        (Course.dropMember ((u :: rest.map Prod.snd).map Path.id) ix cyc k' 0) 1 ∧
      k'.path? ix = some (Course.unite (u :: rest.map Prod.snd) u (t.jaddr + 1) cyc) := by
  unfold Course.complete
  rw [Course.members] at hm
  simp only [ht, hm, if_neg (Nat.not_le.mpr hix)]
  refine ⟨_, ?_, rfl, ?_⟩
  · split <;> simp
  · split <;> simp [path_setPath_resident _ _ hix]

/-- A token at which a resident path is parked completes: one ready path stands at the next slot, with the lanes of every
member (R157). -/
theorem complete_spec {n : Nat} {t : Token} {p : Path} (hs : s < 2) (hp : k.path? s = some p) (hst : p.st = .parked)
    (hn : k.innermost p.mask = some n) (ht : k.tokens[n]? = some t) :
    (k.complete n cyc).tokens = k.tokens.eraseIdx n ∧ ∃ u, (k.complete n cyc).Has u ∧ u.pc = t.jaddr + 1 ∧ u.st = .ready ∧
      ∀ y ∈ k.members n, ∀ j, y.2.mask.getLsbD j = true → u.mask.getLsbD j = true := by
  have hmem : (s, p) ∈ k.members n := mem_members.mpr ⟨mem_paths.mpr hp, hst, hn⟩
  have hsorted : (k.members n).Pairwise fun x y => x.1 < y.1 := (paths_sorted k).filter _
  cases hm : k.members n with
  | nil => rw [hm] at hmem; cases hmem
  | cons x rest =>
    obtain ⟨ix, u⟩ := x
    have hix : ix < 2 := by
      rw [hm] at hmem hsorted
      rcases List.mem_cons.mp hmem with h | h
      · cases h; exact hs
      · have := (List.pairwise_cons.mp hsorted).1 _ h
        exact lt_trans this hs
    obtain ⟨k', htok, he, hk'⟩ := complete_eq cyc ht hm hix
    refine ⟨by simp [he, htok], Course.unite (u :: rest.map Prod.snd) u (t.jaddr + 1) cyc, has_of_path (i := ix) ?_, rfl, rfl,
      fun y hy j hj => ?_⟩
    · rw [he, path_dropMember cyc _ hix (by omega), path_dropMember cyc _ hix (by omega), hk']
    · have hys : y.2 ∈ u :: rest.map Prod.snd := by
        rcases List.mem_cons.mp hy with rfl | hy
        · simp
        · exact .tail _ (List.mem_map_of_mem hy)
      change BitVec.getLsbD (List.foldl (fun m p => m ||| p.mask) 0 (u :: rest.map Prod.snd)) j = true
      rw [getLsbD_union, List.any_eq_true.mpr ⟨y.2, hys, hj⟩, Bool.or_true]

/-! ## A path at a `join` (R157) -/

/-- A path that parks at a slot. -/
def Path.parkAt (p : Path) (here : Nat) : Path := { p with st := .parked, pc := here }

/-- The course as a path parks at its token. -/
def Course.park (k : Course) (ix n here : Nat) (p : Path) (t : Token) : Course :=
  { k with tokens := k.tokens.set n { t with parked := t.parked ||| (p.mask &&& t.hold) } }.setPath ix (p.parkAt here)

variable {ix n : Nat} {p : Path} {t : Token}

/-- A `join` at another slot than the innermost token's, or without one, is passed. -/
theorem joinAt_pass {here : Nat} (hp : k.path? ix = some p)
    (h : ((k.innermost p.mask).bind fun n => k.tokens[n]?).map Token.jaddr ≠ some here) : k.joinAt ix here cyc = k := by
  unfold Course.joinAt
  rw [hp]
  cases hn : k.innermost p.mask with
  | none => simp [hn]
  | some n =>
    cases ht : k.tokens[n]? with
    | none => simp [hn, ht]
    | some t =>
      have hne : t.jaddr ≠ here := by simpa [hn, ht] using h
      simp [hn, ht, hne]

/-- At the token's slot the path parks, and the token completes or another path takes the slot. -/
theorem joinAt_park (hp : k.path? ix = some p) (hn : k.innermost p.mask = some n) (ht : k.tokens[n]? = some t) :
    k.joinAt ix t.jaddr cyc = Course.settle (if (k.park ix n t.jaddr p t).tokenFull n then (k.park ix n t.jaddr p t).complete n cyc
      else (k.park ix n t.jaddr p t).vacate ix cyc) cyc := by
  simp only [Course.joinAt, hp, hn, ht, if_true]
  rfl

theorem park_tokens (here : Nat) : (k.park ix n here p t).tokens = k.tokens.set n { t with parked := t.parked ||| (p.mask &&& t.hold) } :=
  setPath_tokens _ _ _

theorem path_park (here : Nat) (hp : k.path? ix = some p) :
    (k.park ix n here p t).path? ix = some (p.parkAt here) :=
  path_setPath_same _ (p := p) (by unfold Course.path? at hp ⊢; exact hp)

theorem path_park_other (here : Nat) {i : Nat} (h : i ≠ ix) : (k.park ix n here p t).path? i = k.path? i := by
  rw [Course.park, path_setPath_other _ _ h]
  unfold Course.path?
  rfl

/-- Parking moves no token's lanes. -/
theorem innermost_park (here : Nat) (ht : k.tokens[n]? = some t) (m : LaneMask) :
    (k.park ix n here p t).innermost m = k.innermost m := by
  refine innermost_congr ?_ m
  rw [park_tokens, List.map_set]
  refine List.ext_getElem? fun i => ?_
  by_cases h : i = n
  · subst h
    obtain ⟨hlt, -⟩ := List.getElem?_eq_some_iff.mp ht
    rw [List.getElem?_set_self (by simpa using hlt), List.getElem?_map, ht, Option.map_some]
  · simp [Ne.symm h]

theorem token_park (here : Nat) (ht : k.tokens[n]? = some t) :
    (k.park ix n here p t).tokens[n]? = some { t with parked := t.parked ||| (p.mask &&& t.hold) } := by
  obtain ⟨hlt, -⟩ := List.getElem?_eq_some_iff.mp ht
  simp [park_tokens, hlt]

/-- An innermost token holds a lane. -/
theorem hold_ne_zero {m : LaneMask} (hn : k.innermost m = some n) (ht : k.tokens[n]? = some t) : t.hold ≠ 0 := by
  have h := List.find?_some hn
  simp only [ht, Bool.and_eq_true] at h
  rintro h0
  simp [h0] at h

/-- A mask lies in another one. -/
theorem and_not_eq_zero_iff {a b : LaneMask} : a &&& ~~~b = 0 ↔ ∀ j, j < 32 → a.getLsbD j = true → b.getLsbD j = true := by
  constructor
  · intro h j hj ha
    have hbit := congrArg (BitVec.getLsbD · j) h
    simpa [hj, ha] using hbit
  · intro h
    refine BitVec.eq_of_getLsbD_eq fun j hj => ?_
    have := h j hj
    simp only [BitVec.getLsbD_and, BitVec.getLsbD_not, hj, decide_true, Bool.true_and]
    cases ha : a.getLsbD j <;> simp_all

/-- No lane that holds a token is missing: each has parked, or comes with the mask `m`. -/
def Token.Arrived (x : Token) (m : LaneMask) : Prop :=
  ∀ j, j < 32 → x.hold.getLsbD j = true → x.parked.getLsbD j = true ∨ m.getLsbD j = true

theorem arrived_iff {x : Token} {m : LaneMask} : x.hold &&& ~~~(x.parked ||| m) = 0 ↔ x.Arrived m := by
  simp only [and_not_eq_zero_iff, BitVec.getLsbD_or, Bool.or_eq_true, Token.Arrived]

/-- Only its holders park at it. -/
theorem arrived_holders_iff {x : Token} {m : LaneMask} : x.Arrived (m &&& x.hold) ↔ x.Arrived m := by
  simp only [Token.Arrived, BitVec.getLsbD_and, Bool.and_eq_true]
  exact forall_congr' fun j => imp_congr_right fun _ => imp_congr_right fun hh => by simp [hh]

/-- The token is full once every holder has come, where no debugger holds a path. -/
theorem tokenFull_park (here : Nat) (hp : k.path? ix = some p) (hn : k.innermost p.mask = some n) (ht : k.tokens[n]? = some t)
    (hheld : ∀ y ∈ k.paths, y.2.held = false)
    (hall : t.Arrived p.mask) :
    (k.park ix n here p t).tokenFull n = true := by
  have hfree : ∀ y ∈ (k.park ix n here p t).paths, y.2.held = false := by
    intro y hy
    by_cases h : y.1 = ix
    · have := (mem_paths (i := y.1) (p := y.2)).mp hy
      rw [h, path_park here hp] at this
      rw [← Option.some.inj this]
      exact hheld (ix, p) (mem_paths.mpr hp)
    · exact hheld y (mem_paths.mpr ((path_park_other here h).symm.trans (mem_paths.mp hy)))
  unfold Course.tokenFull
  rw [token_park here ht]
  simp only [arrived_iff.mpr (arrived_holders_iff.mpr hall), hold_ne_zero hn ht, ne_eq, not_false_eq_true, decide_true, Bool.true_and, List.all_eq_true]
  intro y hy
  simp [hfree y hy]

/-- It is not while one is missing. -/
theorem not_tokenFull_park (here : Nat) (ht : k.tokens[n]? = some t)
    (hmiss : ¬ t.Arrived p.mask) :
    (k.park ix n here p t).tokenFull n = false := by
  unfold Course.tokenFull
  rw [token_park here ht]
  simp only [decide_eq_false (mt (arrived_iff.trans arrived_holders_iff).mp hmiss), Bool.and_false, Bool.false_and]

/-- While a holder is missing the path is parked at its token (R157). -/
theorem joinAt_waits (hix : ix < 2) (hp : k.path? ix = some p) (hn : k.innermost p.mask = some n) (ht : k.tokens[n]? = some t)
    (hmiss : ¬ t.Arrived p.mask) :
    (k.joinAt ix t.jaddr cyc).tokens = k.tokens.set n { t with parked := t.parked ||| (p.mask &&& t.hold) } ∧
      ∃ y ∈ (k.joinAt ix t.jaddr cyc).paths, y.2 = p.parkAt t.jaddr := by
  rw [joinAt_park cyc hp hn ht, not_tokenFull_park _ ht hmiss, if_neg (by simp)]
  have hpark := path_park (n := n) (t := t) t.jaddr hp
  exact ⟨by simp [park_tokens], has_iff.mp (has_settle cyc (has_vacate cyc hix hpark (has_of_path hpark)))⟩

/-- With the last holder every member is united at the next slot (R157). -/
theorem joinAt_unites (hix : ix < 2) (hp : k.path? ix = some p) (hn : k.innermost p.mask = some n) (ht : k.tokens[n]? = some t)
    (hheld : ∀ y ∈ k.paths, y.2.held = false)
    (hall : t.Arrived p.mask) :
    (k.joinAt ix t.jaddr cyc).tokens = k.tokens.eraseIdx n ∧ ∃ u ∈ (k.joinAt ix t.jaddr cyc).paths, u.2.pc = t.jaddr + 1 ∧ u.2.st = .ready ∧
      (∀ j, p.mask.getLsbD j = true → u.2.mask.getLsbD j = true) ∧
      ∀ y ∈ k.paths, y.1 ≠ ix → y.2.st = .parked → k.innermost y.2.mask = some n → ∀ j, y.2.mask.getLsbD j = true → u.2.mask.getLsbD j = true := by
  rw [joinAt_park cyc hp hn ht, tokenFull_park _ hp hn ht hheld hall, if_pos rfl]
  have hpark := path_park (n := n) (t := t) t.jaddr hp
  have hin := innermost_park (ix := ix) (p := p) t.jaddr ht
  obtain ⟨htok, u, hu, hpc, hst, hmask⟩ := complete_spec cyc hix hpark rfl ((hin _).trans hn) (token_park _ ht)
  obtain ⟨x, hx, rfl⟩ := has_iff.mp (has_settle cyc hu)
  refine ⟨by rw [settle_tokens, htok, park_tokens, List.eraseIdx_set_eq], x, hx, hpc, hst, ?_, ?_⟩
  · exact hmask (ix, p.parkAt t.jaddr) (mem_members.mpr ⟨mem_paths.mpr hpark, rfl, (hin _).trans hn⟩)
  · intro y hy hne hst hny
    exact hmask y (mem_members.mpr ⟨mem_paths.mpr ((path_park_other _ hne).trans (mem_paths.mp hy)), hst, (hin _).trans hny⟩)

end Sys2Proof.Machine

/-! SUPPORT. What an issue makes of the machine (R8, R16, R99): a slot that takes its turn passes, counts and sends its instruction on,
or stops the sash with a record (R324). -/

namespace Sys2Proof.Machine

open Sys2Proof.Say

/-! ## A slot that passes -/

/-- `w'` is `w` with the slot at the issue port passed: the port is empty and the issuing course is `k`; of its core the strings, the
profiles and the count of issues have moved on too. -/
structure Passes (w w' : World) (t : Site) (k : Course) : Prop where
  out : w'.out = w.out
  mach : w'.mach = { w.mach with cur := none, cores := w'.mach.cores }
  cores : ∀ c, c ≠ t.i.core → w'.core c = w.core c
  course : w'.course? t.i.core t.i.owner t.i.cr = some k
  others : ∀ o r, 32 * o + r ≠ 32 * t.i.owner + t.i.cr → w'.course? t.i.core o r = w.course? t.i.core o r
  own : w'.core t.i.core = { w.core t.i.core with
    courses := (w'.core t.i.core).courses, strs := (w'.core t.i.core).strs, samples := (w'.core t.i.core).samples, seq := (w'.core t.i.core).seq }

variable {s : State} {w w' : World} {t : Site} {k : Course}

/-- A new course and a new string of a core at an empty port. -/
theorem passes_setCore (t : Site) (w : World) (k : Course) (x : Str) (n : Nat) (l : List Sample) :
    Passes w ({ w with mach := { w.mach with cur := none } }.setCore t.i.core
      ({ w.core t.i.core with seq := n, courses := (w.core t.i.core).courses.put (32 * t.i.owner + t.i.cr) k, samples := l }.setStr t.k.str x)) t k where
  out := rfl
  mach := rfl
  cores c h := core_setCore_other _ _ h
  course := by simp [World.course?]
  others o r h := by
    simp only [World.course?, core_setCore_same, core_setStr_courses, Tab.find_put_other _ _ h]
  own := by simp only [core_setCore_same]; rfl

/-- Every issue lets its slot pass, and `%dii` counts. -/
theorem passes_beginIssue (t : Site) (w : World) : Passes w (beginIssue t w) t (issuedCourse t) := passes_setCore t w _ _ _ _

@[simp] theorem beginIssue_seq (t : Site) (w : World) : ((beginIssue t w).core t.i.core).seq = t.seq + 1 := by
  unfold beginIssue; simp

/-- What the columns of the issuing string hold is as it was. -/
theorem beginIssue_str (t : Site) (w : World) : ∃ l d g, ((beginIssue t w).core t.i.core).str t.k.str =
    { (w.core t.i.core).str t.k.str with last := l, draw := d, tagged := g } := by
  unfold beginIssue; simp [Core.str, Core.setStr]

/-! ## An issue that goes on (R16, R118) -/

/-- The same, with the results `rs` pending and the flights `fs` on their way. -/
structure GoesOn (w w' : World) (t : Site) (k : Course) (rs : List Result) (fs : List Flight) : Prop where
  out : w'.out = w.out
  mach : w'.mach = { w.mach with cur := none, cores := w'.mach.cores }
  cores : ∀ c, c ≠ t.i.core → w'.core c = w.core c
  course : w'.course? t.i.core t.i.owner t.i.cr = some k
  others : ∀ o r, 32 * o + r ≠ 32 * t.i.owner + t.i.cr → w'.course? t.i.core o r = w.course? t.i.core o r
  own : w'.core t.i.core = { w.core t.i.core with
    courses := (w'.core t.i.core).courses, strs := (w'.core t.i.core).strs, samples := (w'.core t.i.core).samples
    nextId := (w'.core t.i.core).nextId, seq := t.seq + 1, flights := fs, results := (w.core t.i.core).results ++ rs }

variable {rs : List Result} {fs : List Flight}

theorem goesOn_beginIssue (t : Site) (w : World) : GoesOn w (beginIssue t w) t (issuedCourse t) [] (w.core t.i.core).flights := by
  have h := passes_beginIssue t w
  refine ⟨h.out, h.mach, h.cores, h.course, h.others, ?_⟩
  rw [h.own, beginIssue_seq, List.append_nil]

/-- A change of the issuing course. -/
theorem GoesOn.modCourse (h : GoesOn w w' t k rs fs) (f : Course → Course) :
    GoesOn w (w'.modCourse t.i.core t.i.owner t.i.cr f) t (f k) rs fs := by
  have he : w'.modCourse t.i.core t.i.owner t.i.cr f = w'.setCourse t.i.core t.i.owner t.i.cr (f k) := by
    simp only [World.modCourse, h.course]
  rw [he]
  exact {
    out := h.out
    mach := by rw [World.setCourse, World.modCore, World.setCore, h.mach]
    cores := fun c hne => by rw [World.setCourse, core_modCore_other _ _ hne, h.cores c hne]
    course := course_setCourse_same ..
    others := fun o r hne => by
      rw [← h.others o r hne]
      simp only [World.course?, World.setCourse, core_modCore_same, Tab.find_put_other _ _ hne]
    own := by rw [World.setCourse, core_modCore_same, h.own] }

theorem GoesOn.setCourse (h : GoesOn w w' t k rs fs) (k' : Course) :
    GoesOn w (w'.setCourse t.i.core t.i.owner t.i.cr k') t k' rs fs := by
  have he : w'.modCourse t.i.core t.i.owner t.i.cr (fun _ => k') = w'.setCourse t.i.core t.i.owner t.i.cr k' := by
    simp only [World.modCourse, h.course]
  exact he ▸ h.modCourse fun _ => k'

/-- A change of the flights and strings of its core. -/
theorem GoesOn.modCore (h : GoesOn w w' t k rs fs) {f : Core → Core} {fs' : List Flight}
    (hf : f (w'.core t.i.core) = { w'.core t.i.core with flights := fs', strs := (f (w'.core t.i.core)).strs }) :
    GoesOn w (w'.modCore t.i.core f) t k rs fs' where
  out := h.out
  mach := by rw [World.modCore, World.setCore, h.mach]
  cores c hne := by rw [core_modCore_other _ _ hne, h.cores c hne]
  course := by rw [← h.course, World.course?, core_modCore_same, hf]; rfl
  others o r hne := by rw [← h.others o r hne, World.course?, core_modCore_same, hf]; rfl
  own := by rw [core_modCore_same, hf, h.own]

theorem GoesOn.flights (h : GoesOn w w' t k rs fs) : (w'.core t.i.core).flights = fs := by rw [h.own]

/-- In a state: what the statements say of such an issue. -/
theorem GoesOn.movesWith (h : GoesOn (enter s) w t k rs fs) : MovesWith s (commit s w) t k rs fs := by
  have hmem : (commit s w).mem = s.mem := by rw [commit_mem, h.out]; rfl
  have hown : Say.core (commit s w) t.i.core = _ := h.own
  exact {
    issued := {
      bytes := ⟨fun st a => by rw [hmem], by rw [hmem]⟩
      mach := h.mach
      seq := by rw [hown]
      kept := by rw [CoreKept, hown]; rfl
      cores := h.cores }
    own := h.course
    others := h.others
    blocks := by rw [hown]; rfl
    tiles := by rw [hown]; rfl
    tags := by rw [hown]; rfl
    cmds := by rw [hown]; rfl
    arms := by rw [hown]; rfl
    watches := by rw [hown]; rfl
    trap := by rw [hown]; rfl
    flights := by rw [hown]
    accs := by rw [hown]; rfl
    results := by rw [hown]; rfl }

/-- The answer of an issue at a site whose checks all hold (R115). -/
theorem issue_run {top : Nat} {bad : Site → Option W64} {act : Site → World → World} (h : At s t) (hfits : Fits t top) (hbad : bad t = none) :
    issue false top bad act s = .next (commit s (act t (beginIssue t (enter s)))) := by
  rw [issue_eq h.1, endStep_plain h.2, issueWorld_run (by simp) hfits hbad]

theorem issuePlain_run {act : Site → World → World} (h : At s t) : issuePlain act s = .next (commit s (act t (beginIssue t (enter s)))) :=
  issue_run h (.inl rfl) rfl

/-! ## Sending over the lanes (R16, R39) -/

/-- The first cycle at which a column is free after an issue is that before it. -/
theorem firstCycle_eq (s : State) (t : Site) (col : Col) :
    ((((beginIssue t (enter s)).core t.i.core).str t.k.str).take col t.i.cyc).1 = firstCycle s t col := by
  obtain ⟨l, d, g, h⟩ := beginIssue_str t (enter s)
  rw [h]
  cases col <;> rfl

/-- An issue that sends a form over the lanes leaves one flight more. -/
theorem goesOn_startLanes (f : Form) (stride : Nat) (set : Flight → Flight) (s : State) (t : Site) :
    GoesOn (enter s) (startLanes f stride set t (beginIssue t (enter s))) t (issuedCourse t) []
      ((Say.core s t.i.core).flights ++ [set (t.flight f (firstCycle s t f.col) stride)]) := by
  have h := goesOn_beginIssue t (enter s)
  rw [← firstCycle_eq]
  refine h.modCore ?_
  rw [h.flights]
  rfl

/-- A form of the register families over the lanes, one each `stride` cycles (R16, R19). -/
theorem sendsLanes (s : State) (t : Site) (f : Form) (stride : Nat) (set : Flight → Flight)
    (hset : ∀ x, ∃ l v, set x = { x with link := l, last := v }) :
    SendsLanes s (commit s (startLanes f stride set t (beginIssue t (enter s)))) t f stride := by
  have hm := (goesOn_startLanes f stride set s t).movesWith
  obtain ⟨l, v, hx⟩ := hset (t.flight f (firstCycle s t f.col) stride)
  rw [hx] at hm
  have hresults := hm.results
  rw [List.append_nil] at hresults
  refine ⟨hm.issued, ⟨hm.own, hm.others, hm.blocks, hm.tiles, hm.tags, hm.cmds, hm.arms, hm.watches, hm.trap⟩, hresults, hm.accs, _,
    hm.flights, ?_, rfl⟩
  exact ⟨rfl, ⟨rfl, rfl, rfl, rfl⟩, ⟨rfl, rfl, rfl, rfl⟩, ⟨rfl, rfl⟩, rfl, rfl, rfl, rfl⟩

/-- Every lane instruction of the register families is an issue of its form. -/
theorem exec_of_laneForm {i : Instr} {f : Form} (h : laneForm i = some f) (s : State) : exec i s = issueLane f s := by
  cases i
  case mfs _ _ uni | mts _ _ uni | tdesc _ _ uni =>
    cases uni <;> cases h
    rfl
  all_goals cases h <;> rfl

/-- Every chained instruction is an issue of its form. -/
theorem exec_of_chainedForm {i : Instr} {op : ChainOp} {br : Bool} {f : Form} (h : chainedForm i = some (op, br, f)) (s : State) :
    exec i s = issueChain op br f s := by
  cases i <;> cases h <;> rfl

/-- `%bri` that an issue reads is that of the state: the course before the issuing one has not passed (R20). -/
theorem briOf_beginIssue (s : State) (t : Site) : briOf (beginIssue t (enter s)) t.i.core t.b t.i.cr = bridge s t := by
  unfold briOf bridge
  split
  · rfl
  · next hcr =>
    rw [(passes_beginIssue t (enter s)).others _ _ (by omega)]
    rfl

end Sys2Proof.Machine

namespace Sys2Proof.Proofs

open Sys2Proof.Machine Sys2Proof.Say

/-- Settles O14: each is the issue of its form, which sends one flight over the lanes. -/
theorem laneIssue : Obligations.LaneIssue := by
  intro i f s t hi hat hfits
  rw [exec_of_laneForm hi, issueLane, issue_run hat hfits rfl]
  exact ⟨_, rfl, sendsLanes s t f 1 id fun x => ⟨x.link, x.last, rfl⟩⟩

/-- Settles O15: the same with four cycles a lane, and with the link and the last value that the flight starts with. -/
theorem chainIssue : Obligations.ChainIssue := by
  intro i op br f s t hi hat hfits
  rw [exec_of_chainedForm hi, issueChain, issue_run hat hfits rfl, briOf_beginIssue]
  exact ⟨_, _, rfl, sendsLanes s t f 4 _ fun x => ⟨_, _, rfl⟩, (goesOn_startLanes f 4 _ s t).movesWith.flights, rfl, rfl, rfl⟩

end Sys2Proof.Proofs

/-! SUPPORT. What taking a fault makes of the machine (R324), and what an issue that faults leaves (R99, R115). -/

namespace Sys2Proof.Machine

open Sys2Proof.Say

/-! ## Taking a fault -/

theorem modSashOf_mach (w : World) (c : Nat) (f : Sash → Sash) :
    (modSashOf w c f).mach = { w.mach with sashes := (modSashOf w c f).mach.sashes } := by
  unfold modSashOf
  split
  · split <;> rfl
  · rfl

/-- The sashes of other cores stand. -/
theorem modSashOf_sash_other {w : World} {c i : Nat} (f : Sash → Sash) (h : (w.core c).sash ≠ some i) :
    (modSashOf w c f).sash? i = w.sash? i := by
  unfold modSashOf
  split
  · next n hn =>
    have hne : i ≠ n := by rintro rfl; exact h hn
    split
    · exact Tab.find_put_other _ _ hne
    · rfl
  · rfl

theorem pauseNow_mach (w : World) (c : Nat) (src : CauseBy) :
    (pauseNow w c src).mach = { w.mach with sashes := (pauseNow w c src).mach.sashes } := by
  unfold pauseNow addCause
  rw [modSashOf_mach, modSashOf_mach]

theorem pauseNow_sash_other {w : World} {c i : Nat} (src : CauseBy) (h : (w.core c).sash ≠ some i) :
    (pauseNow w c src).sash? i = w.sash? i := by
  unfold pauseNow addCause
  rw [modSashOf_sash_other _ (by rwa [modSashOf_core]), modSashOf_sash_other _ h]

/-- A record with the cycle of its fault, and the real cycle at which the management core acts on it. -/
def FaultRec.stamped (f : FaultRec) (w : World) (c : Nat) : FaultRec := { f with vcc := BitVec.ofNat 64 (vccOf w c), due := w.later 0 }

/-- A record of the cut that the ignore policy has handled reports the fault already. -/
def pardoned (w : World) (c : Nat) (f : FaultRec) : Bool := (w.core c).pardons.any fun v => v.meets (f.stamped w c)

variable {w : World} {c : Nat} {f : FaultRec}

theorem takeFault_pardoned (h : pardoned w c f = true) :
    takeFault w c f = w.step.modCore c fun k => { k with passed := k.passed ++ [f.stamped w c] } :=
  if_pos h

theorem takeFault_open (h : pardoned w c f = false) :
    takeFault w c f = pauseNow (w.step.modCore c fun k => k.pushFault (f.stamped w c)) c (.fault c) :=
  if_neg (by rw [Bool.not_eq_true]; exact h)

theorem takeFault_mach (w : World) (c : Nat) (f : FaultRec) : (takeFault w c f).mach =
    { w.mach with cores := (takeFault w c f).mach.cores, sashes := (takeFault w c f).mach.sashes, freeCtr := (takeFault w c f).mach.freeCtr } := by
  cases h : pardoned w c f with
  | true => rw [takeFault_pardoned h]; rfl
  | false => rw [takeFault_open h, pauseNow_mach]; rfl

theorem takeFault_core_pardoned (h : pardoned w c f = true) :
    (takeFault w c f).core c = { w.core c with passed := (w.core c).passed ++ [f.stamped w c] } := by
  rw [takeFault_pardoned h, core_modCore_same]; rfl

theorem takeFault_core_open (h : pardoned w c f = false) : (takeFault w c f).core c = (w.core c).pushFault (f.stamped w c) := by
  rw [takeFault_open h, pauseNow_core, core_modCore_same]; rfl

/-- Of the core that faults only its records differ. -/
theorem takeFault_kept (w : World) (c : Nat) (f : FaultRec) : (takeFault w c f).core c = { w.core c with
    faults := ((takeFault w c f).core c).faults, waiting := ((takeFault w c f).core c).waiting, passed := ((takeFault w c f).core c).passed } := by
  cases h : pardoned w c f with
  | true => rw [takeFault_core_pardoned h]
  | false => rw [takeFault_core_open h]; unfold Core.pushFault; split <;> rfl

theorem takeFault_sash_other (f : FaultRec) {i : Nat} (h : (w.core c).sash ≠ some i) : (takeFault w c f).sash? i = w.sash? i := by
  cases hp : pardoned w c f with
  | true => rw [takeFault_pardoned hp]; rfl
  | false => rw [takeFault_open hp, pauseNow_sash_other _ (by rwa [core_modCore_same, core_pushFault_sash])]; rfl

/-! ## An issue that faults -/

variable {s : State} {t : Site} {k : Course}

/-- A slot that passes keeps the cycle of its core. -/
theorem Passes.vcc (h : Passes (enter s) w t k) : vccOf w t.i.core = Say.vcc s t.i.core := by
  unfold Say.vcc vccOf sashOf World.sash?
  rw [h.mach, h.own]

/-- The record of a fault that a passing slot raises is written as R324 says. -/
theorem Passes.recorded (h : Passes (enter s) w t k) (f : FaultRec) :
    Recorded s (commit s (takeFault w t.i.core f)) t.i.core (f.stamped w t.i.core) := by
  have hpardons : (Say.core s t.i.core).pardons = (w.core t.i.core).pardons := by rw [h.own]; rfl
  have hfaults : (Say.core s t.i.core).faults = (w.core t.i.core).faults := by rw [h.own]; rfl
  have hwaiting : (Say.core s t.i.core).waiting = (w.core t.i.core).waiting := by rw [h.own]; rfl
  have hsash : (Say.core s t.i.core).sash = (w.core t.i.core).sash := by rw [h.own]; rfl
  have hcore : Say.core (commit s (takeFault w t.i.core f)) t.i.core = (takeFault w t.i.core f).core t.i.core := rfl
  refine { again := fun hp => ?again, queued := fun hp hroom => ?queued, full := fun hp hfull => ?full, paused := fun hp i x hi hx => ?paused,
           stamp := congrArg (BitVec.ofNat 64) h.vcc }
  all_goals rw [hpardons] at hp
  case again =>
    rw [hfaults, hwaiting, hcore, takeFault_core_pardoned hp]
    exact ⟨rfl, rfl⟩
  case queued =>
    rw [hfaults] at hroom
    rw [hfaults, hwaiting, hcore, takeFault_core_open hp, core_pushFault_faults, core_pushFault_waiting]
    exact ⟨if_pos hroom, if_pos hroom⟩
  case full =>
    rw [hfaults] at hfull
    rw [hfaults, hwaiting, hcore, takeFault_core_open hp, core_pushFault_faults, core_pushFault_waiting]
    exact ⟨if_neg (Nat.not_lt.mpr hfull), if_neg (Nat.not_lt.mpr hfull)⟩
  case paused =>
    rw [hsash] at hi
    have hx' : (w.step.modCore t.i.core fun k => k.pushFault (f.stamped w t.i.core)).sash? i = some x := by
      rw [← hx]
      change w.mach.sashes.find i = _
      rw [h.mach]
      rfl
    have hs := pauseNow_sash (.fault t.i.core) (by rw [core_modCore_same, core_pushFault_sash]; exact hi) hx'
    rwa [← takeFault_open hp] at hs

/-- What an issue that stops its sash leaves: of the core its courses, strings and profiles, its records and its count of issues differ,
of the courses the issuing one alone, and elsewhere nothing but the sash of the core and the count of free values. -/
structure Stops (s s' : State) (t : Site) (k : Course) (f : FaultRec) : Prop where
  bytes : SameBytes s s'
  port : s'.mach.cur = none
  own : course s' t.i.core t.i.owner t.i.cr = some k
  others : ∀ o r, 32 * o + r ≠ 32 * t.i.owner + t.i.cr → course s' t.i.core o r = course s t.i.core o r
  kept : FaultKept (Say.core s t.i.core) (Say.core s' t.i.core)
  cores : ∀ c, c ≠ t.i.core → Say.core s' c = Say.core s c
  mach : s'.mach = { s.mach with cur := none, cores := s'.mach.cores, sashes := s'.mach.sashes, freeCtr := s'.mach.freeCtr }
  sashes : ∀ i, (Say.core s t.i.core).sash ≠ some i → sash s' i = sash s i
  record : Recorded s s' t.i.core f

/-- A fault of a slot that passes is such an issue. -/
theorem Passes.stops (h : Passes (enter s) w t k) (f : FaultRec) :
    Stops s (commit s (takeFault w t.i.core f)) t k (f.stamped w t.i.core) := by
  have hmem : (commit s (takeFault w t.i.core f)).mem = s.mem := by rw [commit_mem, takeFault_out, h.out]; rfl
  have hcourse : ∀ o r, Say.course (commit s (takeFault w t.i.core f)) t.i.core o r = w.course? t.i.core o r := fun o r => by
    change ((takeFault w t.i.core f).core t.i.core).courses.find _ = _
    rw [takeFault_kept]; rfl
  have hmach : (commit s (takeFault w t.i.core f)).mach = { s.mach with
      cur := none, cores := (takeFault w t.i.core f).mach.cores, sashes := (takeFault w t.i.core f).mach.sashes
      freeCtr := (takeFault w t.i.core f).mach.freeCtr } := by
    rw [commit_mach, takeFault_mach, h.mach]; rfl
  exact {
    bytes := ⟨fun st a => by rw [hmem], by rw [hmem]⟩
    port := by rw [hmach]
    own := (hcourse _ _).trans h.course
    others := fun o r hne => (hcourse o r).trans (h.others o r hne)
    kept := by
      have hcore : Say.core (commit s (takeFault w t.i.core f)) t.i.core = _ := takeFault_kept w t.i.core f
      rw [FaultKept, hcore, h.own]
      rfl
    cores := fun c hne => (takeFault_core_other w f hne).trans (h.cores c hne)
    mach := hmach
    sashes := fun i hi => by
      have hw : (w.core t.i.core).sash ≠ some i := by rw [h.own]; exact hi
      refine (takeFault_sash_other f hw).trans ?_
      change w.mach.sashes.find i = _
      rw [h.mach]
      rfl
    record := h.recorded f }

/-! ## A slot that faults in decode (R99, R115) -/

/-- The world as such a slot passes: it counts nowhere. -/
def passSlot (t : Site) (w : World) : World :=
  (({ w with mach := { w.mach with cur := none } }.setCourse t.i.core t.i.owner t.i.cr (t.k.setPath t.i.slot (passed t))).modCore t.i.core
    fun x => x.setStr t.k.str { x.str t.k.str with last := some t.i.cyc })

/-- Its record (R325). -/
def slotRecord (code sub : Nat) (info : W64) (t : Site) (seq : Nat) : FaultRec :=
  ({ code := code, sub := sub, src := decodeSrc t.i.word, owner := t.i.owner, cr := t.i.cr, path := t.i.slot, mask := t.p.mask, pc := pcWord t.i.pc,
     word := t.i.word, vcc := 0, info := info, seq := seq, work := .once t.i.cr t.i.slot false t.i.cyc [] } : FaultRec).ofBlock t.b

theorem decodeFault_eq (h : siteOf w = some t) (code sub : Nat) (info : W64) : decodeFault code sub info w =
    takeFault (passSlot t w) t.i.core (slotRecord code sub info t ((passSlot t w).core t.i.core).seq) := by
  obtain ⟨hcur, hb, hk, hp, -⟩ := siteOf_some h
  have hb' : ({ w with mach := { w.mach with cur := none } } : World).block? t.i.core t.i.owner = some t.b := hb
  have hk' : ({ w with mach := { w.mach with cur := none } } : World).course? t.i.core t.i.owner t.i.cr = some t.k := hk
  simp only [decodeFault, hcur, hb', hk', hp]
  rfl

theorem passes_passSlot (t : Site) (w : World) : Passes w (passSlot t w) t (t.k.setPath t.i.slot (passed t)) where
  out := rfl
  mach := rfl
  cores c h := by rw [passSlot, core_modCore_other _ _ h, World.setCourse, core_modCore_other _ _ h]; rfl
  course := by simp [passSlot, World.course?, World.setCourse]
  others o r h := by
    simp only [passSlot, World.course?, World.setCourse, core_modCore_same, core_setStr_courses, Tab.find_put_other _ _ h]
    rfl
  own := by simp only [passSlot, World.setCourse, core_modCore_same]; rfl

/-- In a state: what the statements say of such an issue. -/
theorem decodeFaults (h : At s t) (code sub : Nat) (info : W64) :
    DecodeFaults s (commit s (decodeFault code sub info (enter s))) t code sub info := by
  rw [decodeFault_eq h.1]
  have hs := (passes_passSlot t (enter s)).stops (slotRecord code sub info t ((passSlot t (enter s)).core t.i.core).seq)
  have hkept : Say.core (commit s (takeFault (passSlot t (enter s)) t.i.core _)) t.i.core = _ :=
    takeFault_kept (passSlot t (enter s)) t.i.core (slotRecord code sub info t ((passSlot t (enter s)).core t.i.core).seq)
  exact {
    bytes := hs.bytes, port := hs.port, own := hs.own, others := hs.others, kept := hs.kept, cores := hs.cores, mach := hs.mach
    sashes := hs.sashes
    seq := by
      rw [hkept]
      simp only [passSlot, World.setCourse, core_modCore_same]
      exact ⟨rfl, rfl⟩
    record := ⟨_, hs.record, rfl, rfl, rfl, rfl, rfl, rfl, rfl, rfl, rfl⟩ }

/-! ## An instruction that faults as it executes once (R115) -/

/-- In a state: what the statements say of such an issue. -/
theorem onceFaults (h : At s t) (code sub src : Nat) (info : W64) (lat : Nat) (zero : List Write) (hsrc : src ≠ 0) :
    OnceFaults s (commit s (siteFault t code sub src info lat zero (beginIssue t (enter s)))) t code sub src info := by
  have hp := passes_beginIssue t (enter s)
  have hs := fun f => hp.stops f
  have hkept := fun f => takeFault_kept (beginIssue t (enter s)) t.i.core f
  unfold siteFault
  simp only
  generalize hf : FaultRec.ofBlock _ t.b = f
  specialize hs f
  specialize hkept f
  have hcore : Say.core (commit s (takeFault (beginIssue t (enter s)) t.i.core f)) t.i.core = _ := hkept
  have hids : ∀ c, (Say.core (commit s (takeFault (beginIssue t (enter s)) t.i.core f)) c).msgs = (Say.core s c).msgs ∧
      (Say.core (commit s (takeFault (beginIssue t (enter s)) t.i.core f)) c).nextId = (Say.core s c).nextId := fun c => by
    by_cases hc : c = t.i.core
    · subst hc; rw [hcore, hp.own]; exact ⟨rfl, rfl⟩
    · rw [hs.cores c hc]; exact ⟨rfl, rfl⟩
  exact {
    bytes := hs.bytes, port := hs.port, own := hs.own, others := hs.others, mach := hs.mach, sashes := hs.sashes
    msgs := fun _ => hids
    kept := by
      rw [← (hids t.i.core).1, ← (hids t.i.core).2]
      exact hs.kept
    seq := by rw [hcore]; exact (beginIssue_seq t (enter s)).trans (congrArg (· + 1) (siteOf_some h.1).2.2.2.2)
    cores := fun c hc => by rw [← hs.cores c hc]
    record := by
      refine ⟨_, hs.record, ?_⟩
      subst hf
      exact ⟨rfl, rfl, rfl, rfl, rfl, rfl, rfl, rfl, rfl, fun j _ => by rw [if_neg hsrc]; rfl, rfl, rfl⟩ }

end Sys2Proof.Machine

namespace Sys2Proof.Proofs

open Sys2Proof.Machine Sys2Proof.Say

/-- Settles O12: the form's highest word is one past the window, so the issue faults in decode before the lanes are looked at. -/
theorem windowFaults : Obligations.WindowFaults := by
  intro i f s t hi hat hfits
  obtain ⟨htop, hwin⟩ := not_or.mp hfits
  rw [exec_of_laneForm hi, issueLane, issue_eq hat.1, endStep_plain hat.2, issueWorld_window (by simp) htop (by omega)]
  exact ⟨_, rfl, decodeFaults hat 0x0C 0 0⟩

end Sys2Proof.Proofs

/-! SUPPORT. Issues that move the paths of their course on (R33, R151, R155 to R157). -/

namespace Sys2Proof.Machine

open Sys2Proof.Say

variable {s : State} {w w' : World} {t : Site} {k : Course} {rs : List Result} {fs : List Flight}

/-- The issuing path after an issue stands at its index. -/
theorem path_issuedCourse (h : At s t) : (issuedCourse t).path? t.i.slot = some (passed t) := by
  obtain ⟨-, -, -, hp, -⟩ := siteOf_some h.1
  have := path_setPath_same (passed t) hp
  unfold issuedCourse Course.path? at *
  exact this

/-- Every other path of the course is as it was. -/
theorem path_issuedCourse_other (t : Site) {i : Nat} (h : i ≠ t.i.slot) : (issuedCourse t).path? i = t.k.path? i := by
  rw [← path_setPath_other t.k (passed t) h]
  unfold issuedCourse Course.path?
  rfl

/-- A path that no debugger holds is held by none after its issue. -/
theorem held_issuedCourse (h : At s t) (hheld : ∀ y ∈ t.k.paths, y.2.held = false) : ∀ y ∈ (issuedCourse t).paths, y.2.held = false := by
  rintro ⟨i, q⟩ hy
  rw [mem_paths] at hy
  by_cases hi : i = t.i.slot
  · subst hi
    obtain ⟨-, -, -, hp, -⟩ := siteOf_some h.1
    rw [← Option.some.inj ((path_issuedCourse h).symm.trans hy)]
    exact hheld (_, t.p) (mem_paths.mpr hp)
  · exact hheld _ (mem_paths.mpr ((path_issuedCourse_other t hi).symm.trans hy))

@[simp] theorem issuedCourse_tokens (t : Site) : (issuedCourse t).tokens = t.k.tokens := setPath_tokens ..

@[simp] theorem innermost_issuedCourse (t : Site) (m : LaneMask) : (issuedCourse t).innermost m = t.k.innermost m :=
  innermost_congr (by rw [issuedCourse_tokens]) m

/-! ## Chained sweeps that lanes leave (R171) -/

/-- A chained sweep of the issuing course. -/
def isSweep (t : Site) (f : Flight) : Bool := decide (f.stride = 4) && decide (f.owner = t.i.owner) && decide (f.cr = t.i.cr)

theorem leftBehind_eq (t : Site) (k : Course) (f : Flight) :
    leftBehind t k f = if isSweep t f then { f with mask := f.mask &&& pathLanes k f } else f := by
  simp only [leftBehind, isSweep, Bool.and_eq_true, decide_eq_true_eq, and_assoc]

theorem GoesOn.leaveSweeps (h : GoesOn w w' t k rs fs) : GoesOn w (leaveSweeps t w') t k rs (fs.map (leftBehind t k)) := by
  have hfun : leftBehind t k = fun f => if isSweep t f then { f with mask := f.mask &&& pathLanes k f } else f :=
    funext (leftBehind_eq t k)
  unfold Machine.leaveSweeps
  rw [h.course]
  simp only
  split
  · refine h.modCore ?_
    rw [h.flights, hfun]
    rfl
  · next hnone =>
    rw [h.flights] at hnone
    have hid : fs.map (leftBehind t k) = fs := by
      rw [hfun]
      refine (List.map_congr_left fun f hf => if_neg fun hm => hnone (List.any_eq_true.mpr ⟨f, hf, hm⟩)).trans (List.map_id fs)
    rwa [hid]

/-- An issue after which its course is `f` of the issued one, and its sweeps have lost the lanes that left. -/
theorem leaves_onCourse (s : State) (t : Site) (f : Course → Course) :
    Leaves s (commit s (leaveSweeps t (onCourse t (beginIssue t (enter s)) f))) t (f (issuedCourse t)) [] :=
  ((goesOn_beginIssue t (enter s)).modCourse f).leaveSweeps.movesWith

/-! ## Join tokens (R156, R157) -/

theorem offsetTarget_eq {off : Int} {x : Nat} (h : (t.i.pc : Int) + off = x) : offsetTarget t off = some x := by
  simp only [offsetTarget, h, Int.toNat_natCast]
  exact if_neg (by omega)

/-- A target at or above 0 is no bad one. -/
theorem badOffset_none {off : Int} {x : Nat} (h : (t.i.pc : Int) + off = x) : badOffset off t = none := by
  rw [badOffset, offsetTarget_eq h]

/-- What `jtok` does with the course of its issue. -/
theorem newToken_issuedCourse (h : At s t) (x : Nat) : (issuedCourse t).newToken t.i.slot x =
    if 16 ≤ t.k.tokens.length then none
    else some { issuedCourse t with tokens := t.k.tokens ++ [{ jaddr := x, hold := t.p.mask, parked := 0 }] } := by
  simp only [Course.newToken, path_issuedCourse h, issuedCourse_tokens]
  rfl

/-- `jtok` at a site. -/
theorem exec_jtok {off : BitVec 24} {x : Nat} (h : At s t) (hx : (t.i.pc : Int) + off.toInt = x) :
    exec (.jtok off) s = .next (commit s (match (issuedCourse t).newToken t.i.slot x with
      | some k => (beginIssue t (enter s)).setCourse t.i.core t.i.owner t.i.cr k
      | none => siteFault t 0x0B 0 1 0 0 [] (beginIssue t (enter s)))) := by
  change issue false 0 (badOffset off.toInt) _ s = _
  rw [issue_run h (.inl rfl) (badOffset_none hx), (goesOn_beginIssue t (enter s)).course, offsetTarget_eq hx]
  rfl

/-- Where fewer than 16 tokens live it leaves one of the path's lanes; where 16 do it raises BOUND. -/
theorem exec_jtok_room {off : BitVec 24} {x : Nat} (h : At s t) (hx : (t.i.pc : Int) + off.toInt = x) (hroom : t.k.tokens.length < 16) :
    ∃ s', exec (.jtok off) s = .next s' ∧
      Moves s s' t { issuedCourse t with tokens := t.k.tokens ++ [{ jaddr := x, hold := t.p.mask, parked := 0 }] } [] := by
  rw [exec_jtok h hx, newToken_issuedCourse h, if_neg (Nat.not_le.mpr hroom)]
  exact ⟨_, rfl, ((goesOn_beginIssue t (enter s)).setCourse _).movesWith⟩

theorem exec_jtok_full {off : BitVec 24} {x : Nat} (h : At s t) (hx : (t.i.pc : Int) + off.toInt = x) (hfull : 16 ≤ t.k.tokens.length) :
    ∃ s', exec (.jtok off) s = .next s' ∧ OnceFaults s s' t 0x0B 0 1 0 := by
  rw [exec_jtok h hx, newToken_issuedCourse h, if_pos hfull]
  exact ⟨_, rfl, onceFaults h 0x0B 0 1 0 0 [] (by decide)⟩

/-- `join` at a site. -/
theorem exec_join (h : At s t) : ∃ s', exec .join s = .next s' ∧ Leaves s s' t ((issuedCourse t).joinAt t.i.slot t.i.pc t.i.cyc) [] :=
  ⟨_, issuePlain_run h, leaves_onCourse s t _⟩

/-! ## Waiting (R33, R54) -/

/-- A path that must wait waits in a free launch, and in a timed one its instruction raises TIMING with subcode 5. -/
theorem waitOr_spec (h : At s t) (x : Wait) (lat : Nat) (zero : List Write) :
    (t.b.hdr.timed = false → Moves s (commit s (waitOr t x lat zero (beginIssue t (enter s)))) t (waiting t x) []) ∧
      (t.b.hdr.timed = true → OnceFaults s (commit s (waitOr t x lat zero (beginIssue t (enter s)))) t 0x02 5 1 0) := by
  unfold waitOr Site.timed
  refine ⟨fun ht => ?_, fun ht => ?_⟩
  · rw [if_neg (by simp [ht])]
    have hm := ((goesOn_beginIssue t (enter s)).modCourse fun k => match k.path? t.i.slot with
      | some p => k.setPath t.i.slot { p with st := .waiting x }
      | none => k).movesWith
    rw [path_issuedCourse h] at hm
    exact hm
  · rw [if_pos ht]
    exact onceFaults h 0x02 5 1 0 lat zero (by decide)

end Sys2Proof.Machine

namespace Sys2Proof.Proofs

open Sys2Proof.Machine Sys2Proof.Say

/-- Settles O41: `jtok` puts a token on the issued course or faults; `join` leaves what `joinAt` makes of it, which passes by, waits
or unites. -/
theorem joinTokens : Obligations.JoinTokens := by
  refine ⟨fun off s t x h hx => ⟨exec_jtok_room h hx, exec_jtok_full h hx⟩, fun s t h => ?join, ?any⟩
  case join =>
    have hp := path_issuedCourse h
    have hin : (issuedCourse t).innermost (passed t).mask = t.k.innermost t.p.mask := innermost_issuedCourse t _
    have htok := issuedCourse_tokens t
    obtain ⟨s', he, hl⟩ := exec_join h
    refine ⟨⟨s', he, hl⟩, fun hne => ?pass, fun n x hslot hn ht hx hmiss => ?waits, fun n x hslot hn ht hx hall hheld => ?unites⟩
    case pass =>
      rw [joinAt_pass t.i.cyc hp (by rwa [hin, htok])] at hl
      exact ⟨s', he, hl⟩
    all_goals
      rw [← hin] at hn
      rw [← htok] at ht
      rw [← hx] at hl ⊢
    case waits =>
      obtain ⟨htokens, hparked⟩ := joinAt_waits t.i.cyc hslot hp hn ht hmiss
      exact ⟨s', _, he, hl, htok ▸ htokens, hparked⟩
    case unites =>
      obtain ⟨htokens, u, hu, hpc, hst, hmine, hothers⟩ :=
        joinAt_unites t.i.cyc hslot hp hn ht (held_issuedCourse h hheld) hall
      refine ⟨s', _, he, hl, htok ▸ htokens, u, hu, hpc, hst, hmine, fun y hy hne hparked hny => ?_⟩
      exact hothers y (mem_paths.mpr ((path_issuedCourse_other t hne).trans (mem_paths.mp hy))) hne hparked
        ((innermost_issuedCourse t _).trans hny)
  case any =>
    intro k ix cyc n p x hp hix hn ht hall hheld
    obtain ⟨-, u, hu, hpc, hst, hmask, -⟩ := joinAt_unites cyc hix hp hn ht hheld (arrived_iff.mp hall)
    exact ⟨u, hu, hpc, hst, hmask⟩

end Sys2Proof.Proofs

namespace Sys2Proof.Machine

open Sys2Proof.Say

variable {s : State} {w : World} {t : Site}

/-! ## Instructions that must wait (R33, R206, R209 to R211, R235) -/

/-- The lowest-enabled-lane rule of the statements is the model's (R118). -/
theorem site_once (t : Site) : t.once = once t := by
  unfold Site.once Course.onceOk once on Course.enabled
  simp only
  by_cases hj : lowestLane t.p.mask < 32
  · cases t.i.neg <;> simp [hj]
  · simp [hj]

@[simp] theorem die_beginIssue (t : Site) (w : World) (d : Nat) : (beginIssue t w).die d = w.die d := rfl

/-- An issue leaves the tags of its core. -/
theorem blockTags_beginIssue (t : Site) (w : World) (b : Block) :
    blockTags ((beginIssue t w).core t.i.core) b = blockTags (w.core t.i.core) b := by
  rw [(passes_beginIssue t w).own]
  rfl

/-- A die that neither records nor replays has no inputs in its log (R386). -/
theorem replayInput_none {c : Nat} (h : (w.die (dieOf c)).recMode = 0) (o r l pc a : Nat) : replayInput w c o r l pc a = none := by
  unfold replayInput
  exact if_neg (by rw [h]; decide)

theorem untimed_plain {c : Nat} (h : (w.die (dieOf c)).recMode = 0) (o r l pc a v : Nat) : untimed w c o r l pc a v = (w, v) := by
  unfold untimed
  simp only [h, replayInput_none h]
  rfl

/-- There a tag wait ends by its condition alone. -/
theorem tagOutcome_plain {c : Nat} (h : (w.die (dieOf c)).recMode = 0) (b : Block) (r : Nat) (pm : LaneMask) (pc : Nat) (all : Bool) (mask tags : W64) :
    tagOutcome w c b r pm pc all mask tags = if tagCond all mask tags then some (mask &&& tags) else none := by
  unfold tagOutcome
  exact if_neg (by simp [h])

/-- An issue after which the path waits, or raises TIMING. -/
def WaitsFor (i : Instr) (s : State) (t : Site) (x : Wait) : Prop :=
  ∃ lat zero, exec i s = .next (commit s (waitOr t x lat zero (beginIssue t (enter s))))

/-- A tag wait whose condition fails. -/
theorem issueTags_waits {a : Reg} {all : Bool} (h : At s t) (honce : once t = true) (hrec : (die s (dieOf t.i.core)).recMode = 0)
    (hhigh : (t.k.uniPair a.toNat).toNat / 2 ^ t.b.hdr.tags = 0)
    (hcond : tagCond all (t.k.uniPair a.toNat) (blockTags (Say.core s t.i.core) t.b) = false) (x : W64 → Wait) (zero : List Write)
    (out : Nat → List Write) :
    issueTags a all x zero out s = .next (commit s (waitOr t (x (t.k.uniPair a.toNat)) 2 zero (beginIssue t (enter s)))) := by
  have hrec' : ((beginIssue t (enter s)).die (dieOf t.i.core)).recMode = 0 := hrec
  have htags : blockTags ((enter s).core t.i.core) t.b = blockTags (Say.core s t.i.core) t.b := rfl
  rw [issueTags, issuePlain_run h]
  simp only [site_once, honce, hhigh, tagOutcome_plain hrec', untimed_plain hrec', blockTags_beginIssue, htags, hcond, Bool.not_true,
    Bool.false_eq_true, if_false, ne_eq, not_true, ite_self]

/-- `twany` and `twfirst` wait for a bit of their mask that no tag meets; `twall` for one that some tag misses. -/
theorem tagCond_any {mask tags : W64} (h0 : mask ≠ 0) (h : mask &&& tags = 0) : tagCond false mask tags = false := by
  simp only [tagCond, Bool.false_eq_true, if_false, decide_eq_false h0, h, ne_eq, not_true, decide_false, Bool.or_self]

theorem tagCond_all {mask tags : W64} (h : mask &&& ~~~tags ≠ 0) : tagCond true mask tags = false := by
  simp only [tagCond, if_true, decide_eq_false h]

/-- A phaser instruction of a phaser that the block has. -/
theorem issuePhaser_run {n : Nat} (h : At s t) (honce : once t = true) (hn : n < t.b.hdr.phasers) (act : Site → World → World) :
    issuePhaser n act s = .next (commit s (act t (beginIssue t (enter s)))) := by
  rw [issuePhaser, issuePlain_run h]
  simp only [site_once, honce, Bool.not_true, Bool.false_eq_true, if_false, if_neg (Nat.not_le.mpr hn)]

/-- Every instruction that must wait does so. -/
theorem waitsFor_of_mustWait {i : Instr} {x : Wait} (h : At s t) (honce : once t = true) (hrec : (die s (dieOf t.i.core)).recMode = 0)
    (hi : mustWait s t i = some x) : WaitsFor i s t x := by
  cases i
  case twany a =>
    obtain ⟨⟨h0, hnone, hhigh⟩, ⟨⟩⟩ := Option.ite_none_right_eq_some.mp hi
    refine ⟨2, [], ?_⟩
    change issueTags a false .tagAny [] (fun _ => []) s = _
    exact issueTags_waits h honce hrec hhigh (tagCond_any h0 hnone) _ _ _
  case twfirst d a =>
    obtain ⟨⟨h0, hnone, hhigh⟩, ⟨⟩⟩ := Option.ite_none_right_eq_some.mp hi
    refine ⟨2, [.uni d.toNat 0], ?_⟩
    change issueTags a false (.tagFirst d.toNat) [.uni d.toNat 0] (fun n => [.uni d.toNat (BitVec.ofNat 32 n)]) s = _
    exact issueTags_waits h honce hrec hhigh (tagCond_any h0 hnone) _ _ _
  case twall a =>
    obtain ⟨⟨hmiss, hhigh⟩, ⟨⟩⟩ := Option.ite_none_right_eq_some.mp hi
    refine ⟨2, [], ?_⟩
    change issueTags a true .tagAll [] (fun _ => []) s = _
    exact issueTags_waits h honce hrec hhigh (tagCond_all hmiss) _ _ _
  case monWait p b =>
    obtain ⟨⟨h0, hhit⟩, ⟨⟩⟩ := Option.ite_none_right_eq_some.mp hi
    have hlimit : (t.k.uni b.toNat).toNat ≠ 0 := fun hz => h0 (BitVec.eq_of_toNat_eq hz)
    have hhit' : monHit (beginIssue t (enter s)) t.i.core t.i.owner t.i.cr = false := hhit
    refine ⟨2, [.pred p t.p.mask 0], ?_⟩
    change issuePlain _ s = _
    rw [issuePlain_run h]
    simp only [site_once, honce, hhit', if_neg hlimit, Bool.not_true, Bool.false_eq_true, if_false]
  case keyTake =>
    obtain ⟨hkey, ⟨⟩⟩ := Option.ite_none_right_eq_some.mp hi
    refine ⟨0, [], ?_⟩
    change issuePlain _ s = _
    rw [issuePlain_run h]
    simp only [site_once, honce, decide_eq_false hkey, Bool.not_true, Bool.or_self, Bool.false_eq_true, if_false]
  case rbClaim c =>
    obtain ⟨⟨hmax, hpool⟩, ⟨⟩⟩ := Option.ite_none_right_eq_some.mp hi
    refine ⟨0, [], ?_⟩
    change issuePlain _ s = _
    rw [issuePlain_run h]
    simp only [site_once, honce, poolHas, if_neg (Nat.not_lt.mpr hmax), decide_eq_false (Nat.not_le.mpr hpool), Bool.not_true,
      Bool.false_eq_true, if_false]
  case phArrive n =>
    obtain ⟨⟨hn, hsig, hagain⟩, ⟨⟩⟩ := Option.ite_none_right_eq_some.mp hi
    have harrived : arrived t.b n.toNat t.i.cr = true := by
      rw [arrived, Bool.or_eq_true, List.any_eq_true]
      refine hagain.imp id fun ⟨p, hp, hkey, hph, hcr⟩ => ⟨p, hp, ?_⟩
      simp [hkey, hph, hcr]
    have hsig' : (t.b.phaser n.toNat).sig.getLsbD t.i.cr = true := hsig
    refine ⟨0, [], ?_⟩
    change issuePhaser n.toNat _ s = _
    rw [issuePhaser_run h honce hn]
    simp only [hsig', harrived, Bool.not_true, Bool.false_eq_true, if_false, if_true]
  case phWait n =>
    obtain ⟨⟨hn, hwait, hbehind⟩, ⟨⟩⟩ := Option.ite_none_right_eq_some.mp hi
    have hwait' : (t.b.phaser n.toNat).wait.getLsbD t.i.cr = true := hwait
    have hahead : (t.b.phaser n.toNat).ahead t.i.cr = false := decide_eq_false (Nat.not_lt.mpr hbehind)
    refine ⟨0, [], ?_⟩
    change issuePhaser n.toNat _ s = _
    rw [issuePhaser_run h honce hn]
    simp only [hwait', hahead, Bool.not_true, Bool.false_eq_true, if_false]
  all_goals cases hi

end Sys2Proof.Machine

namespace Sys2Proof.Proofs

open Sys2Proof.Machine Sys2Proof.Say

/-- Settles O53: each of the instructions comes to `waitOr`, which waits or faults by the kind of the launch. -/
theorem waitsWait : Obligations.WaitsWait := by
  intro i x s t h honce hi hrec
  obtain ⟨lat, zero, he⟩ := waitsFor_of_mustWait h honce hrec hi
  exact ⟨_, he, waitOr_spec h x lat zero⟩

end Sys2Proof.Proofs

/-! SUPPORT. What the lanes of an instruction leave at their own cycles (R16, R19): the lane that executes nothing, the end of a chained
sweep, and a step of one. -/

namespace Sys2Proof.Machine

open Sys2Proof.Say

variable {s : State} {w w' : World} {c : Nat}

/-! ## A lane that executes nothing (R16, R155) -/

/-- A lane that is inactive, gone or disabled is not on. -/
theorem laneOn_eq_false {k : Course} {f : Flight} {j : Nat} (h : lives k f j = false) : laneOn k f j = false := by
  by_cases hj : j < 32
  · rwa [laneOn_eq_lives k f hj]
  · exact BitVec.getLsbD_of_ge _ _ (by omega)

/-- Where all of a host access has completed its tag is set; nothing else happens at the end of a lane (R186). -/
theorem hostTagEnd_cases (c : Nat) (f : Flight) (w : World) :
    hostTagEnd c f w = w ∨ (∃ ld t sz, f.form.op = .host ld t sz) ∧ ∃ n, hostTagEnd c f w = w.modCore c fun k => k.setTag n true := by
  unfold hostTagEnd
  split
  · next ld t sz hop =>
    unfold finishTag
    split
    · exact .inl rfl
    · split
      · exact .inl rfl
      · exact .inr ⟨⟨ld, t, sz, hop⟩, _, rfl⟩
  · exact .inl rfl

/-- LANE_EXECUTE of a lane that is not on moves its flight on, and may leave the tag of a host access to be set. -/
theorem laneExecute_off {seq j : Nat} {f : Flight} {b : Block} {k : Course}
    (hf : ((w.core c).flights.find? fun f => decide (f.seq = seq) && decide (f.stride = 1) && decide (f.next = j)) = some f)
    (hb : w.block? c f.owner = some b) (hk : w.course? c f.owner f.cr = some k) (hop : ∀ op, f.form.op ≠ .xlane op)
    (hoff : laneOn k f j = false) : ∃ w', LanesMove w w' c [] ∧ laneExecute c seq j w = hostTagEnd c f w' := by
  have h := ((LanesMove.start w c).touchSample f.seq fun x => { x with read := vccOf w c - f.issue, exec := vccOf w c - f.issue }).setFlight
    { f with next := j + 1 }
  refine ⟨_, h, ?_⟩
  simp only [laneExecute, hf, hb, hk, hoff, Bool.false_and, Bool.false_eq_true, if_false, Bool.not_false, if_true]

/-- A tag that is set clears none. -/
theorem tags_setTag_true (k : Core) (n : Nat) : k.tags &&& ~~~(k.setTag n true).tags = 0 := by
  rw [core_setTag_tags, if_pos rfl]
  refine BitVec.eq_of_getLsbD_eq fun j hj => ?_
  simp only [BitVec.getLsbD_and, BitVec.getLsbD_not, BitVec.getLsbD_or, hj, decide_true, Bool.true_and]
  cases k.tags.getLsbD j <;> simp

/-- In a state: the core's results, accesses, faults and courses stand, and so does every byte. -/
theorem exec_laneExecute_off {seq j : Nat} {f : Flight} {b : Block} {k : Course} (h : LaneDue s c seq j 1 f b k)
    (hop : ∀ op, f.form.op ≠ .xlane op) (hl : lives k f j = false) :
    ∃ s', exec (.laneExecute c seq j) s = .next s' ∧ (Say.core s' c).results = (Say.core s c).results ∧
      (Say.core s' c).accs = (Say.core s c).accs ∧ (Say.core s' c).faults = (Say.core s c).faults ∧ SameBytes s s' ∧
      (∀ c' o r, course s' c' o r = course s c' o r) ∧ (Say.core s c).tags &&& ~~~(Say.core s' c).tags = 0 ∧
      ((∀ ld t sz, f.form.op ≠ .host ld t sz) → CoursesKept s s') := by
  obtain ⟨hf, hb, hk⟩ := h
  obtain ⟨w, hw, he⟩ := laneExecute_off hf hb hk hop (laneOn_eq_false hl)
  have hkept := hw.coursesKept
  obtain ⟨hbytes, -, hcourses, -, hcore⟩ := id hkept
  obtain ⟨-, htags, haccs, -, hfaults⟩ := hcore c
  have hresults := hw.results
  rw [List.append_nil] at hresults
  refine ⟨commit s (hostTagEnd c f w), congrArg (fun w => Host.Outcome.next (commit s w)) he, ?_⟩
  obtain hend | ⟨⟨ld, t, sz, hhost⟩, n, hend⟩ := hostTagEnd_cases c f w
  · rw [hend]
    refine ⟨hresults, haccs, hfaults, hbytes, hcourses, ?_, fun _ => hkept⟩
    rw [htags]
    exact BitVec.and_not_self _
  · have hsame : Say.core (commit s (hostTagEnd c f w)) c = (Say.core (commit s w) c).setTag n true := by
      rw [hend]; exact core_modCore_same w c fun k => k.setTag n true
    have hother : ∀ c', c' ≠ c → Say.core (commit s (hostTagEnd c f w)) c' = Say.core (commit s w) c' := fun c' hne => by
      rw [hend]; exact core_modCore_other w (fun k => k.setTag n true) hne
    have hmem : (commit s (hostTagEnd c f w)).mem = (commit s w).mem := by rw [hend]; rfl
    refine ⟨by rw [hsame]; exact hresults, by rw [hsame]; exact haccs, by rw [hsame]; exact hfaults, ?bytes, fun c' o r => ?course, ?tags,
      fun hno => absurd hhost (hno ld t sz)⟩
    case bytes => rw [SameBytes, hmem]; exact hbytes
    case course =>
      rw [← hcourses c' o r]
      by_cases hc : c' = c
      · subst hc
        exact (congrArg (fun k : Core => k.courses.find (32 * o + r)) hsame).trans rfl
      · exact congrArg (fun k : Core => k.courses.find (32 * o + r)) (hother c' hc)
    case tags =>
      rw [hsame, ← htags]
      exact tags_setTag_true _ n

/-! ## The end of a chained sweep (R19) -/

theorem CourseBecomes.setCourse {o r : Nat} {k : Course} {bs : Tab Block} (h : CourseBecomes w w' c o r k bs) (k' : Course) :
    CourseBecomes w (w'.setCourse c o r k') c o r k' bs := by
  have he : w'.modCourse c o r (fun _ => k') = w'.setCourse c o r k' := by simp only [World.modCourse, h.course]
  exact he ▸ h.modCourse fun _ => k'

/-- BRO_WRITE gives the course its `%bro`, and changes nothing else of any course or block. -/
theorem broWrite_becomes {seq : Nat} {f : Flight} {k : Course}
    (hf : ((w.core c).flights.find? fun f => decide (f.seq = seq) && decide (f.stride = 4) && decide (32 ≤ f.next)) = some f)
    (hk : w.course? c f.owner f.cr = some k) :
    CourseBecomes w (broWrite c seq w) c f.owner f.cr { k with bro := f.last } (w.core c).blocks := by
  have h : CourseBecomes w (w.modCore c fun x => { x with flights := x.flights.filter fun y => decide (y.seq ≠ seq) })
      c f.owner f.cr k (w.core c).blocks := (CourseBecomes.start hk).setCore rfl rfl
  have h := h.touchSample f.seq fun x => { x with wb := vccOf (w.modCore c fun x => { x with flights := x.flights.filter fun y => decide (y.seq ≠ seq) }) c - f.issue }
  simp only [broWrite, hf, h.course]
  exact h.setCourse _

end Sys2Proof.Machine

namespace Sys2Proof.Proofs

open Sys2Proof.Machine Sys2Proof.Say

/-- Settles O19: such a lane moves its flight on, and sets a tag at most. -/
theorem laneDisabled : Obligations.LaneDisabled := by
  intro s c seq j f b k h hop hl
  exact exec_laneExecute_off h hop hl

/-- Settles O22: BRO_WRITE makes the course one with `%bro` written, and leaves the blocks. -/
theorem chainEnds : Obligations.ChainEnds := by
  intro s c seq f k hf hk
  have h := broWrite_becomes hf hk
  have hmem : (commit s (broWrite c seq (enter s))).mem = s.mem := by rw [commit_mem, h.out]; rfl
  refine ⟨commit s (broWrite c seq (enter s)), rfl, ⟨fun st a => by rw [hmem], by rw [hmem]⟩, h.course, fun c' o r hne => ?others,
    fun c' o => ?blocks, h.mach⟩
  case others =>
    by_cases hc : c' = c
    · subst hc; exact h.others o r (hne.resolve_left (· rfl))
    · exact congrArg (fun y : Core => y.courses.find (32 * o + r)) (h.cores c' hc)
  case blocks =>
    by_cases hc : c' = c
    · subst hc; exact congrArg (Tab.find · o) h.blocks
    · exact congrArg (fun y : Core => y.blocks.find o) (h.cores c' hc)

end Sys2Proof.Proofs

/-! SUPPORT. One step of a chained sweep (R19, R168 to R171): the link that a lane takes and passes on. -/

namespace Sys2Proof.Machine

open Sys2Proof.Say

variable {s : State} {w : World} {c seq j : Nat} {f f' : Flight} {b : Block} {k : Course} {op : ChainOp} {seg br : Bool}

/-! ## Flights that stand or move on -/

@[simp] theorem touchSample_flights (w : World) (c seq : Nat) (g : Sample → Sample) :
    ((touchSample w c seq g).core c).flights = (w.core c).flights := by
  unfold touchSample; simp only; split <;> simp
@[simp] theorem countAct_flights (w : World) (c o : Nat) (g : Activity → Activity) : ((countAct w c o g).core c).flights = (w.core c).flights := by
  simp [countAct]
@[simp] theorem pushResult_flights (w : World) (c o r seq ready : Nat) (src : Nat × W32) (ws : List Write) (fl : FpFlags) :
    ((pushResult w c o r seq ready src ws fl).core c).flights = (w.core c).flights := by
  simp [pushResult]

/-- A chained flight that moves on is among those of its core. -/
theorem mem_setFlight (hf : f ∈ (w.core c).flights) (h4 : f.stride = 4) (hseq : f.seq = f'.seq) (hredo : f.redo = f'.redo)
    (h4' : f'.stride = 4) :
    f' ∈ ((setFlight w c f').core c).flights := by
  simp only [setFlight, core_modCore_same, List.mem_filter, List.mem_map]
  exact ⟨⟨f, hf, by simp [hseq, hredo, h4, h4']⟩, by simp [h4']⟩

/-! ## One step -/

/-- The link that a lane takes: zero where its segment starts, unless lane 0 is bridged (R168). -/
def linkIn (k : Course) (f : Flight) (seg br : Bool) (j : Nat) : W64 :=
  if (decide (j % f.part = 0) || (seg && (k.pred 6).getLsbD j)) && !(decide (j = 0) && br) then 0 else f.link

theorem linkIn_eq (k : Course) (f : Flight) (seg br : Bool) (j : Nat) : linkIn k f seg br j =
    if (j % f.part = 0 ∨ (seg = true ∧ (k.pred 6).getLsbD j = true)) ∧ ¬ (j = 0 ∧ br = true) then 0 else f.link := by
  have hbridge : (¬ j = 0 ∨ br = false) ↔ (j = 0 → br = false) := imp_iff_not_or.symm
  simp [linkIn, hbridge]

/-- What the operation makes of a lane's operands and its link. -/
def chainValue (k : Course) (f : Flight) (op : ChainOp) (seg br : Bool) (j : Nat) : AluOut :=
  chainEval op (k.src j f.form.a) (k.src j f.form.b) (linkIn k f seg br j)

/-- The flight after an enabled lane passes its value on, and after another passes its link on. -/
def Flight.passValue (f : Flight) (op : ChainOp) (v : W64) (j : Nat) : Flight :=
  { f with link := linkBits op v, last := linkBits op v, any := true, next := j + 1 }
def Flight.passLink (f : Flight) (link : W64) (j : Nat) : Flight := { f with link := link, next := j + 1 }

/-- A chained flight whose lane `j` is next. -/
def chainDue (w : World) (c seq j : Nat) (f : Flight) : Prop :=
  ((w.core c).flights.find? fun f => decide (f.seq = seq) && decide (f.stride = 4) && decide (f.next = j)) = some f

theorem chainDue_stride (h : chainDue w c seq j f) : f.stride = 4 := by
  have := List.find?_some h
  simp at this
  exact this.1.2

/-- CHAIN_STEP of an enabled lane leaves one result, and passes its value on. -/
theorem chainStep_on (h : chainDue w c seq j f) (hk : w.course? c f.owner f.cr = some k) (hop : f.form.op = .chain op seg br)
    (hon : laneOn k f j = true) (ha : srcPoisoned k j f.form.a = false) (hb : srcPoisoned k j f.form.b = false) :
    LanesMove w (chainStep c seq j w) c [{
      id := (w.core c).nextId, seq := f.seq, owner := f.owner, cr := f.cr, ready := vccOf w c + f.form.lat,
      writes := dstWrites f.form.dst j (chainValue k f op seg br j).val, flags := (chainValue k f op seg br j).flags, pc := f.pc, word := f.word }] ∧
    f.passValue op (chainValue k f op seg br j).val j ∈ ((chainStep c seq j w).core c).flights := by
  have hmove := (((LanesMove.start w c).touchSample f.seq fun x => { x with read := vccOf w c - f.issue, exec := vccOf w c - f.issue }).countAct
    f.owner (·.lane .chain)).pushResult f.owner f.cr f.seq (vccOf w c + f.form.lat) f.from_ (dstWrites f.form.dst j (chainValue k f op seg br j).val)
    (chainValue k f op seg br j).flags
  obtain ⟨w', hmove, hflights, hstep⟩ : ∃ w', LanesMove w w' c _ ∧ (w'.core c).flights = (w.core c).flights ∧
      chainStep c seq j w = setFlight w' c (f.passValue op (chainValue k f op seg br j).val j) := by
    refine ⟨_, hmove, by simp only [pushResult_flights, countAct_flights, touchSample_flights], ?_⟩
    unfold chainDue at h
    simp only [chainStep, h, hk, hop, hon, ha, hb, Bool.or_self, Bool.and_false, Bool.false_eq_true, if_false, if_true]
    rfl
  have h4 : f.stride = 4 := chainDue_stride h
  rw [hstep]
  refine ⟨hmove.setFlight _, mem_setFlight (f := f) ?_ h4 rfl rfl h4⟩
  rw [hflights]
  exact List.mem_of_find?_eq_some h

/-- CHAIN_STEP of any other lane passes the link on. -/
theorem chainStep_off (h : chainDue w c seq j f) (hk : w.course? c f.owner f.cr = some k) (hop : f.form.op = .chain op seg br)
    (hoff : laneOn k f j = false) :
    LanesMove w (chainStep c seq j w) c [] ∧ f.passLink (linkIn k f seg br j) j ∈ ((chainStep c seq j w).core c).flights := by
  have hmove := (LanesMove.start w c).touchSample f.seq fun x => { x with read := vccOf w c - f.issue, exec := vccOf w c - f.issue }
  obtain ⟨w', hmove, hflights, hstep⟩ : ∃ w', LanesMove w w' c _ ∧ (w'.core c).flights = (w.core c).flights ∧
      chainStep c seq j w = setFlight w' c (f.passLink (linkIn k f seg br j) j) := by
    refine ⟨_, hmove, by rw [touchSample_flights], ?_⟩
    unfold chainDue at h
    simp only [chainStep, h, hk, hop, hoff, Bool.false_and, Bool.false_eq_true, if_false]
    rfl
  have h4 : f.stride = 4 := chainDue_stride h
  rw [hstep]
  refine ⟨hmove.setFlight _, mem_setFlight (f := f) ?_ h4 rfl rfl h4⟩
  rw [hflights]
  exact List.mem_of_find?_eq_some h

/-- In a state, for a lane whose operands are sound: its result has the writes of its destination. -/
theorem exec_chainStep (h : LaneDue s c seq j 4 f b k) (hj : j < 32) (hop : f.form.op = .chain op seg br) (hs : sound k f j = true) :
    ∃ s', exec (.chainStep c seq j) s = .next s' ∧ CoursesKept s s' ∧
      (if lives k f j then
        (Say.core s' c).results = (Say.core s c).results ++ [nextResult s c f (vcc s c + f.form.lat)
          (dstWrites f.form.dst j (chainValue k f op seg br j).val) (chainValue k f op seg br j).flags] ∧
        f.passValue op (chainValue k f op seg br j).val j ∈ (Say.core s' c).flights
      else (Say.core s' c).results = (Say.core s c).results ∧ f.passLink (linkIn k f seg br j) j ∈ (Say.core s' c).flights) := by
  obtain ⟨hf, -, hk⟩ := h
  refine ⟨commit s (chainStep c seq j (enter s)), rfl, ?_⟩
  cases hl : lives k f j with
  | true =>
    have hab : srcPoisoned k j f.form.a = false ∧ srcPoisoned k j f.form.b = false := by
      simp only [sound, Bool.not_eq_true', Bool.or_eq_false_iff] at hs
      exact hs.1
    obtain ⟨hmove, hmem⟩ := chainStep_on hf hk hop (by rwa [laneOn_eq_lives k f hj]) hab.1 hab.2
    exact ⟨hmove.coursesKept, hmove.results, hmem⟩
  | false =>
    obtain ⟨hmove, hmem⟩ := chainStep_off hf hk hop (laneOn_eq_false hl)
    exact ⟨hmove.coursesKept, by simpa using hmove.results, hmem⟩

/-- The destination of every chained instruction is in lanes, and so is that of every flight that an issue of one sends. -/
theorem chainedForm_perLane {i : Instr} {g : Form} (h : chainedForm i = some (op, br, g)) : g.dst.perLane = true := by
  cases i <;> cases h <;> simp

theorem flies_chained_perLane {t : Site} {i : Instr} {g : Form} (hi : chainedForm i = some (op, br, g)) (hf : Flies s t g f) :
    f.form.dst.perLane = true := by
  rw [hf.form]
  exact (perLane_resolve g.dst t.k.wb).trans (chainedForm_perLane hi)

end Sys2Proof.Machine

namespace Sys2Proof.Proofs

open Sys2Proof.Machine Sys2Proof.Say

/-- A chained flight whose destination is the uniform register k0, which no issue sends (`flies_chained_perLane`), and the machine after
reset with it on core 0. -/
def uniformSweep : Flight := { uniformFlight with stride := 4, form := { op := .chain .addS32 false false, dst := .uni 0, a := .imm 9 } }

def sweepState : State :=
  { mach := { cores := [(0, { blocks := [(0, uniformBlock)], courses := [(0, uniformCourse)], flights := [uniformSweep] })] } }

/-- Lane 0 of that flight is due. -/
theorem uniformSweep_due : LaneDue sweepState 0 0 0 4 uniformSweep uniformBlock uniformCourse := ⟨rfl, rfl, rfl⟩

/-- Refutes O21: the statement lets the flight have a destination that is not in lanes. Lane 0 of `uniformSweep` leaves a write of k0
pending, where `laneWrites` has none. With a destination in lanes, as every issue sends it (`flies_chained_perLane`), the writes of
`exec_chainStep` are those of the statement (`dstWrites_eq_laneWrites`). -/
theorem not_chainSteps : ¬ Obligations.ChainSteps := by
  intro h
  have hlives : lives uniformCourse uniformSweep 0 = true := by decide
  have hsound : sound uniformCourse uniformSweep 0 = true := by decide
  obtain ⟨s₁, he₁, -, hr₁⟩ := exec_chainStep uniformSweep_due (by decide) rfl hsound
  obtain ⟨s₂, link, v, he₂, -, -, -, -, hr₂⟩ := h _ _ _ _ _ _ _ _ _ _ uniformSweep_due (by decide) rfl hsound
  obtain rfl : s₁ = s₂ := Host.Outcome.next.inj (he₁.symm.trans he₂)
  rw [if_pos hlives] at hr₁ hr₂
  have hwrites : [[Write.uni 0 9]] = [[]] := congrArg (List.map Result.writes) (hr₁.1.symm.trans hr₂.1)
  exact absurd hwrites (by decide)

end Sys2Proof.Proofs

/-! SUPPORT. A hold of a path in a free launch (R378). -/

namespace Sys2Proof.Machine

open Sys2Proof.Say

variable {s : State} {w w' : World} {c o r slot : Nat} {b : Block} {k : Course} {bs : Tab Block} {p : Path}

/-- A record of the mailbox is none of a core's courses and blocks (R374). -/
theorem CourseBecomes.debugRecord (h : CourseBecomes w w' c o r k bs) (o' r' slot' : Nat) (x : DebugRec) :
    CourseBecomes w (debugRecord w' c o' r' slot' x) c o r k bs := by
  simp only [Machine.debugRecord, mailNote]
  split
  · exact h.setCore rfl rfl
  · exact h

/-- A change of one path of the course. -/
theorem CourseBecomes.modPath (h : CourseBecomes w w' c o r k bs) (hp : k.path? slot = some p) (f : Path → Path) :
    CourseBecomes w (modPath w' c o r slot f) c o r (k.setPath slot (f p)) bs := by
  have he : Machine.modPath w' c o r slot f = w'.setCourse c o r (k.setPath slot (f p)) := by
    simp only [Machine.modPath, World.modCourse, h.course, hp]
  rw [he]
  exact h.setCourse _

/-- No step of the core that left no path has its end due (R379). -/
def noStepEndDue (w : World) (c : Nat) : Prop := ((w.core c).stepEnds.any fun x => decide (x.1 ≤ vccOf w c)) = false

/-- A path of a free launch that `dbg.hold` has named is held at its turn, where no end of a step is due. -/
theorem exec_debugHoldTake_free (hb : block s c o = some b) (hk : course s c o r = some k) (hp : k.path? slot = some p)
    (hfree : b.hdr.timed = false) (hreq : p.holdReq = true) (hdue : noStepEndDue (enter s) c) :
    ∃ s', exec (.debugHoldTake c o r slot) s = .next s' ∧
      course s' c o r = some (k.setPath slot { p with held := true, holdReq := false, bpSkip := some p.pc }) := by
  refine ⟨commit s (holdTake c o r slot (enter s)), rfl, ?_⟩
  change (enter s).block? c o = some b at hb
  change (enter s).course? c o r = some k at hk
  have htake : holdTake c o r slot (enter s) =
      debugRecord (modPath (enter s) c o r slot fun p => { p with held := true, holdReq := false, bpSkip := some p.pc }) c o r slot
        { kind := 5, held := some true, mask := p.mask, pc := (pcWord p.pc).toNat } := by
    unfold noStepEndDue at hdue
    simp only [holdTake, hdue, hk, hp, timedBlock, hb, Option.map_some, Option.getD_some, hfree, hreq, Bool.false_eq_true, if_false, if_true]
  have hbecomes := ((CourseBecomes.start hk).modPath hp fun p => { p with held := true, holdReq := false, bpSkip := some p.pc }).debugRecord o r slot
    { kind := 5, held := some true, mask := p.mask, pc := (pcWord p.pc).toNat }
  rw [htake]
  exact hbecomes.course

end Sys2Proof.Machine

namespace Sys2Proof.Proofs

open Sys2Proof.Machine Sys2Proof.Say

/-- A path of a free launch that `dbg.hold` has named, and the machine after reset with it on core 0, where the end of a step that left no
path is due too. -/
def namedPath : Path := { id := 0, mask := 1, pc := 0, holdReq := true }
def namedCourse : Course := { uniformCourse with slot0 := some namedPath }
def stepEndState : State :=
  { mach := { cores := [(0, { blocks := [(0, uniformBlock)], courses := [(0, namedCourse)], stepEnds := [(0, 0, 0, 0, 0)] })] } }

/-- The step's end has its turn first: DEBUG_HOLD_TAKE leaves the path as it is. -/
theorem stepEndState_debugHoldTake : ∃ s', exec (.debugHoldTake 0 0 0 0) stepEndState = .next s' ∧ course s' 0 0 0 = some namedCourse :=
  ⟨_, rfl, rfl⟩

/-- Refutes O59: an end of a step that is due on the core comes before a hold. In `stepEndState` the path that `dbg.hold` names is not held
at its turn, where the statement holds it whatever else is due. With none due it is held (`exec_debugHoldTake_free`). -/
theorem not_pathEvents : ¬ Obligations.PathEvents := by
  intro h
  obtain ⟨-, hpath, -⟩ := h stepEndState 0 0 0 0 uniformBlock namedCourse rfl rfl
  obtain ⟨-, -, -, -, hhold⟩ := hpath namedPath rfl
  obtain ⟨s₁, he₁, hk₁⟩ := hhold rfl rfl
  obtain ⟨s₂, he₂, hk₂⟩ := stepEndState_debugHoldTake
  obtain rfl : s₁ = s₂ := Host.Outcome.next.inj (he₁.symm.trans he₂)
  have hheld : some true = some false := congrArg (fun k => k.slot0.map Path.held) (Option.some.inj (hk₁.symm.trans hk₂))
  exact absurd hheld (by decide)

end Sys2Proof.Proofs

/-! SUPPORT. The passing of one cycle (R35, R36, R341): what it makes of modules, sashes and cores, and when a step is one. -/

namespace Sys2Proof.Tab

variable {α β : Type}

/-- A change of every value of a table that goes by the value alone. -/
theorem find_mapValues (t : Tab α) (f : α → β) (k : Nat) : find (t.map fun x => (x.1, f x.2)) k = (find t k).map f := by
  induction t with
  | nil => rfl
  | cons x r ih =>
    simp only [List.map_cons, find]
    split
    · rfl
    · exact ih

end Sys2Proof.Tab

namespace Sys2Proof.Machine

/-! ## The end of a cycle in which nothing is charged and no record waits (R355, R375) -/

theorem settleCharges_none {w : World} (h : ∀ x ∈ w.mach.dies, ∀ q ∈ x.2.quads, q.2.dues = []) : settleCharges w = w := by
  refine List.foldlRecOn w.mach.dies _ (motive := fun v => v = w) rfl fun v hv x hx => ?_
  refine List.foldlRecOn x.2.quads _ (motive := fun v => v = w) hv fun v hv q hq => ?_
  simpa [h x hx q hq] using hv

theorem flushRecords_none {w : World} (h : ∀ x ∈ w.mach.cores, x.2.recs = []) : flushRecords w = w := by
  have hnone : w.mach.cores.filter (fun x => !x.2.recs.isEmpty) = [] := List.filter_eq_nil_iff.mpr fun x hx => by simp [h x hx]
  simp only [flushRecords, hnone, List.map_nil, List.foldl_nil]

/-! ## What one cycle makes of a module -/

@[simp] theorem pump_gcc (x : Module) : x.pump.gcc = x.gcc := by
  unfold Module.pump
  split
  · split <;> rfl
  · rfl

@[simp] theorem pump_loadAt (x : Module) : x.pump.loadAt = x.loadAt := by
  unfold Module.pump
  split
  · split <;> rfl
  · rfl

@[simp] theorem joinAt_gcc (x : Module) (g : Nat) : (x.joinAt g).gcc = g := by
  unfold Module.joinAt
  dsimp only
  split <;> rfl

/-- A module once the master's stamp that is due has come (R341). -/
def Module.stamped (x : Module) (clock : Nat) : Module :=
  match x.loadAt with
  | some (d, g) => if d ≤ clock then { x.joinAt g with loadAt := none } else x
  | none => x

theorem begin_eq (clock : Nat) (x : Module) : x.begin_ clock = (let y := x.stamped clock
    if y.replies.isEmpty || decide (clock < y.h2dBusy) then y else { y with outq := y.outq ++ y.replies, replies := [] }.pump) := rfl

@[simp] theorem begin_gcc (clock : Nat) (x : Module) : (x.begin_ clock).gcc = (x.stamped clock).gcc := by
  rw [begin_eq]
  dsimp only
  split
  · rfl
  · exact pump_gcc _

@[simp] theorem begin_loadAt (clock : Nat) (x : Module) : (x.begin_ clock).loadAt = (x.stamped clock).loadAt := by
  rw [begin_eq]
  dsimp only
  split
  · rfl
  · exact pump_loadAt _

theorem stamped_early {clock : Nat} {x : Module} (h : ∀ l, x.loadAt = some l → clock < l.1) : x.stamped clock = x := by
  unfold Module.stamped
  split
  · next d g hl => exact if_neg (Nat.not_le.mpr (h _ hl))
  · rfl

theorem stamped_due {clock : Nat} {x : Module} {l : Nat × Nat} (hl : x.loadAt = some l) (h : l.1 ≤ clock) :
    x.stamped clock = { x.joinAt l.2 with loadAt := none } := by
  simp only [Module.stamped, hl, if_pos h]

/-! ## What one cycle makes of the machine -/

/-- A step in which nothing else is due is the passing of a cycle. -/
theorem step_tick {s : State} (hin : inputDue s.mach = none) (hev : nextEvent (enter s) = none) (hscan : scanDue (enter s) = none)
    (hbody : dueBody (enter s) (activeCores (enter s)) = none) (hturn : nextTurn (enter s) (activeCores (enter s)) = .none)
    (htail : dueTail (enter s) (activeCores (enter s)) = none) (hrecs : ∀ x ∈ s.mach.cores, x.2.recs = [])
    (hdues : ∀ x ∈ s.mach.dies, ∀ q ∈ x.2.quads, q.2.dues = []) : step s = .next (commit s (tick (enter s))) := by
  have hend : flushRecords (settleCharges (enter s)) = enter s := by
    rw [settleCharges_none hdues, flushRecords_none hrecs]
  simp only [step, hin, hev, hscan, hbody, hturn, htail, hend]

/-- A module holds in a cycle. -/
theorem frozen_eq (w : World) (m : Nat) : ((w.mach.mods.find m).map Module.frozen).getD false = (w.module m).frozen := by
  unfold World.module
  cases w.mach.mods.find m <;> rfl

theorem find_mods_tick (w : World) (m : Nat) :
    (tick w).mach.mods.find m = (w.mach.mods.find m).map fun x => x.tick.begin_ (w.mach.clock + 1) :=
  Tab.find_mapValues w.mach.mods (fun x => x.tick.begin_ (w.mach.clock + 1)) m

theorem sash_tick (w : World) (i : Nat) : (tick w).sash? i = (w.sash? i).map fun x => x.tick (w.module (x.die / 4)).frozen := by
  simp only [World.sash?, tick, frozen_eq]
  exact Tab.find_mapValues _ (fun x => Sash.tick (w.module (x.die / 4)).frozen x) i

/-- VCC of a core, as the table of the sashes gives it. -/
def World.cycleOf (w : World) (k : Core) : Nat := ((k.sash.bind fun i => w.mach.sashes.find i).map Sash.vcc).getD 0

/-- Of a core a cycle drops only what has ended. -/
theorem core_tick (w : World) (c : Nat) : ∃ v, (tick w).core c = (w.core c).sweep v := by
  have hfind : (tick w).mach.cores.find c = (w.mach.cores.find c).map fun k => k.sweep (w.cycleOf k) :=
    Tab.find_mapValues w.mach.cores (fun k => k.sweep (w.cycleOf k)) c
  unfold World.core
  rw [hfind]
  cases w.mach.cores.find c with
  | none => exact ⟨0, rfl⟩
  | some k => exact ⟨_, rfl⟩

theorem block_tick (w : World) (c o : Nat) : (tick w).block? c o = w.block? c o := by
  obtain ⟨v, hv⟩ := core_tick w c
  simp only [World.block?, hv, Core.sweep]

theorem course_tick (w : World) (c o r : Nat) : (tick w).course? c o r = w.course? c o r := by
  obtain ⟨v, hv⟩ := core_tick w c
  simp only [World.course?, hv, Core.sweep]

end Sys2Proof.Machine

namespace Sys2Proof.Proofs

open Sys2Proof.Machine Sys2Proof.Say

/-- Settles O10: the step is one `tick`, read table by table. -/
theorem tickClocks : Obligations.TickClocks := by
  intro s hin hev hscan hbody hturn htail hrecs hdues
  refine ⟨_, step_tick hin hev hscan hbody hturn htail hrecs hdues, rfl, rfl, ?_, ?_, ?_⟩
  · intro m x hx
    refine ⟨x.tick.begin_ (s.mach.clock + 1), ?_, ?_, ?_⟩
    · exact (find_mods_tick (enter s) m).trans (congrArg _ hx)
    · exact fun hl => (begin_gcc _ x.tick).trans (congrArg Module.gcc (stamped_early (x := x.tick) hl))
    · intro l hl hle
      have hdue := stamped_due (x := x.tick) hl hle
      exact ⟨by rw [begin_gcc, hdue]; exact joinAt_gcc .., by rw [begin_loadAt, hdue]⟩
  · intro i x hx
    refine ⟨_, (sash_tick (enter s) i).trans (congrArg _ hx), ?_⟩
    change Sash.tick (module s (x.die / 4)).frozen x = _
    unfold Sash.tick
    split <;> rfl
  · exact fun c o r => ⟨block_tick (enter s) c o, course_tick (enter s) c o r⟩

end Sys2Proof.Proofs

/-! SUPPORT. What stops and starts a sash (R42 to R45, R356), on a die that does not replay. -/

namespace Sys2Proof.Machine

open Sys2Proof.Say

variable {s : State} {i : Nat} {x : Sash}

/-! ## Changes of one sash -/

/-- An event ends in the world that it makes of the one opened. -/
theorem runEvent_next {f : World → World} {w : World} (h : f (enter s) = w) : runEvent f s = .next (commit s w) := by
  rw [runEvent_eq, h]

/-- Putting a sash changes that sash alone. -/
theorem onlySash_setSash (s : State) (i : Nat) (y : Sash) : OnlySash s (commit s ((enter s).setSash i y)) i y :=
  ⟨rfl, rfl, sash_setSash_same (enter s) i y, fun _ h => Tab.find_put_other _ _ h⟩

/-! ## A die that does not replay (R388) -/

theorem replays_eq_false {w : World} {x : Sash} (h : (w.die x.die).recMode = 0) : replays w x = false := by
  simp only [replays, h]; rfl

theorem replayPause_none {w : World} {x : Sash} (h : (w.die x.die).recMode = 0) : replayPause w x = none := by
  simp only [replayPause, replays_eq_false h, Bool.false_and]; rfl

theorem groupHeld_false {w : World} {x : Sash} (h : (w.die x.die).recMode = 0) : groupHeld w x = false := by
  simp only [groupHeld, replays_eq_false h, Bool.false_and]

theorem restartAt_eq {w : World} {x : Sash} (h : (w.die x.die).recMode = 0) : restartAt w x = w.mach.clock + 24 := by
  simp only [restartAt, groupHeld_false h, Bool.false_and]; rfl

theorem logPause_none {w : World} {x : Sash} (h : (w.die x.die).recMode = 0) : logPause w x = w := by
  simp only [logPause, h]
  exact if_neg (by simp)

/-! ## What the events of a sash make of it -/

theorem pauseStop_eq {w : World} (hx : w.sash? i = some x) (hr : (w.die x.die).recMode = 0) :
    pauseStop i w = w.setSash i ((if throttleCause w x then { x with throttled := some (sashGcc w x) } else x).stop (sashGcc w x)) := by
  have hgcc : sashGcc w (if throttleCause w x then { x with throttled := some (sashGcc w x) } else x) = sashGcc w x := by
    split <;> rfl
  simp only [pauseStop, hx, replayPause_none hr, hgcc]

theorem dramRefresh_late {w : World} {p : Nat} (hx : w.sash? i = some x) (hp : x.vcc + (if x.paused then 0 else 32) ≤ p) (dur : Nat) :
    dramRefresh i p dur w = w.setSash i (x.cause p (.refresh dur)) := by
  simp only [dramRefresh, hx]
  exact if_neg (Nat.not_lt.mpr hp)

theorem dramRefresh_early {w : World} {p : Nat} (hx : w.sash? i = some x) (hp : p < x.vcc + (if x.paused then 0 else 32)) (dur : Nat) :
    dramRefresh i p dur w = w := by
  simp only [dramRefresh, hx]
  exact if_pos hp

/-- The runs of a throttle for which a sash stands at its present cycle (R356). -/
def Sash.runs (x : Sash) : List Nat := x.causes.filterMap fun y => match y.src with
  | .throttle n => if x.paused && decide (y.p ≤ x.vcc) then some n else none
  | _ => none

/-- A sash to which the run of HOLD `h` is announced at GCC `g`, where it stands for an earlier run of `run` cycles, or for none (R356). -/
def Sash.announced (x : Sash) (g h run : Nat) : Sash :=
  if run = 0 then { x.cause (x.vcc + 32) (.throttle 40) with nextHold := nextRunAt g h }
  else if g + 32 ≤ x.stopGcc + run + 24 then { x.cause x.vcc (.throttle (run + 64)) with nextHold := nextRunAt g h, throttled := some g }
  else { x.cause (x.vcc + (g + 32 - (x.stopGcc + run + 24))) (.throttle 40) with nextHold := nextRunAt g h }

theorem throttleHold_eq {w : World} (hx : w.sash? i = some x) (hh : sashHold w x ≠ 0) :
    throttleHold i w = w.setSash i (x.announced (sashGcc w x) (sashHold w x) (x.runs.foldl max 0)) := by
  simp only [throttleHold, hx, if_neg hh, Sash.announced, apply_ite (w.setSash i)]
  rfl

theorem announced_first (g h : Nat) : x.announced g h 0 =
    { x with causes := x.causes ++ [{ p := x.vcc + 32, src := .throttle 40 }], nextHold := nextRunAt g h } := by
  have hlater : ¬ x.vcc + 32 ≤ x.vcc := by omega
  simp only [Sash.announced, Sash.cause, if_neg hlater, if_true]

theorem announced_follows {g h run : Nat} (hrun : 0 < run) (hover : g + 32 ≤ x.stopGcc + run + 24) : x.announced g h run =
    { x with causes := x.causes ++ [{ p := x.vcc, src := .throttle (run + 64) }], resume := none, throttled := some g, nextHold := nextRunAt g h } := by
  simp only [Sash.announced, Sash.cause, if_neg (Nat.pos_iff_ne_zero.mp hrun), if_pos hover, if_pos (Nat.le_refl x.vcc)]

theorem runs_nil (h : ∀ y ∈ x.causes, ∀ n, x.paused = true → y.p ≤ x.vcc → y.src ≠ .throttle n) : x.runs = [] := by
  refine List.filterMap_eq_nil_iff.mpr fun y hy => ?_
  split
  · next n hn =>
    refine if_neg fun hp => ?_
    simp only [Bool.and_eq_true, decide_eq_true_eq] at hp
    exact h y hy n hp.1 hp.2 hn
  · rfl

theorem runs_one {q n : Nat} (hc : x.causes = [{ p := q, src := .throttle n }]) (hp : x.paused = true) (hq : q ≤ x.vcc) : x.runs = [n] := by
  simp [Sash.runs, hc, hp, hq]

theorem sashResume_stands {w : World} (hx : w.sash? i = some x) (h : x.paused = false ∨ sashHeld w x = true) : sashResume i w = w := by
  have hif : (!x.paused || sashHeld w x) = true := by
    rcases h with h | h <;> simp [h]
  simp only [sashResume, hx, hif, if_true]

theorem sashResume_fixes {w : World} (hx : w.sash? i = some x) (hr : (w.die x.die).recMode = 0) (hp : x.paused = true)
    (hh : sashHeld w x = false) (hn : x.resume = none) : sashResume i w = w.setSash i { x with resume := some (w.mach.clock + 24) } := by
  simp only [sashResume, hx, hp, hh, hn, restartAt_eq hr]
  rfl

/-! ## The samples of the cores of a sash -/

/-- The samples of a core note a pause of `d` GCC cycles. -/
def addPause (d : Nat) (w : World) (c : Nat) : World :=
  w.modCore c fun k => { k with samples := k.samples.map fun (x : Sample) => { x with paused := x.paused + d } }

/-- Every core of a list notes a pause: bytes, modules and sashes stand, and so do the accesses and beats of every core. -/
structure PausesNoted (w w' : World) : Prop where
  out : w'.out = w.out
  mods : w'.mach.mods = w.mach.mods
  accs : ∀ c, (w'.core c).accs = (w.core c).accs
  beats : ∀ c, (w'.core c).beats = (w.core c).beats

theorem PausesNoted.addPause {w w' : World} (h : PausesNoted w w') (d c : Nat) : PausesNoted w (addPause d w' c) where
  out := h.out
  mods := h.mods
  accs c' := by
    by_cases hc : c' = c
    · subst hc
      exact (congrArg Core.accs (core_modCore_same ..)).trans (h.accs c')
    · exact (congrArg Core.accs (core_modCore_other w' _ hc)).trans (h.accs c')
  beats c' := by
    by_cases hc : c' = c
    · subst hc
      exact (congrArg Core.beats (core_modCore_same ..)).trans (h.beats c')
    · exact (congrArg Core.beats (core_modCore_other w' _ hc)).trans (h.beats c')

theorem pausesNoted_foldl (w : World) (d : Nat) (l : List Nat) : PausesNoted w (l.foldl (addPause d) w) := by
  refine List.foldlRecOn l _ (motive := PausesNoted w) ⟨rfl, rfl, fun _ => rfl, fun _ => rfl⟩ fun w' h c _ => h.addPause d c

theorem PausesNoted.throttleCause {w w' : World} (h : PausesNoted w w') (x : Sash) : throttleCause w' x = throttleCause w x := by
  simp only [Machine.throttleCause, h.accs, h.beats]

theorem PausesNoted.sashGcc {w w' : World} (h : PausesNoted w w') (x : Sash) : sashGcc w' x = sashGcc w x := by
  simp only [Machine.sashGcc, World.module, h.mods]

/-- A sash as virtual time goes on (R44). -/
def Sash.goesOn (x : Sash) (w : World) : Sash :=
  { x with paused := false, resume := none, scanned := none, causes := x.causes.filter fun y => decide (x.vcc < y.p)
           throttled := if throttleCause w x then some (sashGcc w x) else x.throttled }

theorem PausesNoted.goesOn {w w' : World} (h : PausesNoted w w') (x : Sash) : x.goesOn w' = x.goesOn w := by
  simp only [Sash.goesOn, h.throttleCause, h.sashGcc]

theorem sashResume_restarts {w : World} {n : Nat} (hx : w.sash? i = some x) (hr : (w.die x.die).recMode = 0) (hp : x.paused = true)
    (hh : sashHeld w x = false) (hn : x.resume = some n) : ∃ w', PausesNoted w w' ∧ sashResume i w = w'.setSash i (x.goesOn w) := by
  have hnoted := pausesNoted_foldl w (sashGcc w x - x.stopGcc) x.cores
  refine ⟨_, hnoted, ?_⟩
  rw [← hnoted.goesOn x]
  simp only [sashResume, hx, hp, hh, hn, groupHeld_false hr, logPause_none hr, replays_eq_false hr]
  rfl

end Sys2Proof.Machine

namespace Sys2Proof.Proofs

open Sys2Proof.Machine Sys2Proof.Say

/-- Settles O56: each event puts one sash, which the equation of its case names. -/
theorem sashEvents : Obligations.SashEvents := by
  intro s i x hx hr
  change (enter s).sash? i = some x at hx
  change ((enter s).die x.die).recMode = 0 at hr
  refine ⟨?stop, ?refresh, ?early, ?run, ?follows, ?stands, ?fixes, ?restarts⟩
  case stop =>
    refine ⟨_, runEvent_next (pauseStop_eq hx hr), ?_⟩
    convert onlySash_setSash s i _ using 1
    unfold Sash.stop
    split <;> rfl
  case refresh =>
    intro p dur hp
    exact ⟨_, runEvent_next (dramRefresh_late hx hp dur), onlySash_setSash s i _⟩
  case early =>
    intro p dur hp
    exact runEvent_next (dramRefresh_early hx hp dur)
  case run =>
    intro hh hnone
    have heq := throttleHold_eq hx hh
    rw [runs_nil hnone, List.foldl_nil, announced_first] at heq
    exact ⟨_, runEvent_next heq, onlySash_setSash s i _⟩
  case follows =>
    intro q n hh hp hc hq hn hover
    have hlongest : x.runs.foldl max 0 = n := by rw [runs_one hc hp hq]; exact Nat.zero_max n
    have heq := throttleHold_eq hx hh
    rw [hlongest, announced_follows (g := sashGcc (enter s) x) hn hover] at heq
    exact ⟨_, runEvent_next heq, onlySash_setSash s i _⟩
  case stands => exact fun h => runEvent_next (sashResume_stands hx h)
  case fixes =>
    intro hp hh hn
    exact ⟨_, runEvent_next (sashResume_fixes hx hr hp hh hn), onlySash_setSash s i _⟩
  case restarts =>
    intro n hp hh hn
    obtain ⟨w', hnoted, hw'⟩ := sashResume_restarts hx hr hp hh hn
    have hmem : (commit s (w'.setSash i (x.goesOn (enter s)))).mem = s.mem := by rw [commit_mem, setSash_out, hnoted.out]; rfl
    exact ⟨_, runEvent_next hw', ⟨fun st a => by rw [hmem], by rw [hmem]⟩, sash_setSash_same w' i _⟩

end Sys2Proof.Proofs

/-! SUPPORT. The master of a time group, where the table of modules does not list its keys rising (R341, R344). -/

namespace Sys2Proof.Proofs

open Sys2Proof.Machine Sys2Proof.Say

/-- A module of a time group that may become its master, under NUMBER 0. -/
def groupModule : Module := { formed := true, master := true }

/-- The machine after reset with two such modules, which no route joins, the one with the higher key listed first. -/
def twoMasters : State := { mach := { mods := [(5, groupModule), (3, groupModule)] } }

/-- Module 5, listed first, is the master of the group, and module 3 has no route to it. -/
theorem twoMasters_master : groupMaster twoMasters.mach = some (5, groupModule) ∧ routeUp (enter twoMasters) 3 5 = false :=
  ⟨rfl, rfl⟩

/-- The note that the event has taken place lists module 3 before module 5: module 3 is the master then, and its report leaves at once. -/
theorem twoMasters_driftReport : ∃ s', exec (.driftReport 3) twoMasters = .next s' ∧ (module s' 3).reports = [] :=
  ⟨_, rfl, rfl⟩

/-- Refutes O60, by the drift report of R344 in `PowerEvents`: the group's master is the first that the table of modules lists among those
of the lowest NUMBER. In `twoMasters` that is module 5, for which module 3's report should wait, and the report is gone. -/
theorem not_eventsComplete : ¬ Obligations.EventsComplete := by
  intro h
  obtain ⟨-, -, -, -, -, ⟨-, hreport, -⟩, -⟩ := h twoMasters
  obtain ⟨hmaster, hdown⟩ := twoMasters_master
  obtain ⟨-, hwaits⟩ := hreport 3
  obtain ⟨hheld, -⟩ := hwaits (5, groupModule) hmaster
  obtain ⟨s₁, he₁, -, -, hx₁, -⟩ := hheld hdown fun r hr => absurd hr (List.not_mem_nil)
  obtain ⟨s₂, he₂, hx₂⟩ := twoMasters_driftReport
  obtain rfl : s₁ = s₂ := Host.Outcome.next.inj (he₁.symm.trans he₂)
  have hone : ((module s₁ 3).reports).length = 1 := congrArg (fun x => x.reports.length) hx₁
  rw [hx₂] at hone
  exact absurd hone (by decide)

end Sys2Proof.Proofs

/-! SUPPORT. The integers that the bits of a word stand for, and the bits that an integer is written with (R58, R59, R124). -/

namespace Sys2Proof.Machine

open Sys2Proof.Say

/-! ## Reading -/

/-- A pattern read in two's complement is the signed value of its low bits. -/
theorem toSigned_eq_toInt (n v : Nat) (hn : 0 < n) : toSigned n v = (BitVec.ofNat n v).toInt := by
  obtain ⟨m, rfl⟩ := Nat.exists_eq_succ_of_ne_zero hn.ne'
  rw [toSigned, BitVec.toInt_eq_toNat_cond, BitVec.toNat_ofNat]
  have h : 2 ^ (m + 1) = 2 * 2 ^ m := by ring
  simp only [Nat.succ_eq_add_one, Nat.add_sub_cancel]
  push_cast
  split <;> split <;> omega

/-- The model reads the low bits of an operand as the statements do. -/
theorem readInt_eq_low (n : Nat) (u : Bool) (v : W64) (hn : 0 < n) : readInt n u v = low n u v := by
  cases u
  · simp only [readInt, low, Bool.false_eq_true, if_false, toSigned_eq_toInt n _ hn, BitVec.truncate_eq_setWidth, BitVec.ofNat_toNat]
  · simp only [readInt, low, if_true, BitVec.truncate_eq_setWidth, BitVec.toNat_setWidth]

/-! ## Writing -/

/-- The bits of an integer, in the words of the statements. -/
theorem bitsOfInt_eq (n : Nat) (v : Int) : bitsOfInt n v = (BitVec.ofInt n v).zeroExtend 64 := by
  apply BitVec.eq_of_toNat_eq
  rw [bitsOfInt, BitVec.toNat_setWidth, BitVec.toNat_ofNat, BitVec.toNat_ofInt]
  push_cast
  rfl

/-- A result of a width is written as R59 says. -/
theorem wrapW_eq_written (w : IntW) (v : Int) : wrapW w v = written w v := by
  have hofNat : ∀ n : Nat, BitVec.ofNat n (v % (2 ^ n : Int)).toNat = BitVec.ofInt n v := fun n => by
    apply BitVec.eq_of_toNat_eq
    rw [BitVec.toNat_ofNat, BitVec.toNat_ofInt, Nat.mod_eq_of_lt]
    · push_cast; rfl
    · have := Int.emod_lt_of_pos v (show (0 : Int) < 2 ^ n by positivity)
      have := Int.emod_nonneg v (show (2 ^ n : Int) ≠ 0 by positivity)
      have h2 : ((2 ^ n : Nat) : Int) = 2 ^ n := by push_cast; rfl
      omega
  cases w
  case w64 => exact hofNat 64
  case w32 =>
    have hmod : (v % (2 ^ 32 : Int)).toNat % 2 ^ 32 = (v % (2 ^ 32 : Int)).toNat := by omega
    rw [written, ← bitsOfInt_eq]
    exact congrArg (BitVec.ofNat 64) hmod
  case w16 =>
    rw [written, wrapW, intBits, extendW, toSigned_eq_toInt 16 _ (by decide), hofNat 16]
    rfl
  case w8 =>
    rw [written, wrapW, intBits, extendW, toSigned_eq_toInt 8 _ (by decide), hofNat 8]
    rfl

/-- A saturated result is the clamped value in the bits of its type. -/
theorem ofInt_clampInt (n : Nat) (u : Bool) (v : Int) : (BitVec.ofInt n (clampInt n u v)).zeroExtend 64 = clamped n u v := by
  cases u <;> rfl

end Sys2Proof.Machine

namespace Sys2Proof.Proofs

open Sys2Proof.Machine Sys2Proof.Say

/-- Settles O26: each family computes on the integers that its operands stand for and writes the low bits of what it gets. -/
theorem integerValues : Obligations.IntegerValues := by
  intro a b c d
  refine ⟨fun w => ?sums, fun u wide => ?saturating, fun u => ?lesser⟩
  case sums => simp only [aluEval, wrapW_eq_written, and_self]
  case saturating =>
    have hpos : 0 < wideBits wide := by cases wide <;> decide
    have hdiv : ∀ v : Int, Int.fdiv v (2 ^ wideBits wide) = v / 2 ^ wideBits wide := fun v => Int.fdiv_eq_ediv_of_nonneg v (by positivity)
    simp only [aluEval, readInt_eq_low _ _ _ hpos, bitsOfInt_eq, ofInt_clampInt, ← hdiv]
    exact ⟨rfl, rfl, rfl⟩
  case lesser =>
    simp only [aluEval, readInt_eq_low 32 _ _ (by decide), bitsOfInt_eq, word, and_self]

end Sys2Proof.Proofs

/-! SUPPORT. The tile table of a block (R188 to R195): the conditions of an allocation, its lowest free run, and the issues that change
the table. -/

namespace Sys2Proof.Machine

open Sys2Proof.Say

/-! ## Sorted lists -/

theorem mem_insertBy {α : Type} {le : α → α → Bool} {x y : α} {l : List α} : y ∈ insertBy le x l ↔ y = x ∨ y ∈ l := by
  induction l with
  | nil => simp [insertBy]
  | cons z r ih =>
    simp only [insertBy]
    split
    · simp
    · simp only [List.mem_cons, ih]; tauto

theorem mem_sortBy {α : Type} {le : α → α → Bool} {y : α} {l : List α} : y ∈ sortBy le l ↔ y ∈ l := by
  induction l with
  | nil => simp [sortBy]
  | cons x r ih => rw [sortBy, List.foldr_cons, mem_insertBy, List.mem_cons, ← ih, sortBy]

theorem pairwise_insertBy {x : Nat} {l : List Nat} (h : l.Pairwise (· ≤ ·)) : (insertBy (fun x y => decide (x ≤ y)) x l).Pairwise (· ≤ ·) := by
  induction l with
  | nil => simp [insertBy]
  | cons z r ih =>
    obtain ⟨hz, hr⟩ := List.pairwise_cons.mp h
    simp only [insertBy, decide_eq_true_eq]
    split
    · next hle =>
      refine List.pairwise_cons.mpr ⟨fun y hy => ?_, h⟩
      rcases List.mem_cons.mp hy with rfl | hy
      · exact hle
      · exact hle.trans (hz y hy)
    · next hle =>
      refine List.pairwise_cons.mpr ⟨fun y hy => ?_, ih hr⟩
      rcases mem_insertBy.mp hy with rfl | hy
      · exact (Nat.lt_of_not_le hle).le
      · exact hz y hy

/-- Sorted by value a list of numbers rises. -/
theorem pairwise_sortBy (l : List Nat) : (sortBy (fun x y => decide (x ≤ y)) l).Pairwise (· ≤ ·) := by
  induction l with
  | nil => exact List.Pairwise.nil
  | cons x r ih => exact pairwise_insertBy ih

/-- The first element of a rising list that meets a condition is the least that does. -/
theorem find?_least {l : List Nat} {p : Nat → Bool} {u : Nat} (h : l.Pairwise (· ≤ ·)) (hu : u ∈ l) (hp : p u = true)
    (hmin : ∀ y ∈ l, p y = true → u ≤ y) : l.find? p = some u := by
  induction l with
  | nil => cases hu
  | cons x r ih =>
    obtain ⟨hx, hr⟩ := List.pairwise_cons.mp h
    cases hpx : p x with
    | true =>
      have hux := hmin x List.mem_cons_self hpx
      have hxu : x ≤ u := by rcases List.mem_cons.mp hu with rfl | hu; exacts [le_rfl, hx u hu]
      rw [List.find?_cons_of_pos hpx, Nat.le_antisymm hxu hux]
    | false =>
      have hur : u ∈ r := by
        rcases List.mem_cons.mp hu with rfl | hu
        · rw [hp] at hpx; cases hpx
        · exact hu
      rw [List.find?_cons_of_neg (by simp [hpx])]
      exact ih hr hur fun y hy => hmin y (List.mem_cons_of_mem _ hy)

/-! ## The lowest free run (R193) -/

variable {s : State} {w w' : World} {t : Site} {k : Course} {rs : List Result}

/-- The runs of units that the VALID handles of a level take. -/
def takenRuns (k : Core) (b : Block) (lv : Nat) : List (Nat × Nat) :=
  (validHandles k b).filterMap fun x => if x.2.level = lv then some (x.2.base, x.2.base + x.2.area / 256) else none

theorem mem_takenRuns {k : Core} {b : Block} {lv : Nat} {r : Nat × Nat} :
    r ∈ takenRuns k b lv ↔ ∃ x ∈ validHandles k b, x.2.level = lv ∧ r = (x.2.base, x.2.base + x.2.area / 256) := by
  simp only [takenRuns, List.mem_filterMap, Option.ite_none_right_eq_some, Option.some.injEq]
  exact exists_congr fun x => and_congr_right fun _ => and_congr_right fun _ => eq_comm

/-- The test of `findRun`: `n` units from `u` on lie in the area and miss every run. -/
def runFits (k : Core) (b : Block) (lv n u : Nat) : Bool :=
  decide ((areaOf b lv).1 ≤ u) && decide (u + n ≤ (areaOf b lv).1 + (areaOf b lv).2) &&
    (takenRuns k b lv).all fun r => decide (u + n ≤ r.1) || decide (r.2 ≤ u)

/-- The units at which `findRun` looks, in rising order. -/
def runStarts (k : Core) (b : Block) (lv : Nat) : List Nat :=
  sortBy (fun x y => decide (x ≤ y)) ((areaOf b lv).1 :: (takenRuns k b lv).map Prod.snd)

theorem findRun_eq (k : Core) (b : Block) (lv n : Nat) : findRun k b lv n = (runStarts k b lv).find? (runFits k b lv n) := rfl

theorem runFits_iff (s : State) (t : Site) (d : Desc) (u : Nat) :
    runFits (Say.core s t.i.core) t.b d.level (d.area / 256) u = true ↔ freeRun s t d u := by
  simp only [runFits, Bool.and_eq_true, List.all_eq_true, Bool.or_eq_true, decide_eq_true_eq, mem_takenRuns, freeRun, and_assoc]
  refine and_congr_right fun _ => and_congr_right fun _ => ⟨fun h x hx hl => h _ ⟨x, hx, hl, rfl⟩, ?_⟩
  rintro h r ⟨x, hx, hl, rfl⟩
  exact h x hx hl

/-- The lowest free run starts where the area does, or where the run of a handle ends: one unit lower it would still be free. -/
theorem mem_runStarts_of_least {d : Desc} {u : Nat} (hu : freeRun s t d u) (hmin : ∀ y, freeRun s t d y → u ≤ y) :
    u ∈ runStarts (Say.core s t.i.core) t.b d.level := by
  obtain ⟨hlo, hhi, hruns⟩ := hu
  rw [runStarts, mem_sortBy, List.mem_cons, List.mem_map]
  by_contra hno
  obtain ⟨hstart, hends⟩ := not_or.mp hno
  have hfree : freeRun s t d (u - 1) := by
    refine ⟨by omega, by omega, fun x hx hl => ?_⟩
    have hne : u ≠ x.2.base + x.2.area / 256 := fun he => hends ⟨_, mem_takenRuns.mpr ⟨x, hx, hl, rfl⟩, he.symm⟩
    have := hruns x hx hl
    omega
  have := hmin _ hfree
  omega

/-- `findRun` answers the lowest free run, -/
theorem findRun_least {d : Desc} {u : Nat} (hu : freeRun s t d u) (hmin : ∀ y, freeRun s t d y → u ≤ y) :
    findRun (Say.core s t.i.core) t.b d.level (d.area / 256) = some u := by
  rw [findRun_eq]
  exact find?_least (pairwise_sortBy _) (mem_runStarts_of_least hu hmin) ((runFits_iff s t d u).mpr hu)
    fun y _ hy => hmin y ((runFits_iff s t d y).mp hy)

/-- and none where there is none. -/
theorem findRun_none {d : Desc} (h : ∀ v, ¬ freeRun s t d v) : findRun (Say.core s t.i.core) t.b d.level (d.area / 256) = none := by
  rw [findRun_eq, List.find?_eq_none]
  exact fun y _ hy => h y ((runFits_iff s t d y).mp hy)

/-! ## What an allocation asks (R193) -/

theorem levelTakes_iff {lv : Level} {fmt : Nat} : levelTakes (levelNo lv) fmt = true ↔ formatAt (levelNo lv) fmt := by
  cases lv <;> simp [levelTakes, levelNo, formatAt] <;> tauto

theorem scaleOk_iff (s : State) (t : Site) (d : Desc) : scaleOk (Say.core s t.i.core) t.b d = true ↔ scaleRules s t d := by
  unfold scaleOk scaleRules scaleShape
  cases hscv : d.scv
  · by_cases h14 : d.fmt = 14 <;> simp [h14]
  · by_cases h14 : d.fmt = 14
    · simp [h14, and_assoc]
    · by_cases h8 : d.fmt = 8 ∨ d.fmt = 9
      · have h8' : (d.fmt = 8) ∨ (d.fmt = 9) := h8
        cases hs : d.sblk <;> simp [h14, h8', and_assoc]
      · simp [h14, not_or.mp h8]

/-- The descriptor that an allocation puts into the table. -/
def Desc.placed (d : Desc) (t : Site) (u : Nat) : Desc := { d with base := u, owner := t.b.bind.owner, valid := true }

theorem allocDesc_eq {h : Nat} {d : Desc} {lv : Level} (hlv : d.level = levelNo lv) : allocDesc (Say.core s t.i.core) t.b h d =
    if mayAlloc s t h d then (findRun (Say.core s t.i.core) t.b d.level (d.area / 256)).map (d.placed t) else none := by
  have hlevel : levelTakes d.level d.fmt = true ↔ formatAt d.level d.fmt := hlv ▸ levelTakes_iff
  unfold allocDesc
  simp only [← ite_or, ← hlevel, ← scaleOk_iff, mayAlloc]
  rw [← ite_not]
  refine if_congr ?_ rfl rfl
  simp only [not_or, Bool.not_eq_true, Bool.not_eq_true', Bool.not_eq_false, not_and, Nat.not_lt, not_not, hlevel, Nat.one_le_iff_ne_zero,
    ne_eq, and_assoc]

/-- An allocation that the conditions allow takes the lowest free run, -/
theorem allocDesc_least {h u : Nat} {d : Desc} {lv : Level} (hlv : d.level = levelNo lv) (hmay : mayAlloc s t h d) (hu : freeRun s t d u)
    (hmin : ∀ y, freeRun s t d y → u ≤ y) : allocDesc (Say.core s t.i.core) t.b h d = some (d.placed t u) := by
  rw [allocDesc_eq hlv, if_pos hmay, findRun_least hu hmin, Option.map_some]

/-- and without them, or without a run, there is none. -/
theorem allocDesc_none {h : Nat} {d : Desc} {lv : Level} (hlv : d.level = levelNo lv) (hno : ¬ mayAlloc s t h d ∨ ∀ v, ¬ freeRun s t d v) :
    allocDesc (Say.core s t.i.core) t.b h d = none := by
  rw [allocDesc_eq hlv]
  rcases hno with hmay | hrun
  · exact if_neg hmay
  · rw [findRun_none hrun]; exact ite_self _

/-! ## An issue that changes the table -/

/-- `w'` is `w` after an issue at `t` that leaves the tile table `ts` and the watches `ws` and the results `rs` pending; of its core the
courses, strings, profiles and the count of issues have moved on too. -/
structure Tabled (w w' : World) (t : Site) (ts : Tab Desc) (ws : List (Nat × Watch)) (rs : List Result) : Prop where
  out : w'.out = w.out
  mach : w'.mach = { w.mach with cur := none, cores := w'.mach.cores }
  cores : ∀ c, c ≠ t.i.core → w'.core c = w.core c
  course : w'.course? t.i.core t.i.owner t.i.cr = some (issuedCourse t)
  others : ∀ o r, 32 * o + r ≠ 32 * t.i.owner + t.i.cr → w'.course? t.i.core o r = w.course? t.i.core o r
  own : w'.core t.i.core = { w.core t.i.core with
    courses := (w'.core t.i.core).courses, strs := (w'.core t.i.core).strs, samples := (w'.core t.i.core).samples, seq := t.seq + 1
    tiles := ts, watches := ws, results := (w.core t.i.core).results ++ rs, nextId := (w.core t.i.core).nextId + rs.length }

variable {ts : Tab Desc} {ws : List (Nat × Watch)}

/-- Before the instruction does anything the table is as it was. -/
theorem tabled_beginIssue (t : Site) (w : World) :
    Tabled w (beginIssue t w) t (w.core t.i.core).tiles (w.core t.i.core).watches [] := by
  have h := passes_beginIssue t w
  refine ⟨h.out, h.mach, h.cores, h.course, h.others, ?_⟩
  rw [h.own, beginIssue_seq, List.append_nil]
  rfl

/-- One descriptor of its core, and its watches, are written anew. -/
theorem Tabled.putTile (h : Tabled w w' t ts ws rs) (n : Nat) (d : Desc) (g : List (Nat × Watch) → List (Nat × Watch)) :
    Tabled w (w'.modCore t.i.core fun k => { k with tiles := k.tiles.put n d, watches := g k.watches }) t (ts.put n d) (g ws) rs where
  out := h.out
  mach := by rw [World.modCore, World.setCore, h.mach]
  cores c hne := by rw [core_modCore_other _ _ hne, h.cores c hne]
  course := by rw [← h.course, World.course?, core_modCore_same]; rfl
  others o r hne := by rw [← h.others o r hne, World.course?, core_modCore_same]; rfl
  own := by rw [core_modCore_same, h.own]

/-- A result that an issue at `t` leaves pending in a world. -/
def World.pending (w : World) (t : Site) (n ready : Nat) (writes : List Write) : Result :=
  { id := (w.core t.i.core).nextId + n, seq := t.seq, owner := t.i.owner, cr := t.i.cr, ready := ready, writes := writes, flags := 0,
    pc := t.i.pc, word := t.i.word }

/-- One more result. -/
theorem Tabled.onceResult (h : Tabled w w' t ts ws rs) (lat : Nat) (l : List Write) :
    Tabled w (onceResult t lat l w') t ts ws (rs ++ [w.pending t rs.length (t.i.cyc + lat) l]) where
  out := h.out
  mach := by rw [Machine.onceResult, pushResult, World.modCore, World.setCore, h.mach]
  cores c hne := by rw [Machine.onceResult, pushResult, core_modCore_other _ _ hne, h.cores c hne]
  course := by rw [← h.course, Machine.onceResult, pushResult, World.course?, core_modCore_same]; rfl
  others o r hne := by rw [← h.others o r hne, Machine.onceResult, pushResult, World.course?, core_modCore_same]; rfl
  own := by
    rw [Machine.onceResult, pushResult, core_modCore_same, h.own]
    simp only [List.append_assoc, List.length_append, List.length_singleton, Nat.add_assoc]
    rfl

/-- In a state: what the statements say of such an issue. -/
theorem Tabled.tables (h : Tabled (enter s) w t ts ws rs) : Tables s (commit s w) t ts rs := by
  have hmem : (commit s w).mem = s.mem := by rw [commit_mem, h.out]; rfl
  have hown : Say.core (commit s w) t.i.core = _ := h.own
  exact {
    issued := {
      bytes := ⟨fun st a => by rw [hmem], by rw [hmem]⟩
      mach := h.mach
      seq := by rw [hown]
      kept := by rw [CoreKept, hown]; rfl
      cores := h.cores }
    own := h.course
    others := h.others
    blocks := by rw [hown]; rfl
    tiles := by rw [hown]
    tags := by rw [hown]; rfl
    cmds := by rw [hown]; rfl
    flights := by rw [hown]; rfl
    accs := by rw [hown]; rfl
    results := by rw [hown]; rfl }

/-- Where the table stands, it moves its course on. -/
theorem Tabled.moves (h : Tabled (enter s) w t (Say.core s t.i.core).tiles (Say.core s t.i.core).watches rs) :
    Moves s (commit s w) t (issuedCourse t) rs := by
  have ht := h.tables
  have hown : Say.core (commit s w) t.i.core = _ := h.own
  exact {
    issued := ht.issued, own := ht.own, others := ht.others, blocks := ht.blocks, tiles := ht.tiles, tags := ht.tags, cmds := ht.cmds
    flights := ht.flights, accs := ht.accs, results := ht.results
    arms := by rw [hown]; rfl
    watches := by rw [hown]
    trap := by rw [hown]; rfl }

/-- A disabled instruction takes its turn alone. -/
theorem moves_beginIssue (s : State) (t : Site) : Moves s (commit s (beginIssue t (enter s))) t (issuedCourse t) [] :=
  (tabled_beginIssue t (enter s)).moves

/-- An instruction that executes once and leaves one result. -/
theorem moves_onceResult (s : State) (t : Site) (lat : Nat) (l : List Write) :
    Moves s (commit s (onceResult t lat l (beginIssue t (enter s)))) t (issuedCourse t) [pending s t (t.i.cyc + lat) l] :=
  ((tabled_beginIssue t (enter s)).onceResult lat l).moves

/-- The tile table and the commands of the core are as they were when an instruction begins. -/
theorem descOf_beginIssue (s : State) (t : Site) (b : Block) (n : Nat) :
    descOf ((beginIssue t (enter s)).core t.i.core) b n = descOf (Say.core s t.i.core) b n := by
  rw [(passes_beginIssue t (enter s)).own]; rfl

theorem allocDesc_beginIssue (s : State) (t : Site) (n : Nat) (d : Desc) :
    allocDesc ((beginIssue t (enter s)).core t.i.core) t.b n d = allocDesc (Say.core s t.i.core) t.b n d := by
  rw [(passes_beginIssue t (enter s)).own]; rfl

theorem handleInUse_beginIssue (s : State) (t : Site) (n : Nat) :
    handleInUse ((beginIssue t (enter s)).core t.i.core) t.i.owner n = handleInUse (Say.core s t.i.core) t.i.owner n := by
  rw [(passes_beginIssue t (enter s)).own]; rfl

theorem validHandles_beginIssue (s : State) (t : Site) :
    validHandles ((beginIssue t (enter s)).core t.i.core) t.b = validHandles (Say.core s t.i.core) t.b := by
  rw [(passes_beginIssue t (enter s)).own]; rfl

/-! ## `talloc`, `tfree` and `tdesc` -/

/-- The descriptor that a `talloc` asks for (R192). -/
def Site.wanted (t : Site) (fmt : BitVec 4) (b : Reg) (lv : Level) : Desc where
  rows := (t.k.uni b.toNat).toNat
  cols := (t.k.uni (b.toNat + 1)).toNat
  fmt := fmt.toNat
  level := levelNo lv
  scale := (t.k.uni (b.toNat + 2)).toNat % 2 ^ 8
  scv := decide ((t.k.uni (b.toNat + 2)).toNat / 2 ^ 8 % 2 = 1)
  sblk := decide ((t.k.uni (b.toNat + 2)).toNat / 2 ^ 9 % 2 = 1)
  save := decide ((t.k.uni (b.toNat + 2)).toNat / 2 ^ 10 % 2 = 1)
  since := t.i.cyc + 8

/-- What `talloc` does once its handle number is one of the block's. -/
theorem exec_talloc {fmt : BitVec 4} {p : BitVec 3} {h : BitVec 8} {b : Reg} {lv : Level} (hat : At s t) (honce : once t = true)
    (hh : h.toNat < t.b.hdr.handles) : exec (.talloc fmt p h b lv) s = .next (commit s
      (match allocDesc (Say.core s t.i.core) t.b h.toNat (t.wanted fmt b lv) with
        | some d => onceResult t 8 [.pred p t.p.mask 0xFFFFFFFF] ((beginIssue t (enter s)).modCore t.i.core fun k =>
            { k with tiles := k.tiles.put (t.b.bind.hb + h.toNat) d })
        | none => onceResult t 8 [.pred p t.p.mask 0] (beginIssue t (enter s)))) := by
  change execTalloc fmt p h b lv s = _
  rw [execTalloc, issuePlain_run hat]
  simp only [site_once, honce, Bool.not_true, Bool.false_eq_true, if_false, if_neg (Nat.not_le.mpr hh), allocDesc_beginIssue]
  rfl

/-- What makes a `tfree` fault (R194). -/
abbrev badFree (s : State) (t : Site) (n : Nat) : Prop :=
  t.b.hdr.handles ≤ n ∨ (descOf (Say.core s t.i.core) t.b n).valid = false ∨ handleInUse (Say.core s t.i.core) t.i.owner n = true ∨
    (descOf (Say.core s t.i.core) t.b n).land = true ∨ ∃ x ∈ validHandles (Say.core s t.i.core) t.b, x.2.scv = true ∧ x.2.scale = n

theorem exec_tfree {h : BitVec 8} (hat : At s t) (honce : once t = true) : exec (.tfree h) s = .next (commit s
    (if badFree s t h.toNat then siteFault t 0x05 0 1 (BitVec.ofNat 64 h.toNat) 0 [] (beginIssue t (enter s))
      else (beginIssue t (enter s)).modCore t.i.core fun k => { k with
        tiles := k.tiles.put (t.b.bind.hb + h.toNat) { descOf (Say.core s t.i.core) t.b h.toNat with valid := false, watch := false }
        watches := k.watches.filter fun (x : Nat × Watch) => !(decide (x.2.owner = t.i.owner) && !x.2.die && decide (x.2.handle = h.toNat)) })) := by
  change execTfree h s = _
  rw [execTfree, issuePlain_run hat]
  simp only [site_once, honce, Bool.not_true, Bool.false_eq_true, if_false, descOf_beginIssue, handleInUse_beginIssue, validHandles_beginIssue,
    Bool.or_eq_true, decide_eq_true_eq, Bool.not_eq_true', List.any_eq_true, Bool.and_eq_true, badFree, or_assoc]

/-- The four words that `tdesc` writes (R195). -/
theorem descWords (n v : Nat) : (List.range 4).map (fun i => Write.uni (n + i) (BitVec.ofNat 32 (v / 2 ^ (32 * i)))) =
    [.uni n (BitVec.ofNat 32 v), .uni (n + 1) (BitVec.ofNat 32 (v / 2 ^ 32)), .uni (n + 2) (BitVec.ofNat 32 (v / 2 ^ 64)),
      .uni (n + 3) (BitVec.ofNat 32 (v / 2 ^ 96))] := by
  have hrange : List.range 4 = [0, 1, 2, 3] := rfl
  rw [hrange]
  simp only [List.map_cons, List.map_nil, Nat.mul_zero, Nat.pow_zero, Nat.div_one, Nat.add_zero, Nat.reduceMul]

end Sys2Proof.Machine

namespace Sys2Proof.Proofs

open Sys2Proof.Machine Sys2Proof.Say

/-- Settles O49: of a `talloc` the conditions of R193 decide what `allocDesc` answers, of a `tfree` those of R194 whether it faults, and
`tdesc` reads the table as it stands. -/
theorem tileHandles : Obligations.TileHandles := by
  refine ⟨fun fmt p h b lv s t hat => ?talloc, fun h s t hat => ?tfree, fun d h s t hat => ?tdesc⟩
  case talloc =>
    refine ⟨fun honce => ⟨_, issuePlain_run hat, ?off⟩, fun honce hh => ⟨_, issuePlain_run hat, ?fault⟩,
      fun honce hh hno => ⟨_, exec_talloc hat honce hh, ?none⟩,
      fun v honce hh hmay hrun hmin => ⟨_, exec_talloc hat honce hh, ?placed⟩⟩
    case off =>
      simp only [site_once, honce, Bool.not_false, if_true]
      exact moves_beginIssue s t
    case fault =>
      simp only [site_once, honce, Bool.not_true, Bool.false_eq_true, if_false, if_pos hh]
      exact onceFaults hat 0x05 0 1 _ 8 _ (by decide)
    case none =>
      rw [allocDesc_none (d := t.wanted fmt b lv) rfl hno]
      exact moves_onceResult s t 8 _
    case placed =>
      rw [allocDesc_least (d := t.wanted fmt b lv) rfl hmay hrun hmin]
      exact (((tabled_beginIssue t (enter s)).putTile _ _ id).onceResult 8 _).tables
  case tfree =>
    refine ⟨fun honce => ⟨_, issuePlain_run hat, ?off⟩, fun honce hbad => ⟨_, exec_tfree hat honce, ?fault⟩,
      fun honce hgood => ⟨_, exec_tfree hat honce, ?freed⟩⟩
    case off =>
      simp only [site_once, honce, Bool.not_false, if_true]
      exact moves_beginIssue s t
    case fault =>
      rw [if_pos hbad]
      exact onceFaults hat 0x05 0 1 _ 0 _ (by decide)
    case freed =>
      rw [if_neg hgood]
      exact ((tabled_beginIssue t (enter s)).putTile _ _ _).tables
  case tdesc =>
    refine ⟨_, issuePlain_run hat, fun honce => ?off, fun honce hh => ?fault, fun honce hh => ?read⟩
    case off =>
      simp only [site_once, honce, Bool.not_false, if_true]
      exact moves_beginIssue s t
    case fault =>
      simp only [site_once, honce, Bool.not_true, Bool.false_eq_true, if_false, if_pos hh]
      exact onceFaults hat 0x05 0 1 _ 2 _ (by decide)
    case read =>
      simp only [site_once, honce, Bool.not_true, Bool.false_eq_true, if_false, if_neg (Nat.not_le.mpr hh), descOf_beginIssue]
      rw [descWords]
      exact moves_onceResult s t 2 _

end Sys2Proof.Proofs

/-! SUPPORT. The patterns of a floating-point format (R60, R61): their magnitudes in the order of values, and what reading one gives. -/

namespace Sys2Proof.Machine

open Sys2Proof.Say

/-! ## Magnitudes -/

/-- Exponent of the unit of the subnormal numbers. -/
def unitExp (f : FFmt) : ℤ := eMin f - fracBits f

/-- The magnitude of `n` units of the `k`-th binade: subnormal numbers and the first binade have one unit. -/
def binade (f : FFmt) (n k : Nat) : Nat := n + k * 2 ^ fracBits f

/-- `n` is a significand of the `k`-th binade, or the end of it. -/
def Significand (f : FFmt) (n k : Nat) : Prop := n ≤ 2 ^ (fracBits f + 1) ∧ (k = 0 ∨ 2 ^ fracBits f ≤ n)

/-- `n` is a significand of the `k`-th binade. -/
def InBinade (f : FFmt) (n k : Nat) : Prop := n < 2 ^ (fracBits f + 1) ∧ (k = 0 ∨ 2 ^ fracBits f ≤ n)

theorem InBinade.significand {f : FFmt} {n k : Nat} (h : InBinade f n k) : Significand f n k := ⟨h.1.le, h.2⟩

theorem magnitude_sub {f : FFmt} {p : Nat} (h : p < 2 ^ fracBits f) : magnitude f p = p * 2 ^ unitExp f := by
  rw [magnitude, if_pos h, unitExp, eMin]

theorem magnitude_normal {f : FFmt} {n k : Nat} (hn : n < 2 ^ fracBits f) :
    magnitude f (n + (k + 1) * 2 ^ fracBits f) = (2 ^ fracBits f + n : ℕ) * 2 ^ (unitExp f + k) := by
  have hpos : 0 < 2 ^ fracBits f := by positivity
  have hle : ¬ n + (k + 1) * 2 ^ fracBits f < 2 ^ fracBits f := by
    have : 2 ^ fracBits f ≤ (k + 1) * 2 ^ fracBits f := Nat.le_mul_of_pos_left _ k.succ_pos
    omega
  rw [magnitude, if_neg hle, Nat.add_mul_mod_self_right, Nat.mod_eq_of_lt hn, Nat.add_mul_div_right _ _ hpos, Nat.div_eq_of_lt hn, unitExp, eMin]
  congr 2
  push_cast
  ring

/-- The magnitude of `n` units of a binade, its end included. -/
theorem magnitude_binade {f : FFmt} {n k : Nat} (h : Significand f n k) : magnitude f (binade f n k) = n * 2 ^ (unitExp f + k) := by
  obtain ⟨hle, hk⟩ := h
  have hpow : 2 ^ (fracBits f + 1) = 2 * 2 ^ fracBits f := by ring
  unfold binade
  rcases Nat.lt_or_ge n (2 ^ fracBits f) with hlt | hge
  · obtain rfl : k = 0 := by omega
    simp [magnitude_sub hlt]
  · obtain ⟨r, rfl⟩ := Nat.exists_eq_add_of_le hge
    rcases Nat.lt_or_ge r (2 ^ fracBits f) with hr | hr
    · rw [show 2 ^ fracBits f + r + k * 2 ^ fracBits f = r + (k + 1) * 2 ^ fracBits f by ring, magnitude_normal hr]
    · obtain rfl : r = 2 ^ fracBits f := by omega
      rw [show 2 ^ fracBits f + 2 ^ fracBits f + k * 2 ^ fracBits f = 0 + (k + 1 + 1) * 2 ^ fracBits f by ring,
        magnitude_normal (by positivity), show unitExp f + (k + 1 : ℕ) = unitExp f + k + 1 by push_cast; ring, zpow_add_one₀ (by norm_num)]
      push_cast
      ring

/-- Every magnitude is some units of a binade. -/
theorem exists_binade (f : FFmt) (p : Nat) : ∃ n k, p = binade f n k ∧ InBinade f n k := by
  have hpos : 0 < 2 ^ fracBits f := by positivity
  have hpow : 2 ^ (fracBits f + 1) = 2 * 2 ^ fracBits f := by ring
  rcases Nat.lt_or_ge p (2 ^ fracBits f) with hlt | hge
  · exact ⟨p, 0, by simp [binade], by omega, .inl rfl⟩
  · obtain ⟨k, hk⟩ : ∃ k, p / 2 ^ fracBits f = k + 1 := Nat.exists_eq_succ_of_ne_zero (Nat.div_pos hge hpos).ne'
    refine ⟨2 ^ fracBits f + p % 2 ^ fracBits f, k, ?_, ?_, .inr (Nat.le_add_right _ _)⟩
    · have := Nat.div_add_mod p (2 ^ fracBits f)
      rw [hk] at this
      unfold binade
      linarith
    · have := Nat.mod_lt p hpos
      omega

/-- The next magnitude is one unit greater. -/
theorem magnitude_succ {f : FFmt} {n k : Nat} (h : InBinade f n k) :
    magnitude f (binade f n k + 1) = (n + 1 : ℕ) * 2 ^ (unitExp f + k) := by
  rw [show binade f n k + 1 = binade f (n + 1) k by unfold binade; ring]
  exact magnitude_binade ⟨h.1, h.2.imp_right (Nat.le_succ_of_le ·)⟩

/-- Magnitudes rise with their patterns (R61). -/
theorem magnitude_strictMono (f : FFmt) : StrictMono (magnitude f) := by
  refine strictMono_nat_of_lt_succ fun p => ?_
  obtain ⟨n, k, rfl, h⟩ := exists_binade f p
  rw [magnitude_succ h, magnitude_binade h.significand]
  gcongr
  omega

@[simp] theorem magnitude_zero (f : FFmt) : magnitude f 0 = 0 := by
  rw [magnitude_sub (by positivity)]; simp

theorem magnitude_nonneg (f : FFmt) (p : Nat) : 0 ≤ magnitude f p :=
  magnitude_zero f ▸ (magnitude_strictMono f).monotone p.zero_le

theorem magnitude_eq_zero {f : FFmt} {p : Nat} : magnitude f p = 0 ↔ p = 0 :=
  ⟨fun h => (magnitude_strictMono f).injective (h.trans (magnitude_zero f).symm), fun h => h ▸ magnitude_zero f⟩

theorem magnitude_lt_iff {f : FFmt} {p q : Nat} : magnitude f p < magnitude f q ↔ p < q := (magnitude_strictMono f).lt_iff_lt
theorem magnitude_le_iff {f : FFmt} {p q : Nat} : magnitude f p ≤ magnitude f q ↔ p ≤ q := (magnitude_strictMono f).le_iff_le

/-! ## Reading a pattern (R61) -/

theorem fmtWidth_pred (f : FFmt) : fmtWidth f - 1 = expBits f + fracBits f := by unfold fmtWidth; omega

theorem fracBits_ge (f : FFmt) : 2 ≤ fracBits f := by cases f <;> decide

/-- Exponent and fraction field of a pattern. -/
theorem expField_eq (f : FFmt) (x : Nat) : x / 2 ^ fracBits f % 2 ^ expBits f = mags f x / 2 ^ fracBits f := by
  rw [mags, Nat.add_comm (expBits f), pow_add, Nat.mod_mul_right_div_self]

theorem fracField_eq (f : FFmt) (x : Nat) : x % 2 ^ fracBits f = mags f x % 2 ^ fracBits f := by
  rw [mags, Nat.mod_mod_of_dvd _ (pow_dvd_pow 2 (Nat.le_add_left ..))]

theorem decide_sign_eq (f : FFmt) (x : Nat) : decide (x / 2 ^ (fmtWidth f - 1) % 2 = 1) = negative f x := by
  rw [fmtWidth_pred, negative]

theorem mags_lt (f : FFmt) (x : Nat) : mags f x < 2 ^ (expBits f + fracBits f) := Nat.mod_lt _ (by positivity)

/-- The greatest exponent field of a finite number, and its greatest fraction there: all of them, but in E4M3, which has no infinity. -/
theorem finite_iff {f : FFmt} {x : Nat} : finite f x = true ↔
    if f = .e4m3 then ¬ (mags f x / 2 ^ fracBits f = 15 ∧ mags f x % 2 ^ fracBits f = 7) else mags f x / 2 ^ fracBits f ≠ 2 ^ expBits f - 1 := by
  have h := mags_lt f x
  rw [finite, decide_eq_true_eq]
  split
  · next he => subst he; simp only [largest, expBits, fracBits, if_true] at *; omega
  · next he =>
    rw [largest, if_neg he]
    cases f <;> simp only [expBits, fracBits] at * <;> omega

theorem infinite_iff {f : FFmt} {x : Nat} : infinite f x = true ↔
    f ≠ .e4m3 ∧ mags f x / 2 ^ fracBits f = 2 ^ expBits f - 1 ∧ mags f x % 2 ^ fracBits f = 0 := by
  rw [infinite, decide_eq_true_eq]
  refine and_congr_right fun he => ?_
  rw [largest, if_neg he]
  cases f <;> simp only [expBits, fracBits] at * <;> omega

/-- The pattern's kinds exclude each other. -/
theorem not_finite_of_infinite {f : FFmt} {x : Nat} (h : infinite f x = true) : finite f x = false := by
  obtain ⟨he, hexp, -⟩ := infinite_iff.mp h
  rw [← Bool.not_eq_true, finite_iff, if_neg he]
  exact not_not.mpr hexp

theorem nan_eq_false_of_finite {f : FFmt} {x : Nat} (h : finite f x = true) : nan f x = false := by simp [nan, h]
theorem nan_eq_false_of_infinite {f : FFmt} {x : Nat} (h : infinite f x = true) : nan f x = false := by simp [nan, h]

/-- A pattern is finite, infinite, or NaN. -/
theorem kinds (f : FFmt) (x : Nat) : finite f x = true ∨ infinite f x = true ∨ nan f x = true := by
  cases hf : finite f x <;> cases hi : infinite f x <;> simp [nan, hf, hi]

/-- What `unpackF` makes of the exponent and the fraction of a number (R61). -/
def readNumber (f : FFmt) (neg : Bool) (p : Nat) : FVal :=
  if p / 2 ^ fracBits f = 0 then .num neg (p % 2 ^ fracBits f) (unitExp f)
  else .num neg (2 ^ fracBits f + p % 2 ^ fracBits f) ((p / 2 ^ fracBits f : ℕ) - (expBias f : ℤ) - fracBits f)

theorem unpackF_eq (f : FFmt) (x : Nat) : unpackF f x =
    if f = .e4m3 then
      (if mags f x / 2 ^ fracBits f = 15 ∧ mags f x % 2 ^ fracBits f = 7 then .nan false else readNumber f (negative f x) (mags f x))
    else if mags f x / 2 ^ fracBits f = 2 ^ expBits f - 1 then
      (if mags f x % 2 ^ fracBits f = 0 then .inf (negative f x) else .nan (mags f x % 2 ^ fracBits f / 2 ^ (fracBits f - 1) = 0))
    else readNumber f (negative f x) (mags f x) := by
  unfold readNumber
  rw [← expField_eq, ← fracField_eq, ← decide_sign_eq]
  split
  · next he => subst he; rfl
  · next he => rw [unpackF, if_neg he]; rfl

theorem readNumber_eq (f : FFmt) (neg : Bool) (p : Nat) : ∃ n k, readNumber f neg p = .num neg n (unitExp f + (k : Nat)) ∧
    p = binade f n k ∧ InBinade f n k := by
  have hpos : 0 < 2 ^ fracBits f := by positivity
  have hpow : 2 ^ (fracBits f + 1) = 2 * 2 ^ fracBits f := by ring
  have hfr := Nat.mod_lt p hpos
  have hdm := Nat.div_add_mod p (2 ^ fracBits f)
  unfold readNumber
  split
  · next h0 =>
    rw [h0] at hdm
    exact ⟨_, 0, by rw [Nat.cast_zero, add_zero], by rw [binade]; omega, by omega, .inl rfl⟩
  · next h0 =>
    obtain ⟨k, hk⟩ : ∃ k, p / 2 ^ fracBits f = k + 1 := Nat.exists_eq_succ_of_ne_zero h0
    rw [hk] at hdm
    refine ⟨2 ^ fracBits f + p % 2 ^ fracBits f, k, ?_, ?_, by omega, .inr (Nat.le_add_right _ _)⟩
    · rw [hk, unitExp, eMin]; congr 1; push_cast; ring
    · rw [binade]; linarith

/-- A finite pattern is read as its sign, and some units of a binade. -/
theorem unpackF_finite {f : FFmt} {x : Nat} (h : finite f x = true) : ∃ n k, unpackF f x = .num (negative f x) n (unitExp f + (k : Nat)) ∧
    mags f x = binade f n k ∧ InBinade f n k := by
  have hread : unpackF f x = readNumber f (negative f x) (mags f x) := by
    have hfin := finite_iff.mp h
    rw [unpackF_eq]
    split at hfin
    · next he => rw [if_pos he, if_neg hfin]
    · next he => rw [if_neg he, if_neg hfin]
  rw [hread]
  exact readNumber_eq ..

/-- An infinite pattern is read as infinity of its sign, -/
theorem unpackF_infinite {f : FFmt} {x : Nat} (h : infinite f x = true) : unpackF f x = .inf (negative f x) := by
  obtain ⟨he, hexp, hfr⟩ := infinite_iff.mp h
  rw [unpackF_eq, if_neg he, if_pos hexp, if_pos hfr]

/-- and NaN as NaN, signalling where its highest fraction bit is clear. -/
theorem unpackF_nan {f : FFmt} {x : Nat} (h : nan f x = true) : unpackF f x = .nan (snan f x) := by
  have hnan := h
  rw [nan, Bool.and_eq_true, Bool.not_eq_true', Bool.not_eq_true', ← Bool.not_eq_true, ← Bool.not_eq_true, finite_iff, infinite_iff] at h
  obtain ⟨hfin, hinf⟩ := h
  rw [unpackF_eq, snan, hnan, Bool.true_and]
  split at hfin
  · next he => rw [if_pos he, if_pos (not_not.mp hfin), he]; rfl
  · next he =>
    have hexp := not_not.mp hfin
    have hfr : ¬ mags f x % 2 ^ fracBits f = 0 := fun h0 => hinf ⟨he, hexp, h0⟩
    have hquiet : x % 2 ^ fracBits f / 2 ^ (fracBits f - 1) = x / 2 ^ (fracBits f - 1) % 2 := by
      obtain ⟨n, hn⟩ := Nat.exists_eq_add_of_le' (fracBits_ge f)
      rw [hn, show n + 2 - 1 = n + 1 from rfl, show n + 2 = n + 1 + 1 from rfl, pow_succ, Nat.mod_mul_right_div_self]
    rw [if_neg he, if_pos hexp, if_neg hfr, ← fracField_eq, hquiet, decide_eq_true he, Bool.true_and]

end Sys2Proof.Machine

/-! SUPPORT. Patterns in the order of values (R131, R132): the comparisons, the lesser and the greater. -/

namespace Sys2Proof.Machine

open Sys2Proof.Say

variable {f : FFmt} {x y : Nat}

/-! ## The order of values -/

/-- The place of a pattern in the order of values: sign and magnitude, the two zeros equal. -/
def placeOf (f : FFmt) (x : Nat) : ℤ := if negative f x then -(mags f x : ℤ) else mags f x

/-- The value at a place. -/
def valueAt (f : FFmt) (z : ℤ) : ℚ := if z < 0 then -magnitude f z.natAbs else magnitude f z.natAbs

theorem value_eq_valueAt (f : FFmt) (x : Nat) : value f x = valueAt f (placeOf f x) := by
  unfold value valueAt placeOf
  cases negative f x
  · simp
  · rcases Nat.eq_zero_or_pos (mags f x) with h | h <;> simp [h]

theorem valueAt_strictMono (f : FFmt) : StrictMono (valueAt f) := by
  intro z w h
  have hpos : ∀ v : ℤ, v < 0 → 0 < magnitude f v.natAbs := fun v hv => magnitude_zero f ▸ magnitude_lt_iff.mpr (by omega)
  unfold valueAt
  split <;> split
  · exact neg_lt_neg (magnitude_lt_iff.mpr (by omega))
  · next hz _ => exact (neg_lt_zero.mpr (hpos z hz)).trans_le (magnitude_nonneg ..)
  · omega
  · exact magnitude_lt_iff.mpr (by omega)

/-- Values are in the order of their places. -/
theorem value_lt_iff : value f x < value f y ↔ placeOf f x < placeOf f y := by
  rw [value_eq_valueAt, value_eq_valueAt, (valueAt_strictMono f).lt_iff_lt]

/-- A signed significand at a unit, brought to a smaller one. -/
theorem signedVal_rescale {s : Bool} {m : Nat} {e e' : ℤ} (h : e' ≤ e) :
    ((signedVal s m * 2 ^ (e - e').toNat : ℤ) : ℚ) * 2 ^ e' = signedVal s m * 2 ^ e := by
  have he : e = ((e - e').toNat : ℤ) + e' := by omega
  conv_rhs => rw [he, zpow_add₀ (by norm_num), zpow_natCast]
  push_cast
  ring

/-- The value of a finite pattern is what it is read as. -/
theorem value_eq {n k : Nat} (hm : mags f x = binade f n k) (h : InBinade f n k) :
    value f x = signedVal (negative f x) n * 2 ^ (unitExp f + k) := by
  rw [value, hm, magnitude_binade h.significand, signedVal]
  split <;> push_cast <;> ring

/-- The place of an infinity is beyond that of every finite pattern. -/
theorem mags_infinite (h : infinite f x = true) : mags f x = largest f + 1 := by
  rw [infinite, decide_eq_true_eq] at h; exact h.2

theorem mags_finite (h : finite f x = true) : mags f x ≤ largest f := by
  rwa [finite, decide_eq_true_eq] at h

theorem finite_or_infinite (h : nan f x = false) : finite f x = true ∨ infinite f x = true := by
  rcases kinds f x with hf | hi | hn
  · exact .inl hf
  · exact .inr hi
  · rw [h] at hn; cases hn

/-- The model's order of values is that of the places. -/
theorem ltVal_iff (hx : nan f x = false) (hy : nan f y = false) : ltVal (unpackF f x) (unpackF f y) = true ↔ placeOf f x < placeOf f y := by
  rcases finite_or_infinite hx with hfx | hix <;> rcases finite_or_infinite hy with hfy | hiy
  · obtain ⟨n, k, hr, hm, hb⟩ := unpackF_finite hfx
    obtain ⟨n', k', hr', hm', hb'⟩ := unpackF_finite hfy
    rw [hr, hr', ← value_lt_iff, value_eq hm hb, value_eq hm' hb']
    simp only [ltVal, decide_eq_true_eq]
    generalize unitExp f + (k : ℤ) = e
    generalize unitExp f + (k' : ℤ) = e'
    rw [← signedVal_rescale (min_le_left e e'), ← signedVal_rescale (min_le_right e e'), mul_lt_mul_iff_left₀ (by positivity), Int.cast_lt]
  · obtain ⟨n, k, hr, -, -⟩ := unpackF_finite hfx
    have := mags_finite hfx
    have := mags_infinite hiy
    rw [hr, unpackF_infinite hiy]
    cases hsx : negative f x <;> cases hsy : negative f y <;> simp [ltVal, placeOf, hsx, hsy] <;> omega
  · obtain ⟨n, k, hr, -, -⟩ := unpackF_finite hfy
    have := mags_finite hfy
    have := mags_infinite hix
    rw [hr, unpackF_infinite hix]
    cases hsx : negative f x <;> cases hsy : negative f y <;> simp [ltVal, placeOf, hsx, hsy] <;> omega
  · have := mags_infinite hix
    have := mags_infinite hiy
    rw [unpackF_infinite hix, unpackF_infinite hiy]
    cases hsx : negative f x <;> cases hsy : negative f y <;> simp [ltVal, placeOf, hsx, hsy] <;> omega

/-! ## What the model asks of a pattern it has read -/

@[simp] theorem isNan_unpackF (f : FFmt) (x : Nat) : isNan (unpackF f x) = nan f x := by
  rcases kinds f x with h | h | h
  · obtain ⟨n, k, hr, -⟩ := unpackF_finite h
    rw [hr, nan_eq_false_of_finite h]; rfl
  · rw [unpackF_infinite h, nan_eq_false_of_infinite h]; rfl
  · rw [unpackF_nan h, h]; rfl

@[simp] theorem isSnan_unpackF (f : FFmt) (x : Nat) : isSnan (unpackF f x) = snan f x := by
  rcases kinds f x with h | h | h
  · obtain ⟨n, k, hr, -⟩ := unpackF_finite h
    rw [hr, snan, nan_eq_false_of_finite h]; rfl
  · rw [unpackF_infinite h, snan, nan_eq_false_of_infinite h]; rfl
  · rw [unpackF_nan h]; rfl

@[simp] theorem isInf_unpackF (f : FFmt) (x : Nat) : isInf (unpackF f x) = infinite f x := by
  rcases kinds f x with h | h | h
  · obtain ⟨n, k, hr, -⟩ := unpackF_finite h
    have hinf : infinite f x = false := by
      rw [← Bool.not_eq_true]
      intro hi
      rw [not_finite_of_infinite hi] at h
      cases h
    rw [hr, hinf]; rfl
  · rw [unpackF_infinite h, h]; rfl
  · have hinf : infinite f x = false := by simpa [nan] using (Bool.and_eq_true_iff.mp h).2
    rw [unpackF_nan h, hinf]; rfl

theorem signBit_unpackF (h : nan f x = false) : signBit (unpackF f x) = negative f x := by
  rcases finite_or_infinite h with hf | hi
  · obtain ⟨n, k, hr, -⟩ := unpackF_finite hf
    rw [hr]; rfl
  · rw [unpackF_infinite hi]; rfl

/-- The NV flag of two operands. -/
theorem flagIf_snan (f : FFmt) (x y : Nat) : flagIf (snan f x || snan f y) flagNV = invalid f [x, y] := by
  simp [flagIf, invalid]

/-- The canonical NaN. -/
@[simp] theorem canonNan_eq_quiet (f : FFmt) : canonNan f = quiet f := by cases f <;> rfl

/-! ## Comparison (R132) -/

theorem cmpF_flags (f : FFmt) (cc : CondF) (x y : Nat) : (cmpF f cc x y).2 = invalid f [x, y] := by
  simp only [cmpF, isSnan_unpackF, flagIf_snan]

/-- A comparison is that of the places. -/
theorem cmpF_iff (f : FFmt) (cc : CondF) (x y : Nat) :
    (cmpF f cc x y).1 = true ↔ ordered cc (nan f x || nan f y) (placeOf f x) (placeOf f y) := by
  simp only [cmpF, isNan_unpackF]
  cases hun : nan f x || nan f y
  · obtain ⟨hx, hy⟩ := Bool.or_eq_false_iff.mp hun
    have hlt := ltVal_iff hx hy
    have hgt := ltVal_iff hy hx
    have hlt' : ltVal (unpackF f x) (unpackF f y) = decide (placeOf f x < placeOf f y) := by rw [Bool.eq_iff_iff, hlt, decide_eq_true_eq]
    have hgt' : ltVal (unpackF f y) (unpackF f x) = decide (placeOf f y < placeOf f x) := by rw [Bool.eq_iff_iff, hgt, decide_eq_true_eq]
    simp only [hlt', hgt']
    cases cc <;> simp [ordered] <;> omega
  · cases cc <;> simp [ordered]

/-! ## The lesser and the greater (R131) -/

/-- `x` comes before `y`: at a lesser place, or as -0 before +0. -/
def Precedes (f : FFmt) (x y : Nat) : Prop := placeOf f x < placeOf f y ∨ placeOf f x = placeOf f y ∧ negative f x = true ∧ negative f y = false

/-- The model's test of it. -/
theorem precedes_iff (hx : nan f x = false) (hy : nan f y = false) : (ltVal (unpackF f x) (unpackF f y) ||
    (eqVal (unpackF f x) (unpackF f y) && signBit (unpackF f x) && !signBit (unpackF f y))) = true ↔ Precedes f x y := by
  have heq : placeOf f x = placeOf f y ↔ ¬ placeOf f x < placeOf f y ∧ ¬ placeOf f y < placeOf f x := by omega
  simp only [Precedes, eqVal, isNan_unpackF, hx, hy, signBit_unpackF hx, signBit_unpackF hy, Bool.or_eq_true, Bool.and_eq_true,
    Bool.not_eq_true', ← Bool.not_eq_true, ltVal_iff hx hy, ltVal_iff hy hx, heq, and_true, and_assoc]

theorem minmaxF_numbers (greater : Bool) (hx : nan f x = false) (hy : nan f y = false) :
    (Precedes f x y → minmaxF f greater x y = (if greater then y else x, 0)) ∧
      (¬ Precedes f x y → minmaxF f greater x y = (if greater then x else y, 0)) := by
  have hflags : invalid f [x, y] = 0 := by simp [invalid, snan, hx, hy]
  simp only [minmaxF, isNan_unpackF, isSnan_unpackF, flagIf_snan, hflags, hx, hy, Bool.and_self, Bool.false_eq_true, if_false]
  refine ⟨fun h => ?_, fun h => ?_⟩
  · rw [(precedes_iff hx hy).mpr h]; cases greater <;> rfl
  · rw [Bool.not_eq_true _ |>.mp (mt (precedes_iff hx hy).mp h)]; cases greater <;> rfl

/-- The model's choice is that of R131. -/
theorem minmaxF_lesser (f : FFmt) (greater : Bool) (x y : Nat) : Lesser f greater x y (minmaxF f greater x y) := by
  refine ⟨fun hx hy => ?_, fun hx hy => ?_, fun hx hy => ?_, minmaxF_numbers greater⟩ <;>
    simp [minmaxF, flagIf_snan, hx, hy]

/-! ## Words of FP32 and FP64 -/

/-- Beyond infinity every pattern is NaN. -/
theorem nan_eq_decide {f : FFmt} (he : f ≠ .e4m3) (x : Nat) : nan f x = decide (largest f + 1 < mags f x) := by
  rw [nan, finite, infinite, Bool.eq_iff_iff, Bool.and_eq_true, Bool.not_eq_true', Bool.not_eq_true', decide_eq_false_iff_not,
    decide_eq_false_iff_not, decide_eq_true_eq]
  simp only [ne_eq, he, not_false_eq_true, true_and]
  omega

theorem nan32_eq (a : W32) : nan32 a = nan .f32 a.toNat := (nan_eq_decide (f := .f32) (by decide) _).symm

theorem nan64_eq (a : W64) : nan64 a = nan .f64 a.toNat := (nan_eq_decide (f := .f64) (by decide) _).symm

theorem decide_bit_clear {n : Nat} (a : BitVec n) (i : Nat) : decide (a.toNat / 2 ^ i % 2 = 0) = !a.getLsbD i := by
  rw [BitVec.getLsbD, Nat.testBit_eq_decide_div_mod_eq, Bool.eq_iff_iff]
  simp

theorem snan32_eq (a : W32) : snan32 a = snan .f32 a.toNat := by
  rw [snan32, snan, nan32_eq, show fracBits .f32 - 1 = 22 from rfl, decide_bit_clear]
  simp

theorem snan64_eq (a : W64) : snan64 a = snan .f64 a.toNat := by
  rw [snan64, snan, nan64_eq, show fracBits .f64 - 1 = 51 from rfl, decide_bit_clear]
  simp

theorem msb_eq_negative {f : FFmt} {n : Nat} (a : BitVec n) (h : n = expBits f + fracBits f + 1) : a.msb = negative f a.toNat := by
  subst h
  have hlt := a.isLt
  rw [BitVec.msb_eq_decide, negative, Bool.eq_iff_iff, decide_eq_true_eq, decide_eq_true_eq, Nat.add_sub_cancel]
  rw [pow_succ] at hlt
  have hpos : 0 < 2 ^ (expBits f + fracBits f) := by positivity
  constructor
  · intro hle
    have h1 : a.toNat / 2 ^ (expBits f + fracBits f) = 1 :=
      Nat.div_eq_of_lt_le (by omega) (by omega)
    rw [h1]
  · intro h1
    by_contra hlt'
    rw [Nat.div_eq_of_lt (Nat.lt_of_not_le hlt')] at h1
    cases h1

theorem place_eq_placeOf {f : FFmt} {n : Nat} (a : BitVec n) (h : n = expBits f + fracBits f + 1) : place n a = placeOf f a.toNat := by
  have hn : n - 1 = expBits f + fracBits f := by omega
  rw [place, placeOf, msb_eq_negative a h, mags, hn]

/-- A word as an operand has its own pattern. -/
@[simp] theorem word_toNat (a : W32) : (word a).toNat = a.toNat := by
  rw [word, BitVec.toNat_setWidth]
  exact Nat.mod_eq_of_lt (a.isLt.trans (by decide))

@[simp] theorem pat_f32_word (a : W32) : pat .f32 (word a) = a.toNat := by
  rw [pat, word_toNat]; exact Nat.mod_eq_of_lt a.isLt

@[simp] theorem pat_f64 (a : W64) : pat .f64 a = a.toNat := Nat.mod_eq_of_lt a.isLt

/-- A pattern of 32 bits as an operand. -/
theorem ofNat_toNat_word (a : W32) : BitVec.ofNat 64 a.toNat = word a := by
  apply BitVec.eq_of_toNat_eq
  rw [word_toNat, BitVec.toNat_ofNat]
  exact Nat.mod_eq_of_lt (a.isLt.trans (by decide))

/-! ## Scalar and packed operations -/

/-- A scalar operation of the model on two patterns. -/
theorem scalar_of {f : FFmt} {op : AluOp} {a b c : W64} {d : Nat → Nat} {R : Nat → Nat → Nat → Nat × FpFlags → Prop}
    (g : Nat → Nat → Nat → Nat × FpFlags) (hop : aluEval op a b c d = outP (g (pat f a) (pat f b) (pat f c)))
    (h : ∀ x y z, R x y z (g x y z)) : Scalar f op a b c d R :=
  ⟨_, hop, h _ _ _⟩

/-- A packed operation of the model on the elements of two words. -/
theorem packed_of {op : AluOp} {a b c : W64} {d : Nat → Nat} {R : Nat → Nat → Nat → Nat × FpFlags → Prop}
    (g : Nat → Nat → Nat → Nat × FpFlags) (hop : aluEval op a b c d = packed2 fun e => g (el16 a e) (el16 b e) (el16 c e))
    (h : ∀ x y z, R x y z (g x y z)) : Packed op a b c d R :=
  ⟨_, _, hop, h _ _ _, h _ _ _⟩

end Sys2Proof.Machine

namespace Sys2Proof.Proofs

open Sys2Proof.Machine Sys2Proof.Say

/-- A comparison whose answer and flags are those of the places. -/
theorem fsetp_of {f : FFmt} {cc : CondF} {a b c : W64} {d : Nat → Nat} {P : Prop} {fl : FpFlags}
    (hcmp : (cmpF f cc (pat f a) (pat f b)).1 = true ↔ P) (hfl : invalid f [pat f a, pat f b] = fl) :
    (P → (aluEval (.fsetp f cc) a b c d).val = 1) ∧ (¬ P → (aluEval (.fsetp f cc) a b c d).val = 0) ∧
      (aluEval (.fsetp f cc) a b c d).flags = fl :=
  ⟨fun h => if_pos (hcmp.mpr h), fun h => if_neg (mt hcmp.mp h), (cmpF_flags f cc _ _).trans hfl⟩

/-- Settles O32: a comparison reads both patterns and compares their places. -/
theorem floatCompareValues : Obligations.FloatCompareValues := by
  refine ⟨fun cc a b c d => fsetp_of ?_ ?_, fun cc a b c d => fsetp_of ?_ ?_⟩
  · rw [cmpF_iff, pat_f32_word, pat_f32_word, ← nan32_eq, ← nan32_eq, ← place_eq_placeOf a rfl, ← place_eq_placeOf b rfl]
  · rw [← flagIf_snan, pat_f32_word, pat_f32_word, ← snan32_eq, ← snan32_eq]; rfl
  · rw [cmpF_iff, pat_f64, pat_f64, ← nan64_eq, ← nan64_eq, ← place_eq_placeOf a rfl, ← place_eq_placeOf b rfl]
  · rw [← flagIf_snan, pat_f64, pat_f64, ← snan64_eq, ← snan64_eq]; rfl

/-- Settles O33: the model's choice between two patterns is the `Lesser` of R131; the FP32 clauses are its cases on words. -/
theorem minMaxValues : Obligations.MinMaxValues := by
  refine ⟨fun a b c d greater => ⟨fun f _ => ?scalar, fun f _ => ?packed⟩, fun a b c d => ?words⟩
  case scalar =>
    refine scalar_of (fun x y _ => minmaxF f greater x y) ?_ fun x y _ => minmaxF_lesser f greater x y
    cases greater <;> rfl
  case packed =>
    refine packed_of (fun x y _ => minmaxF f greater x y) ?_ fun x y _ => minmaxF_lesser f greater x y
    cases greater <;> rfl
  case words =>
    have hmin : aluEval (.fmin .f32) (word a) (word b) c d = outP (minmaxF .f32 false a.toNat b.toNat) := by
      simp only [aluEval, pat_f32_word]
    have hmax : aluEval (.fmax .f32) (word a) (word b) c d = outP (minmaxF .f32 true a.toNat b.toNat) := by
      simp only [aluEval, pat_f32_word]
    obtain ⟨hl2, hl1, hl1', -⟩ := minmaxF_lesser .f32 false a.toNat b.toNat
    obtain ⟨hg2, hg1, hg1', -⟩ := minmaxF_lesser .f32 true a.toNat b.toNat
    have hfl : (if snan32 a || snan32 b then flagNV else 0 : FpFlags) = invalid .f32 [a.toNat, b.toNat] := by
      rw [snan32_eq, snan32_eq, ← flagIf_snan]; rfl
    simp only [hmin, hmax, hfl, nan32_eq]
    refine ⟨fun hx hy => ?_, fun hx hy => ?_, fun hx hy => ?_, fun hx hy => ⟨fun h => ?_, fun h => ?_⟩⟩
    · rw [hl2 hx hy, hg2 hx hy]; exact ⟨rfl, rfl⟩
    · rw [hl1 hx hy, hg1 hx hy, ← ofNat_toNat_word]; exact ⟨rfl, rfl⟩
    · rw [hl1' hx hy, hg1' hx hy, ← ofNat_toNat_word]; exact ⟨rfl, rfl⟩
    all_goals
      rw [place_eq_placeOf (f := .f32) a rfl, place_eq_placeOf (f := .f32) b rfl, msb_eq_negative (f := .f32) a rfl,
        msb_eq_negative (f := .f32) b rfl] at h
    · rw [(minmaxF_numbers false hx hy).1 h, (minmaxF_numbers true hx hy).1 h, ← ofNat_toNat_word, ← ofNat_toNat_word]; exact ⟨rfl, rfl⟩
    · rw [(minmaxF_numbers false hx hy).2 h, (minmaxF_numbers true hx hy).2 h, ← ofNat_toNat_word, ← ofNat_toNat_word]; exact ⟨rfl, rfl⟩

end Sys2Proof.Proofs

/-! SUPPORT. Rounding an exact value once (R67 to R69): the multiple of a unit that a mode chooses, the pattern that the value takes, and
the flags. -/

namespace Sys2Proof.Machine

open Sys2Proof.Say

/-! ## Powers of two -/

theorem log2_le_value {m : Nat} (hm : m ≠ 0) (e : ℤ) : (2 : ℚ) ^ ((log2Nat m : ℤ) + e) ≤ m * 2 ^ e := by
  rw [zpow_add₀ (by norm_num), zpow_natCast]
  gcongr
  exact_mod_cast Nat.log2_self_le hm

theorem value_lt_log2 (m : Nat) (e : ℤ) : (m : ℚ) * 2 ^ e < 2 ^ ((log2Nat m : ℤ) + e + 1) := by
  rw [show (log2Nat m : ℤ) + e + 1 = ((log2Nat m + 1 : ℕ) : ℤ) + e by push_cast; ring, zpow_add₀ (by norm_num), zpow_natCast]
  gcongr
  exact_mod_cast Nat.lt_log2_self

/-- The power of two at or below which a value lies. -/
theorem zpow_le_value_iff {m : Nat} (hm : m ≠ 0) (e t : ℤ) : (2 : ℚ) ^ t ≤ m * 2 ^ e ↔ t ≤ log2Nat m + e := by
  refine ⟨fun h => ?_, fun h => (zpow_le_zpow_right₀ (by norm_num) h).trans (log2_le_value hm e)⟩
  have := (zpow_lt_zpow_iff_right₀ (by norm_num : (1 : ℚ) < 2)).mp (h.trans_lt (value_lt_log2 m e))
  omega

/-! ## A multiple of a unit -/

/-- `n` units are what the modes of R67 choose for a value between two multiples of the unit `u`. -/
def Nearest (rm : Round) (neg : Bool) (x u : ℚ) (n : Nat) : Prop :=
  ∃ a : Nat, a * u < x ∧ x < (a + 1 : ℕ) * u ∧ match rm with
    | .rz => n = a
    | .rd => n = if neg then a + 1 else a
    | .ru => n = if neg then a else a + 1
    | .rne => match cmp ((a * u + (a + 1 : ℕ) * u) / 2) x with
      | .gt => n = a
      | .lt => n = a + 1
      | .eq => n % 2 = 0 ∧ (n = a ∨ n = a + 1)

/-- They are one of the two neighbours. -/
theorem Nearest.neighbours {rm : Round} {neg : Bool} {x u : ℚ} {n : Nat} (h : Nearest rm neg x u n) :
    ∃ a : Nat, a * u < x ∧ x < (a + 1 : ℕ) * u ∧ (n = a ∨ n = a + 1) := by
  obtain ⟨a, hlo, hhi, hn⟩ := h
  refine ⟨a, hlo, hhi, ?_⟩
  cases rm
  case rz => exact .inl hn
  case rd => cases neg; exacts [.inl hn, .inr hn]
  case ru => cases neg; exacts [.inr hn, .inl hn]
  case rne =>
    revert hn
    cases cmp ((a * u + (a + 1 : ℕ) * u) / 2) x
    exacts [.inr, fun h => h.2, .inl]

/-- `roundAt` answers the value's own multiple, or the one that the mode chooses. -/
theorem roundAt_spec (rm : Round) (s : Bool) (m : Nat) (e q : ℤ) :
    (roundAt rm s m e q).2 = true ∧ (m : ℚ) * 2 ^ e = (roundAt rm s m e q).1 * 2 ^ q ∨
      (roundAt rm s m e q).2 = false ∧ Nearest rm s (m * 2 ^ e) (2 ^ q) (roundAt rm s m e q).1 := by
  rcases le_or_gt q e with hle | hlt
  · refine .inl ?_
    rw [roundAt, if_pos hle]
    refine ⟨rfl, ?_⟩
    have he : e = ((e - q).toNat : ℤ) + q := by omega
    conv_lhs => rw [he, zpow_add₀ (by norm_num), zpow_natCast]
    push_cast
    ring
  · obtain ⟨k, rfl⟩ : ∃ k : Nat, q = k + e := ⟨(q - e).toNat, by omega⟩
    have hu : (2 : ℚ) ^ ((k : ℤ) + e) = 2 ^ k * 2 ^ e := by rw [zpow_add₀ (by norm_num), zpow_natCast]
    have hpos : (0 : ℚ) < 2 ^ e := by positivity
    have hk : 0 < 2 ^ k := by positivity
    have hm := Nat.div_add_mod m (2 ^ k)
    have hr := Nat.mod_lt m hk
    rw [roundAt, if_neg (by omega), hu, show ((k : ℤ) + e - e).toNat = k by omega]
    simp only
    generalize m / 2 ^ k = a at *
    generalize m % 2 ^ k = r at *
    subst hm
    rcases Nat.eq_zero_or_pos r with rfl | hr0
    · refine .inl ⟨by simp, ?_⟩
      have hup : roundUp rm s (decide (a % 2 = 1)) 0 k = false := by cases rm <;> simp [roundUp]
      rw [hup]
      push_cast
      simp
      ring
    · have hne : r ≠ 0 := hr0.ne'
      have hcast : ∀ v : ℕ, (v : ℚ) * (2 ^ k * 2 ^ e) = (v * 2 ^ k : ℕ) * 2 ^ e := fun v => by push_cast; ring
      refine .inr ⟨decide_eq_false hne, a, ?_, ?_, ?_⟩
      · rw [hcast, mul_lt_mul_iff_left₀ hpos, Nat.cast_lt]; linarith
      · rw [hcast, mul_lt_mul_iff_left₀ hpos, Nat.cast_lt]; linarith
      · cases rm
        case rz => simp [roundUp]
        case rd => cases s <;> simp [roundUp, hne]
        case ru => cases s <;> simp [roundUp, hne]
        case rne =>
          have hmono : StrictMono fun v : ℕ => (2 * (2 ^ k * a) + v : ℚ) / 2 * 2 ^ e := fun v w h => by
            have := Nat.cast_lt (α := ℚ).mpr h
            simp only
            gcongr
          have hmid : cmp (((a : ℚ) * (2 ^ k * 2 ^ e) + (a + 1 : ℕ) * (2 ^ k * 2 ^ e)) / 2) ((2 ^ k * a + r : ℕ) * 2 ^ e) = cmp (2 ^ k) (2 * r) := by
            rw [← hmono.cmp_map_eq]
            congr 1 <;> push_cast <;> ring
          simp only [hmid, roundUp]
          rcases lt_trichotomy (2 ^ k) (2 * r) with h | h | h
          · rw [(cmp_eq_lt_iff _ _).mpr h]; simp [h]
          · rw [(cmp_eq_eq_iff _ _).mpr h]
            rcases Nat.mod_two_eq_zero_or_one a with h2 | h2 <;> simp [h, h2]; omega
          · rw [(cmp_eq_gt_iff _ _).mpr h]; simp [h.not_gt, h.ne']

/-! ## The pattern that a value takes -/

variable {f : FFmt} {rm : Round} {s : Bool} {m : Nat} {e : ℤ}

/-- Binade, and exponent of the unit, to which `roundF` rounds a value. -/
def binadeOf (f : FFmt) (m : Nat) (e : ℤ) : Nat := (log2Nat m + e - fracBits f - unitExp f).toNat
def roundExp (f : FFmt) (m : Nat) (e : ℤ) : ℤ := unitExp f + binadeOf f m e

theorem roundExp_eq (f : FFmt) (m : Nat) (e : ℤ) : roundExp f m e = max (log2Nat m + e - fracBits f) (eMin f - fracBits f) := by
  unfold roundExp binadeOf unitExp
  omega

/-- The magnitude that a value is rounded to, the exponent unbounded. -/
def picked (f : FFmt) (rm : Round) (s : Bool) (m : Nat) (e : ℤ) : Nat :=
  binade f (roundAt rm s m e (roundExp f m e)).1 (binadeOf f m e)

/-- Whole units of a value at its rounding exponent make a significand: of the binade itself, where they are no more than the value. -/
theorem inBinade_of_le (hm : m ≠ 0) {a : Nat} (hle : (a : ℚ) * 2 ^ roundExp f m e ≤ m * 2 ^ e)
    (hlt : (m : ℚ) * 2 ^ e < (a + 1 : ℕ) * 2 ^ roundExp f m e) : InBinade f a (binadeOf f m e) := by
  have hpos : (0 : ℚ) < 2 ^ roundExp f m e := by positivity
  have hnat : ∀ n : ℕ, (2 : ℚ) ^ ((n : ℤ) + roundExp f m e) = (2 ^ n : ℕ) * 2 ^ roundExp f m e := fun n => by
    rw [zpow_add₀ (by norm_num), zpow_natCast]; push_cast; rfl
  have htop := roundExp_eq f m e
  refine ⟨?_, or_iff_not_imp_left.mpr fun hk => ?_⟩
  · have h1 : (m : ℚ) * 2 ^ e < (2 ^ (fracBits f + 1) : ℕ) * 2 ^ roundExp f m e := by
      refine (value_lt_log2 m e).trans_le ?_
      rw [← hnat]
      exact zpow_le_zpow_right₀ (by norm_num) (by push_cast; omega)
    have h2 := hle.trans_lt h1
    rwa [mul_lt_mul_iff_left₀ hpos, Nat.cast_lt] at h2
  · have h1 : ((2 ^ fracBits f : ℕ) : ℚ) * 2 ^ roundExp f m e ≤ m * 2 ^ e := by
      refine le_trans ?_ (log2_le_value hm e)
      rw [← hnat]
      refine zpow_le_zpow_right₀ (by norm_num) ?_
      unfold roundExp binadeOf at *
      omega
    have h2 := h1.trans_lt hlt
    rw [mul_lt_mul_iff_left₀ hpos, Nat.cast_lt] at h2
    omega

/-- A value that lies at or between two multiples of its unit is rounded to a significand. -/
theorem significand_roundAt (hm : m ≠ 0) : Significand f (roundAt rm s m e (roundExp f m e)).1 (binadeOf f m e) := by
  have hpos : (0 : ℚ) < 2 ^ roundExp f m e := by positivity
  rcases roundAt_spec rm s m e (roundExp f m e) with ⟨-, hx⟩ | ⟨-, hn⟩
  · refine (inBinade_of_le hm hx.ge ?_).significand
    rw [hx, mul_lt_mul_iff_left₀ hpos, Nat.cast_lt]
    exact Nat.lt_succ_self _
  · obtain ⟨a, hlo, hhi, h | h⟩ := hn.neighbours <;> have ha := inBinade_of_le hm hlo.le hhi <;> rw [h]
    · exact ha.significand
    · exact ⟨ha.1, ha.2.imp_right (Nat.le_succ_of_le ·)⟩

/-- An even number of units makes an even pattern. -/
theorem binade_mod_two (f : FFmt) (n k : Nat) : binade f n k % 2 = n % 2 := by
  obtain ⟨b, hb⟩ := Nat.exists_eq_add_of_le' (fracBits_ge f)
  rw [binade, hb, pow_succ, ← Nat.mul_assoc, Nat.add_mul_mod_self_right]

/-- What a mode chooses among the units of a binade it chooses among the patterns. -/
theorem chosen_of_nearest {n k : Nat} {x : ℚ} (h : Nearest rm s x (2 ^ (unitExp f + k)) n)
    (hin : ∀ a : Nat, (a : ℚ) * 2 ^ (unitExp f + k) < x → x < (a + 1 : ℕ) * 2 ^ (unitExp f + k) → InBinade f a k) :
    Chosen f rm s (fun r => cmp r x) (binade f n k) := by
  obtain ⟨a, hlo, hhi, hn⟩ := h
  have ha := hin a hlo hhi
  have hp := magnitude_binade ha.significand
  have hp' := magnitude_succ ha
  have hsucc : binade f (a + 1) k = binade f a k + 1 := by unfold binade; ring
  refine .inr ⟨binade f a k, ?_, ?_, ?_⟩
  · rw [hp]; exact (cmp_eq_lt_iff _ _).mpr hlo
  · rw [hp']; exact (cmp_eq_gt_iff _ _).mpr hhi
  · rw [hp, hp']
    cases rm
    case rz => exact congrArg (binade f · k) hn
    case rd => cases s; exacts [congrArg (binade f · k) hn, (congrArg (binade f · k) hn).trans hsucc]
    case ru => cases s; exacts [(congrArg (binade f · k) hn).trans hsucc, congrArg (binade f · k) hn]
    case rne =>
      dsimp only at hn ⊢
      revert hn
      cases cmp (((a : ℚ) * 2 ^ (unitExp f + k) + (a + 1 : ℕ) * 2 ^ (unitExp f + k)) / 2) x
      · exact fun h => (congrArg (binade f · k) h).trans hsucc
      · rintro ⟨h2, h | h⟩
        · exact ⟨(binade_mod_two f n k).trans h2, .inl (congrArg (binade f · k) h)⟩
        · exact ⟨(binade_mod_two f n k).trans h2, .inr ((congrArg (binade f · k) h).trans hsucc)⟩
      · exact congrArg (binade f · k)

/-- `picked` is what the modes of R67 choose. -/
theorem chosen_picked (hm : m ≠ 0) : Chosen f rm s (fun r => cmp r (m * 2 ^ e)) (picked f rm s m e) := by
  rcases roundAt_spec rm s m e (roundExp f m e) with ⟨-, hx⟩ | ⟨-, hn⟩
  · refine .inl ((cmp_eq_eq_iff _ _).mpr ?_)
    rw [picked, magnitude_binade (significand_roundAt hm), hx]
    rfl
  · exact chosen_of_nearest hn fun a hlo hhi => inBinade_of_le hm hlo.le hhi

theorem magnitude_picked (hm : m ≠ 0) :
    magnitude f (picked f rm s m e) = (roundAt rm s m e (roundExp f m e)).1 * 2 ^ roundExp f m e :=
  magnitude_binade (significand_roundAt hm)

/-- It is the value itself exactly where `roundAt` says so. -/
theorem roundAt_exact_iff (hm : m ≠ 0) :
    (roundAt rm s m e (roundExp f m e)).2 = true ↔ magnitude f (picked f rm s m e) = m * 2 ^ e := by
  have hpos : (0 : ℚ) < 2 ^ roundExp f m e := by positivity
  rw [magnitude_picked hm]
  rcases roundAt_spec rm s m e (roundExp f m e) with ⟨hex, hx⟩ | ⟨hex, hn⟩
  · exact ⟨fun _ => hx.symm, fun _ => hex⟩
  · rw [hex]
    obtain ⟨a, hlo, hhi, h⟩ := hn.neighbours
    refine ⟨fun h => (nomatch h), fun hx => ?_⟩
    rw [← hx, mul_lt_mul_iff_left₀ hpos, Nat.cast_lt] at hlo hhi
    omega

/-! ## The greatest finite magnitude -/

theorem largest_succ (he : f ≠ .e4m3) : largest f + 1 = binade f (2 ^ fracBits f) (2 ^ expBits f - 2) := by
  rw [largest, if_neg he]
  cases f <;> rfl

/-- The least magnitude beyond it is a power of two. -/
theorem magnitude_largest_succ (he : f ≠ .e4m3) : magnitude f (largest f + 1) = 2 ^ (2 ^ expBits f - 1 - expBias f : ℤ) := by
  have hsig : Significand f (2 ^ fracBits f) (2 ^ expBits f - 2) := ⟨Nat.pow_le_pow_right (by decide) (Nat.le_succ _), .inr le_rfl⟩
  have h2 : 2 ≤ 2 ^ expBits f := by cases f <;> decide
  rw [largest_succ he, magnitude_binade hsig]
  push_cast
  rw [← zpow_natCast, ← zpow_add₀ (by norm_num)]
  congr 1
  unfold unitExp eMin
  push_cast [h2]
  ring

theorem magnitude_largest_e4m3 : magnitude .e4m3 (largest .e4m3) = 448 := by
  have hsig : Significand .e4m3 14 14 := ⟨by decide, .inr (by decide)⟩
  rw [show largest .e4m3 = binade .e4m3 14 14 from rfl, magnitude_binade hsig]
  norm_num [unitExp, eMin, expBias, fracBits]

/-- The model's test of an overflow (R68). -/
theorem exceeds_iff {n k : Nat} (h : Significand f n k) : exceeds f n (unitExp f + k) = true ↔ largest f < binade f n k := by
  by_cases he : f = .e4m3
  · subst he
    rw [← magnitude_lt_iff, magnitude_largest_e4m3, magnitude_binade h, exceeds, if_pos rfl]
    generalize unitExp .e4m3 + (k : ℤ) = q
    split
    · next hq =>
      obtain ⟨j, rfl⟩ : ∃ j : Nat, q = 6 - j := ⟨(6 - q).toNat, by omega⟩
      rw [decide_eq_true_eq, zpow_sub₀ (by norm_num), show ((6 : ℤ) - (6 - j)).toNat = j by omega, ← mul_div_assoc, lt_div_iff₀ (by positivity),
        ← Nat.cast_lt (α := ℚ)]
      push_cast
      rw [zpow_natCast]
      constructor <;> intro h <;> linarith
    · next hq =>
      obtain ⟨j, rfl⟩ : ∃ j : Nat, q = 6 + j := ⟨(q - 6).toNat, by omega⟩
      rw [decide_eq_true_eq, zpow_add₀ (by norm_num), show ((6 : ℤ) + j - 6).toNat = j by omega, ← Nat.cast_lt (α := ℚ)]
      push_cast
      rw [zpow_natCast]
      constructor <;> intro h <;> linarith
  · rw [← Nat.succ_le_iff, ← magnitude_le_iff, Nat.succ_eq_add_one, magnitude_largest_succ he, magnitude_binade h, exceeds, if_neg he]
    rcases Nat.eq_zero_or_pos n with rfl | hn
    · have : ¬ (2 : ℚ) ^ (2 ^ expBits f - 1 - expBias f : ℤ) ≤ 0 := not_le.mpr (by positivity)
      simp [this]
    · rw [zpow_le_value_iff hn.ne']
      simp [hn.ne']

/-! ## The flags and the result -/

theorem signOf_eq (f : FFmt) (s : Bool) (p : Nat) : signOf f s + p = signed f s p := by
  rw [signOf, signed, fmtWidth_pred]

/-- The pattern of units of a binade. -/
theorem packExact_eq {n k : Nat} (h : Significand f n k) (s : Bool) : packExact f s n (unitExp f + k) = signed f s (binade f n k) := by
  obtain ⟨hle, hk⟩ := h
  have hpow : 2 ^ (fracBits f + 1) = 2 * 2 ^ fracBits f := by ring
  have hexp : ∀ j : Nat, (unitExp f + j + fracBits f + expBias f).toNat = j + 1 := fun j => by unfold unitExp eMin; omega
  simp only [packExact, binade, ← signOf_eq]
  split
  · next hlt =>
    obtain rfl : k = 0 := by omega
    simp
  · next hge =>
    split
    · next hfull =>
      obtain rfl : n = 2 * 2 ^ fracBits f := by omega
      have hexp' := hexp (k + 1)
      push_cast at hexp'
      simp only [← add_assoc] at hexp' ⊢
      rw [hexp', Nat.mul_div_cancel_left _ (by decide), Nat.sub_self]
      ring
    · rw [hexp, add_assoc]
      congr 1
      obtain ⟨r, rfl⟩ := Nat.exists_eq_add_of_le (Nat.le_of_not_lt hge)
      rw [Nat.add_sub_cancel_left]
      ring

/-- Rounding keeps at or below a multiple of the unit. -/
theorem roundAt_le {q : ℤ} {b : Nat} (h : (m : ℚ) * 2 ^ e ≤ b * 2 ^ q) : (roundAt rm s m e q).1 ≤ b := by
  have hpos : (0 : ℚ) < 2 ^ q := by positivity
  rcases roundAt_spec rm s m e q with ⟨-, hx⟩ | ⟨-, hn⟩
  · rwa [hx, mul_le_mul_iff_left₀ hpos, Nat.cast_le] at h
  · obtain ⟨a, hlo, -, hor⟩ := hn.neighbours
    have := hlo.trans_le h
    rw [mul_lt_mul_iff_left₀ hpos, Nat.cast_lt] at this
    omega

theorem roundAt_shift (rm : Round) (s : Bool) (m : Nat) (e q : ℤ) : roundAt rm s m (e + 1) (q + 1) = roundAt rm s m e q := by
  simp only [roundAt, add_le_add_iff_right, add_sub_add_right_eq_sub]

/-- A value is tiny where it lies below the normal numbers and rounds, with one bit more, to less than twice the least of them (R69). -/
abbrev Tiny (f : FFmt) (rm : Round) (s : Bool) (m : Nat) (e : ℤ) : Prop :=
  (m : ℚ) * 2 ^ e < 2 ^ eMin f ∧ picked f rm s m (e + 1) < 2 ^ (fracBits f + 1)

/-- The model judges it by the rounding with an unbounded exponent. -/
theorem tiny_iff (hm : m ≠ 0) : (decide (log2Nat m + e < eMin f) && !(decide (log2Nat m + e = eMin f - 1) &&
    decide ((roundAt rm s m e (log2Nat m + e - fracBits f)).1 = 2 ^ (fracBits f + 1)))) = true ↔ Tiny f rm s m e := by
  simp only [Tiny, Bool.and_eq_true, Bool.not_eq_true', Bool.and_eq_false_iff, decide_eq_true_eq, decide_eq_false_iff_not, ← not_le,
    zpow_le_value_iff hm]
  refine and_congr_right fun hlow => ?_
  have hexp := roundExp_eq f m (e + 1)
  have hk : binadeOf f m (e + 1) = 0 := by unfold binadeOf unitExp; omega
  have hq : roundExp f m (e + 1) = eMin f - 1 - fracBits f + 1 := by rw [hexp]; omega
  have hpick : picked f rm s m (e + 1) = (roundAt rm s m e (eMin f - 1 - fracBits f)).1 := by
    rw [picked, hk, hq, roundAt_shift, binade]; ring
  rw [hpick]
  by_cases htop : log2Nat m + e = eMin f - 1
  · have hsig := (significand_roundAt (f := f) (rm := rm) (s := s) (e := e + 1) hm).1
    rw [hq, roundAt_shift] at hsig
    rw [htop]
    omega
  · have hle : (roundAt rm s m e (eMin f - 1 - fracBits f)).1 ≤ 2 ^ fracBits f := by
      refine roundAt_le ((value_lt_log2 m e).le.trans ?_)
      push_cast
      rw [← zpow_natCast, ← zpow_add₀ (by norm_num)]
      exact zpow_le_zpow_right₀ (by norm_num) (by omega)
    have hpow : 2 ^ (fracBits f + 1) = 2 * 2 ^ fracBits f := by ring
    have hpos : 0 < 2 ^ fracBits f := by positivity
    constructor
    · intro; omega
    · exact fun _ => .inl htop

/-- The flags of a rounding that does not overflow. -/
theorem flags_of_rounding (exact tiny : Bool) : flagIf (!exact) flagNX ||| flagIf (!exact && tiny) flagUF =
    if exact = true then 0 else if tiny = true then flagUF ||| flagNX else flagNX := by
  cases exact <;> cases tiny <;> rfl

/-- What `roundF` answers. -/
theorem roundF_eq (hm : m ≠ 0) : roundF f rm s m e =
    if largest f < picked f rm s m e then (overflowBits f rm s, flagOF ||| flagNX)
    else (signed f s (picked f rm s m e), if magnitude f (picked f rm s m e) = m * 2 ^ e then 0
      else if Tiny f rm s m e then flagUF ||| flagNX else flagNX) := by
  have hsig := significand_roundAt (f := f) (rm := rm) (s := s) (e := e) hm
  have hunfold : roundF f rm s m e =
      if exceeds f (roundAt rm s m e (roundExp f m e)).1 (roundExp f m e) then (overflowBits f rm s, flagOF ||| flagNX)
      else (packExact f s (roundAt rm s m e (roundExp f m e)).1 (roundExp f m e),
        flagIf (!(roundAt rm s m e (roundExp f m e)).2) flagNX ||| flagIf (!(roundAt rm s m e (roundExp f m e)).2 &&
          (decide (log2Nat m + e < eMin f) && !(decide (log2Nat m + e = eMin f - 1) &&
            decide ((roundAt rm s m e (log2Nat m + e - fracBits f)).1 = 2 ^ (fracBits f + 1))))) flagUF) := by
    rw [roundExp_eq]; rfl
  have hover : exceeds f (roundAt rm s m e (roundExp f m e)).1 (roundExp f m e) = true ↔ _ := exceeds_iff hsig
  have hpack : packExact f s (roundAt rm s m e (roundExp f m e)).1 (roundExp f m e) = _ := packExact_eq hsig s
  rw [hunfold, hpack]
  refine if_congr hover rfl (Prod.ext rfl ?_)
  have htiny := tiny_iff (f := f) (rm := rm) (s := s) (e := e) hm
  simp only [← roundAt_exact_iff hm, ← htiny]
  exact flags_of_rounding ..

/-! ## Rounding once -/

theorem cmp_half (r x : ℚ) : cmp (r / 2) x = cmp r (2 * x) := by
  have hmono : StrictMono fun v : ℚ => v / 2 := fun v w h => by simp only; linarith
  rw [← hmono.cmp_map_eq r, mul_div_cancel_left₀ x two_ne_zero]

theorem infBits_eq (f : FFmt) (s : Bool) : infBits f s = signed f s (infinity f false) := by
  rw [infBits, signOf_eq, infinity]; simp [signed]

theorem infBits_eq_infinity (f : FFmt) (s : Bool) : infBits f s = infinity f s := by rw [infBits, signOf_eq, infinity]

theorem maxBits_eq (f : FFmt) (s : Bool) : maxBits f s = signed f s (largest f) := by rw [maxBits, signOf_eq, largest]

theorem magnitude_leastNormal (f : FFmt) : magnitude f (2 ^ fracBits f) = 2 ^ eMin f := by
  have hsig : Significand f (2 ^ fracBits f) 0 := ⟨Nat.pow_le_pow_right (by decide) (Nat.le_succ _), .inl rfl⟩
  have h := magnitude_binade hsig
  rw [binade, Nat.zero_mul, Nat.add_zero] at h
  rw [h, Nat.cast_pow, Nat.cast_ofNat, ← zpow_natCast, ← zpow_add₀ (by norm_num), unitExp]
  congr 1
  push_cast
  ring

/-- `roundF` rounds a value once. -/
theorem roundsBy_roundF (f : FFmt) (rm : Round) (s : Bool) (hm : m ≠ 0) (e : ℤ) :
    RoundsBy f rm s (fun r => cmp r (m * 2 ^ e)) (roundF f rm s m e) := by
  have hdouble : ((m : ℚ) * 2 ^ (e + 1)) = 2 * (m * 2 ^ e) := by rw [zpow_add_one₀ (by norm_num)]; ring
  refine ⟨picked f rm s m e, picked f rm s m (e + 1), chosen_picked hm, ?_, ?_⟩
  · simp only [cmp_half, ← hdouble]
    exact chosen_picked hm
  · rw [roundF_eq hm]
    split
    · simp only [overflowBits, infBits_eq, maxBits_eq]
      cases rm <;> cases s <;> rfl
    · simp only [cmp_eq_eq_iff, cmp_eq_gt_iff, magnitude_leastNormal]

end Sys2Proof.Machine

/-! SUPPORT. Sums, products and fused multiply-adds of patterns (R65, R66, R130). -/

namespace Sys2Proof.Machine

open Sys2Proof.Say

variable {f : FFmt} {rm : Round} {x y z : Nat}

/-! ## Signed exact values -/

theorem signedVal_mul (s t : Bool) (m n : Nat) : signedVal (s != t) (m * n) = signedVal s m * signedVal t n := by
  cases s <;> cases t <;> simp [signedVal]

theorem signedVal_eq_zero {s : Bool} {m : Nat} : signedVal s m = 0 ↔ m = 0 := by cases s <;> simp [signedVal]

theorem signedVal_natAbs (v : ℤ) : signedVal (decide (v < 0)) v.natAbs = v := by
  unfold signedVal
  split
  · next h => rw [decide_eq_true_eq] at h; omega
  · next h => rw [decide_eq_true_eq] at h; omega

/-- The exact sum of two signed values. -/
theorem addExact_eq (s₁ : Bool) (m₁ : Nat) (e₁ : ℤ) (s₂ : Bool) (m₂ : Nat) (e₂ : ℤ) :
    ((addExact s₁ m₁ e₁ s₂ m₂ e₂).1 : ℚ) * 2 ^ (addExact s₁ m₁ e₁ s₂ m₂ e₂).2 = signedVal s₁ m₁ * 2 ^ e₁ + signedVal s₂ m₂ * 2 ^ e₂ := by
  rw [← signedVal_rescale (min_le_left e₁ e₂), ← signedVal_rescale (min_le_right e₁ e₂), ← add_mul, ← Int.cast_add]
  rfl

/-- The sign of a signed value that is not zero, -/
theorem decide_signedVal_neg {s : Bool} {m : Nat} (hm : m ≠ 0) (e : ℤ) : decide ((signedVal s m : ℚ) * 2 ^ e < 0) = s := by
  have hm' : (0 : ℚ) < m := by exact_mod_cast Nat.pos_of_ne_zero hm
  cases s
  · rw [decide_eq_false_iff_not, not_lt]; simp only [signedVal]; positivity
  · rw [decide_eq_true_eq]; simp only [signedVal, if_true, Int.cast_neg, Int.cast_natCast, neg_mul]; exact neg_lt_zero.mpr (by positivity)

/-- and its magnitude. -/
theorem abs_signedVal (s : Bool) (m : Nat) (e : ℤ) : |(signedVal s m : ℚ) * 2 ^ e| = m * 2 ^ e := by
  rw [abs_mul, abs_of_pos (show (0 : ℚ) < 2 ^ e by positivity)]; cases s <;> simp [signedVal]

/-- A signed value that is not zero, rounded once. -/
theorem rounds_roundF (f : FFmt) (rm : Round) (s : Bool) {m : Nat} (hm : m ≠ 0) (e : ℤ) :
    Rounds f rm (signedVal s m * 2 ^ e) (roundF f rm s m e) := by
  rw [Rounds, decide_signedVal_neg hm, abs_signedVal]
  exact roundsBy_roundF f rm s hm e

theorem signOf_eq_signed (f : FFmt) (s : Bool) : signOf f s = signed f s 0 := by rw [← signOf_eq, Nat.add_zero]

/-- `roundInt` rounds a signed value once, an exact zero with its sign. -/
theorem roundsTo_roundInt (f : FFmt) (rm : Round) (zs : Bool) (v e : ℤ) : RoundsTo f rm zs (v * 2 ^ e) (roundInt f rm zs v e) := by
  have hpos : (2 : ℚ) ^ e ≠ 0 := by positivity
  refine ⟨fun h => ?_, fun h => ?_⟩
  · have hv : v = 0 := by simpa [hpos] using h
    rw [roundInt, if_pos hv, signOf_eq_signed]
  · have hv : v ≠ 0 := by rintro rfl; simp at h
    have := rounds_roundF f rm (decide (v < 0)) (Int.natAbs_ne_zero.mpr hv) e
    have hround : roundInt f rm zs v e = roundF f rm (decide (v < 0)) v.natAbs e := if_neg hv
    rwa [signedVal_natAbs, ← hround] at this

/-! ## What a pattern is read as -/

/-- A finite pattern is read as its value. -/
theorem unpackF_value (h : finite f x = true) : ∃ m e, unpackF f x = .num (negative f x) m e ∧
    value f x = signedVal (negative f x) m * 2 ^ e ∧ m < 2 ^ (fracBits f + 1) := by
  obtain ⟨n, k, hr, hm, hb⟩ := unpackF_finite h
  exact ⟨n, _, hr, value_eq hm hb, hb.1⟩

theorem value_eq_zero : value f x = 0 ↔ mags f x = 0 := by
  rw [value]; split <;> simp [magnitude_eq_zero]

theorem finite_of_zero (h : zero f x = true) : finite f x = true := by
  rw [zero, decide_eq_true_eq] at h
  rw [finite, h]; exact decide_eq_true (Nat.zero_le _)

theorem zero_eq_false_of_not_finite (h : finite f x = false) : zero f x = false := by
  rw [← Bool.not_eq_true] at h ⊢
  exact mt finite_of_zero h

@[simp] theorem isZero_unpackF (f : FFmt) (x : Nat) : isZero (unpackF f x) = zero f x := by
  rcases kinds f x with h | h | h
  · obtain ⟨m, e, hr, hv, -⟩ := unpackF_value h
    rw [hr, zero, isZero, Bool.eq_iff_iff, decide_eq_true_eq, decide_eq_true_eq, ← value_eq_zero, hv, mul_eq_zero, Int.cast_eq_zero,
      signedVal_eq_zero]
    exact (or_iff_left (by positivity)).symm
  · rw [unpackF_infinite h, zero_eq_false_of_not_finite (not_finite_of_infinite h)]; rfl
  · have hf : finite f x = false := by simpa [nan] using (Bool.and_eq_true_iff.mp h).1
    rw [unpackF_nan h, zero_eq_false_of_not_finite hf]; rfl

theorem finite_of_kinds (hn : nan f x = false) (hi : infinite f x = false) : finite f x = true := by
  rcases finite_or_infinite hn with h | h
  · exact h
  · rw [hi] at h; cases h

theorem infinite_eq_false_of_finite (h : finite f x = true) : infinite f x = false := by
  rw [← Bool.not_eq_true]
  intro hi
  rw [not_finite_of_infinite hi] at h
  cases h

/-! ## Sums -/

theorem addF_sum (f : FFmt) (rm : Round) (x y : Nat) : Sum f rm x y (addF f rm (unpackF f x) (unpackF f y)) := by
  refine ⟨fun h => ?_, fun hx hy => ?_, fun hx hy => ?_, fun hx hy => ?_, fun hx hy => ?_⟩
  · have hfl := flagIf_snan f x y
    rw [← isSnan_unpackF f x, ← isSnan_unpackF f y] at hfl
    rcases h with h | h
    · rw [unpackF_nan h] at hfl ⊢
      simp only [addF, hfl, canonNan_eq_quiet]
    · rw [unpackF_nan h] at hfl ⊢
      cases hu : unpackF f x <;> rw [hu] at hfl <;> simp only [addF, hfl, canonNan_eq_quiet]
  · rw [unpackF_infinite hx, unpackF_infinite hy]
    simp only [addF, infBits_eq_infinity, canonNan_eq_quiet]
  · obtain ⟨m, e, hr, -⟩ := unpackF_value hy
    rw [unpackF_infinite hx, hr]
    simp only [addF, infBits_eq_infinity]
  · obtain ⟨m, e, hr, -⟩ := unpackF_value hx
    rw [unpackF_infinite hy, hr]
    simp only [addF, infBits_eq_infinity]
  · obtain ⟨m, e, hr, hv, -⟩ := unpackF_value hx
    obtain ⟨n, g, hr', hv', -⟩ := unpackF_value hy
    rw [hr, hr', hv, hv', ← addExact_eq]
    exact roundsTo_roundInt ..

/-! ## A pattern with its sign turned -/

theorem mags_signed {p : Nat} (s : Bool) (hp : p < 2 ^ (expBits f + fracBits f)) : mags f (signed f s p) = p := by
  cases s <;> simp [mags, signed, Nat.mod_eq_of_lt hp]

theorem negative_signed {p : Nat} (s : Bool) (hp : p < 2 ^ (expBits f + fracBits f)) : negative f (signed f s p) = s := by
  have hpos : 0 < 2 ^ (expBits f + fracBits f) := by positivity
  cases s <;> simp [negative, signed, Nat.div_eq_of_lt hp, Nat.add_div_left _ hpos]

theorem negate_unpackF (f : FFmt) (x : Nat) : negate (unpackF f x) = unpackF f (turned f x) := by
  have hm : mags f (turned f x) = mags f x := mags_signed _ (mags_lt f x)
  have hn : negative f (turned f x) = !negative f x := negative_signed _ (mags_lt f x)
  have hnum : ∀ s p, negate (readNumber f s p) = readNumber f (!s) p := fun s p => by unfold readNumber; split <;> rfl
  rw [unpackF_eq, unpackF_eq, hm, hn]
  split <;> split
  · rfl
  · exact hnum ..
  · split <;> rfl
  · exact hnum ..

theorem nan_turned (f : FFmt) (x : Nat) : nan f (turned f x) = nan f x := by
  rw [← isNan_unpackF, ← negate_unpackF, ← isNan_unpackF f x]
  cases unpackF f x <;> rfl

theorem snan_turned (f : FFmt) (x : Nat) : snan f (turned f x) = snan f x := by
  rw [← isSnan_unpackF, ← negate_unpackF, ← isSnan_unpackF f x]
  cases unpackF f x <;> rfl

/-! ## Products -/

/-- The product of numbers and infinities where none of the cases of NaN holds, with its sign. -/
def numberProduct (f : FFmt) (rm : Round) (s : Bool) (a b : FVal) : Nat × FpFlags :=
  match a, b with
  | .num _ m₁ e₁, .num _ m₂ e₂ => if m₁ * m₂ = 0 then (signOf f s, 0) else roundF f rm s (m₁ * m₂) (e₁ + e₂)
  | _, _ => (infBits f s, 0)

theorem numberProduct_inf_left (f : FFmt) (rm : Round) (s t : Bool) (b : FVal) : numberProduct f rm s (.inf t) b = (infinity f s, 0) := by
  rw [← infBits_eq_infinity]; rfl

theorem numberProduct_inf_right (f : FFmt) (rm : Round) (s t : Bool) (a : FVal) : numberProduct f rm s a (.inf t) = (infinity f s, 0) := by
  rw [← infBits_eq_infinity]; cases a <;> rfl

theorem signedVal_product (s t : Bool) (m n : Nat) (e g : ℤ) :
    (signedVal (s != t) (m * n) : ℚ) * 2 ^ (e + g) = signedVal s m * 2 ^ e * (signedVal t n * 2 ^ g) := by
  rw [signedVal_mul, zpow_add₀ (by norm_num)]
  push_cast
  ring

theorem roundsTo_numberProduct (f : FFmt) (rm : Round) (s t t' : Bool) (m n : Nat) (e g : ℤ) :
    RoundsTo f rm s (signedVal s (m * n) * 2 ^ (e + g)) (numberProduct f rm s (.num t m e) (.num t' n g)) := by
  have hpos : (2 : ℚ) ^ (e + g) ≠ 0 := by positivity
  have hzero : (signedVal s (m * n) : ℚ) * 2 ^ (e + g) = 0 ↔ m * n = 0 := by
    rw [mul_eq_zero, or_iff_left hpos, Int.cast_eq_zero, signedVal_eq_zero]
  refine ⟨fun h => ?_, fun h => ?_⟩
  · rw [numberProduct, if_pos (hzero.mp h), signOf_eq_signed]
  · rw [numberProduct, if_neg (mt hzero.mpr h)]
    exact rounds_roundF f rm s (mt hzero.mpr h) _

theorem mulF_product (f : FFmt) (rm : Round) (x y : Nat) : Product f rm x y (mulF f rm (unpackF f x) (unpackF f y)) := by
  have hskip : nan f x = false → nan f y = false → ¬ (infinite f x = true ∧ zero f y = true ∨ zero f x = true ∧ infinite f y = true) →
      mulF f rm (unpackF f x) (unpackF f y) = numberProduct f rm (negative f x != negative f y) (unpackF f x) (unpackF f y) := fun hx hy hbad => by
    simp only [mulF, isNan_unpackF, isInf_unpackF, isZero_unpackF, signBit_unpackF hx, signBit_unpackF hy, hx, hy]
    rw [if_neg (by simp), if_neg (by simpa using hbad)]
    rfl
  refine ⟨fun h => ?_, fun h => ?_, fun h => ?_, fun hx hy => ?_⟩
  · simp only [mulF, isNan_unpackF, isSnan_unpackF, flagIf_snan, canonNan_eq_quiet]
    rw [if_pos (by simpa using h)]
  · have hn : nan f x = false ∧ nan f y = false := by
      rcases h with ⟨hi, hz⟩ | ⟨hz, hi⟩
      · exact ⟨nan_eq_false_of_infinite hi, nan_eq_false_of_finite (finite_of_zero hz)⟩
      · exact ⟨nan_eq_false_of_finite (finite_of_zero hz), nan_eq_false_of_infinite hi⟩
    simp only [mulF, isNan_unpackF, isInf_unpackF, isZero_unpackF, canonNan_eq_quiet, hn.1, hn.2]
    rw [if_neg (by simp), if_pos (by simpa using h)]
  · rcases h with ⟨hi, hn, hz⟩ | ⟨hn, hz, hi⟩
    · rw [hskip (nan_eq_false_of_infinite hi) hn (by simp [hz, zero_eq_false_of_not_finite (not_finite_of_infinite hi)]), unpackF_infinite hi]
      exact numberProduct_inf_left ..
    · rw [hskip hn (nan_eq_false_of_infinite hi) (by simp [hz, zero_eq_false_of_not_finite (not_finite_of_infinite hi)]), unpackF_infinite hi]
      exact numberProduct_inf_right ..
  · obtain ⟨m, e, hr, hv, -⟩ := unpackF_value hx
    obtain ⟨n, g, hr', hv', -⟩ := unpackF_value hy
    rw [hskip (nan_eq_false_of_finite hx) (nan_eq_false_of_finite hy)
      (by simp [infinite_eq_false_of_finite hx, infinite_eq_false_of_finite hy]), hr, hr', hv, hv', ← signedVal_product]
    exact roundsTo_numberProduct ..

/-! ## Fused multiply-adds -/

/-- A fused multiply-add of numbers and infinities where none of the cases of NaN holds, with the sign of its product. -/
def numberFused (f : FFmt) (rm : Round) (s : Bool) (a b c : FVal) : Nat × FpFlags :=
  match a, b, c with
  | .num _ m₁ e₁, .num _ m₂ e₂, .num s₃ m₃ e₃ =>
    roundInt f rm (zeroSign rm s s₃) (addExact s (m₁ * m₂) (e₁ + e₂) s₃ m₃ e₃).1 (addExact s (m₁ * m₂) (e₁ + e₂) s₃ m₃ e₃).2
  | .num _ _ _, .num _ _ _, .inf t => (infBits f t, 0)
  | _, _, .inf t => if s = t then (infBits f s, 0) else (canonNan f, flagNV)
  | _, _, _ => (infBits f s, 0)

/-- An infinite product and an infinity: of one sign or of two. -/
theorem numberFused_inf_inf {a b : FVal} (f : FFmt) (rm : Round) (s t : Bool) (h : isInf a = true ∨ isInf b = true) :
    numberFused f rm s a b (.inf t) = if s = t then (infinity f s, 0) else (quiet f, flagNV) := by
  rw [← infBits_eq_infinity, ← canonNan_eq_quiet]
  rcases h with h | h
  · cases a with
    | inf => cases b <;> rfl
    | nan | num => cases h
  · cases b with
    | inf => cases a <;> rfl
    | nan | num => cases h

/-- An infinite product and a number. -/
theorem numberFused_inf_num {a b : FVal} (f : FFmt) (rm : Round) (s t : Bool) (m : Nat) (e : ℤ) (h : isInf a = true ∨ isInf b = true) :
    numberFused f rm s a b (.num t m e) = (infinity f s, 0) := by
  rw [← infBits_eq_infinity]
  rcases h with h | h
  · cases a with
    | inf => cases b <;> rfl
    | nan | num => cases h
  · cases b with
    | inf => cases a <;> rfl
    | nan | num => cases h

theorem roundsTo_numberFused (f : FFmt) (rm : Round) (s t t' u : Bool) (m n k : Nat) (e g h : ℤ) :
    RoundsTo f rm (if s = u then s else decide (rm = .rd)) (signedVal s (m * n) * 2 ^ (e + g) + signedVal u k * 2 ^ h)
      (numberFused f rm s (.num t m e) (.num t' n g) (.num u k h)) := by
  rw [← addExact_eq]
  exact roundsTo_roundInt ..

theorem fmaF_fused (f : FFmt) (rm : Round) (x y z : Nat) : Fused f rm x y z (fmaF f rm (unpackF f x) (unpackF f y) (unpackF f z)) := by
  refine ⟨fun h => ?_, fun hbad h => ?_, fun hbad hx hy hz => ?_⟩
  · simp only [fmaF, isInf_unpackF, isZero_unpackF, canonNan_eq_quiet]
    rw [if_pos (by simpa using h)]
  · have hfl : flagIf (snan f x || snan f y || snan f z) flagNV = invalid f [x, y, z] := by simp [flagIf, invalid, or_assoc]
    simp only [fmaF, isNan_unpackF, isInf_unpackF, isZero_unpackF, isSnan_unpackF, canonNan_eq_quiet, hfl]
    rw [if_neg (by simpa using hbad), if_pos (by simpa [or_assoc] using h)]
  · have hskip : fmaF f rm (unpackF f x) (unpackF f y) (unpackF f z) =
        numberFused f rm (negative f x != negative f y) (unpackF f x) (unpackF f y) (unpackF f z) := by
      simp only [fmaF, isNan_unpackF, isInf_unpackF, isZero_unpackF, signBit_unpackF hx, signBit_unpackF hy, hx, hy, hz]
      rw [if_neg (by simpa using hbad), if_neg (by simp)]
      rfl
    rw [hskip]
    have hinf : infinite f x = true ∨ infinite f y = true → isInf (unpackF f x) = true ∨ isInf (unpackF f y) = true := by simp
    have hfin : ¬ (infinite f x = true ∨ infinite f y = true) → finite f x = true ∧ finite f y = true := fun h => by
      rw [not_or, Bool.not_eq_true, Bool.not_eq_true] at h
      exact ⟨finite_of_kinds hx h.1, finite_of_kinds hy h.2⟩
    refine ⟨fun he hiz hs => ?_, fun he h => ?_, fun he hiz => ?_, fun he hiz => ?_⟩
    · rw [unpackF_infinite hiz, numberFused_inf_inf f rm _ _ (hinf he), if_neg hs]
    · cases hiz : infinite f z
      · obtain ⟨k, j, hr, -⟩ := unpackF_value (finite_of_kinds hz hiz)
        rw [hr, numberFused_inf_num f rm _ _ _ _ (hinf he)]
      · rw [unpackF_infinite hiz, numberFused_inf_inf f rm _ _ (hinf he), if_pos (h.resolve_left (by simp [hiz]))]
    all_goals
      obtain ⟨hfx, hfy⟩ := hfin he
      obtain ⟨m, e, hr, hv, -⟩ := unpackF_value hfx
      obtain ⟨n, g, hr', hv', -⟩ := unpackF_value hfy
    · rw [hr, hr', unpackF_infinite hiz, ← infBits_eq_infinity]; rfl
    · obtain ⟨k, j, hr'', hv'', -⟩ := unpackF_value (finite_of_kinds hz hiz)
      rw [hr, hr', hr'', hv, hv', hv'', ← signedVal_product]
      exact roundsTo_numberFused ..

end Sys2Proof.Machine

namespace Sys2Proof.Proofs

open Sys2Proof.Machine Sys2Proof.Say

/-- Settles O34: every operation reads its patterns, and `addF`, `mulF` and `fmaF` are the sum, the product and the fused multiply-add
of R130; the last clauses are cases of `addF` and `mulF` on words. -/
theorem nanResults : Obligations.NanResults := by
  intro rm a b c d
  refine ⟨fun f _ x y z => ⟨?_, ?_, ?_, ?_⟩, fun f _ x y z => ⟨?_, ?_, ?_⟩, fun h op hop => ?nans, ?_, ?_, fun h => ?_⟩
  · exact scalar_of (fun p q _ => addF f rm (unpackF f p) (unpackF f q)) rfl fun p q _ => addF_sum f rm p q
  · exact scalar_of (fun p q _ => addF f rm (unpackF f p) (negate (unpackF f q))) rfl fun p q _ => negate_unpackF f q ▸ addF_sum f rm p (turned f q)
  · exact scalar_of (fun p q _ => mulF f rm (unpackF f p) (unpackF f q)) rfl fun p q _ => mulF_product f rm p q
  · exact scalar_of (fun p q r => fmaF f rm (unpackF f p) (unpackF f q) (unpackF f r)) rfl (fmaF_fused f rm)
  · exact packed_of (fun p q _ => addF f rm (unpackF f p) (unpackF f q)) rfl fun p q _ => addF_sum f rm p q
  · exact packed_of (fun p q _ => mulF f rm (unpackF f p) (unpackF f q)) rfl fun p q _ => mulF_product f rm p q
  · exact packed_of (fun p q r => fmaF f rm (unpackF f p) (unpackF f q) (unpackF f r)) rfl (fmaF_fused f rm)
  case nans =>
    rw [Bool.or_eq_true, nan32_eq, nan32_eq] at h
    have hfl : (if snan32 a || snan32 b then flagNV else 0 : FpFlags) = invalid .f32 [a.toNat, b.toNat] := by
      rw [snan32_eq, snan32_eq, ← flagIf_snan]; rfl
    have hturned : invalid .f32 [a.toNat, turned .f32 b.toNat] = invalid .f32 [a.toNat, b.toNat] := by
      rw [← flagIf_snan, ← flagIf_snan, snan_turned]
    rw [hfl]
    simp only [List.mem_cons, List.not_mem_nil, or_false] at hop
    rcases hop with rfl | rfl | rfl <;> simp only [aluEval, pat_f32_word]
    · rw [(addF_sum .f32 rm a.toNat b.toNat).1 h]; rfl
    · rw [negate_unpackF, (addF_sum .f32 rm a.toNat (turned .f32 b.toNat)).1 (by rwa [nan_turned]), hturned]; rfl
    · rw [(mulF_product .f32 rm a.toNat b.toNat).1 h]; rfl
  · rfl
  · rfl
  · have hz : zero .f32 a.toNat = true := decide_eq_true h
    simp only [aluEval, pat_f32_word]
    rw [(mulF_product .f32 rm a.toNat (0x7F800000 : W32).toNat).2.1 (.inr ⟨hz, rfl⟩)]
    rfl

end Sys2Proof.Proofs

/-! SUPPORT. Rounding values that are known by comparison alone (R67, R142): exact values, and truncated ones with a sticky bit. -/

namespace Sys2Proof.Machine

open Sys2Proof.Say

variable {f : FFmt} {rm : Round} {s : Bool} {m : Nat} {e : ℤ} {c c' : ℚ → Ordering} {p q : Nat} {o : Nat × FpFlags}

/-! ## Values that a format holds (R62) -/

/-- What is chosen is the value itself or one of its two neighbours. -/
theorem neighbours_of_chosen (h : Chosen f rm s c p) :
    c (magnitude f p) = .eq ∨ ∃ q, c (magnitude f q) = .lt ∧ c (magnitude f (q + 1)) = .gt ∧ (p = q ∨ p = q + 1) := by
  refine h.imp_right fun ⟨q, hlo, hhi, hp⟩ => ⟨q, hlo, hhi, ?_⟩
  cases rm
  case rz => exact .inl hp
  case rd => cases s; exacts [.inl hp, .inr hp]
  case ru => cases s; exacts [.inr hp, .inl hp]
  case rne =>
    dsimp only at hp
    revert hp
    cases c ((magnitude f q + magnitude f (q + 1)) / 2)
    exacts [.inr, fun h => h.2, .inl]

/-- It is at or above every magnitude that the value reaches. -/
theorem le_of_chosen {x : ℚ} (h : Chosen f rm s (fun r => cmp r x) p) (hq : magnitude f q ≤ x) : q ≤ p := by
  rcases neighbours_of_chosen h with h | ⟨a, -, hhi, hp⟩
  · rw [cmp_eq_eq_iff] at h
    rwa [← h, magnitude_le_iff] at hq
  · rw [cmp_eq_gt_iff] at hhi
    have := magnitude_lt_iff.mp (hq.trans_lt hhi)
    omega

/-- A magnitude is rounded to itself. -/
theorem picked_of_magnitude (hm : m ≠ 0) (h : magnitude f p = m * 2 ^ e) : picked f rm s m e = p := by
  refine le_antisymm ?_ (le_of_chosen (chosen_picked hm) h.le)
  rcases neighbours_of_chosen (chosen_picked (f := f) (rm := rm) (s := s) (e := e) hm) with hx | ⟨a, hlo, hhi, -⟩
  · rw [cmp_eq_eq_iff, ← h] at hx
    exact ((magnitude_strictMono f).injective hx).le
  · rw [cmp_eq_lt_iff, ← h, magnitude_lt_iff] at hlo
    rw [cmp_eq_gt_iff, ← h, magnitude_lt_iff] at hhi
    omega

theorem roundF_exact (hm : m ≠ 0) (h : magnitude f p = m * 2 ^ e) (hp : p ≤ largest f) : roundF f rm s m e = (signed f s p, 0) := by
  rw [roundF_eq hm, picked_of_magnitude hm h, if_neg (Nat.not_lt.mpr hp), if_pos h]

/-- A pattern is its sign and its magnitude. -/
theorem signed_negative_mags {x : Nat} (hx : x < 2 ^ fmtWidth f) : signed f (negative f x) (mags f x) = x := by
  have hw : 2 ^ fmtWidth f = 2 ^ (expBits f + fracBits f) * 2 := by unfold fmtWidth; rw [← pow_succ]; congr 1; omega
  have hdm := Nat.div_add_mod x (2 ^ (expBits f + fracBits f))
  have hlt : x / 2 ^ (expBits f + fracBits f) < 2 := Nat.div_lt_of_lt_mul (hw ▸ hx)
  unfold signed negative mags
  rcases Nat.lt_or_ge (x / 2 ^ (expBits f + fracBits f)) 1 with h | h
  · have h0 : x / 2 ^ (expBits f + fracBits f) = 0 := Nat.lt_one_iff.mp h
    rw [h0] at hdm ⊢
    simpa using hdm
  · have h1 : x / 2 ^ (expBits f + fracBits f) = 1 := Nat.le_antisymm (Nat.le_of_lt_succ hlt) h
    rw [h1] at hdm ⊢
    simpa using hdm

/-- The number that a pattern is read as is rounded to it. -/
theorem roundF_unpackF {x : Nat} (hx : x < 2 ^ fmtWidth f) (hr : unpackF f x = .num s m e) (hm : m ≠ 0) : roundF f rm s m e = (x, 0) := by
  have hfin : finite f x = true := by
    rcases kinds f x with h | h | h
    · exact h
    · rw [unpackF_infinite h] at hr; cases hr
    · rw [unpackF_nan h] at hr; cases hr
  obtain ⟨n, k, hr', hmag, hb⟩ := unpackF_finite hfin
  rw [hr] at hr'
  cases hr'
  rw [roundF_exact hm (p := mags f x) (by rw [hmag, magnitude_binade hb.significand]) (mags_finite hfin), signed_negative_mags hx]

/-! ## Where a rounding looks -/

/-- The numbers with which rounding to a format compares a value: magnitudes, midpoints, and the halves of both. -/
def Points (f : FFmt) (P : ℚ → Prop) : Prop := ∀ (n : Nat) (j : ℤ), n < 2 ^ (fracBits f + 2) → unitExp f - 2 ≤ j → P (n * 2 ^ j)

theorem magnitude_point (f : FFmt) (p : Nat) : ∃ (n : Nat) (j : ℤ), n < 2 ^ (fracBits f + 2) ∧ unitExp f ≤ j ∧ magnitude f p = n * 2 ^ j := by
  obtain ⟨n, k, rfl, hb⟩ := exists_binade f p
  exact ⟨n, _, hb.1.trans (Nat.pow_lt_pow_right (by decide) (Nat.lt_succ_self _)), by omega, magnitude_binade hb.significand⟩

theorem midpoint_point (f : FFmt) (p : Nat) :
    ∃ (n : Nat) (j : ℤ), n < 2 ^ (fracBits f + 2) ∧ unitExp f - 1 ≤ j ∧ (magnitude f p + magnitude f (p + 1)) / 2 = n * 2 ^ j := by
  obtain ⟨n, k, rfl, hb⟩ := exists_binade f p
  refine ⟨2 * n + 1, unitExp f + k - 1, ?_, by omega, ?_⟩
  · have := hb.1
    have hpow : 2 ^ (fracBits f + 2) = 2 * 2 ^ (fracBits f + 1) := by ring
    omega
  · rw [magnitude_binade hb.significand, magnitude_succ hb, zpow_sub_one₀ (by norm_num)]
    push_cast
    ring

theorem chosen_congr (hmag : ∀ p, c (magnitude f p) = c' (magnitude f p))
    (hmid : ∀ p, c ((magnitude f p + magnitude f (p + 1)) / 2) = c' ((magnitude f p + magnitude f (p + 1)) / 2)) (h : Chosen f rm s c p) :
    Chosen f rm s c' p := by
  unfold Chosen at h ⊢
  simpa only [hmag, hmid] using h

/-- A rounding depends on these comparisons alone. -/
theorem roundsBy_congr (hc : Points f fun r => c r = c' r) (h : RoundsBy f rm s c o) : RoundsBy f rm s c' o := by
  have hmag : ∀ p, c (magnitude f p) = c' (magnitude f p) := fun p => by
    obtain ⟨n, j, hn, hj, hp⟩ := magnitude_point f p
    rw [hp]; exact hc n j hn (by omega)
  have hmid : ∀ p, c ((magnitude f p + magnitude f (p + 1)) / 2) = c' ((magnitude f p + magnitude f (p + 1)) / 2) := fun p => by
    obtain ⟨n, j, hn, hj, hp⟩ := midpoint_point f p
    rw [hp]; exact hc n j hn (by omega)
  have hhalf : ∀ (n : Nat) (j : ℤ), (n : ℚ) * 2 ^ j / 2 = n * 2 ^ (j - 1) := fun n j => by rw [zpow_sub_one₀ (by norm_num)]; ring
  obtain ⟨p, t, hp, ht, ho⟩ := h
  refine ⟨p, t, chosen_congr hmag hmid hp, chosen_congr (fun p => ?_) (fun p => ?_) ht, ?_⟩
  · obtain ⟨n, j, hn, hj, hp⟩ := magnitude_point f p
    simp only [hp, hhalf]; exact hc n (j - 1) hn (by omega)
  · obtain ⟨n, j, hn, hj, hp⟩ := midpoint_point f p
    simp only [hp, hhalf]; exact hc n (j - 1) hn (by omega)
  · simpa only [hmag] using ho

/-! ## Sticky bits -/

/-- `c` compares with a value strictly between `n` and `n + 1` units of exponent `e`. -/
def Between (c : ℚ → Ordering) (n : Nat) (e : ℤ) : Prop :=
  (∀ r : ℚ, 0 ≤ r → r ≤ n * 2 ^ e → c r = .lt) ∧ ∀ r : ℚ, (n + 1 : ℕ) * 2 ^ e ≤ r → c r = .gt

/-- A number with enough bits and half a unit more is rounded as every value between it and the next. -/
theorem roundsBy_between {n : Nat} (hn : 2 ^ (fracBits f + 2) ≤ n) (h : Between c n e) :
    RoundsBy f rm s c (roundF f rm s (2 * n + 1) (e - 1)) := by
  have hpos : (0 : ℚ) < 2 ^ e := by positivity
  have hval : ((2 * n + 1 : ℕ) : ℚ) * 2 ^ (e - 1) = (n + 1 / 2) * 2 ^ e := by
    rw [zpow_sub_one₀ (by norm_num)]; push_cast; ring
  refine roundsBy_congr (fun k j hk _ => ?_) (roundsBy_roundF f rm s (Nat.succ_ne_zero _) _)
  have hlow : ∀ r : ℚ, 0 ≤ r → r ≤ n * 2 ^ e → cmp r ((2 * n + 1 : ℕ) * 2 ^ (e - 1)) = c r := fun r h0 hr => by
    rw [h.1 r h0 hr, cmp_eq_lt_iff, hval]
    exact hr.trans_lt (by gcongr; norm_num)
  have hhigh : ∀ r : ℚ, (n + 1 : ℕ) * 2 ^ e ≤ r → cmp r ((2 * n + 1 : ℕ) * 2 ^ (e - 1)) = c r := fun r hr => by
    rw [h.2 r hr, cmp_eq_gt_iff, hval]
    refine lt_of_lt_of_le ?_ hr
    gcongr
    push_cast
    norm_num
  rcases le_or_gt e j with hle | hlt
  · obtain ⟨i, rfl⟩ : ∃ i : Nat, j = i + e := ⟨(j - e).toNat, by omega⟩
    have hk : (k : ℚ) * 2 ^ ((i : ℤ) + e) = (k * 2 ^ i : ℕ) * 2 ^ e := by
      rw [zpow_add₀ (by norm_num), zpow_natCast]; push_cast; ring
    rcases Nat.lt_or_ge n (k * 2 ^ i) with hgt | hle
    · refine hhigh _ ?_
      rw [hk]; gcongr; exact hgt
    · refine hlow _ (by positivity) ?_
      rw [hk]; gcongr
  · refine hlow _ (by positivity) ?_
    have h1 : (k : ℚ) ≤ n := by exact_mod_cast hk.le.trans hn
    have h2 : (2 : ℚ) ^ j ≤ 2 ^ e := zpow_le_zpow_right₀ (by norm_num) hlt.le
    gcongr

/-- `roundSticky` rounds the value that its truncation stands for. -/
theorem roundsBy_roundSticky {n : Nat} {exact : Bool} (hn : 2 ^ 25 ≤ n) (hex : exact = true → ∀ r, 0 ≤ r → c r = cmp r (n * 2 ^ e))
    (hin : exact = false → Between c n e) : RoundsBy .f32 .rne s c (roundSticky s n e exact) := by
  unfold roundSticky
  cases exact
  · exact roundsBy_between hn (hin rfl)
  · have hval : ((2 * n + 0 : ℕ) : ℚ) * 2 ^ (e - 1) = n * 2 ^ e := by rw [zpow_sub_one₀ (by norm_num)]; push_cast; ring
    refine roundsBy_congr (fun k j _ _ => ?_) (roundsBy_roundF .f32 .rne s (by omega) _)
    rw [if_pos rfl, hval]
    exact (hex rfl _ (by positivity)).symm

/-- An odd number with more bits than a format has is rounded inexactly. -/
theorem roundF_odd (hodd : m % 2 = 1) (hbits : 2 ^ (fracBits f + 1) ≤ m) : (roundF f rm s m e).2 &&& flagNX = flagNX := by
  have hm : m ≠ 0 := by omega
  have hne : magnitude f (picked f rm s m e) ≠ m * 2 ^ e := fun h => by
    obtain ⟨n, k, hp, hb⟩ := exists_binade f (picked f rm s m e)
    rw [hp, magnitude_binade hb.significand] at h
    have hlt := hb.1
    generalize unitExp f + (k : ℤ) = j at h
    rcases le_or_gt e j with hle | hgt
    · obtain ⟨i, rfl⟩ : ∃ i : Nat, j = i + e := ⟨(j - e).toNat, by omega⟩
      rw [zpow_add₀ (by norm_num), zpow_natCast, ← mul_assoc, mul_left_inj' (by positivity)] at h
      have h' : n * 2 ^ i = m := by exact_mod_cast h
      cases i with
      | zero => omega
      | succ i => rw [pow_succ, ← Nat.mul_assoc] at h'; omega
    · obtain ⟨i, rfl⟩ : ∃ i : Nat, e = i + j := ⟨(e - j).toNat, by omega⟩
      rw [zpow_add₀ (by norm_num), zpow_natCast, ← mul_assoc, mul_left_inj' (by positivity)] at h
      have h' : n = m * 2 ^ i := by exact_mod_cast h
      have := Nat.le_mul_of_pos_right m (show 0 < 2 ^ i by positivity)
      omega
  rw [roundF_eq hm, if_neg hne]
  split
  · exact (by decide : (flagOF ||| flagNX) &&& flagNX = flagNX)
  · dsimp only; split <;> decide

/-! ## Square roots of integers -/

/-- The bits of the root that are still open are found from the highest on. -/
theorem isqrtGo_spec (n b r : Nat) (hlo : r * r ≤ n) (hhi : n < (r + 2 ^ b) * (r + 2 ^ b)) :
    isqrtGo n b r * isqrtGo n b r ≤ n ∧ n < (isqrtGo n b r + 1) * (isqrtGo n b r + 1) := by
  induction b generalizing r with
  | zero => exact ⟨hlo, by simpa [isqrtGo] using hhi⟩
  | succ b ih =>
    rw [isqrtGo]
    split
    · next h => exact ih _ h (by rw [pow_succ] at hhi; rwa [show r + 2 ^ b + 2 ^ b = r + 2 ^ b * 2 by ring])
    · next h => exact ih _ hlo (Nat.lt_of_not_le h)

theorem isqrt_spec (n : Nat) : isqrt n * isqrt n ≤ n ∧ n < (isqrt n + 1) * (isqrt n + 1) := by
  refine isqrtGo_spec n _ 0 (Nat.zero_le _) (Nat.lt_log2_self.trans_le ?_)
  rw [Nat.zero_add, ← pow_add]
  exact Nat.pow_le_pow_right (by decide) (by unfold log2Nat; omega)

theorem le_isqrt {n b : Nat} (h : b * b ≤ n) : b ≤ isqrt n := by
  have := (isqrt_spec n).2
  by_contra hlt
  have := Nat.mul_self_le_mul_self (show isqrt n + 1 ≤ b by omega)
  omega

/-! ## `rcp`, `sqrt` and `rsq` (R142) -/

variable {v : ℚ}

/-- `rcp` rounds the exact reciprocal once. -/
theorem rcpVal_rounds (s : Bool) (hm : m ≠ 0) (e : ℤ) : Rounds .f32 .rne (1 / (signedVal s m * 2 ^ e)) (rcpVal s m e) := by
  have hm' : (0 : ℚ) < m := by exact_mod_cast Nat.pos_of_ne_zero hm
  have hpos : (0 : ℚ) < 2 ^ e := by positivity
  have hneg : decide (1 / ((signedVal s m : ℚ) * 2 ^ e) < 0) = s := by
    cases s <;> simp [signedVal, hm', hpos, hm'.le]
  have habs : |1 / ((signedVal s m : ℚ) * 2 ^ e)| = 1 / (m * 2 ^ e) := by
    rw [abs_div, abs_one, abs_mul, abs_of_pos hpos]; cases s <;> simp [signedVal]
  rw [Rounds, hneg, habs, rcpVal]
  generalize hk : log2Nat m + 40 = k
  have hdm := Nat.div_add_mod (2 ^ k) m
  have hr := Nat.mod_lt (2 ^ k) (Nat.pos_of_ne_zero hm)
  have hvalue : (1 : ℚ) / (m * 2 ^ e) = 2 ^ k / m * 2 ^ (-(k : ℤ) - e) := by
    rw [zpow_sub₀ (by norm_num), zpow_neg, zpow_natCast]; field_simp
  have hu : (0 : ℚ) < 2 ^ (-(k : ℤ) - e) := by positivity
  rw [hvalue]
  have hbits : 2 ^ 25 ≤ 2 ^ k / m := by
    rw [Nat.le_div_iff_mul_le (Nat.pos_of_ne_zero hm)]
    have h1 : m < 2 ^ (log2Nat m + 1) := Nat.lt_log2_self
    calc 2 ^ 25 * m ≤ 2 ^ 25 * 2 ^ (log2Nat m + 1) := Nat.mul_le_mul_left _ h1.le
      _ = 2 ^ (log2Nat m + 26) := by ring
      _ ≤ 2 ^ k := Nat.pow_le_pow_right (by decide) (by omega)
  have hq : ((2 ^ k / m : ℕ) : ℚ) * m + (2 ^ k % m : ℕ) = 2 ^ k := by
    have : ((m * (2 ^ k / m) + 2 ^ k % m : ℕ) : ℚ) = (2 ^ k : ℕ) := by rw [hdm]
    push_cast at this
    linarith
  refine roundsBy_roundSticky hbits (fun hex r _ => ?_) (fun hex => ⟨fun r _ hle => ?_, fun r hge => ?_⟩)
  · rw [decide_eq_true_eq] at hex
    rw [hex, Nat.cast_zero, add_zero] at hq
    rw [← hq, mul_div_cancel_right₀ _ hm'.ne']
  · rw [decide_eq_false_iff_not] at hex
    have h0 : (0 : ℚ) < (2 ^ k % m : ℕ) := by exact_mod_cast Nat.pos_of_ne_zero hex
    rw [cmp_eq_lt_iff]
    refine hle.trans_lt (mul_lt_mul_of_pos_right ?_ hu)
    rw [lt_div_iff₀ hm']
    linarith
  · rw [cmp_eq_gt_iff]
    refine lt_of_lt_of_le (mul_lt_mul_of_pos_right ?_ hu) hge
    have h1 : ((2 ^ k % m : ℕ) : ℚ) < m := by exact_mod_cast hr
    rw [div_lt_iff₀ hm']
    push_cast
    linarith

/-- An even exponent, as the square roots take it. -/
theorem even_exponent (m : Nat) (e : ℤ) : ∃ (n : Nat) (g : ℤ), (if e % 2 = 0 then (m, e) else (2 * m, e - 1)) = (n, 2 * g) ∧
    (n : ℚ) * 2 ^ (2 * g) = m * 2 ^ e ∧ m ≤ n ∧ n ≤ 2 * m := by
  split
  · exact ⟨m, e / 2, by rw [show 2 * (e / 2) = e by omega], by rw [show 2 * (e / 2) = e by omega], le_rfl, by omega⟩
  · refine ⟨2 * m, (e - 1) / 2, by rw [show 2 * ((e - 1) / 2) = e - 1 by omega], ?_, by omega, le_rfl⟩
    rw [show 2 * ((e - 1) / 2) = e - 1 by omega, zpow_sub_one₀ (by norm_num)]
    push_cast
    ring

theorem cmp_mul_self {a b : ℚ} (ha : 0 ≤ a) (hb : 0 ≤ b) : cmp (a * a) (b * b) = cmp a b := by
  rcases lt_trichotomy a b with h | h | h
  · rw [(cmp_eq_lt_iff _ _).mpr h, (cmp_eq_lt_iff _ _).mpr (mul_self_lt_mul_self ha h)]
  · rw [(cmp_eq_eq_iff _ _).mpr h, (cmp_eq_eq_iff _ _).mpr (by rw [h])]
  · rw [(cmp_eq_gt_iff _ _).mpr h, (cmp_eq_gt_iff _ _).mpr (mul_self_lt_mul_self hb h)]

/-- `sqrt` rounds the exact square root once. -/
theorem sqrtVal_rounds (hm : m ≠ 0) (e : ℤ) : RoundsBy .f32 .rne false (fun q => cmp (q * q) (m * 2 ^ e)) (sqrtVal m e) := by
  obtain ⟨n, g, hsplit, hv, hmn, -⟩ := even_exponent m e
  rw [← hv, sqrtVal, hsplit]
  dsimp only
  rw [show 2 * g / 2 - 32 = g - 32 by omega]
  obtain ⟨hlo, hhi⟩ := isqrt_spec (n * 2 ^ 64)
  have hu : (0 : ℚ) < 2 ^ (g - 32) := by positivity
  have hvalue : (n : ℚ) * 2 ^ (2 * g) = (n * 2 ^ 64 : ℕ) * (2 ^ (g - 32) * 2 ^ (g - 32)) := by
    rw [← zpow_add₀ (by norm_num), show g - 32 + (g - 32) = 2 * g - 64 by ring, zpow_sub₀ (by norm_num)]
    push_cast
    field_simp
  have hbits : 2 ^ 25 ≤ isqrt (n * 2 ^ 64) := by
    refine le_isqrt (le_trans (by norm_num) (Nat.le_mul_of_pos_left (2 ^ 64) (by omega)))
  rw [hvalue]
  generalize n * 2 ^ 64 = N at *
  refine roundsBy_roundSticky hbits (fun hex r hr => ?_) (fun hex => ⟨fun r hr hle => ?_, fun r hge => ?_⟩)
  · rw [decide_eq_true_eq] at hex
    have hroot : (N : ℚ) = isqrt N * isqrt N := by exact_mod_cast hex.symm
    rw [hroot, ← cmp_mul_self hr (by positivity)]
    congr 1
    ring
  · rw [decide_eq_false_iff_not] at hex
    have h1 : ((isqrt N * isqrt N : ℕ) : ℚ) < N := by exact_mod_cast lt_of_le_of_ne hlo hex
    rw [cmp_eq_lt_iff]
    refine (mul_self_le_mul_self hr hle).trans_lt ?_
    calc _ = ((isqrt N * isqrt N : ℕ) : ℚ) * (2 ^ (g - 32) * 2 ^ (g - 32)) := by push_cast; ring
      _ < _ := mul_lt_mul_of_pos_right h1 (by positivity)
  · have h1 : (N : ℚ) < ((isqrt N + 1) * (isqrt N + 1) : ℕ) := by exact_mod_cast hhi
    rw [cmp_eq_gt_iff]
    refine lt_of_lt_of_le ?_ (mul_self_le_mul_self (by positivity) hge)
    calc _ < (((isqrt N + 1) * (isqrt N + 1) : ℕ) : ℚ) * (2 ^ (g - 32) * 2 ^ (g - 32)) := mul_lt_mul_of_pos_right h1 (by positivity)
      _ = _ := by push_cast; ring

/-- `rsq` rounds the exact reciprocal of the square root once. -/
theorem rsqVal_rounds (hm : m ≠ 0) (hlt : m < 2 ^ 24) (e : ℤ) :
    RoundsBy .f32 .rne false (fun q => cmp (q * q * (m * 2 ^ e)) 1) (rsqVal m e) := by
  obtain ⟨n, g, hsplit, hv, hmn, hnm⟩ := even_exponent m e
  rw [← hv, rsqVal, hsplit]
  dsimp only
  rw [show -(64 : ℤ) - 2 * g / 2 = -64 - g by omega]
  have hn : 0 < n := by omega
  have hn' : (0 : ℚ) < n := by exact_mod_cast hn
  obtain ⟨hlo, hhi⟩ := isqrt_spec (2 ^ 128 / n)
  have hbits : 2 ^ 25 ≤ isqrt (2 ^ 128 / n) := by
    refine le_isqrt ((Nat.le_div_iff_mul_le hn).mpr ?_)
    calc 2 ^ 25 * 2 ^ 25 * n ≤ 2 ^ 25 * 2 ^ 25 * 2 ^ 25 := Nat.mul_le_mul_left _ (by omega)
      _ ≤ 2 ^ 128 := by norm_num
  have hle : isqrt (2 ^ 128 / n) * isqrt (2 ^ 128 / n) * n ≤ 2 ^ 128 := (Nat.le_div_iff_mul_le hn).mp hlo
  have hgt : 2 ^ 128 < (isqrt (2 ^ 128 / n) + 1) * (isqrt (2 ^ 128 / n) + 1) * n := (Nat.div_lt_iff_lt_mul hn).mp hhi
  generalize isqrt (2 ^ 128 / n) = R at *
  have hsquare : ∀ k : ℕ, (k : ℚ) * 2 ^ (-64 - g) * (k * 2 ^ (-64 - g)) * (n * 2 ^ (2 * g)) = (k * k * n : ℕ) / 2 ^ 128 := fun k => by
    rw [zpow_sub₀ (by norm_num), two_mul, zpow_add₀ (by norm_num)]
    push_cast
    field_simp
  have hpos : (0 : ℚ) < n * 2 ^ (2 * g) := by positivity
  refine roundsBy_roundSticky hbits (fun hex r hr => ?_) (fun hex => ⟨fun r hr hle' => ?_, fun r hge => ?_⟩)
  · rw [decide_eq_true_eq] at hex
    have hone : (1 : ℚ) = R * 2 ^ (-64 - g) * (R * 2 ^ (-64 - g)) * (n * 2 ^ (2 * g)) := by
      rw [hsquare, hex]; norm_num
    conv_lhs => rw [hone]
    rw [cmp_mul_pos_right hpos, cmp_mul_self hr (by positivity)]
  · rw [decide_eq_false_iff_not] at hex
    rw [cmp_eq_lt_iff]
    refine (mul_le_mul_of_nonneg_right (mul_self_le_mul_self hr hle') hpos.le).trans_lt ?_
    rw [hsquare, div_lt_one (by positivity)]
    exact_mod_cast lt_of_le_of_ne hle hex
  · rw [cmp_eq_gt_iff]
    refine lt_of_lt_of_le ?_ (mul_le_mul_of_nonneg_right (mul_self_le_mul_self (by positivity) hge) hpos.le)
    rw [hsquare, one_lt_div (by positivity)]
    exact_mod_cast hgt

end Sys2Proof.Machine

/-! SUPPORT. Byte permutes and integer dot products (R145, R146). -/

namespace Sys2Proof.Machine

open Sys2Proof.Say

/-! ## Byte permute (R145) -/

/-- What mode `n` of a selector makes of a byte: itself, zero, its sign, its bits reversed. -/
def alteredByte (n x : Nat) : Nat :=
  match n with
  | 0 => x
  | 1 => 0
  | 2 => if 128 ≤ x then 255 else 0
  | _ => brev 8 x

/-- Byte `n` of `b:a`. -/
def joinedByte (a b n : Nat) : Nat := (a % 2 ^ 32 + b % 2 ^ 32 * 2 ^ 32) / 2 ^ (8 * n) % 256

/-- Byte `i` of a permute of `b:a` under the selectors `sl`. -/
def selectedByte (a b sl i : Nat) : Nat := alteredByte (sl / 2 ^ (8 * i + 3) % 4) (joinedByte a b (sl / 2 ^ (8 * i) % 8))

/-- Four bytes put together, the lowest first: `b` is 2, kept as a variable so that no power of it is computed. -/
theorem foldl_bytes (y : Nat → Nat) (b : Nat) :
    (List.range 4).foldl (fun acc i => acc + y i * b ^ (8 * i)) 0 = y 0 + y 1 * b ^ 8 + y 2 * b ^ 16 + y 3 * b ^ 24 := by
  simp [List.range_succ]

/-- A permute is made of its four bytes. -/
theorem bselEval_eq (a b sl : Nat) : bselEval a b sl =
    selectedByte a b sl 0 + selectedByte a b sl 1 * 2 ^ 8 + selectedByte a b sl 2 * 2 ^ 16 + selectedByte a b sl 3 * 2 ^ 24 := by
  rw [← foldl_bytes]
  unfold bselEval selectedByte joinedByte
  refine congrArg (fun g => List.foldl g 0 (List.range 4)) (funext fun acc => funext fun i => ?_)
  dsimp only
  generalize sl / 2 ^ (8 * i + 3) % 4 = n
  rcases n with _ | _ | _ | n <;> rfl

theorem brev_eight (v : Nat) : brev 8 v = v / 2 ^ 0 % 2 * 2 ^ 7 + v / 2 ^ 1 % 2 * 2 ^ 6 + v / 2 ^ 2 % 2 * 2 ^ 5 + v / 2 ^ 3 % 2 * 2 ^ 4 +
    v / 2 ^ 4 % 2 * 2 ^ 3 + v / 2 ^ 5 % 2 * 2 ^ 2 + v / 2 ^ 6 % 2 * 2 ^ 1 + v / 2 ^ 7 % 2 * 2 ^ 0 := by
  simp [brev, List.range_succ]

theorem brev_eight_lt (v : Nat) : brev 8 v < 256 := by rw [brev_eight]; omega

/-- Bit `k` of the number with the bits `b`, the first one highest. -/
theorem bit_of_reversed (b : Nat → Nat) (hb : ∀ i, b i < 2) {k : Nat} (hk : k < 8) :
    (b 0 * 2 ^ 7 + b 1 * 2 ^ 6 + b 2 * 2 ^ 5 + b 3 * 2 ^ 4 + b 4 * 2 ^ 3 + b 5 * 2 ^ 2 + b 6 * 2 ^ 1 + b 7 * 2 ^ 0) / 2 ^ k % 2 = b (7 - k) := by
  have h0 := hb 0
  have h1 := hb 1
  have h2 := hb 2
  have h3 := hb 3
  have h4 := hb 4
  have h5 := hb 5
  have h6 := hb 6
  have h7 := hb 7
  interval_cases k <;> simp only [Nat.reduceSub] <;> omega

/-- Bit `k` of a reversed byte is the bit at the other end. -/
theorem getLsbD_brev (v : Nat) {k : Nat} (hk : k < 8) : (BitVec.ofNat 8 (brev 8 v)).getLsbD k = (BitVec.ofNat 8 v).getLsbD (7 - k) := by
  have hbit : brev 8 v / 2 ^ k % 2 = v / 2 ^ (7 - k) % 2 := by
    rw [brev_eight]
    exact bit_of_reversed (fun i => v / 2 ^ i % 2) (fun i => Nat.mod_lt _ (by decide)) hk
  simp only [BitVec.getLsbD_ofNat, Nat.testBit_eq_decide_div_mod_eq, hbit, hk, show 7 - k < 8 by omega]

theorem joinedByte_lt (a b n : Nat) : joinedByte a b n < 256 := Nat.mod_lt _ (by decide)

theorem alteredByte_lt (n : Nat) {x : Nat} (hx : x < 256) : alteredByte n x < 256 := by
  unfold alteredByte
  split
  · exact hx
  · decide
  · split <;> decide
  · exact brev_eight_lt x

theorem selectedByte_lt (a b sl i : Nat) : selectedByte a b sl i < 256 := alteredByte_lt _ (joinedByte_lt ..)

/-- Byte `i` of the result. -/
theorem bselEval_byte (a b sl : Nat) {i : Nat} (hi : i < 4) : bselEval a b sl / 2 ^ (8 * i) % 256 = selectedByte a b sl i := by
  have h0 := selectedByte_lt a b sl 0
  have h1 := selectedByte_lt a b sl 1
  have h2 := selectedByte_lt a b sl 2
  have h3 := selectedByte_lt a b sl 3
  rw [bselEval_eq]
  interval_cases i <;> omega

theorem bselEval_lt (a b sl : Nat) : bselEval a b sl < 2 ^ 32 := by
  have h0 := selectedByte_lt a b sl 0
  have h1 := selectedByte_lt a b sl 1
  have h2 := selectedByte_lt a b sl 2
  have h3 := selectedByte_lt a b sl 3
  rw [bselEval_eq]
  omega

/-- The byte of two joined words that a selector names. -/
theorem ofNat_joinedByte (a b : W32) (n : Nat) : BitVec.ofNat 8 (joinedByte a.toNat b.toNat n) = ((b ++ a : BitVec 64) >>> (8 * n)).truncate 8 := by
  apply BitVec.eq_of_toNat_eq
  rw [joinedByte, BitVec.truncate_eq_setWidth, BitVec.toNat_setWidth, BitVec.toNat_ushiftRight, BitVec.toNat_append, BitVec.toNat_ofNat,
    ← Nat.shiftLeft_add_eq_or_of_lt a.isLt, Nat.shiftLeft_eq, Nat.shiftRight_eq_div_pow, Nat.mod_eq_of_lt a.isLt, Nat.mod_eq_of_lt b.isLt,
    Nat.add_comm (a.toNat), Nat.mod_mod]

/-- The high bit of a byte. -/
theorem msb_byte {x : Nat} (hx : x < 256) : (BitVec.ofNat 8 x).msb = decide (128 ≤ x) := by
  rw [BitVec.msb_eq_decide, BitVec.toNat_ofNat, Nat.mod_eq_of_lt hx]

/-- The modes of a selector, on the bits of a byte (R145). -/
theorem alteredByte_spec (n : Nat) {x : Nat} (hx : x < 256) :
    match n with
    | 0 => BitVec.ofNat 8 (alteredByte n x) = BitVec.ofNat 8 x
    | 1 => BitVec.ofNat 8 (alteredByte n x) = 0
    | 2 => BitVec.ofNat 8 (alteredByte n x) = if (BitVec.ofNat 8 x).msb then 0xFF else 0
    | _ => ∀ k, k < 8 → (BitVec.ofNat 8 (alteredByte n x)).getLsbD k = (BitVec.ofNat 8 x).getLsbD (7 - k) := by
  rcases n with _ | _ | _ | n
  · rfl
  · rfl
  · rw [msb_byte hx]
    by_cases h : 128 ≤ x <;> simp [alteredByte, h]
  · exact fun k => getLsbD_brev x

/-- `bsel` on words. -/
theorem aluEval_bsel (a b sl : W32) (d : Nat → Nat) :
    aluEval .bsel (word a) (word b) (word sl) d = { val := BitVec.ofNat 64 (bselEval a.toNat b.toNat sl.toNat) } := by
  simp only [aluEval, word_toNat]

theorem bsel_bytes (a b sl : W32) (d : Nat → Nat) {i : Nat} (hi : i < 4) :
    (((aluEval .bsel (word a) (word b) (word sl) d).val >>> (8 * i)).truncate 8 : BitVec 8) =
      BitVec.ofNat 8 (selectedByte a.toNat b.toNat sl.toNat i) := by
  apply BitVec.eq_of_toNat_eq
  have hlt := bselEval_lt a.toNat b.toNat sl.toNat
  rw [aluEval_bsel, BitVec.truncate_eq_setWidth, BitVec.toNat_setWidth, BitVec.toNat_ushiftRight, BitVec.toNat_ofNat, BitVec.toNat_ofNat,
    Nat.mod_eq_of_lt (hlt.trans (by decide)), Nat.shiftRight_eq_div_pow, ← bselEval_byte _ _ _ hi, Nat.mod_mod]

/-! ## Integer dot products (R146) -/

/-- Element `i` of a word, read with or without sign. -/
def readElement (n : Nat) (sgn : Bool) (v i : Nat) : Int := if sgn then toSigned n (v / 2 ^ (n * i)) else (v / 2 ^ (n * i) % 2 ^ n : Nat)

theorem readElement_eq (n : Nat) (hn : 0 < n) (sgn : Bool) (v : W32) (i : Nat) :
    readElement n sgn v.toNat i = low n (!sgn) (word v >>> (n * i)) := by
  have h := readInt_eq_low n (!sgn) (word v >>> (n * i)) hn
  rw [← h, readElement, readInt, BitVec.toNat_ushiftRight, word_toNat, Nat.shiftRight_eq_div_pow]
  cases sgn <;> rfl

/-- Which of the two operands of a dot product are signed. -/
def signedLeft (sg : DotSign) : Bool := match sg with | .ss => true | .sz => true | _ => false
def signedRight (sg : DotSign) : Bool := match sg with | .ss => true | .zs => true | _ => false

theorem element_eq (sg : DotSign) (n : Nat) (hn : 0 < n) (a b : W32) (i : Nat) :
    readElement n (signedLeft sg) a.toNat i * readElement n (signedRight sg) b.toNat i = element sg n a b i := by
  rw [readElement_eq n hn, readElement_eq n hn]
  cases sg <;> rfl

theorem dotEval_eq (n k : Nat) (sg : DotSign) (a b c : Nat) : dotEval n k sg a b c =
    bitsOfInt 32 ((List.range k).foldl (fun acc i => acc + readElement n (signedLeft sg) a i * readElement n (signedRight sg) b i) (c : Int)) := rfl

theorem dp4_value (a b c : W32) (d : Nat → Nat) (sg : DotSign) :
    aluEval (.dp4 sg) (word a) (word b) (word c) d = { val := word (BitVec.ofInt 32 (c.toNat +
      (element sg 8 a b 0 + element sg 8 a b 1 + element sg 8 a b 2 + element sg 8 a b 3))) } := by
  simp only [aluEval, word_toNat, dotEval_eq, element_eq sg 8 (by decide), bitsOfInt_eq]
  simp only [List.range_succ, List.range_zero, List.nil_append, List.cons_append, List.foldl_cons, List.foldl_nil, word, add_assoc]

theorem dp2_value (a b c : W32) (d : Nat → Nat) (sg : DotSign) :
    aluEval (.dp2 sg) (word a) (word b) (word c) d = { val := word (BitVec.ofInt 32 (c.toNat + (element sg 16 a b 0 + element sg 16 a b 1))) } := by
  simp only [aluEval, word_toNat, dotEval_eq, element_eq sg 16 (by decide), bitsOfInt_eq]
  simp only [List.range_succ, List.range_zero, List.nil_append, List.cons_append, List.foldl_cons, List.foldl_nil, word, add_assoc]

end Sys2Proof.Machine

/-! SUPPORT. The floating-point dot product (R147). -/

namespace Sys2Proof.Machine

open Sys2Proof.Say

variable {f : FFmt} {x y : Nat}

/-- The product of two elements, NaN of either going through. -/
def productTerm (a b : FVal) : FVal :=
  if isNan a then a else if isNan b then b else
    match a, b with
    | .num s m e, .num t n g => .num (s != t) (m * n) (e + g)
    | _, _ => .inf (signBit a != signBit b)

/-- Zero times infinity. -/
def neverProduct (a b : FVal) : Bool := (isInf a && isZero b) || (isZero a && isInf b)

/-- Three finite terms added and rounded once. -/
def sumOfTerms (t₀ t₁ t₂ : FVal) : Nat × FpFlags :=
  match t₀, t₁, t₂ with
  | .num s₀ m₀ e₀, .num s₁ m₁ e₁, .num s₂ m₂ e₂ =>
    let v := addExact s₀ m₀ e₀ s₁ m₁ e₁
    let w := addExact (decide (v.1 < 0)) v.1.natAbs v.2 s₂ m₂ e₂
    roundInt .f32 .rne (s₀ && s₁ && s₂) w.1 w.2
  | _, _, _ => (canonNan .f32, flagNV)

/-- An infinity of a sign. -/
def infOf (s : Bool) (t : FVal) : Bool := isInf t && (signBit t == s)

theorem hdp2F_eq (f : FFmt) (a₀ b₀ a₁ b₁ c : Nat) : hdp2F f a₀ b₀ a₁ b₁ c =
    let xs := [unpackF .f32 c, unpackF f a₀, unpackF f b₀, unpackF f a₁, unpackF f b₁]
    let t₀ := productTerm (unpackF f a₀) (unpackF f b₀)
    let t₁ := productTerm (unpackF f a₁) (unpackF f b₁)
    let ts := [t₀, t₁, unpackF .f32 c]
    if neverProduct (unpackF f a₀) (unpackF f b₀) || neverProduct (unpackF f a₁) (unpackF f b₁) || (ts.any (infOf false) && ts.any (infOf true)) then
      (canonNan .f32, flagNV)
    else if xs.any isNan then (canonNan .f32, flagIf (xs.any isSnan) flagNV)
    else if ts.any (infOf false) || ts.any (infOf true) then (infBits .f32 (ts.any (infOf true)), 0)
    else sumOfTerms t₀ t₁ (unpackF .f32 c) := by
  have hpos : infOf false = fun t => isInf t && !signBit t := by funext t; cases h : signBit t <;> simp [infOf, h]
  have hneg : infOf true = fun t => isInf t && signBit t := by funext t; cases h : signBit t <;> simp [infOf, h]
  unfold hdp2F
  rw [hpos, hneg]
  generalize unpackF f a₀ = x₀
  generalize unpackF f b₀ = y₀
  generalize unpackF f a₁ = x₁
  generalize unpackF f b₁ = y₁
  generalize unpackF .f32 c = z
  have hsum : ∀ t₀ t₁ : FVal, sumOfTerms t₀ t₁ z = (match [t₀, t₁, z] with
      | [.num s₀ m₀ e₀, .num s₁ m₁ e₁, .num s₂ m₂ e₂] =>
        let v := addExact s₀ m₀ e₀ s₁ m₁ e₁
        let w := addExact (decide (v.1 < 0)) v.1.natAbs v.2 s₂ m₂ e₂
        roundInt .f32 .rne (s₀ && s₁ && s₂) w.1 w.2
      | _ => (canonNan .f32, flagNV)) := fun t₀ t₁ => by
    cases t₀ <;> cases t₁ <;> cases z <;> rfl
  dsimp only
  rw [hsum]
  rfl

/-! ## What the terms are -/

theorem neverProduct_unpackF (f : FFmt) (x y : Nat) : neverProduct (unpackF f x) (unpackF f y) = true ↔
    infinite f x = true ∧ zero f y = true ∨ zero f x = true ∧ infinite f y = true := by
  simp [neverProduct]

theorem infOf_unpackF {s : Bool} (h : nan f x = false) : infOf s (unpackF f x) = true ↔ infinite f x = true ∧ negative f x = s := by
  simp [infOf, signBit_unpackF h]

theorem productTerm_finite (hx : finite f x = true) (hy : finite f y = true) :
    ∃ m e, productTerm (unpackF f x) (unpackF f y) = .num (negative f x != negative f y) m e ∧
      (signedVal (negative f x != negative f y) m : ℚ) * 2 ^ e = value f x * value f y := by
  obtain ⟨m, e, hr, hv, -⟩ := unpackF_value hx
  obtain ⟨n, g, hr', hv', -⟩ := unpackF_value hy
  exact ⟨m * n, e + g, by rw [hr, hr']; rfl, by rw [hv, hv', signedVal_product]⟩

theorem productTerm_infinite (hx : nan f x = false) (hy : nan f y = false) (h : infinite f x = true ∨ infinite f y = true) :
    productTerm (unpackF f x) (unpackF f y) = .inf (negative f x != negative f y) := by
  unfold productTerm
  simp only [isNan_unpackF, hx, hy, Bool.false_eq_true, if_false, signBit_unpackF hx, signBit_unpackF hy]
  rcases h with h | h
  · rw [unpackF_infinite h]
  · rw [unpackF_infinite h]
    cases unpackF f x <;> rfl

/-- The product of two numbers is infinite where one of them is, with the product's sign. -/
theorem infOf_productTerm {s : Bool} (hx : nan f x = false) (hy : nan f y = false) : infOf s (productTerm (unpackF f x) (unpackF f y)) = true ↔
    (negative f x != negative f y) = s ∧ (infinite f x = true ∨ infinite f y = true) := by
  by_cases h : infinite f x = true ∨ infinite f y = true
  · rw [productTerm_infinite hx hy h]
    simp [infOf, isInf, signBit, h]
  · rw [not_or, Bool.not_eq_true, Bool.not_eq_true] at h
    obtain ⟨m, e, hr, -⟩ := productTerm_finite (finite_of_kinds hx h.1) (finite_of_kinds hy h.2)
    rw [hr]
    simp [infOf, isInf, h]

theorem finite_of_not_infOf (hx : nan f x = false) (hy : nan f y = false) (h : ∀ s, infOf s (productTerm (unpackF f x) (unpackF f y)) = false) :
    finite f x = true ∧ finite f y = true := by
  have h' := h (negative f x != negative f y)
  rw [← Bool.not_eq_true, infOf_productTerm hx hy] at h'
  simp only [true_and, not_or, Bool.not_eq_true] at h'
  exact ⟨finite_of_kinds hx h'.1, finite_of_kinds hy h'.2⟩

/-- Three finite terms are added exactly and rounded once. -/
theorem roundsTo_sumOfTerms (s₀ s₁ s₂ : Bool) (m₀ m₁ m₂ : Nat) (e₀ e₁ e₂ : ℤ) : RoundsTo .f32 .rne (s₀ && s₁ && s₂)
    (signedVal s₀ m₀ * 2 ^ e₀ + signedVal s₁ m₁ * 2 ^ e₁ + signedVal s₂ m₂ * 2 ^ e₂)
    (sumOfTerms (.num s₀ m₀ e₀) (.num s₁ m₁ e₁) (.num s₂ m₂ e₂)) := by
  have hv := addExact_eq s₀ m₀ e₀ s₁ m₁ e₁
  rw [sumOfTerms, ← hv]
  generalize addExact s₀ m₀ e₀ s₁ m₁ e₁ = v
  have hw := addExact_eq (decide (v.1 < 0)) v.1.natAbs v.2 s₂ m₂ e₂
  rw [signedVal_natAbs] at hw
  rw [← hw]
  exact roundsTo_roundInt ..

/-! ## The dot product -/

theorem hdp2F_dot (f : FFmt) (a₀ b₀ a₁ b₁ c : Nat) : DotOf f [a₀, a₁] [b₀, b₁] c (hdp2F f a₀ b₀ a₁ b₁ c) := by
  have hnever₀ := neverProduct_unpackF f a₀ b₀
  have hnever₁ := neverProduct_unpackF f a₁ b₁
  rw [hdp2F_eq]
  unfold DotOf
  simp only [List.getD_cons_zero, List.getD_cons_succ, canonNan_eq_quiet, ← hnever₀, ← hnever₁]
  refine ⟨fun h => ?never, fun h₀ h₁ ⟨ha₀, hb₀, ha₁, hb₁, hc⟩ => ?numbers, fun h => ?nans⟩
  case never =>
    rw [if_pos]
    rw [Bool.or_eq_true, Bool.or_eq_true]
    exact .inl h
  case nans =>
    split
    · exact ⟨rfl, .inr rfl, fun _ => rfl⟩
    · have hany : [unpackF .f32 c, unpackF f a₀, unpackF f b₀, unpackF f a₁, unpackF f b₁].any isNan = true := by
        simp only [List.any_cons, isNan_unpackF, List.any_nil, Bool.or_false, Bool.or_eq_true]
        by_contra hn
        simp only [not_or, Bool.not_eq_true] at hn
        exact h ⟨hn.2.1, hn.2.2.1, hn.2.2.2.1, hn.2.2.2.2, hn.1⟩
      rw [if_pos hany]
      refine ⟨rfl, ?_, fun hs => ?_⟩
      · unfold flagIf
        split
        · exact .inr rfl
        · exact .inl rfl
      · refine if_pos ?_
        simp only [List.any_cons, List.any_nil, Bool.or_false, Bool.or_eq_true, isSnan_unpackF] at hs ⊢
        exact hs.symm
  case numbers =>
    have hany : [unpackF .f32 c, unpackF f a₀, unpackF f b₀, unpackF f a₁, unpackF f b₁].any isNan = false := by
      simp [ha₀, hb₀, ha₁, hb₁, hc]
    have hendless : ∀ s, [productTerm (unpackF f a₀) (unpackF f b₀), productTerm (unpackF f a₁) (unpackF f b₁), unpackF .f32 c].any (infOf s) = true ↔
        (∃ e < 2, (negative f ([a₀, a₁].getD e 0) != negative f ([b₀, b₁].getD e 0)) = s ∧
          (infinite f ([a₀, a₁].getD e 0) = true ∨ infinite f ([b₀, b₁].getD e 0) = true)) ∨ infinite .f32 c = true ∧ negative .f32 c = s := fun s => by
      simp only [List.any_cons, List.any_nil, Bool.or_false, Bool.or_eq_true, infOf_productTerm ha₀ hb₀, infOf_productTerm ha₁ hb₁, infOf_unpackF hc,
        ← or_assoc]
      refine or_congr_left ⟨?_, ?_⟩
      · rintro (h | h)
        · exact ⟨0, by decide, h⟩
        · exact ⟨1, by decide, h⟩
      · rintro ⟨e, he, h⟩
        interval_cases e
        · exact .inl h
        · exact .inr h
    rw [Bool.not_eq_true] at h₀ h₁
    simp only [← hendless, hany, h₀, h₁, Bool.false_or, Bool.false_eq_true, if_false, Bool.and_eq_true, Bool.or_eq_true, Bool.not_eq_true]
    refine ⟨fun hn hp => if_pos ⟨hp, hn⟩, fun s hs hns => ?_, fun hn hp => ?_⟩
    · cases s
      · rw [if_neg (by simp_all), if_pos (.inl hs), infBits_eq_infinity]
        simp_all
      · rw [if_neg (by simp_all), if_pos (.inr hs), infBits_eq_infinity, hs]
    · rw [if_neg (by simp_all), if_neg (by simp_all)]
      have hnone : ∀ s, infOf s (productTerm (unpackF f a₀) (unpackF f b₀)) = false ∧
          infOf s (productTerm (unpackF f a₁) (unpackF f b₁)) = false ∧ infOf s (unpackF .f32 c) = false := fun s => by
        cases s
        · simpa using hp
        · simpa using hn
      obtain ⟨hfa₀, hfb₀⟩ := finite_of_not_infOf ha₀ hb₀ fun s => (hnone s).1
      obtain ⟨hfa₁, hfb₁⟩ := finite_of_not_infOf ha₁ hb₁ fun s => (hnone s).2.1
      have hic : infinite .f32 c = false := by
        have h := (hnone (negative .f32 c)).2.2
        rw [← Bool.not_eq_true, infOf_unpackF hc] at h
        simpa using h
      obtain ⟨m₀, e₀, hr₀, hv₀⟩ := productTerm_finite hfa₀ hfb₀
      obtain ⟨m₁, e₁, hr₁, hv₁⟩ := productTerm_finite hfa₁ hfb₁
      obtain ⟨m₂, e₂, hr₂, hv₂, -⟩ := unpackF_value (finite_of_kinds hc hic)
      rw [hr₀, hr₁, hr₂, ← hv₀, ← hv₁, hv₂]
      exact roundsTo_sumOfTerms ..

/-- `hdp2` on words (R147). -/
theorem hdp2_value (bf : Bool) (a b c : W32) (d : Nat → Nat) : ∃ o, DotOf (if bf then .bf16 else .f16) [a.toNat % 2 ^ 16, a.toNat / 2 ^ 16]
    [b.toNat % 2 ^ 16, b.toNat / 2 ^ 16] c.toNat o ∧
      aluEval (.hdp2 bf) (word a) (word b) (word c) d = { val := BitVec.ofNat 64 o.1, flags := o.2 } := by
  refine ⟨_, hdp2F_dot (if bf then .bf16 else .f16) _ _ _ _ _, ?_⟩
  have hlow : ∀ v : W32, el16 (word v) 0 = v.toNat % 2 ^ 16 := fun v => by rw [el16, word_toNat, Nat.mul_zero, pow_zero, Nat.div_one]
  have hhigh : ∀ v : W32, el16 (word v) 1 = v.toNat / 2 ^ 16 := fun v => by
    rw [el16, word_toNat]
    exact Nat.mod_eq_of_lt (Nat.div_lt_of_lt_mul v.isLt)
  simp only [aluEval, hlow, hhigh, word_toNat, Nat.mod_eq_of_lt c.isLt]
  rfl

end Sys2Proof.Machine

/-! SUPPORT. Rounding by a draw (R71). -/

namespace Sys2Proof.Machine

open Sys2Proof.Say

variable {f : FFmt} {s : Bool} {m p q u : Nat} {e : ℤ}

/-! ## Values and magnitudes -/

/-- A value is a magnitude, or lies between two of them. -/
theorem exact_or_between (f : FFmt) (hm : m ≠ 0) (e : ℤ) :
    (∃ p, magnitude f p = m * 2 ^ e) ∨ ∃ p, magnitude f p < m * 2 ^ e ∧ (m : ℚ) * 2 ^ e < magnitude f (p + 1) := by
  rcases neighbours_of_chosen (chosen_picked (f := f) (rm := .rz) (s := false) (e := e) hm) with h | ⟨a, hlo, hhi, -⟩
  · exact .inl ⟨_, (cmp_eq_eq_iff _ _).mp h⟩
  · exact .inr ⟨a, (cmp_eq_lt_iff _ _).mp hlo, (cmp_eq_gt_iff _ _).mp hhi⟩

/-- It does not do both, -/
theorem not_magnitude_of_between {x : ℚ} (hlo : magnitude f p < x) (hhi : x < magnitude f (p + 1)) (q : Nat) : magnitude f q ≠ x := by
  rintro rfl
  rw [magnitude_lt_iff] at hlo hhi
  omega

/-- and the two are its own. -/
theorem between_unique {x : ℚ} (hlo : magnitude f p < x) (hhi : x < magnitude f (p + 1)) (hlo' : magnitude f q < x) (hhi' : x < magnitude f (q + 1)) :
    p = q := by
  have h := magnitude_lt_iff.mp (hlo.trans hhi')
  have h' := magnitude_lt_iff.mp (hlo'.trans hhi)
  omega

/-- A value in units of a greater exponent: whole ones, and a part of one. -/
theorem value_in_units (m k : Nat) (e : ℤ) : (m : ℚ) * 2 ^ e = ((m / 2 ^ k : ℕ) + (m % 2 ^ k : ℕ) / 2 ^ k) * 2 ^ ((k : ℤ) + e) := by
  have hdm : ((2 ^ k * (m / 2 ^ k) + m % 2 ^ k : ℕ) : ℚ) = m := by rw [Nat.div_add_mod]
  rw [zpow_add₀ (by norm_num), zpow_natCast]
  conv_lhs => rw [← hdm]
  push_cast
  field_simp

/-- The whole units of a value at its rounding exponent. -/
def wholeUnits (f : FFmt) (m : Nat) (e : ℤ) : Nat := m / 2 ^ (roundExp f m e - e).toNat
def partUnit (f : FFmt) (m : Nat) (e : ℤ) : Nat := m % 2 ^ (roundExp f m e - e).toNat

theorem units_eq (h : e < roundExp f m e) :
    (m : ℚ) * 2 ^ e = (wholeUnits f m e + partUnit f m e / 2 ^ (roundExp f m e - e).toNat) * 2 ^ roundExp f m e := by
  have hunits := value_in_units m (roundExp f m e - e).toNat e
  rwa [show ((roundExp f m e - e).toNat : ℤ) + e = roundExp f m e by omega] at hunits

theorem partUnit_lt (f : FFmt) (m : Nat) (e : ℤ) : partUnit f m e < 2 ^ (roundExp f m e - e).toNat := Nat.mod_lt m (by positivity)

/-- The whole units lie at or below the value, and one more above it. -/
theorem wholeUnits_spec (hm : m ≠ 0) (h : e < roundExp f m e) : InBinade f (wholeUnits f m e) (binadeOf f m e) ∧
    (partUnit f m e ≠ 0 → magnitude f (binade f (wholeUnits f m e) (binadeOf f m e)) < m * 2 ^ e) ∧
      (m : ℚ) * 2 ^ e < magnitude f (binade f (wholeUnits f m e) (binadeOf f m e) + 1) := by
  have hpos : (0 : ℚ) < 2 ^ roundExp f m e := by positivity
  have hk : (0 : ℚ) < 2 ^ (roundExp f m e - e).toNat := by positivity
  have hr : (partUnit f m e : ℚ) / 2 ^ (roundExp f m e - e).toNat < 1 := by
    rw [div_lt_one hk]
    exact_mod_cast partUnit_lt f m e
  have hr0 : (0 : ℚ) ≤ (partUnit f m e : ℚ) / 2 ^ (roundExp f m e - e).toNat := by positivity
  have hlt : (m : ℚ) * 2 ^ e < (wholeUnits f m e + 1 : ℕ) * 2 ^ roundExp f m e := by
    rw [units_eq h]
    exact mul_lt_mul_of_pos_right (by push_cast; linarith) hpos
  have hb : InBinade f (wholeUnits f m e) (binadeOf f m e) := by
    refine inBinade_of_le hm ?_ hlt
    rw [units_eq h]
    exact mul_le_mul_of_nonneg_right (by linarith) hpos.le
  refine ⟨hb, fun hpart => ?_, (magnitude_succ hb).symm ▸ hlt⟩
  rw [magnitude_binade hb.significand, units_eq h]
  refine mul_lt_mul_of_pos_right ?_ hpos
  have : (0 : ℚ) < (partUnit f m e : ℚ) / 2 ^ (roundExp f m e - e).toNat := div_pos (by exact_mod_cast Nat.pos_of_ne_zero hpart) hk
  linarith

/-- A value that is a whole number of units is a magnitude. -/
theorem magnitude_of_le_unit (hm : m ≠ 0) (h : roundExp f m e ≤ e) : ∃ q, magnitude f q = m * 2 ^ e := by
  have hmul : (m : ℚ) * 2 ^ e = (m * 2 ^ (e - roundExp f m e).toNat : ℕ) * 2 ^ roundExp f m e := by
    have he : e = ((e - roundExp f m e).toNat : ℤ) + roundExp f m e := by omega
    conv_lhs => rw [he, zpow_add₀ (by norm_num), zpow_natCast]
    push_cast
    ring
  have hb := inBinade_of_le hm hmul.ge (by rw [hmul]; gcongr; exact Nat.lt_succ_self _)
  exact ⟨_, (magnitude_binade hb.significand).trans hmul.symm⟩

theorem magnitude_of_partUnit (hm : m ≠ 0) (h : e < roundExp f m e) (h0 : partUnit f m e = 0) : ∃ q, magnitude f q = m * 2 ^ e := by
  refine ⟨_, (magnitude_binade (wholeUnits_spec hm h).1.significand).trans ?_⟩
  rw [units_eq h, h0]
  simp [roundExp]

/-- Between two magnitudes the unit is greater than the value's own, and a part of one is left. -/
theorem units_of_between (hm : m ≠ 0) (hlo : magnitude f p < m * 2 ^ e) (hhi : (m : ℚ) * 2 ^ e < magnitude f (p + 1)) :
    e < roundExp f m e ∧ partUnit f m e ≠ 0 ∧ InBinade f (wholeUnits f m e) (binadeOf f m e) ∧ binade f (wholeUnits f m e) (binadeOf f m e) = p := by
  have hexp : e < roundExp f m e := by
    by_contra hle
    obtain ⟨q, hq⟩ := magnitude_of_le_unit hm (not_lt.mp hle)
    exact not_magnitude_of_between hlo hhi q hq
  have hpart : partUnit f m e ≠ 0 := fun h0 => by
    obtain ⟨q, hq⟩ := magnitude_of_partUnit hm hexp h0
    exact not_magnitude_of_between hlo hhi q hq
  obtain ⟨hb, hbelow, habove⟩ := wholeUnits_spec hm hexp
  exact ⟨hexp, hpart, hb, between_unique (hbelow hpart) habove hlo hhi⟩

/-! ## The draw's choice -/

/-- `roundSr`, its tests named. -/
theorem roundSr_eq (f : FFmt) (u : Nat) (s : Bool) (m : Nat) (e : ℤ) : ∃ tiny, roundSr f u s m e =
    if roundExp f m e ≤ e then roundF f .rne s m e
    else if exceeds f (wholeUnits f m e) (roundExp f m e) ∨
        partUnit f m e ≠ 0 ∧ packExact f false (wholeUnits f m e) (roundExp f m e) = maxBits f false then roundF f .rne s m e
    else if partUnit f m e = 0 then roundF f .rne s m e
    else (packExact f s (pickSr u s m e (roundExp f m e)) (roundExp f m e), flagNX ||| flagIf tiny flagUF) := by
  refine ⟨decide (log2Nat m + e < eMin f) && !(decide (log2Nat m + e = eMin f - 1) &&
    decide (pickSr u s m e (log2Nat m + e - fracBits f) = 2 ^ (fracBits f + 1))), ?_⟩
  unfold roundSr wholeUnits partUnit
  rw [roundExp_eq]
  dsimp only
  refine if_congr Iff.rfl rfl (if_congr ?_ rfl rfl)
  simp only [Bool.or_eq_true, Bool.and_eq_true, decide_eq_true_eq]
  tauto

/-- A magnitude is rounded to itself whatever the draw. -/
theorem roundSr_of_exact (hm : m ≠ 0) (h : magnitude f p = m * 2 ^ e) : roundSr f u s m e = roundF f .rne s m e := by
  obtain ⟨tiny, hr⟩ := roundSr_eq f u s m e
  rw [hr]
  split_ifs with h1 h2 h3
  · rfl
  · rfl
  · rfl
  · obtain ⟨-, hbelow, habove⟩ := wholeUnits_spec hm (not_le.mp h1)
    exact absurd h (not_magnitude_of_between (hbelow h3) habove p)

/-- Beyond the finite numbers no draw is taken. -/
theorem roundSr_of_overflow (hm : m ≠ 0) (h : magnitude f (largest f) < m * 2 ^ e) : roundSr f u s m e = roundF f .rne s m e := by
  obtain ⟨tiny, hr⟩ := roundSr_eq f u s m e
  rw [hr]
  split_ifs with h1 h2 h3
  · rfl
  · rfl
  · rfl
  · obtain ⟨hb, -, habove⟩ := wholeUnits_spec hm (not_le.mp h1)
    have hle := magnitude_lt_iff.mp (h.trans habove)
    rw [not_or, roundExp, exceeds_iff hb.significand, packExact_eq hb.significand, maxBits_eq] at h2
    simp only [signed, Bool.false_eq_true, if_false, Nat.zero_add] at h2
    obtain ⟨h2, h2'⟩ := h2
    exact absurd ⟨h3, by omega⟩ h2'

/-- Whether the draw `u` takes the upper neighbour of the signed value. -/
def drawUp (f : FFmt) (u : Nat) (s : Bool) (m : Nat) (e : ℤ) : Bool :=
  let k := (roundExp f m e - e).toNat
  decide (u < (if s then 2 ^ k - partUnit f m e else partUnit f m e) * 2 ^ 24 / 2 ^ k)

theorem pickSr_eq (h : e < roundExp f m e) (hpart : partUnit f m e ≠ 0) :
    pickSr u s m e (roundExp f m e) = wholeUnits f m e + if drawUp f u s m e = s then 0 else 1 := by
  have hpart' : m % 2 ^ (roundExp f m e - e).toNat ≠ 0 := hpart
  rw [pickSr, if_neg (not_le.mpr h)]
  simp only [hpart', ne_eq, not_false_eq_true, decide_true, Bool.true_and]
  refine congrArg (wholeUnits f m e + ·) ?_
  unfold drawUp partUnit
  cases s
  · simp only [Bool.false_eq_true, if_false, decide_eq_true_eq, decide_eq_false_iff_not, ite_not]
  · simp only [if_true, Bool.not_eq_true', decide_eq_true_eq, decide_eq_false_iff_not, ite_not]

/-- Between two finite magnitudes the draw takes the one or the other. -/
theorem roundSr_of_between (hm : m ≠ 0) (hlo : magnitude f p < m * 2 ^ e) (hhi : (m : ℚ) * 2 ^ e < magnitude f (p + 1)) (hp : p < largest f) :
    ∃ tiny, roundSr f u s m e = (signed f s (if drawUp f u s m e = s then p else p + 1), flagNX ||| flagIf tiny flagUF) := by
  obtain ⟨tiny, hr⟩ := roundSr_eq f u s m e
  obtain ⟨h1, h3, hb, hbin⟩ := units_of_between hm hlo hhi
  have hover := exceeds_iff hb.significand
  have hpack := packExact_eq hb.significand false
  have hsucc : Significand f (wholeUnits f m e + 1) (binadeOf f m e) := ⟨hb.1, hb.2.imp_right (Nat.le_succ_of_le ·)⟩
  rw [hbin] at hover hpack
  refine ⟨tiny, ?_⟩
  rw [hr, if_neg (not_le.mpr h1), if_neg, if_neg h3]
  · refine congrArg (·, flagNX ||| flagIf tiny flagUF) ?_
    rw [pickSr_eq h1 h3]
    split
    · rw [Nat.add_zero, roundExp, packExact_eq hb.significand, hbin]
    · rw [roundExp, packExact_eq hsucc, ← hbin]
      exact congrArg (signed f s) (by unfold binade; ring)
  · rw [not_or, roundExp, hover, hpack, maxBits_eq]
    simp only [signed, Bool.false_eq_true, if_false, Nat.zero_add]
    exact ⟨by omega, fun h => by omega⟩

/-- The draw's test is that of R71: the place of the signed value between its neighbours, in units of `2^-24`. -/
theorem drawUp_iff (hm : m ≠ 0) (hlo : magnitude f p < m * 2 ^ e) (hhi : (m : ℚ) * 2 ^ e < magnitude f (p + 1)) :
    let x : ℚ := signedVal s m * 2 ^ e
    let a := if x < 0 then -magnitude f (p + 1) else magnitude f p
    let b := if x < 0 then -magnitude f p else magnitude f (p + 1)
    drawUp f u s m e = true ↔ (u : ℤ) < ⌊(x - a) / (b - a) * 2 ^ 24⌋ := by
  intro x a b
  obtain ⟨h1, -, hb, hbin⟩ := units_of_between hm hlo hhi
  have hneg : (signedVal s m : ℚ) * 2 ^ e < 0 ↔ s = true := by
    rw [← decide_eq_true_iff (p := (signedVal s m : ℚ) * 2 ^ e < 0), decide_signedVal_neg hm]
  have hpos : (2 : ℚ) ^ roundExp f m e ≠ 0 := by positivity
  have hk : (2 : ℚ) ^ (roundExp f m e - e).toNat ≠ 0 := by positivity
  have hplace : (x - a) / (b - a) = ((if s then 2 ^ (roundExp f m e - e).toNat - partUnit f m e else partUnit f m e : ℕ) : ℚ) /
      (2 ^ (roundExp f m e - e).toNat : ℕ) := by
    have hp : magnitude f p = wholeUnits f m e * 2 ^ roundExp f m e := hbin ▸ magnitude_binade hb.significand
    have hp' : magnitude f (p + 1) = (wholeUnits f m e + 1) * 2 ^ roundExp f m e := by
      rw [← hbin, magnitude_succ hb]; push_cast; rfl
    have hlt := (partUnit_lt f m e).le
    simp only [x, a, b, hneg]
    cases s
    · simp only [hp, hp', signedVal, Bool.false_eq_true, if_false, Int.cast_natCast]
      rw [units_eq h1]
      push_cast
      field_simp
      ring
    · simp only [hp, hp', signedVal, if_true, Int.cast_neg, Int.cast_natCast, neg_mul]
      rw [units_eq h1]
      push_cast [Nat.cast_sub hlt]
      field_simp
      ring
  rw [hplace, drawUp, decide_eq_true_eq]
  generalize (if s then 2 ^ (roundExp f m e - e).toNat - partUnit f m e else partUnit f m e) = r
  generalize 2 ^ (roundExp f m e - e).toNat = n
  have hfloor : ⌊(r : ℚ) / n * 2 ^ 24⌋ = (r * 2 ^ 24 / n : ℕ) := by
    rw [show (r : ℚ) / n * 2 ^ 24 = (r * 2 ^ 24 : ℕ) / n by push_cast; ring]
    exact Rat.floor_natCast_div_natCast _ _
  rw [hfloor, Nat.cast_lt]

/-- `roundSr` rounds by the draw as R71 says. -/
theorem drawn_roundSr (hm : m ≠ 0) : Drawn f u (signedVal s m * 2 ^ e) (roundSr f u s m e) := by
  have hneg := decide_signedVal_neg (s := s) hm e
  unfold Drawn
  rw [abs_signedVal, hneg]
  refine ⟨fun h => ?_, fun p hp h => ?_, fun q hq hlo hhi => ?_⟩
  · rw [roundSr_of_overflow hm h]
    exact rounds_roundF f .rne s hm e
  · rw [roundSr_of_exact hm h, roundF_exact hm h hp]
  · have hup := drawUp_iff (u := u) (s := s) hm hlo hhi
    obtain ⟨tiny, hr⟩ := roundSr_of_between (u := u) (s := s) hm hlo hhi hq
    have hflag : (flagNX ||| flagIf tiny flagUF) &&& ~~~flagUF = flagNX := by cases tiny <;> rfl
    dsimp only at hup ⊢
    rw [hr]
    refine ⟨congrArg (signed f s) (if_congr ?_ rfl rfl), hflag⟩
    rw [← hup, ← decide_eq_true_iff (p := (signedVal s m : ℚ) * 2 ^ e < 0), hneg, Bool.eq_iff_iff]

end Sys2Proof.Machine

/-! SUPPORT. Conversions to a floating-point format (R136 to R138): the source element, the value rounded, and the destination element. -/

namespace Sys2Proof.Machine

open Sys2Proof.Say

variable {f : FFmt} {s : Bool} {m p u : Nat} {e : ℤ}

/-! ## Patterns are no wider than their format -/

theorem largest_lt (f : FFmt) : largest f < 2 ^ (expBits f + fracBits f) := by cases f <;> decide

theorem signed_lt (s : Bool) (h : p < 2 ^ (expBits f + fracBits f)) : signed f s p < 2 ^ fmtWidth f := by
  have hw : 2 ^ fmtWidth f = 2 ^ (expBits f + fracBits f) + 2 ^ (expBits f + fracBits f) := by
    rw [← two_mul, ← pow_succ']; congr 1; unfold fmtWidth; omega
  cases s
  · simp only [signed, Bool.false_eq_true, if_false]; omega
  · simp only [signed, if_true]; omega

theorem infinity_lt (f : FFmt) (s : Bool) : infinity f s < 2 ^ fmtWidth f := signed_lt s (by cases f <;> decide)

theorem quiet_lt (f : FFmt) : quiet f < 2 ^ fmtWidth f := by cases f <;> decide

theorem overflowBits_lt (f : FFmt) (rm : Round) (s : Bool) : overflowBits f rm s < 2 ^ fmtWidth f := by
  have hinf := infBits_eq_infinity f s ▸ infinity_lt f s
  have hmax := maxBits_eq f s ▸ signed_lt s (largest_lt f)
  cases rm
  case rne => exact hinf
  case rz => exact hmax
  case rd => cases s; exacts [hmax, hinf]
  case ru => cases s; exacts [hinf, hmax]

theorem roundF_lt (f : FFmt) (rm : Round) (s : Bool) (hm : m ≠ 0) (e : ℤ) : (roundF f rm s m e).1 < 2 ^ fmtWidth f := by
  rw [roundF_eq hm]
  split
  · exact overflowBits_lt f rm s
  · next h => exact signed_lt s ((Nat.not_lt.mp h).trans_lt (largest_lt f))

theorem roundSr_lt (f : FFmt) (u : Nat) (s : Bool) (hm : m ≠ 0) (e : ℤ) : (roundSr f u s m e).1 < 2 ^ fmtWidth f := by
  rcases exact_or_between f hm e with ⟨p, hp⟩ | ⟨p, hlo, hhi⟩
  · rw [roundSr_of_exact hm hp]; exact roundF_lt f .rne s hm e
  · rcases Nat.lt_or_ge p (largest f) with h | h
    · obtain ⟨tiny, hr⟩ := roundSr_of_between (u := u) (s := s) hm hlo hhi h
      rw [hr]
      refine signed_lt s (lt_of_le_of_lt ?_ (largest_lt f))
      split
      · exact h.le
      · exact h
    · rw [roundSr_of_overflow hm ((magnitude_le_iff.mpr h).trans_lt hlo)]; exact roundF_lt f .rne s hm e

/-- A conversion's result is a pattern of its format. -/
theorem cvtF_lt (f : FFmt) (rm : CvtRound) (u : Nat) (a : FVal) : (cvtF f rm u a).1 < 2 ^ fmtWidth f := by
  cases a with
  | nan => rw [cvtF, canonNan_eq_quiet]; exact quiet_lt f
  | inf s => rw [cvtF, infBits_eq_infinity]; exact infinity_lt f s
  | num s m e =>
    rw [cvtF]
    split
    · rw [signOf_eq_signed]; exact signed_lt s (by positivity)
    · next hm =>
      cases rm with
      | det r => exact roundF_lt f r s hm e
      | sr => exact roundSr_lt f u s hm e

/-! ## The value converted -/

/-- A number is rounded once, by the mode or by the draw. -/
theorem converts_cvtF (f : FFmt) (rm : CvtRound) (u : Nat) (s : Bool) (m : Nat) (e : ℤ) {z : Bool} (hz : m = 0 → z = s) :
    Converts f rm u z (signedVal s m * 2 ^ e) (cvtF f rm u (.num s m e)) := by
  have hzero : (signedVal s m : ℚ) * 2 ^ e = 0 ↔ m = 0 := by
    rw [mul_eq_zero, or_iff_left (by positivity), Int.cast_eq_zero, signedVal_eq_zero]
  refine ⟨fun h => ?_, fun h => ?_⟩
  · rw [hzero] at h
    rw [cvtF, if_pos h, hz h, signOf_eq_signed]
  · rw [Ne, hzero] at h
    rw [cvtF, if_neg h]
    cases rm with
    | det r => exact rounds_roundF f r s h e
    | sr => exact drawn_roundSr h

/-! ## The source -/

/-- A pattern is read from its own bits alone. -/
theorem unpackF_mod (f : FFmt) (x : Nat) : unpackF f (x % 2 ^ (1 + expBits f + fracBits f)) = unpackF f x := by
  have hmag : mags f (x % 2 ^ (1 + expBits f + fracBits f)) = mags f x :=
    Nat.mod_mod_of_dvd _ (pow_dvd_pow 2 (by omega))
  have hneg : negative f (x % 2 ^ (1 + expBits f + fracBits f)) = negative f x := by
    rw [negative, negative, show 1 + expBits f + fracBits f = expBits f + fracBits f + 1 by omega, pow_succ, Nat.mod_mul_right_div_self,
      Nat.mod_mod]
  rw [unpackF_eq, unpackF_eq, hmag, hneg]

/-- A floating-point source is read as the pattern of its element. -/
theorem srcVal_float {st : SType} {g : FFmt} (h : floatOf st = some g) (sel : Nat) (a : W64) :
    srcVal st (cvtSource st sel a) = unpackF g (elementOf st sel a) := by
  have hwhole : ∀ g : FFmt, unpackF g (a.toNat % 2 ^ (1 + expBits g + fracBits g)) = unpackF g a.toNat := fun g => unpackF_mod g _
  cases st <;> cases h
  case f32 => exact (hwhole .f32).symm
  case f64 => exact (hwhole .f64).symm
  all_goals rfl

/-- An element is the low bits of what the model takes from the source. -/
theorem elementOf_eq (st : SType) (sel : Nat) (a : W64) : elementOf st sel a = cvtSource st sel a % 2 ^ widthOf st := by
  cases st
  case f16 | bf16 | e4m3 | e5m2 | s16 | z16 | s8 | z8 => exact (Nat.mod_mod _ _).symm
  case f32 | f64 | s32 | z32 | s64 | z64 => rfl

/-- The integer of an element. -/
theorem low_elementOf (st : SType) (sel : Nat) (a : W64) : low (widthOf st) (unsigned st) (BitVec.ofNat 64 (elementOf st sel a)) =
    if unsigned st then ((cvtSource st sel a % 2 ^ widthOf st : Nat) : ℤ) else toSigned (widthOf st) (cvtSource st sel a) := by
  have hw : 0 < widthOf st ∧ 2 ^ widthOf st ≤ 2 ^ 64 := by cases st <;> decide
  have hlt : cvtSource st sel a % 2 ^ widthOf st < 2 ^ 64 := (Nat.mod_lt _ (by positivity)).trans_le hw.2
  rw [← readInt_eq_low _ _ _ hw.1, readInt, elementOf_eq, BitVec.toNat_ofNat, Nat.mod_eq_of_lt hlt]
  simp only [toSigned, Nat.mod_mod]

/-- An integer source is read as the integer of its element. -/
theorem srcVal_integer {st : SType} (h : floatOf st = none) (sel : Nat) (a : W64) :
    let n := low (widthOf st) (unsigned st) (BitVec.ofNat 64 (elementOf st sel a))
    srcVal st (cvtSource st sel a) = .num (decide (n < 0)) n.natAbs 0 := by
  intro n
  have hn : n = _ := low_elementOf st sel a
  rw [hn]
  generalize cvtSource st sel a = x
  cases st <;> cases h <;> rfl

/-- A conversion of the chosen element of a source. -/
theorem cvtF_convertsFrom {st : SType} (f : FFmt) (rm : CvtRound) (u sel : Nat) (a : W64) :
    ConvertsFrom st f rm u (elementOf st sel a) (cvtF f rm u (srcVal st (cvtSource st sel a))) := by
  unfold ConvertsFrom
  cases h : floatOf st with
  | none =>
    have hsrc := srcVal_integer h sel a
    dsimp only at hsrc ⊢
    generalize low (widthOf st) (unsigned st) (BitVec.ofNat 64 (elementOf st sel a)) = n at *
    have hvalue : (n : ℚ) = signedVal (decide (n < 0)) n.natAbs * 2 ^ (0 : ℤ) := by rw [signedVal_natAbs, zpow_zero, mul_one]
    rw [hsrc, hvalue]
    exact converts_cvtF f rm u _ _ _ fun h0 => by simp [Int.natAbs_eq_zero.mp h0]
  | some g =>
    rw [srcVal_float h]
    generalize elementOf st sel a = x
    refine ⟨fun hx => ?_, fun hx => ?_, fun hx => ?_⟩
    · rw [unpackF_nan hx, cvtF, canonNan_eq_quiet]
      simp [flagIf, invalid]
    · rw [unpackF_infinite hx, cvtF, infBits_eq_infinity]
    · obtain ⟨m, e, hr, hv, -⟩ := unpackF_value hx
      rw [hr, hv]
      exact converts_cvtF f rm u _ _ _ fun _ => rfl

/-! ## The destination -/

/-- A word with `r` in place of its element `sel` of `w` bits. -/
def insertElement (w sel o r : Nat) : Nat := o - o / 2 ^ (w * sel) % 2 ^ w * 2 ^ (w * sel) + r * 2 ^ (w * sel)

theorem insertElement_spec {w sel o r : Nat} (hw : w = 8 ∨ w = 16) (hsel : sel < 32 / w) (ho : o < 2 ^ 32) (hr : r < 2 ^ w) :
    insertElement w sel o r < 2 ^ 32 ∧
      ∀ e < 32 / w, insertElement w sel o r / 2 ^ (w * e) % 2 ^ w = if e = sel then r else o / 2 ^ (w * e) % 2 ^ w := by
  unfold insertElement
  rcases hw with rfl | rfl
  · interval_cases sel
    all_goals
      refine ⟨by omega, fun e he => ?_⟩
      interval_cases e <;> simp <;> omega
  · interval_cases sel
    all_goals
      refine ⟨by omega, fun e he => ?_⟩
      interval_cases e <;> simp <;> omega

/-- The formats of less than 32 bits lie packed in a word (R137). -/
theorem packed_formats (f : FFmt) (h : 1 + expBits f + fracBits f < 32) : fmtWidth f = 8 ∨ fmtWidth f = 16 := by
  cases f <;> simp [fmtWidth, expBits, fracBits] at h ⊢

theorem cvtInsert_wide (f : FFmt) (sel : Nat) (old : W64) (r : Nat) (h : 32 ≤ 1 + expBits f + fracBits f) : cvtInsert f sel old r = BitVec.ofNat 64 r := by
  cases f
  case f32 | f64 => rfl
  all_goals exact absurd h (by decide)

theorem cvtInsert_packed (f : FFmt) (sel : Nat) (old : W64) (r : Nat) (h : 1 + expBits f + fracBits f < 32) :
    cvtInsert f sel old r = BitVec.ofNat 64 (insertElement (fmtWidth f) sel (old.toNat % 2 ^ 32) r) := by
  cases f
  case f32 | f64 => exact absurd h (by decide)
  all_goals rfl

theorem cvtPacked_eq (f : FFmt) : cvtPacked f = decide (1 + expBits f + fracBits f < 32) := by cases f <;> rfl

/-- An element of the low word is an element of the whole. -/
theorem element_of_low {w e : Nat} (hw : w = 8 ∨ w = 16) (he : e < 32 / w) (v : Nat) : v % 2 ^ 32 / 2 ^ (w * e) % 2 ^ w = v / 2 ^ (w * e) % 2 ^ w := by
  have h : w * e + w ≤ 32 := by rcases hw with rfl | rfl <;> omega
  rw [show 2 ^ 32 = 2 ^ (w * e) * 2 ^ (32 - w * e) by rw [← pow_add]; congr 1; omega, Nat.mod_mul_right_div_self,
    Nat.mod_mod_of_dvd _ (pow_dvd_pow 2 (by omega))]

/-- A conversion's result in its destination (R137). -/
theorem cvtF_result (f : FFmt) (sel : BitVec 2) (st : SType) (rm : CvtRound) (a b c : W64) (d : Nat → Nat) :
    let w := 1 + expBits f + fracBits f
    let r := cvtF f rm (d (if w < 32 then sel.toNat else 0)) (srcVal st (cvtSource st sel.toNat a))
    let y := aluEval (.cvtF f sel st rm) a b c d
    (w < 32 → sel.toNat < 32 / w) → y.flags = r.2 ∧ (32 ≤ w → y.val = BitVec.ofNat 64 r.1) ∧
      (w < 32 → y.val.toNat < 2 ^ 32 ∧ ∀ e, e < 32 / w → y.val.toNat / 2 ^ (w * e) % 2 ^ w =
        if e = sel.toNat then r.1 else c.toNat / 2 ^ (w * e) % 2 ^ w) := by
  intro w r y hsel
  have hy : y = { val := cvtInsert f sel.toNat c r.1, flags := r.2 } := by
    simp only [y, r, aluEval, cvtPacked_eq, decide_eq_true_eq, w]
  rw [hy]
  refine ⟨rfl, cvtInsert_wide f _ c _, fun hw => ?_⟩
  have hpacked := packed_formats f hw
  have hr : r.1 < 2 ^ w := cvtF_lt ..
  obtain ⟨hlt, hel⟩ := insertElement_spec hpacked (hsel hw) (Nat.mod_lt c.toNat (by decide : 0 < 2 ^ 32)) hr
  have hval : (cvtInsert f sel.toNat c r.1).toNat = insertElement w sel.toNat (c.toNat % 2 ^ 32) r.1 := by
    rw [cvtInsert_packed f _ c _ hw, BitVec.toNat_ofNat]
    exact Nat.mod_eq_of_lt (hlt.trans (by decide))
  rw [hval]
  refine ⟨hlt, fun e he => ?_⟩
  exact (hel e he).trans (if_congr Iff.rfl rfl (element_of_low hpacked he c.toNat))

end Sys2Proof.Machine

/-! SUPPORT. Conversions to an integer type (R136, R139). -/

namespace Sys2Proof.Machine

open Sys2Proof.Say

variable {rm : Round} {s : Bool} {m n : Nat} {e : ℤ}

theorem signedVal_value (s : Bool) (m : Nat) (e : ℤ) : (signedVal s m : ℚ) * 2 ^ e = if s then -((m : ℚ) * 2 ^ e) else (m : ℚ) * 2 ^ e := by
  cases s <;> simp [signedVal]

theorem signedVal_cast (s : Bool) (n : Nat) : ((signedVal s n : ℤ) : ℚ) = if s then -(n : ℚ) else n := by cases s <;> simp [signedVal]

/-- An integer is rounded to itself. -/
theorem whole_of_int (rm : Round) (v : ℤ) : Whole rm v v := by
  cases rm
  case rne => left; simp
  case rz => simp [Whole]
  case rd => simp [Whole]
  case ru => simp [Whole]

/-- The multiple of 1 that a mode chooses for a magnitude is, with the sign, what it makes of the value. -/
theorem whole_of_nearest {X : ℚ} (h0 : 0 < X) (h : Nearest rm s X 1 n) : Whole rm (if s then -X else X) (signedVal s n) := by
  obtain ⟨a, hlo, hhi, hn⟩ := h
  rw [mul_one] at hlo hhi
  push_cast at hhi
  have hfloor : ⌊X⌋ = a := Int.floor_eq_iff.mpr ⟨by exact_mod_cast hlo.le, by exact_mod_cast hhi⟩
  have hceil : ⌈X⌉ = a + 1 := Int.ceil_eq_iff.mpr ⟨by push_cast; linarith, by push_cast; linarith⟩
  have hneg : ¬ X < 0 := not_lt.mpr h0.le
  cases rm
  case rz => cases s <;> simp [Whole, signedVal, hfloor, hneg, h0, Int.ceil_neg, hn]
  case rd => cases s <;> simp_all [Whole, signedVal, Int.floor_neg]
  case ru => cases s <;> simp_all [Whole, signedVal, Int.ceil_neg]
  case rne =>
    have hparity : ∀ k : Nat, k % 2 = 0 → signedVal s k % 2 = 0 := fun k hk => by cases s <;> simp only [signedVal, if_true, Bool.false_eq_true, if_false] <;> omega
    have hdist : |(if s then -X else X) - (signedVal s n : ℚ)| = |X - n| := by
      rw [signedVal_cast]
      cases s
      · rfl
      · rw [if_pos rfl, if_pos rfl, ← abs_neg]; congr 1; ring
    unfold Whole
    rw [hdist]
    push_cast at hn
    rcases lt_trichotomy ((a * 1 + (a + 1) * 1) / 2 : ℚ) X with hc | hc | hc
    · rw [(cmp_eq_lt_iff _ _).mpr hc] at hn
      subst hn
      left
      rw [abs_lt]; push_cast; constructor <;> linarith
    · rw [(cmp_eq_eq_iff _ _).mpr hc] at hn
      refine .inr ⟨?_, hparity n hn.1⟩
      rcases hn.2 with rfl | rfl
      · rw [abs_of_pos (by linarith)]; linarith
      · rw [abs_of_neg (by push_cast; linarith)]; push_cast; linarith
    · rw [(cmp_eq_gt_iff _ _).mpr hc] at hn
      subst hn
      left
      rw [abs_lt]; constructor <;> linarith

/-- `roundAt` at exponent 0 rounds a value to an integer, -/
theorem whole_roundAt (rm : Round) (s : Bool) (m : Nat) (e : ℤ) : Whole rm (signedVal s m * 2 ^ e) (signedVal s (roundAt rm s m e 0).1) := by
  have hspec := roundAt_spec rm s m e 0
  rw [zpow_zero] at hspec
  rw [signedVal_value]
  rcases hspec with ⟨-, hx⟩ | ⟨-, hn⟩
  · rw [hx, mul_one, ← signedVal_cast]
    exact whole_of_int ..
  · have hn' := hn
    obtain ⟨a, hlo, -⟩ := hn'
    exact whole_of_nearest (lt_of_le_of_lt (by positivity) hlo) hn

/-- and says whether the value is one. -/
theorem roundAt_whole_exact (rm : Round) (s : Bool) (m : Nat) (e : ℤ) :
    (roundAt rm s m e 0).2 = true ↔ ((signedVal s (roundAt rm s m e 0).1 : ℤ) : ℚ) = signedVal s m * 2 ^ e := by
  have hspec := roundAt_spec rm s m e 0
  have heq : ((signedVal s (roundAt rm s m e 0).1 : ℤ) : ℚ) = signedVal s m * 2 ^ e ↔ (m : ℚ) * 2 ^ e = (roundAt rm s m e 0).1 := by
    rw [signedVal_value, signedVal_cast, eq_comm]
    cases s
    · exact Iff.rfl
    · exact neg_inj
  rw [heq]
  rw [zpow_zero, mul_one] at hspec
  rcases hspec with ⟨hex, hx⟩ | ⟨hex, hn⟩
  · exact ⟨fun _ => hx, fun _ => hex⟩
  · obtain ⟨a, hlo, hhi, hor⟩ := hn.neighbours
    rw [hex]
    refine ⟨fun h => (nomatch h), fun h => ?_⟩
    rw [h, mul_one, Nat.cast_lt] at hlo hhi
    omega

/-- A conversion to an integer type (R139). -/
theorem cvtToInt_toInteger (f : FFmt) (dt : DType) (rm : Round) (x : Nat) :
    ToInteger f dt rm x (cvtToInt (destOf dt).1 (!(destOf dt).2) rm (unpackF f x)) := by
  unfold ToInteger
  generalize (destOf dt).1 = w
  generalize (destOf dt).2 = uns
  have hlo : (if (!uns) = true then -2 ^ (w - 1) else 0 : ℤ) = if uns = true then 0 else -2 ^ (w - 1) := by cases uns <;> rfl
  have hhi : (if (!uns) = true then 2 ^ (w - 1) - 1 else 2 ^ w - 1 : ℤ) = if uns = true then 2 ^ w - 1 else 2 ^ (w - 1) - 1 := by cases uns <;> rfl
  unfold cvtToInt
  rw [hlo, hhi]
  refine ⟨fun h => ?_, fun h => ?_, fun h => ?_⟩
  · rw [unpackF_nan h]
  · rw [unpackF_infinite h]
  · obtain ⟨m, e, hr, hv, -⟩ := unpackF_value h
    rw [hr, hv]
    refine ⟨_, whole_roundAt rm (negative f x) m e, ?_⟩
    dsimp only
    have hflag : flagIf (!(roundAt rm (negative f x) m e 0).2) flagNX =
        if ((signedVal (negative f x) (roundAt rm (negative f x) m e 0).1 : ℤ) : ℚ) = signedVal (negative f x) m * 2 ^ e then 0 else flagNX := by
      simp only [← roundAt_whole_exact]
      cases (roundAt rm (negative f x) m e 0).2 <;> rfl
    rw [hflag]

/-- `cvtI` on a pattern. -/
theorem cvtI_value (dt : DType) (f64 : Bool) (rm : Round) (a b c : W64) (d : Nat → Nat) : let f : FFmt := if f64 then .f64 else .f32
    ∃ o, ToInteger f dt rm (a.toNat % 2 ^ (1 + expBits f + fracBits f)) o ∧
      aluEval (.cvtI dt f64 rm) a b c d = { val := if (destOf dt).1 = 64 then BitVec.ofInt 64 o.1 else word (BitVec.ofInt 32 o.1), flags := o.2 } := by
  intro f
  refine ⟨_, cvtToInt_toInteger f dt rm _, ?_⟩
  have hwide : ∀ v : ℤ, bitsOfInt 64 v = BitVec.ofInt 64 v := fun v => bitsOfInt_eq 64 v
  have hword : ∀ v : ℤ, bitsOfInt 32 v = word (BitVec.ofInt 32 v) := fun v => bitsOfInt_eq 32 v
  simp only [aluEval, hwide, hword]
  cases dt <;> rfl

end Sys2Proof.Machine

/-! SUPPORT. QN4 codes under a block scale (R74, R140, R141). -/

namespace Sys2Proof.Machine

open Sys2Proof.Say

variable {rm : CvtRound} {u k : Nat} {x : ℤ} {v : Nat → ℤ}

/-! ## Choosing a code, on integers -/

/-- The code next above `k` or `k` itself, for a value `x` between those of both. -/
def codeBetween (rm : CvtRound) (u : Nat) (x : ℤ) (v : Nat → ℤ) (k : Nat) : Nat :=
  match rm with
  | .det .rne => if 2 * x < v k + v (k + 1) then k else if v k + v (k + 1) < 2 * x then k + 1 else if k % 2 = 0 then k else k + 1
  | .det .rz => if k < 7 then k + 1 else k
  | .det .rd => k
  | .det .ru => k + 1
  | .sr => if (u : ℤ) < (x - v k) * 2 ^ 24 / (v (k + 1) - v k) then k + 1 else k

/-- The code of `x` where those of the codes are `v`. -/
def codeOf (rm : CvtRound) (u : Nat) (x : ℤ) (v : Nat → ℤ) : Nat × FpFlags :=
  if v 15 < x then (15, flagOF ||| flagNX)
  else if x < v 0 then (0, flagOF ||| flagNX)
  else
    match (List.range 16).find? (fun k => v k = x) with
    | some k => (k, 0)
    | none => (codeBetween rm u x v (((List.range 15).filter (fun k => v k < x)).length - 1), flagNX)

/-- The values of the codes rise. -/
def Rising (v : Nat → ℤ) : Prop := ∀ i j, i < j → j < 16 → v i < v j

theorem codeOf_above (h : v 15 < x) : codeOf rm u x v = (15, flagOF ||| flagNX) := if_pos h

theorem codeOf_below (hv : Rising v) (h : x < v 0) : codeOf rm u x v = (0, flagOF ||| flagNX) := by
  have := hv 0 15 (by decide) (by decide)
  rw [codeOf, if_neg (by omega), if_pos h]

theorem Rising.le (hv : Rising v) {i j : Nat} (h : i ≤ j) (hj : j < 16) : v i ≤ v j := by
  rcases h.lt_or_eq with h | rfl
  · exact (hv i j h hj).le
  · exact le_rfl

/-- The values of all codes lie from the first to the last. -/
theorem Rising.bounds (hv : Rising v) (hk : k < 16) : v 0 ≤ v k ∧ v k ≤ v 15 := ⟨hv.le (Nat.zero_le _) hk, hv.le (by omega) (by decide)⟩

theorem Rising.lt_iff (hv : Rising v) {i j : Nat} (hi : i < 16) (hj : j < 16) : v i < v j ↔ i < j := by
  refine ⟨fun h => ?_, fun h => hv i j h hj⟩
  by_contra hle
  rcases Nat.lt_or_ge j i with hji | hji
  · have := hv j i hji hi; omega
  · obtain rfl : i = j := by omega
    omega

/-- A value of a code has that code. -/
theorem codeOf_exact (hv : Rising v) (hk : k < 16) (h : x = v k) : codeOf rm u x v = (k, 0) := by
  obtain ⟨hlo, hhi⟩ := hv.bounds hk
  have hfind : (List.range 16).find? (fun i => v i = x) = some k := by
    rw [List.find?_range_eq_some]
    refine ⟨by simpa using h.symm, by simpa using hk, fun j hj => ?_⟩
    have := hv j k hj hk
    simp
    omega
  rw [codeOf, if_neg (by omega), if_neg (by omega), hfind]

theorem length_filter_range {k : Nat} (hk : k < 15) : ((List.range 15).filter fun i => decide (i < k + 1)).length = k + 1 := by
  interval_cases k <;> rfl

/-- A value between those of two codes takes the one or the other. -/
theorem codeOf_between (hv : Rising v) (hk : k < 15) (hlo : v k < x) (hhi : x < v (k + 1)) :
    codeOf rm u x v = (codeBetween rm u x v k, flagNX) := by
  have h0 := (hv.bounds (k := k) (by omega)).1
  have h15 := (hv.bounds (k := k + 1) (by omega)).2
  have hbelow : ∀ i < 16, v i < x ↔ i < k + 1 := fun i hi => by
    constructor
    · intro h
      exact (hv.lt_iff hi (by omega)).mp (h.trans hhi)
    · intro h
      exact (hv.le (by omega) (by omega)).trans_lt hlo
  have hfind : (List.range 16).find? (fun i => v i = x) = none := by
    rw [List.find?_eq_none]
    intro i hi he
    rw [List.mem_range] at hi
    rw [decide_eq_true_eq] at he
    have h1 := (hv.lt_iff (i := k) (j := i) (by omega) hi).mp (by omega)
    have h2 := (hv.lt_iff (i := i) (j := k + 1) hi (by omega)).mp (by omega)
    omega
  have hfilter : (List.range 15).filter (fun i => v i < x) = (List.range 15).filter fun i => decide (i < k + 1) := by
    refine List.filter_congr fun i hi => ?_
    rw [List.mem_range] at hi
    exact decide_eq_decide.mpr (hbelow i (by omega))
  rw [codeOf, if_neg (by omega), if_neg (by omega), hfind, hfilter, length_filter_range hk, Nat.add_sub_cancel]

/-! ## Codes and values -/

theorem getD_codes {k : Nat} (hk : k < 16) : codes.getD k 0 = qn4Code k := by interval_cases k <;> rfl

theorem qn4Code_rising : Rising qn4Code := by
  intro i j hij hj
  interval_cases j <;> interval_cases i <;> decide

/-- The values of the codes in units of `2^t`, under a block scale `m * 2^e`. -/
def codeUnits (m : Nat) (e t : ℤ) (k : Nat) : ℤ := qn4Code k * m * 2 ^ (e - 8 - t).toNat

theorem codeUnits_rising {m : Nat} (hm : m ≠ 0) (e t : ℤ) : Rising (codeUnits m e t) := fun i j hij hj => by
  have hpos : (0 : ℤ) < m := by exact_mod_cast Nat.pos_of_ne_zero hm
  have := qn4Code_rising i j hij hj
  unfold codeUnits
  gcongr

theorem codeUnits_value (m : Nat) {e t : ℤ} (ht : t ≤ e - 8) (hk : k < 16) :
    (codes.getD k 0 : ℚ) / 256 * (m * 2 ^ e) = codeUnits m e t k * 2 ^ t := by
  have h := signedVal_rescale (s := false) (m := m) ht
  simp only [signedVal, Bool.false_eq_true, if_false, Int.cast_mul, Int.cast_natCast] at h
  rw [getD_codes hk, codeUnits, Int.mul_assoc, Int.cast_mul, Int.cast_mul, Int.cast_natCast, mul_assoc, h, zpow_sub₀ (by norm_num)]
  norm_num
  ring

/-- The model's choice, the scale and the value read. -/
theorem toQn4_numbers {sb x m n : Nat} {e g : ℤ} {s : Bool} (hs : unpackF .f32 sb = .num false m e) (hx : unpackF .f32 x = .num s n g)
    (hm : m ≠ 0) : toQn4 rm u x sb = codeOf rm u (signedVal s n * 2 ^ (g - min g (e - 8)).toNat) (codeUnits m e (min g (e - 8))) := by
  unfold toQn4
  rw [hs, hx]
  simp only [hm, if_false]
  rfl

/-- Between two codes the modes of R140 choose as `codeBetween` does. -/
theorem codeBetween_spec (rm : CvtRound) (u : Nat) {y lo hi : ℚ} {t : ℤ} (hy : y = x * 2 ^ t) (hlo : lo = v k * 2 ^ t)
    (hhi : hi = v (k + 1) * 2 ^ t) (hlt : v k < v (k + 1)) :
    match rm with
      | .det .rne => let m := (lo + hi) / 2
        (y < m → codeBetween rm u x v k = k) ∧ (m < y → codeBetween rm u x v k = k + 1) ∧
          (y = m → codeBetween rm u x v k % 2 = 0 ∧ (codeBetween rm u x v k = k ∨ codeBetween rm u x v k = k + 1))
      | .det .rz => codeBetween rm u x v k = if k < 7 then k + 1 else k
      | .det .rd => codeBetween rm u x v k = k
      | .det .ru => codeBetween rm u x v k = k + 1
      | .sr => codeBetween rm u x v k = if (u : ℤ) < ⌊(y - lo) / (hi - lo) * 2 ^ 24⌋ then k + 1 else k := by
  have hpos : (0 : ℚ) < 2 ^ t := by positivity
  cases rm with
  | sr =>
    have hd : (0 : ℤ) < v (k + 1) - v k := by omega
    have hplace : (y - lo) / (hi - lo) * 2 ^ 24 = ((x - v k) * 2 ^ 24 : ℤ) / ((v (k + 1) - v k).toNat : ℕ) := by
      have hcast : (((v (k + 1) - v k).toNat : ℕ) : ℚ) = v (k + 1) - v k := by
        rw [← Int.cast_natCast, Int.toNat_of_nonneg hd.le]; push_cast; rfl
      have hne : (v (k + 1) - v k : ℚ) ≠ 0 := by exact_mod_cast hd.ne'
      have hne' : (v (k + 1) * 2 ^ t - v k * 2 ^ t : ℚ) ≠ 0 := by rw [← sub_mul]; positivity
      rw [hcast, hy, hlo, hhi]
      push_cast
      field_simp
      norm_num
    dsimp only
    rw [hplace, Rat.floor_intCast_div_natCast, Int.toNat_of_nonneg hd.le]
    rfl
  | det r =>
    cases r
    case rz => rfl
    case rd => rfl
    case ru => rfl
    case rne =>
      have hm : (lo + hi) / 2 = ((v k + v (k + 1) : ℤ) : ℚ) / 2 * 2 ^ t := by rw [hlo, hhi]; push_cast; ring
      have hlt' : y < (lo + hi) / 2 ↔ 2 * x < v k + v (k + 1) := by
        rw [hm, hy, mul_lt_mul_iff_left₀ hpos, lt_div_iff₀ (by norm_num), ← Int.cast_lt (R := ℚ)]; push_cast; rw [mul_comm]
      have hgt' : (lo + hi) / 2 < y ↔ v k + v (k + 1) < 2 * x := by
        rw [hm, hy, mul_lt_mul_iff_left₀ hpos, div_lt_iff₀ (by norm_num), ← Int.cast_lt (R := ℚ)]; push_cast; rw [mul_comm]
      have heq' : y = (lo + hi) / 2 ↔ ¬ 2 * x < v k + v (k + 1) ∧ ¬ v k + v (k + 1) < 2 * x := by
        rw [← hlt', ← hgt', not_lt, not_lt, and_comm]; exact le_antisymm_iff
      dsimp only
      rw [hlt', hgt', heq']
      simp only [codeBetween]
      refine ⟨fun h => if_pos h, fun h => ?_, fun ⟨h, h'⟩ => ?_⟩
      · rw [if_neg (by omega), if_pos h]
      · rw [if_neg h, if_neg h']
        split <;> omega

/-- Quantisation of a pattern under a block scale (R140). -/
theorem toQn4_quantises (rm : CvtRound) (u x sb : Nat) : Quantises rm u x sb (toQn4 rm u x sb) := by
  unfold Quantises
  refine ⟨fun h => ?bad, fun ⟨hs, hn, hz⟩ hx => ?infinite, fun ⟨hs, hn, hz⟩ hx => ?number⟩
  case bad =>
    have hflag : ∀ b : Bool, flagIf b flagNV ||| flagNV = flagNV := fun b => by cases b <;> rfl
    unfold toQn4
    rcases kinds .f32 sb with hs | hs | hs
    · obtain ⟨m, e, hr, hv, -⟩ := unpackF_value hs
      rw [hr]
      cases hn : negative .f32 sb
      · by_cases hm : m = 0
        · simp only [hm, if_true, hflag]
        · have hz : zero .f32 sb = false := by
            rw [← isZero_unpackF, hr]
            exact decide_eq_false hm
          have hnan : nan .f32 x = true := h.resolve_left (not_not.mpr ⟨hs, hn, hz⟩)
          rw [unpackF_nan hnan]
          simp only [hm, if_false, hflag]
      · simp only [hflag]
    · rw [unpackF_infinite hs]
      simp only [hflag]
    · rw [unpackF_nan hs]
      simp only [hflag]
  all_goals
    obtain ⟨m, e, hr, hv, -⟩ := unpackF_value hs
    rw [hn] at hr hv
    have hm : m ≠ 0 := by
      rw [← isZero_unpackF, hr] at hz
      exact of_decide_eq_false hz
  case infinite =>
    unfold toQn4
    rw [hr, unpackF_infinite hx]
    simp only [hm, if_false]
  case number =>
    obtain ⟨n, g, hr', hv', -⟩ := unpackF_value hx
    rw [toQn4_numbers hr hr' hm, hv, hv', ← signedVal_rescale (min_le_left g (e - 8))]
    have hrising := codeUnits_rising hm e (min g (e - 8))
    have hunits : ∀ k < 16, (codes.getD k 0 : ℚ) / 256 * (signedVal false m * 2 ^ e) = codeUnits m e (min g (e - 8)) k * 2 ^ min g (e - 8) :=
      fun k hk => codeUnits_value m (min_le_right _ _) hk
    have hpos : (0 : ℚ) < 2 ^ min g (e - 8) := by positivity
    generalize signedVal (negative .f32 x) n * 2 ^ (g - min g (e - 8)).toNat = X
    generalize codeUnits m e (min g (e - 8)) = V at *
    generalize min g (e - 8) = t at *
    dsimp only
    refine ⟨fun h => ?_, fun h => ?_, fun k hk h => ?_, fun k hk hlo hhi => ?_⟩
    · rw [hunits 15 (by decide), mul_lt_mul_iff_left₀ hpos, Int.cast_lt] at h
      exact codeOf_above h
    · rw [hunits 0 (by decide), mul_lt_mul_iff_left₀ hpos, Int.cast_lt] at h
      exact codeOf_below hrising h
    · rw [hunits k hk, mul_left_inj' hpos.ne', Int.cast_inj] at h
      exact codeOf_exact hrising hk h
    · have hk' := hunits k (by omega)
      have hk'' := hunits (k + 1) (by omega)
      have hlo' := hlo
      have hhi' := hhi
      rw [hk', mul_lt_mul_iff_left₀ hpos, Int.cast_lt] at hlo'
      rw [hk'', mul_lt_mul_iff_left₀ hpos, Int.cast_lt] at hhi'
      rw [codeOf_between hrising hk hlo' hhi']
      exact ⟨rfl, codeBetween_spec rm u rfl hk' hk'' (hrising k (k + 1) (Nat.lt_succ_self k) (by omega))⟩

/-! ## From a code to FP32 -/

/-- A number times a pattern. -/
theorem mulF_number (f : FFmt) (rm : Round) (s : Bool) (m : Nat) (e : ℤ) (x : Nat) :
    (nan f x = true → mulF f rm (.num s m e) (unpackF f x) = (quiet f, invalid f [x])) ∧
    (infinite f x = true → mulF f rm (.num s m e) (unpackF f x) = if m = 0 then (quiet f, flagNV) else (infinity f (s != negative f x), 0)) ∧
    (finite f x = true → RoundsTo f rm (s != negative f x) (signedVal s m * 2 ^ e * value f x) (mulF f rm (.num s m e) (unpackF f x))) := by
  refine ⟨fun h => ?_, fun h => ?_, fun h => ?_⟩
  · rw [unpackF_nan h]
    simp [mulF, isNan, isSnan, flagIf, invalid]
  · rw [unpackF_infinite h]
    by_cases hm : m = 0
    · simp [mulF, isNan, isInf, isZero, hm]
    · simp [mulF, isNan, isInf, isZero, hm, signBit, infBits_eq_infinity]
  · obtain ⟨n, g, hr, hv, -⟩ := unpackF_value h
    have hmul : mulF f rm (.num s m e) (.num (negative f x) n g) =
        numberProduct f rm (s != negative f x) (.num s m e) (.num (negative f x) n g) := by
      simp [mulF, isNan, isInf, signBit, numberProduct]
    rw [hr, hv, ← signedVal_product, hmul]
    exact roundsTo_numberProduct ..

/-- A code is read as its value. -/
theorem qn4Val_eq {k : Nat} (hk : k < 16) : qn4Val k = .num (decide (k < 7)) (codes.getD k 0).natAbs (-8) ∧
    (signedVal (decide (k < 7)) (codes.getD k 0).natAbs = codes.getD k 0) ∧ ((codes.getD k 0).natAbs = 0 ↔ k = 7) := by
  interval_cases k <;> decide

/-- The FP32 value of a code under a block scale (R141). -/
theorem ofQn4_dequantises (rm : Round) (k sb : Nat) : Dequantises rm (k % 16) sb (ofQn4 rm k sb) := by
  obtain ⟨hread, hvalue, hzero⟩ := qn4Val_eq (Nat.mod_lt k (by decide : 0 < 16))
  obtain ⟨hnan, hinf, hfin⟩ := mulF_number .f32 rm (decide (k % 16 < 7)) (codes.getD (k % 16) 0).natAbs (-8) sb
  unfold Dequantises ofQn4
  rw [hread]
  refine ⟨hnan, fun h => (hinf h).trans (if_congr hzero rfl rfl), fun h => ?_⟩
  have hcode : (codes.getD (k % 16) 0 : ℚ) / 256 = signedVal (decide (k % 16 < 7)) (codes.getD (k % 16) 0).natAbs * 2 ^ (-8 : ℤ) := by
    rw [hvalue]; norm_num; ring
  rw [hcode]
  exact hfin h

/-- The QN4 conversions on words. -/
theorem qn4_values (a b : W32) (c : W64) (d : Nat → Nat) :
    (∀ rm, ∃ o, Quantises rm (d 0) a.toNat b.toNat o ∧ aluEval (.toQn4 rm) (word a) (word b) c d = { val := BitVec.ofNat 64 o.1, flags := o.2 }) ∧
    (∀ rm, ∃ o, Dequantises rm (a.toNat % 16) b.toNat o ∧ aluEval (.ofQn4 rm) (word a) (word b) c d = { val := BitVec.ofNat 64 o.1, flags := o.2 }) := by
  refine ⟨fun rm => ⟨_, toQn4_quantises rm (d 0) a.toNat b.toNat, ?_⟩, fun rm => ⟨_, ofQn4_dequantises rm a.toNat b.toNat, ?_⟩⟩
  · simp only [aluEval, word_toNat, Nat.mod_eq_of_lt a.isLt, Nat.mod_eq_of_lt b.isLt]; rfl
  · simp only [aluEval, word_toNat, Nat.mod_eq_of_lt b.isLt]; rfl

end Sys2Proof.Machine

namespace Sys2Proof.Proofs

open Sys2Proof.Machine Sys2Proof.Say

/-- Settles O36: a conversion rounds the value of its source element once, a code is the one whose value is chosen, a permute is made
of its four bytes, and a dot product is the exact sum. -/
theorem permuteAndDotValues : Obligations.PermuteAndDotValues := by
  refine ⟨fun f sel st rm a b c d _ => ?toFormat, fun dt f64 rm a b c d => cvtI_value dt f64 rm a b c d, fun a b c d => qn4_values a b c d,
    fun bf a b c d => hdp2_value bf a b c d, fun a b sl d i hi => ?permute, fun a b c d sg => ⟨dp4_value a b c d sg, dp2_value a b c d sg⟩⟩
  case toFormat =>
    intro w y at_ hsel _
    obtain ⟨hflags, hwide, hpacked⟩ := cvtF_result f sel st rm a b c d hsel
    exact ⟨_, cvtF_convertsFrom f rm _ sel.toNat a, hflags, hwide, hpacked⟩
  case permute =>
    intro x y
    have hlt := bselEval_lt a.toNat b.toNat sl.toNat
    have hval : (aluEval .bsel (word a) (word b) (word sl) d).val.toNat = bselEval a.toNat b.toNat sl.toNat := by
      rw [aluEval_bsel, BitVec.toNat_ofNat]
      exact Nat.mod_eq_of_lt (hlt.trans (by decide))
    refine ⟨by rw [aluEval_bsel], hval ▸ hlt, ?_⟩
    have hy : y = BitVec.ofNat 8 (selectedByte a.toNat b.toNat sl.toNat i) := bsel_bytes a b sl d hi
    have hx : BitVec.ofNat 8 (joinedByte a.toNat b.toNat (sl.toNat / 2 ^ (8 * i) % 8)) = x := ofNat_joinedByte ..
    rw [hy, ← hx]
    exact alteredByte_spec _ (joinedByte_lt ..)

end Sys2Proof.Proofs

/-! SUPPORT. `exp2` and `log2` (R142, R143): exact where the value is, inexact elsewhere. -/

namespace Sys2Proof.Machine

open Sys2Proof.Say

variable {f : FFmt} {rm : Round} {s : Bool} {m : Nat} {e : ℤ}

/-! ## Rounding beyond the range -/

/-- A value at or beyond the power of two that follows the finite numbers overflows. -/
theorem roundF_overflow (he : f ≠ .e4m3) (hm : m ≠ 0) (h : (2 : ℚ) ^ (2 ^ expBits f - 1 - expBias f : ℤ) ≤ m * 2 ^ e) :
    roundF f rm s m e = (overflowBits f rm s, flagOF ||| flagNX) := by
  rw [← magnitude_largest_succ he] at h
  rw [roundF_eq hm, if_pos (Nat.lt_of_succ_le (le_of_chosen (chosen_picked hm) h))]

/-- `2^n` beyond FP32. -/
theorem rounds_pow_overflow {n : ℤ} (hn : 128 ≤ n) : Rounds .f32 .rne (2 ^ n) (infBits .f32 false, flagOF ||| flagNX) := by
  have h := rounds_roundF .f32 .rne false one_ne_zero n
  rw [roundF_overflow (f := .f32) (by decide) one_ne_zero] at h
  · simpa [signedVal, overflowBits] using h
  · rw [Nat.cast_one, one_mul]
    exact zpow_le_zpow_right₀ (by norm_num) hn

/-- Far below the format one tiny value is rounded as another. -/
theorem rounds_pow_tiny {n : ℤ} (hn : n ≤ -300) : Rounds .f32 .rne (2 ^ n) (roundF .f32 .rne false 1 (-300)) := by
  have hpos : (0 : ℚ) < 2 ^ n := by positivity
  rw [Rounds, decide_eq_false (not_lt.mpr hpos.le), abs_of_pos hpos]
  refine roundsBy_congr (fun k j _ hj => ?_) (roundsBy_roundF .f32 .rne false one_ne_zero (-300))
  rw [Nat.cast_one, one_mul]
  rcases Nat.eq_zero_or_pos k with rfl | hk
  · rw [Nat.cast_zero, zero_mul, (cmp_eq_lt_iff _ _).mpr hpos, cmp_eq_lt_iff]
    positivity
  · have hk' : (1 : ℚ) ≤ k := by exact_mod_cast hk
    have hj' : (-151 : ℤ) ≤ j := hj
    have hpoint : ∀ i : ℤ, i ≤ -300 → cmp ((k : ℚ) * 2 ^ j) (2 ^ i) = .gt := fun i hi => by
      rw [cmp_eq_gt_iff]
      calc (2 : ℚ) ^ i < 2 ^ j := zpow_lt_zpow_right₀ (by norm_num) (by omega)
        _ = 1 * 2 ^ j := (one_mul _).symm
        _ ≤ k * 2 ^ j := by gcongr
    rw [hpoint _ le_rfl, hpoint _ hn]

/-! ## `exp2` -/

theorem le_expGo (x b n k t acc : Nat) : acc ≤ expGo x b n k t acc := by
  induction n generalizing k t acc with
  | zero => exact le_rfl
  | succ n ih => exact (Nat.le_add_right _ _).trans (ih _ _ _)

theorem le_expFix (x : Nat) {b c : Nat} (h : c ≤ b) : 2 ^ c ≤ expFix x b := (Nat.pow_le_pow_right (by decide) h).trans (le_expGo ..)

/-- A sticky bit below a number with enough bits makes a rounding inexact. -/
theorem roundSticky_inexact {n : Nat} (hn : 2 ^ 23 ≤ n) : (roundSticky s n e false).2 &&& flagNX = flagNX :=
  roundF_odd (f := .f32) (by simp) (by simp [fracBits]; omega)

theorem exp2_value (s : Bool) (m : Nat) (he : e < 0) : (signedVal s m : ℚ) * 2 ^ e = signedVal s m / (2 ^ (-e).toNat : ℤ) := by
  obtain ⟨k, rfl⟩ : ∃ k : Nat, e = -k := ⟨(-e).toNat, by omega⟩
  rw [zpow_neg, zpow_natCast, neg_neg, Int.toNat_natCast, div_eq_mul_inv]
  push_cast
  rfl

/-- `exp2` of an integer is exact, of every other number inexact. -/
theorem exp2Val_spec (hm : m ≠ 0) : let v : ℚ := signedVal s m * 2 ^ e
    (∀ n : ℤ, v = n → Rounds .f32 .rne (2 ^ n) (exp2Val s m e)) ∧ ((∀ n : ℤ, v ≠ n) → (exp2Val s m e).2 &&& flagNX = flagNX) := by
  intro v
  have hexact : ∀ n n' : ℤ, v = n → v = n' → Rounds .f32 .rne (2 ^ n) (roundF .f32 .rne false 1 n') := fun n n' h h' => by
    obtain rfl : n = n' := by exact_mod_cast h.symm.trans h'
    simpa [signedVal] using rounds_roundF .f32 .rne false one_ne_zero n
  unfold exp2Val
  rw [if_neg hm]
  by_cases hbig : 12 ≤ (log2Nat m : ℤ) + e
  · rw [if_pos hbig]
    have hmag : (4096 : ℚ) ≤ m * 2 ^ e := by
      refine le_trans ?_ ((zpow_le_value_iff hm e 12).mpr hbig)
      norm_num
    have hv : v = if s then -((m : ℚ) * 2 ^ e) else (m : ℚ) * 2 ^ e := signedVal_value ..
    cases s
    · refine ⟨fun n h => rounds_pow_overflow ?_, fun _ => by decide⟩
      have : (4096 : ℚ) ≤ (n : ℤ) := by rw [← h, hv]; exact hmag
      have : (4096 : ℤ) ≤ n := by exact_mod_cast this
      omega
    · refine ⟨fun n h => rounds_pow_tiny ?_, fun _ => by decide⟩
      have : ((n : ℤ) : ℚ) ≤ -4096 := by rw [← h, hv]; exact neg_le_neg hmag
      have : n ≤ -4096 := by exact_mod_cast this
      omega
  · rw [if_neg hbig]
    dsimp only
    by_cases he : 0 ≤ e
    · have hv : v = (signedVal s m * 2 ^ e.toNat : ℤ) := by
        have := signedVal_rescale (s := s) (m := m) he
        rwa [sub_zero, zpow_zero, mul_one, eq_comm] at this
      rw [if_pos he]
      exact ⟨fun n h => hexact n _ h hv, fun h => absurd hv (h _)⟩
    · have hv : v = signedVal s m / (2 ^ (-e).toNat : ℤ) := exp2_value s m (not_le.mp he)
      have hpos : (0 : ℤ) < 2 ^ (-e).toNat := by positivity
      have hint : ∀ n : ℤ, v = n ↔ signedVal s m = n * 2 ^ (-e).toNat := fun n => by
        rw [hv, div_eq_iff (by exact_mod_cast hpos.ne'), ← Int.cast_mul, Int.cast_inj]
      rw [if_neg he]
      generalize (2 : ℤ) ^ (-e).toNat = d at *
      have hdm := Int.mul_ediv_add_emod (signedVal s m) d
      have hr := Int.emod_nonneg (signedVal s m) hpos.ne'
      by_cases hfr : (signedVal s m - signedVal s m / d * d).toNat = 0
      · have hv' : v = (signedVal s m / d : ℤ) := (hint _).mpr (by rw [mul_comm] at hdm; omega)
        rw [if_pos hfr]
        exact ⟨fun n h => hexact n _ h hv', fun h => absurd hv' (h _)⟩
      · rw [if_neg hfr]
        refine ⟨fun n h => absurd ?_ hfr, fun _ => roundSticky_inexact (le_expFix _ (by decide))⟩
        rw [(hint n).mp h, Int.mul_ediv_cancel _ hpos.ne', sub_self, Int.toNat_zero]

/-! ## `log2` -/

/-- The bits found so far stay the highest. -/
theorem log2Go_bounds (b n y acc : Nat) : acc * 2 ^ n ≤ log2Go b n y acc ∧ log2Go b n y acc + 1 ≤ (acc + 1) * 2 ^ n := by
  induction n generalizing y acc with
  | zero => simp [log2Go]
  | succ n ih =>
    have hpow : ∀ k, k * 2 ^ (n + 1) = (2 * k) * 2 ^ n := fun k => by ring
    have hone : 0 < 2 ^ n := by positivity
    rw [log2Go, hpow, hpow]
    split
    · obtain ⟨hlo, hhi⟩ := ih (y * y / 2 ^ b / 2) (2 * acc + 1)
      exact ⟨le_trans (Nat.mul_le_mul_right _ (by omega)) hlo, hhi.trans (Nat.mul_le_mul_right _ (by omega))⟩
    · obtain ⟨hlo, hhi⟩ := ih (y * y / 2 ^ b) (2 * acc)
      exact ⟨hlo, hhi.trans (Nat.mul_le_mul_right _ (by omega))⟩

/-- Where `y` exceeds 1 by `d`, at least `2^-j`, a bit is set among the first `j + 1`: each squaring doubles `d` at least. -/
theorem log2Go_lower {b n y d j : Nat} (acc : Nat) (hj : j < n) (hd : 2 ^ b ≤ d * 2 ^ j) (hy : 2 ^ b + d ≤ y) :
    acc * 2 ^ n + 2 ^ (n - 1 - j) ≤ log2Go b n y acc := by
  induction n generalizing y d j acc with
  | zero => omega
  | succ n ih =>
    have hb : 0 < 2 ^ b := by positivity
    have hsquare : 2 ^ b + 2 * d ≤ y * y / 2 ^ b := by
      rw [Nat.le_div_iff_mul_le hb]
      calc (2 ^ b + 2 * d) * 2 ^ b ≤ (2 ^ b + d) * (2 ^ b + d) := by nlinarith
        _ ≤ y * y := Nat.mul_le_mul hy hy
    rw [log2Go]
    split
    · refine le_trans ?_ (log2Go_bounds ..).1
      have : 2 ^ (n + 1 - 1 - j) ≤ 2 ^ n := Nat.pow_le_pow_right (by decide) (by omega)
      calc acc * 2 ^ (n + 1) + 2 ^ (n + 1 - 1 - j) ≤ acc * 2 ^ (n + 1) + 2 ^ n := by omega
        _ = (2 * acc + 1) * 2 ^ n := by ring
    · next hbit =>
      have hpow : 2 ^ (b + 1) = 2 * 2 ^ b := by ring
      cases j with
      | zero => omega
      | succ j =>
        have h := ih (d := 2 * d) (j := j) (2 * acc) (by omega) (by rw [pow_succ] at hd; linarith) hsquare
        rw [show n + 1 - 1 - (j + 1) = n - 1 - j by omega]
        calc acc * 2 ^ (n + 1) + 2 ^ (n - 1 - j) = 2 * acc * 2 ^ n + 2 ^ (n - 1 - j) := by ring
          _ ≤ _ := h

/-- Where `y` is below 2 by `d`, more than `(2/3)^j`, a bit is clear among the first `j`: each squaring makes `d` half as large again. -/
theorem log2Go_upper {b n y d j : Nat} (acc : Nat) (hj : j ≤ n) (hd : 2 ^ b * 2 ^ j < 3 ^ j * d) (hlo : 2 ^ b ≤ y) (hy : y + d ≤ 2 ^ (b + 1)) :
    log2Go b n y acc + 2 ^ (n - j) ≤ (acc + 1) * 2 ^ n := by
  have hpow : 2 ^ (b + 1) = 2 * 2 ^ b := by ring
  induction n generalizing y d j acc with
  | zero =>
    obtain rfl : j = 0 := by omega
    omega
  | succ n ih =>
    have hb : 0 < 2 ^ b := by positivity
    cases j with
    | zero => omega
    | succ j =>
      rw [log2Go, show n + 1 - (j + 1) = n - j by omega]
      split
      · next hbit =>
        have hsquare : y * y / 2 ^ b + 3 * d ≤ 4 * 2 ^ b := by
          have h1 : y * y / 2 ^ b * 2 ^ b ≤ y * y := Nat.div_mul_le_self _ _
          have h2 : y * y + 3 * d * 2 ^ b ≤ 4 * 2 ^ b * 2 ^ b := by nlinarith
          have h3 : (y * y / 2 ^ b + 3 * d) * 2 ^ b ≤ 4 * 2 ^ b * 2 ^ b := by linarith
          exact Nat.le_of_mul_le_mul_right h3 hb
        obtain ⟨d', hd'⟩ : ∃ d', y * y / 2 ^ b / 2 + d' = 2 ^ (b + 1) := ⟨_, Nat.add_sub_of_le (by omega)⟩
        have h := ih (d := d') (j := j) (2 * acc + 1) (by omega) ?_ (by omega) hd'.le
        · calc _ ≤ (2 * acc + 1 + 1) * 2 ^ n := h
            _ = (acc + 1) * 2 ^ (n + 1) := by ring
        · have h1 : 3 * d ≤ 2 * d' := by omega
          have h2 : 3 ^ j * (3 * d) ≤ 3 ^ j * (2 * d') := Nat.mul_le_mul_left _ h1
          rw [pow_succ, pow_succ] at hd
          linarith
      · have h := (log2Go_bounds b n (y * y / 2 ^ b) (2 * acc)).2
        have h1 : 2 ^ (n - j) ≤ 2 ^ n := Nat.pow_le_pow_right (by decide) (by omega)
        calc log2Go b n (y * y / 2 ^ b) (2 * acc) + 2 ^ (n - j) ≤ (2 * acc + 1) * 2 ^ n + 2 ^ n := by omega
          _ = (acc + 1) * 2 ^ (n + 1) := by ring

/-- The fraction of the logarithm of a number of at most 24 bits that is no power of two lies well between 0 and 1. -/
theorem log2Go_fraction {b m l : Nat} (hb : l ≤ b) (hl : l ≤ 23) (hlo : 2 ^ l < m) (hhi : m < 2 ^ (l + 1)) :
    2 ^ 104 ≤ log2Go b 128 (m * 2 ^ (b - l)) 0 ∧ log2Go b 128 (m * 2 ^ (b - l)) 0 + 2 ^ 88 ≤ 2 ^ 128 := by
  have hunit : 2 ^ l * 2 ^ (b - l) = 2 ^ b := by rw [← pow_add]; congr 1; omega
  have hbelow : 2 ^ b + 2 ^ (b - l) ≤ m * 2 ^ (b - l) := by
    rw [← hunit, ← Nat.succ_mul]; exact Nat.mul_le_mul_right _ hlo
  have habove : m * 2 ^ (b - l) + 2 ^ (b - l) ≤ 2 ^ (b + 1) := by
    rw [pow_succ', ← hunit, ← Nat.mul_assoc, ← pow_succ', ← Nat.succ_mul]; exact Nat.mul_le_mul_right _ hhi
  constructor
  · have h := log2Go_lower (n := 128) (j := l) 0 (by omega) (by rw [Nat.mul_comm, hunit]) hbelow
    have hbits : 2 ^ 104 ≤ 2 ^ (128 - 1 - l) := Nat.pow_le_pow_right (by decide) (by omega)
    omega
  · have hd : 2 ^ b * 2 ^ 40 < 3 ^ 40 * 2 ^ (b - l) := by
      have h1 : 2 ^ l * 2 ^ 40 < 3 ^ 40 :=
        lt_of_le_of_lt (Nat.mul_le_mul_right _ (Nat.pow_le_pow_right (by decide) hl)) (by norm_num)
      calc 2 ^ b * 2 ^ 40 = 2 ^ l * 2 ^ 40 * 2 ^ (b - l) := by rw [← hunit]; ring
        _ < 3 ^ 40 * 2 ^ (b - l) := Nat.mul_lt_mul_of_pos_right h1 (by positivity)
    have h := log2Go_upper (n := 128) (j := 40) 0 (by omega) hd (by omega) habove
    omega

/-- `log2` of a power of two is exact, of every other number inexact. -/
theorem log2Val_spec (hm : m ≠ 0) (hlt : m < 2 ^ 24) : let v : ℚ := m * 2 ^ e
    (∀ n : ℤ, v = 2 ^ n → RoundsTo .f32 .rne false n (log2Val m e)) ∧ ((∀ n : ℤ, v ≠ 2 ^ n) → (log2Val m e).2 &&& flagNX = flagNX) := by
  intro v
  have hlow : 2 ^ log2Nat m ≤ m := Nat.log2_self_le hm
  have hhigh : m < 2 ^ (log2Nat m + 1) := Nat.lt_log2_self
  have hl : log2Nat m < 24 := (Nat.log2_lt hm).mpr hlt
  have hpower : ∀ n : ℤ, v = 2 ^ n → n = log2Nat m + e ∧ m = 2 ^ log2Nat m := fun n h => by
    have hn : n = log2Nat m + e := by
      refine le_antisymm ((zpow_le_value_iff hm e n).mp h.ge) ?_
      exact (zpow_le_zpow_iff_right₀ (by norm_num : (1 : ℚ) < 2)).mp (h ▸ log2_le_value hm e)
    refine ⟨hn, ?_⟩
    rw [hn, zpow_add₀ (by norm_num), zpow_natCast, mul_left_inj' (by positivity)] at h
    exact_mod_cast h
  unfold log2Val
  dsimp only
  by_cases hp : m = 2 ^ log2Nat m
  · rw [if_pos hp]
    have hv : v = 2 ^ ((log2Nat m : ℤ) + e) := by
      rw [zpow_add₀ (by norm_num), zpow_natCast]
      simp only [v]
      conv_lhs => rw [hp]
      push_cast
      rfl
    refine ⟨fun n h => ?_, fun h => absurd hv (h _)⟩
    rw [← (hpower n h).1]
    have := roundsTo_roundInt .f32 .rne false n 0
    rwa [zpow_zero, mul_one] at this
  · rw [if_neg hp]
    refine ⟨fun n h => absurd (hpower n h).2 hp, fun _ => ?_⟩
    obtain ⟨hfrlo, hfrhi⟩ := log2Go_fraction (b := 400) (by omega) (by omega) (lt_of_le_of_ne hlow (Ne.symm hp)) hhigh
    generalize log2Go 400 128 (m * 2 ^ (400 - log2Nat m)) 0 = fr at *
    generalize (log2Nat m : ℤ) + e = n
    split
    · exact roundF_odd (f := .f32) (by omega) (by simp only [fracBits]; omega)
    · exact roundF_odd (f := .f32) (by omega) (by simp only [fracBits]; omega)

end Sys2Proof.Machine

/-! SUPPORT. `sin` and `cos` are inexact (R142, R143): an argument that FP32 holds stays away from the multiples of pi / 2, by the
continued fraction of pi; and there the series that the model sums stays away from 0, by the alternating series of sine and cosine. -/

namespace Sys2Proof.Machine

open Sys2Proof.Say

/-! ## Multiples of a number near multiples of another -/

/-- Of two neighbouring convergents `p / q` and `p' / q'` of `A / P` the first is nearest among the fractions of a denominator below `q'`. -/
theorem convergent_nearest {A P p q p' q' m n : ℤ} (hdet : q * p' - q' * p = -1) (hneg : q * A - p * P < 0) (hpos : 0 < q' * A - p' * P)
    (hq : 0 < q) (hm : 0 < m) (hlt : m < q') : p * P - q * A ≤ |m * A - n * P| := by
  obtain ⟨a, b, hma, hnb⟩ : ∃ a b, m = a * q + b * q' ∧ n = a * p + b * p' :=
    ⟨n * q' - m * p', p * m - q * n, by linear_combination m * hdet, by linear_combination n * hdet⟩
  have herr : m * A - n * P = a * (q * A - p * P) + b * (q' * A - p' * P) := by rw [hma, hnb]; ring
  rw [herr]
  rcases lt_trichotomy b 0 with hb | rfl | hb
  · have ha : 0 < a := by
      by_contra h
      have h1 : a * q ≤ 0 := by nlinarith
      have h2 : b * q' < 0 := by nlinarith
      linarith
    rw [abs_of_neg (by nlinarith)]
    nlinarith
  · have ha : 0 < a := by
      by_contra h
      have h1 : a * q ≤ 0 := by nlinarith
      linarith
    rw [zero_mul, add_zero, abs_of_neg (by nlinarith)]
    nlinarith
  · have ha : a < 0 := by
      by_contra h
      have h1 : 0 ≤ a * q := by nlinarith
      have h2 : q' ≤ b * q' := by nlinarith
      linarith
    rw [abs_of_pos (by nlinarith)]
    nlinarith

/-- Neighbouring convergents of `2^492 / piFix`; `2^277` lies between their denominators. -/
def nearP : ℤ := 0x71ad5ef488d798b70f9be957b1f04169
def nearQ : ℤ := 0x16520a730c4b5f2e31ffaaeb3dee85beed2df40d2c22d8bf3a550e84e2361d4a3a9f32
def nextP : ℤ := 0x63564a41b09cfe7b984cb9bfb61876dbd
def nextQ : ℤ := 0x138139cc9494943d7a1f1675cb34e731e4ec6355b5f3cd9348137966011e82999e73a33

/-- What is away from every multiple has a remainder away from both ends. -/
theorem remainder_of_far {a P D : Nat} (hP : 0 < P) (h : ∀ n : ℤ, (D : ℤ) ≤ |(a : ℤ) - n * P|) : D ≤ a % P ∧ a % P + D ≤ P := by
  have hdm : ((P * (a / P) + a % P : ℕ) : ℤ) = a := by rw [Nat.div_add_mod]
  have hlt := Nat.mod_lt a hP
  have h0 := h (a / P : ℕ)
  have h1 := h ((a / P : ℕ) + 1)
  rw [← hdm] at h0 h1
  generalize a % P = r at *
  generalize a / P = d at *
  push_cast at h0 h1
  rw [show (P : ℤ) * d + r - d * P = r by ring, abs_of_nonneg (by positivity)] at h0
  rw [show (P : ℤ) * d + r - (d + 1) * P = -(P - r) by ring, abs_neg, abs_of_nonneg (by omega)] at h1
  omega

/-- The argument of `sin` and `cos` in units of `2^-641` is a multiple of `2^492`, and lies well off the multiples of pi / 2. -/
theorem remainder_bounds {k : Nat} (hk : 0 < k) (hlt : k < 2 ^ 277) :
    2 ^ 361 ≤ k * 2 ^ 492 % piFix ∧ k * 2 ^ 492 % piFix + 2 ^ 361 ≤ piFix := by
  refine remainder_of_far (by decide) fun n => ?_
  have hgap : (2 : ℤ) ^ 361 ≤ nearP * piFix - nearQ * 2 ^ 492 := by decide +kernel
  rw [Nat.cast_mul, Nat.cast_pow, Nat.cast_pow, Nat.cast_ofNat]
  refine hgap.trans (convergent_nearest (p' := nextP) (q' := nextQ) ?_ ?_ ?_ ?_ (by exact_mod_cast hk) ?_)
  · decide +kernel
  · decide +kernel
  · decide +kernel
  · decide +kernel
  · exact lt_of_lt_of_le (by exact_mod_cast hlt) (show (2 : ℤ) ^ 277 ≤ nextQ by decide +kernel)

end Sys2Proof.Machine

/-! SUPPORT. The sums that `sin` and `cos` compute (R142), against sine and cosine: how far rounding down can take them, and on which
side of the limit an alternating series stops. -/

namespace Sys2Proof.Machine

open Sys2Proof.Say

/-! ## The fixed-point sum and the exact one -/

/-- `n` further terms of the exact series after the term `t`, whose highest factor is `k`; `z` is the square of the argument. -/
noncomputable def exactGo (z : ℝ) : ℕ → ℕ → ℝ → ℝ
  | 0, _, _ => 0
  | n + 1, k, t => -(t * z / ((k + 1) * (k + 2))) + exactGo z n (k + 2) (-(t * z / ((k + 1) * (k + 2))))

/-- Integer division rounds by less than 1. -/
theorem abs_ediv_sub_le (a : ℤ) {d : ℕ} (hd : 0 < d) : |((a / (d : ℤ) : ℤ) : ℝ) - a / d| ≤ 1 := by
  have hd' : (0 : ℝ) < d := by exact_mod_cast hd
  have hdm : ((d * (a / d) + a % d : ℤ) : ℝ) = a := by rw [Int.mul_ediv_add_emod]
  have h0 : (0 : ℝ) ≤ (a % d : ℤ) := by exact_mod_cast Int.emod_nonneg a (by omega)
  have h1 : ((a % d : ℤ) : ℝ) < d := by exact_mod_cast Int.emod_lt_of_pos a (by exact_mod_cast hd)
  push_cast at hdm
  have hdiff : ((a / (d : ℤ) : ℤ) : ℝ) - a / d = -((a % d : ℤ) / d) := by
    rw [eq_neg_iff_add_eq_zero, ← hdm]
    field_simp
    ring
  rw [hdiff, abs_neg, abs_of_nonneg (by positivity), div_le_one hd']
  exact h1.le

variable {x2 b : ℕ} {z : ℝ}

/-- One term more: the error grows at most fourfold. -/
theorem term_error (hb : 1 ≤ b) (hz0 : 0 ≤ z) (hz : z ≤ 5 / 2) (hx : |(x2 : ℝ) / 2 ^ b - z| ≤ 1 / 2 ^ b) (k : ℕ) {t : ℤ} {T E : ℝ}
    (hE : 1 ≤ E) (ht : |t - T| ≤ E) (hT : |T| ≤ E * 2 ^ b) :
    |((-(t * x2 / 2 ^ b / ((k + 1) * (k + 2) : ℕ)) : ℤ) : ℝ) - -(T * z / ((k + 1) * (k + 2)))| ≤ 4 * E ∧
      |-(T * z / ((k + 1) * (k + 2)))| ≤ 4 * E * 2 ^ b := by
  have hpow : (2 : ℝ) ≤ 2 ^ b := by simpa using pow_le_pow_right₀ (one_le_two (α := ℝ)) hb
  have hpos : (0 : ℝ) < 2 ^ b := by positivity
  obtain ⟨D, hD, hD2⟩ : ∃ D : ℕ, (k + 1) * (k + 2) = D ∧ 2 ≤ D := ⟨_, rfl, by nlinarith⟩
  have hDr : (k + 1 : ℝ) * (k + 2) = D := by rw [← hD]; push_cast; ring
  have hD2r : (2 : ℝ) ≤ D := by exact_mod_cast hD2
  have hD0 : (0 : ℝ) < D := by linarith
  rw [hD, hDr]
  have hy0 : (0 : ℝ) ≤ x2 / 2 ^ b := by positivity
  have hy : (x2 : ℝ) / 2 ^ b ≤ 3 := by
    have h1 := (abs_le.mp hx).2
    have h2 : (1 : ℝ) / 2 ^ b ≤ 1 / 2 := one_div_le_one_div_of_le (by norm_num) hpow
    linarith
  have hinner : |((t * x2 / 2 ^ b : ℤ) : ℝ) - t * (x2 / 2 ^ b)| ≤ 1 := by
    have h := abs_ediv_sub_le (t * x2) (d := 2 ^ b) (by positivity)
    push_cast at h
    rwa [mul_div_assoc] at h
  have houter := abs_ediv_sub_le (t * x2 / 2 ^ b) (d := D) (by omega)
  generalize (x2 : ℝ) / 2 ^ b = y at *
  generalize t * (x2 : ℤ) / 2 ^ b = q at *
  generalize q / (D : ℤ) = q' at *
  constructor
  · have hexact : |(t : ℝ) * y - T * z| ≤ 4 * E := by
      have h1 : |((t : ℝ) - T) * y| ≤ E * 3 := by
        rw [abs_mul, abs_of_nonneg hy0]
        exact mul_le_mul ht hy hy0 (by linarith)
      have h2 : |T * (y - z)| ≤ E := by
        rw [abs_mul]
        calc |T| * |y - z| ≤ E * 2 ^ b * (1 / 2 ^ b) := mul_le_mul hT hx (abs_nonneg _) (by positivity)
          _ = E := by field_simp
      have h3 := abs_add_le (((t : ℝ) - T) * y) (T * (y - z))
      rw [show (t : ℝ) * y - T * z = (t - T) * y + T * (y - z) by ring]
      linarith
    have hdiv : |(q : ℝ) / D - T * z / D| ≤ (1 + 4 * E) / 2 := by
      rw [← sub_div, abs_div, abs_of_pos hD0]
      have h1 : |(q : ℝ) - T * z| ≤ 1 + 4 * E := by
        have := abs_add_le ((q : ℝ) - t * y) (t * y - T * z)
        rw [sub_add_sub_cancel] at this
        linarith
      exact div_le_div₀ (by linarith) h1 (by norm_num) hD2r
    have := abs_add_le ((q' : ℝ) - q / D) (q / D - T * z / D)
    rw [sub_add_sub_cancel] at this
    rw [show ((-q' : ℤ) : ℝ) - -(T * z / D) = -(q' - T * z / D) by push_cast; ring, abs_neg]
    linarith
  · rw [abs_neg, abs_div, abs_mul, abs_of_pos hD0, abs_of_nonneg hz0, div_le_iff₀ hD0]
    have h1 : |T| * z ≤ E * 2 ^ b * (5 / 2) := mul_le_mul hT hz hz0 (by positivity)
    have h2 : 4 * E * 2 ^ b * 2 ≤ 4 * E * 2 ^ b * D := by gcongr
    have h3 : 0 ≤ E * 2 ^ b := by positivity
    linarith

/-- The whole error of `n` further terms. -/
theorem trigGo_error (hb : 1 ≤ b) (hz0 : 0 ≤ z) (hz : z ≤ 5 / 2) (hx : |(x2 : ℝ) / 2 ^ b - z| ≤ 1 / 2 ^ b) (n k : ℕ) (t acc : ℤ) {T E : ℝ}
    (hE : 1 ≤ E) (ht : |t - T| ≤ E) (hT : |T| ≤ E * 2 ^ b) :
    3 * |(trigGo x2 b n k t acc : ℝ) - acc - exactGo z n k T| ≤ (4 ^ (n + 1) - 4) * E := by
  induction n generalizing k t acc T E with
  | zero => simp [trigGo, exactGo]
  | succ n ih =>
    obtain ⟨hstep, hT'⟩ := term_error hb hz0 hz hx k hE ht hT
    rw [trigGo, exactGo]
    generalize -(t * x2 / 2 ^ b / ((k + 1) * (k + 2) : ℕ)) = t' at *
    generalize -(T * z / ((k + 1) * (k + 2))) = T' at *
    have h := ih (k + 2) t' (acc + t') (by linarith) hstep hT'
    have hsplit : (trigGo x2 b n (k + 2) t' (acc + t') : ℝ) - acc - (T' + exactGo z n (k + 2) T') =
        (trigGo x2 b n (k + 2) t' (acc + t') - (acc + t' : ℤ) - exactGo z n (k + 2) T') + (t' - T') := by push_cast; ring
    have habs := abs_add_le ((trigGo x2 b n (k + 2) t' (acc + t') : ℝ) - (acc + t' : ℤ) - exactGo z n (k + 2) T') (t' - T')
    rw [hsplit, pow_succ]
    linarith

/-! ## The exact sum -/

/-- The terms of the series of cosine (`c` 0) and sine (`c` 1), without their signs. -/
noncomputable def trigTerm (c : ℕ) (x : ℝ) (i : ℕ) : ℝ := x ^ (2 * i + c) / (2 * i + c).factorial

theorem trigTerm_succ (c : ℕ) (x : ℝ) (i : ℕ) : trigTerm c x (i + 1) = trigTerm c x i * x ^ 2 / (((2 * i + c : ℕ) + 1) * ((2 * i + c : ℕ) + 2)) := by
  unfold trigTerm
  rw [show 2 * (i + 1) + c = 2 * i + c + 1 + 1 by ring, Nat.factorial_succ, Nat.factorial_succ]
  push_cast
  field_simp
  ring

theorem exactGo_eq (c : ℕ) (x a : ℝ) (n i : ℕ) : a * ((-1) ^ i * trigTerm c x i) + exactGo (x ^ 2) n (2 * i + c) (a * ((-1) ^ i * trigTerm c x i)) =
    a * ∑ j ∈ Finset.range (n + 1), (-1) ^ (i + j) * trigTerm c x (i + j) := by
  induction n generalizing i with
  | zero => simp [exactGo]
  | succ n ih =>
    have hnext : -(a * ((-1) ^ i * trigTerm c x i) * x ^ 2 / (((2 * i + c : ℕ) + 1) * ((2 * i + c : ℕ) + 2))) =
        a * ((-1) ^ (i + 1) * trigTerm c x (i + 1)) := by
      rw [trigTerm_succ]; ring
    rw [exactGo, hnext, show 2 * i + c + 2 = 2 * (i + 1) + c by ring, ih, Finset.sum_range_succ' _ (n + 1), mul_add, add_zero, add_comm]
    refine congrArg (a * · + a * _) (Finset.sum_congr rfl fun j _ => ?_)
    rw [show i + 1 + j = i + (j + 1) by ring]

/-! ## Sine and cosine -/

theorem trigTerm_nonneg (c : ℕ) {x : ℝ} (hx : 0 ≤ x) (i : ℕ) : 0 ≤ trigTerm c x i := by unfold trigTerm; positivity

/-- From the second on (sine: from the first) the terms fall. -/
theorem trigTerm_antitone {c i₀ : ℕ} {x : ℝ} (hx0 : 0 ≤ x) (hx : x ^ 2 ≤ 5 / 2) (h : 1 ≤ 2 * i₀ + c) : Antitone fun i => trigTerm c x (i + i₀) := by
  refine antitone_nat_of_succ_le fun i => ?_
  have h1 : (1 : ℝ) ≤ (2 * (i + i₀) + c : ℕ) := by exact_mod_cast (show 1 ≤ 2 * (i + i₀) + c by omega)
  rw [show i + 1 + i₀ = i + i₀ + 1 by ring, trigTerm_succ, div_le_iff₀ (by positivity)]
  refine mul_le_mul_of_nonneg_left (by nlinarith) (trigTerm_nonneg c hx0 _)

theorem hasSum_sin' (x : ℝ) : HasSum (fun i => (-1) ^ i * trigTerm 1 x i) (Real.sin x) := by
  simpa only [trigTerm, mul_div_assoc] using Real.hasSum_sin x

theorem hasSum_cos' (x : ℝ) : HasSum (fun i => (-1) ^ i * trigTerm 0 x i) (Real.cos x) := by
  simpa only [trigTerm, mul_div_assoc, add_zero] using Real.hasSum_cos x

/-- A sum of sine's series that ends with a positive term is above its limit. -/
theorem sin_le_sum {x : ℝ} (hx0 : 0 ≤ x) (hx : x ^ 2 ≤ 5 / 2) (k : ℕ) :
    Real.sin x ≤ ∑ i ∈ Finset.range (2 * k + 1), (-1) ^ i * trigTerm 1 x i :=
  (trigTerm_antitone (i₀ := 0) hx0 hx (by decide)).tendsto_le_alternating_series (hasSum_sin' x).tendsto_sum_nat k

/-- The series of cosine without its first term, which is 1. -/
theorem hasSum_cos_tail (x : ℝ) : HasSum (fun i => (-1) ^ i * trigTerm 0 x (i + 1)) (1 - Real.cos x) := by
  have h := ((hasSum_nat_add_iff' 1).mpr (hasSum_cos' x)).neg
  have hfirst : trigTerm 0 x 0 = 1 := by simp [trigTerm]
  have hterm : ∀ i, -((-1) ^ (i + 1) * trigTerm 0 x (i + 1)) = (-1) ^ i * trigTerm 0 x (i + 1) := fun i => by rw [pow_succ]; ring
  simpa only [Finset.sum_range_one, pow_zero, one_mul, neg_sub, hfirst, hterm] using h

theorem sum_cos_eq (x : ℝ) (n : ℕ) : ∑ i ∈ Finset.range (n + 1), (-1) ^ i * trigTerm 0 x i =
    1 - ∑ i ∈ Finset.range n, (-1) ^ i * trigTerm 0 x (i + 1) := by
  rw [Finset.sum_range_succ', sub_eq_add_neg, add_comm, ← Finset.sum_neg_distrib]
  congr 1
  · simp [trigTerm]
  · exact Finset.sum_congr rfl fun i _ => by rw [pow_succ]; ring

/-- The like for cosine, on both sides. -/
theorem cos_le_sum {x : ℝ} (hx0 : 0 ≤ x) (hx : x ^ 2 ≤ 5 / 2) (k : ℕ) :
    Real.cos x ≤ ∑ i ∈ Finset.range (2 * k + 1), (-1) ^ i * trigTerm 0 x i := by
  have h := (trigTerm_antitone (c := 0) (i₀ := 1) hx0 hx (by decide)).alternating_series_le_tendsto (hasSum_cos_tail x).tendsto_sum_nat k
  rw [sum_cos_eq]
  linarith

theorem sum_le_cos {x : ℝ} (hx0 : 0 ≤ x) (hx : x ^ 2 ≤ 5 / 2) (k : ℕ) :
    ∑ i ∈ Finset.range (2 * k + 1 + 1), (-1) ^ i * trigTerm 0 x i ≤ Real.cos x := by
  have h := (trigTerm_antitone (c := 0) (i₀ := 1) hx0 hx (by decide)).tendsto_le_alternating_series (hasSum_cos_tail x).tendsto_sum_nat k
  rw [sum_cos_eq]
  linarith

end Sys2Proof.Machine

/-! SUPPORT. `sin` and `cos` of an FP32 number are inexact: neither sum is near 0. -/

namespace Sys2Proof.Machine

open Sys2Proof.Say

/-! ## The sums are not small -/

/-- The model's sum of 71 terms, against the exact one. -/
theorem trigGo_ge {b r c : ℕ} {t : ℤ} (hb : 1 ≤ b) (hc : c ≤ 1) (hx : ((r : ℝ) / 2 ^ b) ^ 2 ≤ 5 / 2)
    (ht : (t : ℝ) = 2 ^ b * trigTerm c (r / 2 ^ b) 0) :
    2 ^ b * ∑ i ∈ Finset.range (2 * 35 + 1), (-1) ^ i * trigTerm c (r / 2 ^ b) i - 4 ^ 71 ≤ trigGo (r * r / 2 ^ b) b 70 c t t := by
  have hpos : (0 : ℝ) < 2 ^ b := by positivity
  have hx0 : (0 : ℝ) ≤ r / 2 ^ b := by positivity
  have hsquare : |((r * r / 2 ^ b : ℕ) : ℝ) / 2 ^ b - (r / 2 ^ b) ^ 2| ≤ 1 / 2 ^ b := by
    have h := abs_ediv_sub_le (r * r) (d := 2 ^ b) (by positivity)
    rw [show ((r * r / 2 ^ b : ℕ) : ℝ) / 2 ^ b - (r / 2 ^ b) ^ 2 = (((r * r / 2 ^ b : ℕ) : ℝ) - r * r / 2 ^ b) / 2 ^ b by ring, abs_div,
      abs_of_pos hpos]
    rw [← Int.natCast_mul, ← Int.natCast_div, Int.cast_natCast, Int.cast_natCast, Nat.cast_pow, Nat.cast_mul, Nat.cast_ofNat] at h
    exact div_le_div_of_nonneg_right h hpos.le
  have hfirst : trigTerm c (r / 2 ^ b) 0 ≤ 2 := by
    generalize (r : ℝ) / 2 ^ b = x at *
    interval_cases c
    · simp [trigTerm]
    · simp [trigTerm]; nlinarith
  have hT : |(t : ℝ)| ≤ 2 * 2 ^ b := by
    rw [ht, abs_of_nonneg (mul_nonneg hpos.le (trigTerm_nonneg c hx0 0)), mul_comm]
    gcongr
  have herr := trigGo_error hb (sq_nonneg _) hx hsquare 70 c t t (E := 2) (by norm_num) (by simp) hT
  have hsum := exactGo_eq c (r / 2 ^ b) (2 ^ b) 70 0
  simp only [pow_zero, one_mul, ← ht, Nat.mul_zero, Nat.zero_add] at hsum
  have habs := neg_abs_le ((trigGo (r * r / 2 ^ b) b 70 c t t : ℝ) - t - exactGo ((r / 2 ^ b) ^ 2) 70 c t)
  rw [show 2 * 35 + 1 = 70 + 1 by norm_num, ← hsum]
  norm_num at herr ⊢
  linarith

/-- An upper bound of the reduced arguments, in units of `2^-320`. -/
def greatestArg : ℕ := 0x1921fb54442d18469898cc51701b839a252049c1114cf98e804177d4c76273644a2940ff31c6809bc

/-- It is below pi / 2, and its cosine is not small. -/
theorem cos_greatestArg : (1 : ℝ) / (2 ^ 140 * 2 ^ 141) ≤ Real.cos (greatestArg / (2 ^ 160 * 2 ^ 160)) := by
  have hsum : (1 : ℝ) / (2 ^ 140 * 2 ^ 141) ≤
      ∑ i ∈ Finset.range (2 * 18 + 1 + 1), (-1) ^ i * trigTerm 0 (greatestArg / (2 ^ 160 * 2 ^ 160)) i := by
    norm_num [Finset.sum_range_succ, trigTerm, Nat.factorial, greatestArg]
  refine hsum.trans (sum_le_cos (by positivity) ?_ 18)
  norm_num [greatestArg]

theorem greatestArg_le : (greatestArg : ℝ) / (2 ^ 160 * 2 ^ 160) ≤ Real.pi / 2 := by
  by_contra h
  have hsmall : (greatestArg : ℝ) / (2 ^ 160 * 2 ^ 160) < 2 := by norm_num [greatestArg]
  have hpi := Real.pi_gt_three
  have hneg := Real.cos_neg_of_pi_div_two_lt_of_lt (not_le.mp h) (by linarith)
  have hcos := cos_greatestArg
  have : (0 : ℝ) < 1 / (2 ^ 140 * 2 ^ 141) := by positivity
  linarith

theorem greatestArg_sq : ((greatestArg : ℝ) / (2 ^ 160 * 2 ^ 160)) ^ 2 ≤ 5 / 2 := by norm_num [greatestArg]

theorem two_pow_fixBits (i j k : ℕ) (h : fixBits = i + (j + k)) : (2 : ℝ) ^ fixBits = 2 ^ i * (2 ^ j * 2 ^ k) := by rw [h, pow_add, pow_add]

theorem le_of_units {r a u d P : ℕ} (hu : 0 < u) (h : r * u + d ≤ P) (h' : P ≤ a * u + d) : r ≤ a :=
  Nat.le_of_mul_le_mul_right (Nat.le_of_add_le_add_right (h.trans h')) hu

/-- A reduced argument, in units of `2^-fixBits`, is at most that. -/
theorem reduced_le {r : ℕ} (h : r * 2 ^ 193 + 2 ^ 361 ≤ piFix) : (r : ℝ) / 2 ^ fixBits ≤ greatestArg / (2 ^ 160 * 2 ^ 160) := by
  have hr : r ≤ greatestArg * 2 ^ 128 := le_of_units (by positivity) h (by decide +kernel)
  have hr' : (r : ℝ) ≤ greatestArg * 2 ^ 128 := by exact_mod_cast hr
  rw [two_pow_fixBits 128 160 160 rfl, div_le_div_iff₀ (by positivity) (by positivity)]
  calc (r : ℝ) * (2 ^ 160 * 2 ^ 160) ≤ greatestArg * 2 ^ 128 * (2 ^ 160 * 2 ^ 160) := mul_le_mul_of_nonneg_right hr' (by positivity)
    _ = greatestArg * (2 ^ 128 * (2 ^ 160 * 2 ^ 160)) := mul_assoc _ _ _

theorem le_cosFix {r : ℕ} (h : r * 2 ^ 193 + 2 ^ 361 ≤ piFix) : 2 ^ 23 ≤ cosFix r := by
  have hle := reduced_le h
  have hx0 : (0 : ℝ) ≤ r / 2 ^ fixBits := by positivity
  have hsq : ((r : ℝ) / 2 ^ fixBits) ^ 2 ≤ 5 / 2 := (pow_le_pow_left₀ hx0 hle 2).trans greatestArg_sq
  have hcos : (1 : ℝ) / (2 ^ 140 * 2 ^ 141) ≤ Real.cos (r / 2 ^ fixBits) :=
    cos_greatestArg.trans (Real.cos_le_cos_of_nonneg_of_le_pi hx0 (greatestArg_le.trans (by linarith [Real.pi_pos])) hle)
  have hsum := (hcos.trans (cos_le_sum hx0 hsq 35))
  have hgo := trigGo_ge (b := fixBits) (c := 0) (t := (2 ^ fixBits : ℕ)) (by decide) (by decide) hsq (by simp [trigTerm])
  have hunit : (2 : ℝ) ^ fixBits * (1 / (2 ^ 140 * 2 ^ 141)) = 2 ^ 167 := by
    rw [two_pow_fixBits 167 140 141 rfl]
    field_simp
  have hmul := mul_le_mul_of_nonneg_left hsum (show (0 : ℝ) ≤ 2 ^ fixBits by positivity)
  rw [hunit] at hmul
  have hnum : (2 : ℝ) ^ 23 ≤ 2 ^ 167 - 4 ^ 71 := by norm_num
  have hcast : (2 : ℝ) ^ 23 ≤ (cosFix r : ℝ) := (hnum.trans (sub_le_sub_right hmul _)).trans hgo
  exact_mod_cast hcast

theorem le_sinFix {r : ℕ} (h : r * 2 ^ 193 + 2 ^ 361 ≤ piFix) (hr : 2 ^ 168 ≤ r) : 2 ^ 23 ≤ sinFix r := by
  have hle := reduced_le h
  have hx0 : (0 : ℝ) ≤ r / 2 ^ fixBits := by positivity
  have hsq : ((r : ℝ) / 2 ^ fixBits) ^ 2 ≤ 5 / 2 := (pow_le_pow_left₀ hx0 hle 2).trans greatestArg_sq
  have hsin : (r : ℝ) / 2 ^ fixBits / 2 ≤ Real.sin (r / 2 ^ fixBits) := by
    refine le_trans ?_ (Real.mul_le_sin hx0 (hle.trans greatestArg_le))
    have hpi : (1 : ℝ) / 2 ≤ 2 / Real.pi := by
      rw [div_le_div_iff₀ (by norm_num) Real.pi_pos]
      linarith [Real.pi_le_four]
    rw [div_eq_mul_one_div _ (2 : ℝ), mul_comm]
    exact mul_le_mul_of_nonneg_right hpi hx0
  have hsum := hsin.trans (sin_le_sum hx0 hsq 35)
  have hgo := trigGo_ge (b := fixBits) (c := 1) (t := r) (by decide) (by decide) hsq (by simp [trigTerm]; field_simp)
  have hmul := mul_le_mul_of_nonneg_left hsum (show (0 : ℝ) ≤ 2 ^ fixBits by positivity)
  rw [← mul_div_assoc, mul_div_cancel₀ _ (by positivity)] at hmul
  have hr' : (2 : ℝ) ^ 168 ≤ r := by exact_mod_cast hr
  have hnum : (2 : ℝ) ^ 23 ≤ r / 2 - 4 ^ 71 := by
    have : (2 : ℝ) ^ 23 ≤ 2 ^ 168 / 2 - 4 ^ 71 := by norm_num
    linarith
  have hcast : (2 : ℝ) ^ 23 ≤ (sinFix r : ℝ) := (hnum.trans (sub_le_sub_right hmul _)).trans hgo
  exact_mod_cast hcast

end Sys2Proof.Machine

/-! SUPPORT. The special functions of an FP32 pattern (R142, R143). -/

namespace Sys2Proof.Machine

open Sys2Proof.Say

variable {s : Bool} {m x : Nat} {e : ℤ} {op : Sfu}

/-! ## `sin` and `cos` -/

theorem mul_two_pow_lt {a k n : ℕ} (h : m < 2 ^ a) (hn : a + k ≤ n) : m * 2 ^ k < 2 ^ n :=
  calc m * 2 ^ k < 2 ^ a * 2 ^ k := Nat.mul_lt_mul_of_pos_right h (by positivity)
    _ = 2 ^ (a + k) := (pow_add ..).symm
    _ ≤ 2 ^ n := Nat.pow_le_pow_right (by decide) hn

theorem two_pow_le_div {a i j k : ℕ} (h : 2 ^ k ≤ a) (hk : i + j = k) : 2 ^ i ≤ a / 2 ^ j := by
  rw [Nat.le_div_iff_mul_le (by positivity), ← pow_add, hk]
  exact h

/-- Neither sum is small at the reduced argument of a number that FP32 holds. -/
theorem trigReduce_sums (hm : m ≠ 0) (hlt : m < 2 ^ 24) (he : -149 ≤ e) (he' : e ≤ 104) :
    2 ^ 23 ≤ sinFix (trigReduce m e).2 ∧ 2 ^ 23 ≤ cosFix (trigReduce m e).2 := by
  have hk : m * 2 ^ (e + 641).toNat = m * 2 ^ (e + 149).toNat * 2 ^ 492 := by
    rw [mul_assoc, ← pow_add]
    congr 2
    omega
  have hklt : m * 2 ^ (e + 149).toNat < 2 ^ 277 := mul_two_pow_lt hlt (by omega)
  obtain ⟨hlow, hhigh⟩ := remainder_bounds (Nat.mul_pos (Nat.pos_of_ne_zero hm) (by positivity)) hklt
  have hr : (trigReduce m e).2 = m * 2 ^ (e + 149).toNat * 2 ^ 492 % piFix / 2 ^ 193 := by
    rw [trigReduce, if_pos (by omega), hk]
    rfl
  rw [hr]
  generalize m * 2 ^ (e + 149).toNat * 2 ^ 492 % piFix = a at *
  have hbelow : a / 2 ^ 193 * 2 ^ 193 + 2 ^ 361 ≤ piFix := (Nat.add_le_add_right (Nat.div_mul_le_self a _) _).trans hhigh
  have habove : 2 ^ 168 ≤ a / 2 ^ 193 := two_pow_le_div hlow (by decide)
  exact ⟨le_sinFix hbelow habove, le_cosFix hbelow⟩

/-- A fixed-point value with enough bits is rounded inexactly. -/
theorem roundFix_inexact {v : ℤ} (h : 2 ^ 23 ≤ v.natAbs) : (roundFix v).2 &&& flagNX = flagNX := roundSticky_inexact h

theorem sinVal_inexact (s : Bool) (hm : m ≠ 0) (hlt : m < 2 ^ 24) (he : -149 ≤ e) (he' : e ≤ 104) : (sinVal s m e).2 &&& flagNX = flagNX := by
  obtain ⟨hsin, hcos⟩ := trigReduce_sums hm hlt he he'
  unfold sinVal
  generalize trigReduce m e = qr at *
  obtain ⟨q, r⟩ := qr
  dsimp only at hsin hcos ⊢
  refine roundFix_inexact ?_
  generalize sinFix r = vs at *
  generalize cosFix r = vc at *
  have hsign : ∀ v : ℤ, (if s then -v else v).natAbs = v.natAbs := fun v => by cases s <;> simp
  rw [hsign]
  split <;> omega

theorem cosVal_inexact (hm : m ≠ 0) (hlt : m < 2 ^ 24) (he : -149 ≤ e) (he' : e ≤ 104) : (cosVal m e).2 &&& flagNX = flagNX := by
  obtain ⟨hsin, hcos⟩ := trigReduce_sums hm hlt he he'
  unfold cosVal
  generalize trigReduce m e = qr at *
  obtain ⟨q, r⟩ := qr
  dsimp only at hsin hcos ⊢
  refine roundFix_inexact ?_
  generalize sinFix r = vs at *
  generalize cosFix r = vc at *
  split <;> omega

/-! ## The operand -/

/-- A finite FP32 pattern is read as a number of at most 24 bits, whose exponent is in range. -/
theorem unpackF_f32 (h : finite .f32 x = true) : ∃ m e, unpackF .f32 x = .num (negative .f32 x) m e ∧
    value .f32 x = signedVal (negative .f32 x) m * 2 ^ e ∧ m < 2 ^ 24 ∧ -149 ≤ e ∧ e ≤ 104 := by
  obtain ⟨n, k, hr, hm, hb⟩ := unpackF_finite h
  have hmax : binade .f32 n k ≤ largest .f32 := hm ▸ mags_finite h
  have hk : k ≤ 253 := by
    have hmax' : n + k * 2 ^ 23 ≤ 0x7F7FFFFF := hmax
    obtain ⟨-, h0 | h0⟩ := hb
    · omega
    · have h0' : 2 ^ 23 ≤ n := h0
      omega
  have hunit : unitExp .f32 = -149 := rfl
  exact ⟨n, _, hr, value_eq hm hb, hb.1, by omega, by omega⟩

/-! ## The listed results (R143) -/

theorem sfuF_nan (op : Sfu) (h : nan .f32 x = true) : sfuF op x = (quiet .f32, invalid .f32 [x]) := by
  unfold sfuF
  rw [unpackF_nan h]
  simp [flagIf, invalid]

/-- Every function of an infinity is listed, -/
theorem specialOf_infinite (op : Sfu) (h : infinite .f32 x = true) : specialOf op x = some (sfuF op x) := by
  unfold specialOf sfuF
  rw [h, unpackF_infinite h]
  cases hn : negative .f32 x <;> cases op <;> simp [infBits_eq_infinity, signOf_eq_signed]

/-- and every function of a zero; -/
theorem specialOf_zero (op : Sfu) (h : zero .f32 x = true) : specialOf op x = some (sfuF op x) := by
  have hf := finite_of_zero h
  obtain ⟨m, e, hread, -⟩ := unpackF_value hf
  have hm : m = 0 := by
    rw [← isZero_unpackF, hread] at h
    exact of_decide_eq_true h
  unfold specialOf sfuF
  rw [infinite_eq_false_of_finite hf, h, hread, hm]
  cases op <;> simp [infBits_eq_infinity, signOf_eq_signed]

/-- The functions that have no value at a negative number. -/
def OfPositive (op : Sfu) : Prop := op = .rsq ∨ op = .sqrt ∨ op = .log2

/-- of another number, those that have no value at it. -/
theorem specialOf_number (op : Sfu) (hf : finite .f32 x = true) (hz : zero .f32 x = false) :
    (negative .f32 x = true → OfPositive op → specialOf op x = some (quiet .f32, flagNV)) ∧
      (¬ (negative .f32 x = true ∧ OfPositive op) → specialOf op x = none) := by
  unfold specialOf OfPositive
  rw [infinite_eq_false_of_finite hf, hz]
  refine ⟨fun hn hop => ?_, fun h => ?_⟩
  · rw [hn]
    rcases hop with rfl | rfl | rfl <;> rfl
  · cases hn : negative .f32 x
    · rfl
    · rw [hn] at h
      cases op <;> simp at h ⊢

/-- Those functions of a negative number are invalid. -/
theorem sfuF_negative (hread : unpackF .f32 x = .num true m e) (hm : m ≠ 0) (hop : OfPositive op) : sfuF op x = (quiet .f32, flagNV) := by
  unfold sfuF
  rw [hread]
  rcases hop with rfl | rfl | rfl <;> simp [hm]

/-- Where R143 lists a result, it is the model's. -/
theorem sfuF_special {r : Nat × FpFlags} (h : nan .f32 x = false) (hr : specialOf op x = some r) : sfuF op x = r := by
  rcases finite_or_infinite h with hf | hi
  · cases hz : zero .f32 x
    · obtain ⟨hsome, hnone⟩ := specialOf_number op hf hz
      by_cases hn : negative .f32 x = true ∧ OfPositive op
      · obtain ⟨m, e, hread, -⟩ := unpackF_value hf
        have hm : m ≠ 0 := by
          rw [← isZero_unpackF, hread] at hz
          exact of_decide_eq_false hz
        rw [hn.1] at hread
        rw [hsome hn.1 hn.2, Option.some_inj] at hr
        rw [sfuF_negative hread hm hn.2, hr]
      · rw [hnone hn] at hr
        cases hr
    · rwa [specialOf_zero op hz, Option.some_inj] at hr
  · rwa [specialOf_infinite op hi, Option.some_inj] at hr

/-! ## Every other result -/

/-- Where R143 lists none, the operand is a number that is not zero, and positive for `rsq`, `sqrt` and `log2`. -/
theorem specialOf_eq_none (h : nan .f32 x = false) (hr : specialOf op x = none) :
    finite .f32 x = true ∧ zero .f32 x = false ∧ (OfPositive op → negative .f32 x = false) := by
  rcases finite_or_infinite h with hf | hi
  · cases hz : zero .f32 x
    · refine ⟨hf, rfl, fun hop => ?_⟩
      rw [← Bool.not_eq_true]
      intro hn
      rw [(specialOf_number op hf hz).1 hn hop] at hr
      cases hr
    · rw [specialOf_zero op hz] at hr
      cases hr
  · rw [specialOf_infinite op hi] at hr
    cases hr

/-- What a special function of a number `v` answers where R143 lists nothing: its value rounded once (R142), or an inexact result. -/
def Computes (op : Sfu) (v : ℚ) (r : Nat × FpFlags) : Prop :=
  match op with
  | .rcp => Rounds .f32 .rne (1 / v) r
  | .sqrt => RoundsBy .f32 .rne false (fun q => cmp (q * q) v) r
  | .rsq => RoundsBy .f32 .rne false (fun q => cmp (q * q * v) 1) r
  | .exp2 => (∀ n : ℤ, v = n → Rounds .f32 .rne (2 ^ n) r) ∧ ((∀ n : ℤ, v ≠ n) → r.2 &&& flagNX = flagNX)
  | .log2 => (∀ n : ℤ, v = 2 ^ n → RoundsTo .f32 .rne false n r) ∧ ((∀ n : ℤ, v ≠ 2 ^ n) → r.2 &&& flagNX = flagNX)
  | _ => r.2 &&& flagNX = flagNX

theorem sfuF_computes (h : nan .f32 x = false) (hr : specialOf op x = none) : Computes op (value .f32 x) (sfuF op x) := by
  obtain ⟨hf, hz, hpos⟩ := specialOf_eq_none h hr
  obtain ⟨m, e, hread, hv, hlt, he, he'⟩ := unpackF_f32 hf
  have hm : m ≠ 0 := by
    rw [← isZero_unpackF, hread] at hz
    exact of_decide_eq_false hz
  rw [hv]
  unfold sfuF
  rw [hread]
  simp only [hm, if_false]
  have hplain : ((signedVal false m : ℤ) : ℚ) = m := Int.cast_natCast m
  cases op
  case rcp => exact rcpVal_rounds _ hm e
  case rsq => simp only [hpos (by simp [OfPositive]), hplain, Bool.false_eq_true, if_false]; exact rsqVal_rounds hm hlt e
  case sqrt => simp only [hpos (by simp [OfPositive]), hplain, Bool.false_eq_true, if_false]; exact sqrtVal_rounds hm e
  case exp2 => exact exp2Val_spec hm
  case log2 => simp only [hpos (by simp [OfPositive]), hplain, Bool.false_eq_true, if_false]; exact log2Val_spec hm hlt
  case sin => exact sinVal_inexact _ hm hlt he he'
  case cos => exact cosVal_inexact hm hlt he he'

theorem aluEval_sfu (op : Sfu) (a : W32) (b c : W64) (d : Nat → Nat) : aluEval (.sfu op) (word a) b c d = outP (sfuF op a.toNat) := by
  simp only [aluEval, word_toNat, Nat.mod_eq_of_lt a.isLt]

end Sys2Proof.Machine

namespace Sys2Proof.Proofs

open Sys2Proof.Machine Sys2Proof.Say

/-- Settles O35: `roundF` rounds once, and to itself what the format holds; of the special functions the listed results are those of
the model, `rcp`, `rsq`, `sqrt` and the exact cases are rounded once, and every other result carries a sticky bit below its 24th. -/
theorem roundKeepsExact : Obligations.RoundKeepsExact := by
  refine ⟨fun f rm x sg m e hx hr hm => roundF_unpackF hx hr hm, fun f rm sg m e hm => roundsBy_roundF f rm sg hm e, fun op a b c d => ?_⟩
  intro x y
  have hy : y = outP (sfuF op x) := aluEval_sfu op a b c d
  rw [hy]
  refine ⟨fun h => ?_, fun r h hr => ?_, fun h hr => ⟨_, rfl, ?_⟩⟩
  · rw [sfuF_nan op h]; rfl
  · rw [sfuF_special h hr]; rfl
  · have hc := sfuF_computes h hr
    cases op <;> exact hc

end Sys2Proof.Proofs

/-! SUPPORT. The fields of an instruction word (R101): a word is the one that a format builds from given operands exactly where its
fields are these operands. Decoding and encoding both rest on these equivalences, one in each direction. -/

namespace Sys2Proof

section
variable {w : W32} {d a b : Reg} {m op : Nat}

theorem toNat_field (w : W32) (lo n : Nat) : (field w lo n).toNat = w.toNat / 2 ^ lo % 2 ^ n := by simp [field]

/-! ## The formats -/

/-- Formats R, M and C. -/
theorem mkR_eq_iff (hm : m < 8) (hop : op < 256) :
    mkR d a b m op = w ↔ fD w = d ∧ fA w = a ∧ fB w = b ∧ fM w = m ∧ fOp w = op := by
  simp only [← BitVec.toNat_inj, mkR, fD, fA, fB, fM, fOp, toNat_field, BitVec.toNat_ofNat]
  have := w.isLt; have := d.isLt; have := a.isLt; have := b.isLt
  omega

/-- Format I. -/
theorem mkI_eq_iff {imm : BitVec 10} (hop : op < 256) :
    mkI d a imm op = w ↔ fD w = d ∧ fA w = a ∧ fImm10 w = imm ∧ fOp w = op := by
  simp only [← BitVec.toNat_inj, mkI, fD, fA, fImm10, fOp, toNat_field, BitVec.toNat_ofNat]
  have := w.isLt; have := d.isLt; have := a.isLt; have := imm.isLt
  omega

/-- Format U. -/
theorem mkU_eq_iff {imm : BitVec 17} (hop : op < 256) : mkU d imm op = w ↔ fD w = d ∧ fImm17 w = imm ∧ fOp w = op := by
  simp only [← BitVec.toNat_inj, mkU, fD, fImm17, fOp, toNat_field, BitVec.toNat_ofNat]
  have := w.isLt; have := d.isLt; have := imm.isLt
  omega

/-- Format J. -/
theorem mkJ_eq_iff {off : BitVec 24} (hop : op < 256) : mkJ off op = w ↔ fOff w = off ∧ fOp w = op := by
  simp only [← BitVec.toNat_inj, mkJ, fOff, fOp, toNat_field, BitVec.toNat_ofNat]
  have := w.isLt; have := off.isLt
  omega

/-- Format H. -/
theorem mkH_eq_iff {h : BitVec 8} (hm : m < 4) (hop : op < 256) :
    mkH d h b m op = w ↔ fD w = d ∧ fH w = h ∧ fHB w = b ∧ fM10 w = m ∧ fOp w = op := by
  simp only [← BitVec.toNat_inj, mkH, fD, fH, fHB, fM10, fOp, toNat_field, BitVec.toNat_ofNat]
  have := w.isLt; have := d.isLt; have := h.isLt; have := b.isLt
  omega

/-! ## The M field -/

theorem bit_lt (x : Bool) : bit x < 2 := by cases x <;> decide
theorem bit_inj {x y : Bool} : bit x = bit y ↔ x = y := by cases x <;> cases y <;> decide
theorem bit_odd (n : Nat) : bit (decide (n % 2 = 1)) = n % 2 := by
  rcases Nat.mod_two_eq_zero_or_one n with h | h <;> simp [bit, h]
theorem ubBit_eq (x : Bool) : ubBit x = 4 * bit x := by cases x <;> rfl

theorem fOp_lt (w : W32) : fOp w < 256 := Nat.mod_lt _ (by decide)
theorem fM_lt (w : W32) : fM w < 8 := Nat.mod_lt _ (by decide)
theorem fM10_lt (w : W32) : fM10 w < 4 := Nat.mod_lt _ (by decide)
theorem ubBit_add_lt (x : Bool) {n : Nat} (h : n < 4) : ubBit x + n < 8 := by have := bit_lt x; rw [ubBit_eq]; omega
theorem bits_lt (x y : Bool) : 2 * bit x + bit y < 4 := by have := bit_lt x; have := bit_lt y; omega

/-- M is its upper bit and its lower two. -/
theorem fM_eq_iff {ub : Bool} {n : Nat} (hn : n < 4) : fM w = ubBit ub + n ↔ fM2 w = ub ∧ fM10 w = n := by
  rw [← bit_inj]
  simp only [fM, ubBit_eq, fM10, fM2, bit_odd]
  have := bit_lt ub
  omega

/-- M with its upper bit clear. -/
theorem fM_eq_low_iff {n : Nat} (hn : n < 4) : fM w = n ↔ fM2 w = false ∧ fM10 w = n := by
  rw [← fM_eq_iff hn]; simp [ubBit]

/-- The lower two bits of M are two flags. -/
theorem fM10_eq_iff {x y : Bool} : fM10 w = 2 * bit x + bit y ↔ fM1 w = x ∧ fM0 w = y := by
  rw [← bit_inj, ← bit_inj (x := fM0 w)]
  simp only [fM10, fM1, fM0, bit_odd]
  have := bit_lt x; have := bit_lt y
  omega

/-- M is three flags. -/
theorem fM_eq_bits_iff {ub x y : Bool} : fM w = ubBit ub + 2 * bit x + bit y ↔ fM2 w = ub ∧ fM1 w = x ∧ fM0 w = y := by
  rw [Nat.add_assoc, fM_eq_iff (bits_lt x y), fM10_eq_iff]

theorem fM10_cases (w : W32) : fM10 w = 0 ∨ fM10 w = 1 ∨ fM10 w = 2 ∨ fM10 w = 3 := by have := fM10_lt w; omega

/-! ## Selectors -/

section
variable {n : Nat}

theorem intWBits_lt (x : IntW) : intWBits x < 4 := by cases x <;> decide
theorem sizeBits_lt (x : Size) : sizeBits x < 4 := by cases x <;> decide
theorem roundBits_lt (x : Round) : roundBits x < 4 := by cases x <;> decide
theorem dotSignBits_lt (x : DotSign) : dotSignBits x < 4 := by cases x <;> decide
theorem cvtRoundBits_lt : ∀ x, cvtRoundBits x < 8
  | .det x => (roundBits_lt x).trans (by decide)
  | .sr => by decide
theorem levelBits_lt (x : Level) : levelBits x < 4 := by cases x <;> decide
theorem scopeBits_lt (x : Scope) : scopeBits x < 8 := by cases x <;> decide
theorem pairBits_lt (x : MxPair) : pairBits x < 8 := by cases x <;> decide
theorem condIBits_lt (x : CondI) : condIBits x < 16 := by cases x <;> decide
theorem condFBits_lt (x : CondF) : condFBits x < 16 := by cases x <;> decide
theorem sTypeBits_lt (x : SType) : sTypeBits x < 16 := by cases x <;> decide
theorem dTypeBits_lt (x : DType) : dTypeBits x < 8 := by cases x <;> decide

theorem eq_intWBits_iff {x : IntW} (h : n < 4) : n = intWBits x ↔ intW n = x := by
  interval_cases n <;> cases x <;> decide
theorem eq_sizeBits_iff {x : Size} (h : n < 4) : n = sizeBits x ↔ sizeOf_ n = x := by
  interval_cases n <;> cases x <;> decide
theorem eq_roundBits_iff {x : Round} (h : n < 4) : n = roundBits x ↔ roundOf n = x := by
  interval_cases n <;> cases x <;> decide
theorem eq_dotSignBits_iff {x : DotSign} (h : n < 4) : n = dotSignBits x ↔ dotSign n = x := by
  interval_cases n <;> cases x <;> decide
theorem eq_dTypeBits_iff {x : DType} (h : n < 8) : n = dTypeBits x ↔ dType n = x := by
  interval_cases n <;> cases x <;> decide

theorem eq_cvtRoundBits_iff {x : CvtRound} : n = cvtRoundBits x ↔ cvtRoundOf n = some x := by
  constructor
  · rintro rfl
    match x with
    | .det r => cases r <;> rfl
    | .sr => rfl
  · intro h; unfold cvtRoundOf at h; split at h <;> cases h <;> rfl
theorem eq_condIBits_iff {x : CondI} : n = condIBits x ↔ condI n = some x := by
  constructor
  · rintro rfl; cases x <;> rfl
  · intro h; unfold condI at h; split at h <;> cases h <;> rfl
theorem eq_condFBits_iff {x : CondF} : n = condFBits x ↔ condF n = some x := by
  constructor
  · rintro rfl; cases x <;> rfl
  · intro h; unfold condF at h; split at h <;> cases h <;> rfl
theorem eq_sTypeBits_iff {x : SType} : n = sTypeBits x ↔ sType n = some x := by
  constructor
  · rintro rfl; cases x <;> rfl
  · intro h; unfold sType at h; split at h <;> cases h <;> rfl
theorem eq_levelBits_iff {x : Level} : n = levelBits x ↔ levelOf n = some x := by
  constructor
  · rintro rfl; cases x <;> rfl
  · intro h; unfold levelOf at h; split at h <;> cases h <;> rfl
theorem eq_scopeBits_iff {x : Scope} : n = scopeBits x ↔ scopeOf n = some x := by
  constructor
  · rintro rfl; cases x <;> rfl
  · intro h; unfold scopeOf at h; split at h <;> cases h <;> rfl
theorem eq_pairBits_iff {x : MxPair} : n = pairBits x ↔ pairOf n = some x := by
  constructor
  · rintro rfl; cases x <;> rfl
  · intro h; unfold pairOf at h; split at h <;> cases h <;> rfl
end

theorem fM_intW_iff {ub : Bool} {x : IntW} : fM w = ubBit ub + intWBits x ↔ fM2 w = ub ∧ intW (fM10 w) = x := by
  rw [fM_eq_iff (intWBits_lt x), eq_intWBits_iff (fM10_lt w)]
theorem fM_size_iff {ub : Bool} {x : Size} : fM w = ubBit ub + sizeBits x ↔ fM2 w = ub ∧ sizeOf_ (fM10 w) = x := by
  rw [fM_eq_iff (sizeBits_lt x), eq_sizeBits_iff (fM10_lt w)]
theorem fM_round_iff {ub : Bool} {x : Round} : fM w = ubBit ub + roundBits x ↔ fM2 w = ub ∧ roundOf (fM10 w) = x := by
  rw [fM_eq_iff (roundBits_lt x), eq_roundBits_iff (fM10_lt w)]
theorem fM_dotSign_iff {ub : Bool} {x : DotSign} : fM w = ubBit ub + dotSignBits x ↔ fM2 w = ub ∧ dotSign (fM10 w) = x := by
  rw [fM_eq_iff (dotSignBits_lt x), eq_dotSignBits_iff (fM10_lt w)]

/-! ## Fields within the register fields -/

/-- D as a condition code or a format and a predicate. -/
theorem fD_eq_ccP_iff {cc : Nat} {p : BitVec 3} (h : cc < 16) : fD w = ccP cc p ↔ w.toNat / 2 ^ 28 = cc ∧ field w 25 3 = p := by
  simp only [← BitVec.toNat_inj, fD, ccP, toNat_field, BitVec.toNat_ofNat]
  have := w.isLt; have := p.isLt
  omega
theorem fD_eq_fmt_iff {fmt : BitVec 4} {p : BitVec 3} : fD w = ccP fmt.toNat p ↔ field w 28 4 = fmt ∧ field w 25 3 = p := by
  have h : w.toNat / 2 ^ 28 < 2 ^ 4 := by have := w.isLt; omega
  rw [fD_eq_ccP_iff fmt.isLt, ← BitVec.toNat_inj (x := field w 28 4), toNat_field, Nat.mod_eq_of_lt h]
theorem fA_eq_ccP_iff {p : BitVec 3} : fA w = ccP 0 p ↔ w.toNat / 2 ^ 21 % 16 = 0 ∧ field w 18 3 = p := by
  simp only [← BitVec.toNat_inj, fA, ccP, toNat_field, BitVec.toNat_ofNat]
  have := p.isLt
  omega
theorem fB_eq_cvtSel_iff {sel : BitVec 2} {st : SType} :
    fB w = cvtSel sel st ↔ sType (w.toNat / 2 ^ 11 % 16) = some st ∧ w.toNat / 2 ^ 15 % 2 = 0 ∧ field w 16 2 = sel := by
  rw [← eq_sTypeBits_iff]
  simp only [← BitVec.toNat_inj, fB, cvtSel, toNat_field, BitVec.toNat_ofNat]
  have := sel.isLt; have := sTypeBits_lt st
  omega
theorem fB_eq_toIntSel_iff {dt : DType} {f64 : Bool} :
    fB w = toIntSel dt f64 ↔ dType (w.toNat / 2 ^ 15 % 8) = dt ∧ w.toNat / 2 ^ 11 % 16 = if f64 then 5 else 4 := by
  rw [← eq_dTypeBits_iff (Nat.mod_lt _ (by decide))]
  simp only [← BitVec.toNat_inj, fB, toIntSel, toNat_field, BitVec.toNat_ofNat]
  have := dTypeBits_lt dt
  cases f64 <;> simp only [Bool.false_eq_true, if_true, if_false] <;> omega

theorem fD_eq_zeroExtend4_iff {n : BitVec 4} : fD w = n.zeroExtend 7 ↔ w.toNat / 2 ^ 29 = 0 ∧ field w 25 4 = n := by
  simp only [← BitVec.toNat_inj, fD, toNat_field, BitVec.zeroExtend, BitVec.toNat_setWidth]
  have := w.isLt; have := n.isLt
  omega
theorem fD_eq_zeroExtend3_iff {n : BitVec 3} : fD w = n.zeroExtend 7 ↔ w.toNat / 2 ^ 28 = 0 ∧ field w 25 3 = n := by
  simp only [← BitVec.toNat_inj, fD, toNat_field, BitVec.zeroExtend, BitVec.toNat_setWidth]
  have := w.isLt; have := n.isLt
  omega
theorem fB_eq_zeroExtend3_iff {n : BitVec 3} : fB w = n.zeroExtend 7 ↔ w.toNat / 2 ^ 14 % 16 = 0 ∧ field w 11 3 = n := by
  simp only [← BitVec.toNat_inj, fB, toNat_field, BitVec.zeroExtend, BitVec.toNat_setWidth]
  have := n.isLt
  omega
theorem fB_eq_zeroExtend4_iff {n : BitVec 4} : fB w = n.zeroExtend 7 ↔ w.toNat / 2 ^ 15 % 8 = 0 ∧ field w 11 4 = n := by
  simp only [← BitVec.toNat_inj, fB, toNat_field, BitVec.zeroExtend, BitVec.toNat_setWidth]
  have := n.isLt
  omega
theorem fB_eq_zeroExtend6_iff {n : BitVec 6} : fB w = n.zeroExtend 7 ↔ w.toNat / 2 ^ 17 % 2 = 0 ∧ field w 11 6 = n := by
  simp only [← BitVec.toNat_inj, fB, toNat_field, BitVec.zeroExtend, BitVec.toNat_setWidth]
  have := n.isLt
  omega
theorem fM_eq_role_iff {role : BitVec 2} : fM w = role.toNat ↔ fM2 w = false ∧ field w 8 2 = role := by
  rw [fM_eq_low_iff role.isLt, ← BitVec.toNat_inj, toNat_field]
  rfl

/-! ## The classes of the opcode map -/

/-- What holds of every class of the decoder at its opcodes holds of the decoder at the word's opcode. -/
theorem decodeClass_cases {P : Nat → Dec → Prop} (w : W32)
    (h0 : ∀ o, o < 16 → P o (decode0 w o)) (h0u : ∀ o, 16 ≤ o ∧ o < 32 → P o (decode0u w o))
    (h1 : ∀ o, o < 32 → P (32 + o) (decode1 w o)) (h2 : ∀ o, o < 32 → P (64 + o) (decode2 w o))
    (h3 : ∀ o, o < 32 → P (96 + o) (decode3 w o)) (h4 : ∀ o, o < 32 → P (128 + o) (decode4 w o))
    (h5 : ∀ o, o < 32 → P (160 + o) (decode5 w o)) (h6 : ∀ o, o < 32 → P (192 + o) (decode6 w o))
    (h7 : ∀ o, o < 32 → P (224 + o) (decode7 w o)) : P (fOp w) (decodeClass w (fOp w / 32) (fOp w % 32)) := by
  have hop : 32 * (fOp w / 32) + fOp w % 32 = fOp w := Nat.div_add_mod _ _
  have hc : fOp w / 32 < 8 := Nat.div_lt_of_lt_mul (fOp_lt w)
  have ho : fOp w % 32 < 32 := Nat.mod_lt _ (by decide)
  rw [← hop, Nat.mul_add_div (by decide), Nat.mul_add_mod, Nat.div_eq_of_lt (Nat.mod_lt _ (by decide)), Nat.mod_mod, Nat.add_zero]
  generalize fOp w / 32 = c at *
  generalize fOp w % 32 = o at *
  interval_cases c
  · simp only [Nat.mul_zero, Nat.zero_add, decodeClass]
    split
    · exact h0 o ‹_›
    · exact h0u o ⟨by omega, ho⟩
  · exact h1 o ho
  · exact h2 o ho
  · exact h3 o ho
  · exact h4 o ho
  · exact h5 o ho
  · exact h6 o ho
  · exact h7 o ho

end
end Sys2Proof

/-! O2: a word that decodes is the word of the instruction it decodes to. -/

namespace Sys2Proof

/-- Whatever instruction the decoder answers is well formed and has this word. -/
def Reads (w : W32) (x : Dec) : Prop := ∀ i, x = .ok i → i.wf = true ∧ encode i = some w

section
variable {w : W32} {i : Instr} {d a b : Reg} {m op : Nat} {e : Bad} {k : Dec}

/-! ## Answers and checks -/

theorem reads_error : Reads w (.error e) := nofun

theorem reads_ok (hi : i.wf = true) (he : encode i = some w) : Reads w (.ok i) := fun _ h => Except.ok.inj h ▸ ⟨hi, he⟩

theorem reads_chk {c : Bool} (h : c = true → Reads w k) : Reads w (chk c e k) := by
  cases c
  · exact reads_error
  · exact h rfl

theorem reads_not {c : Bool} (h : c = false → Reads w k) : Reads w (chk (!c) e k) :=
  reads_chk fun hc => h (by simpa using hc)

theorem reads_dec {p : Prop} [Decidable p] (h : p → Reads w k) : Reads w (chk (decide p) e k) :=
  reads_chk fun hc => h (of_decide_eq_true hc)

theorem reads_and {c c' : Bool} (h : Reads w (chk c e (chk c' e k))) : Reads w (chk (c && c') e k) := by
  cases c
  · exact reads_error
  · exact h

/-- An answer in format R, M or C, whose operands are the fields of the word. -/
theorem reads_R (hop : fOp w = op) (he : encode i = some (mkR d a b m op)) (hi : i.wf = true) (hm : fM w = m)
    (hd : fD w = d := by rfl) (ha : fA w = a := by rfl) (hb : fB w = b := by rfl) : Reads w (.ok i) := by
  refine reads_ok hi (he.trans (congrArg some ?_))
  exact (mkR_eq_iff (hm ▸ Nat.mod_lt _ (by decide)) (hop ▸ Nat.mod_lt _ (by decide))).2 ⟨hd, ha, hb, hm, hop⟩

/-- In format I. -/
theorem reads_I (hop : fOp w = op) (he : encode i = some (mkI d a (fImm10 w) op)) (hi : i.wf = true)
    (hd : fD w = d := by rfl) (ha : fA w = a := by rfl) : Reads w (.ok i) := by
  refine reads_ok hi (he.trans (congrArg some ?_))
  exact (mkI_eq_iff (hop ▸ Nat.mod_lt _ (by decide))).2 ⟨hd, ha, rfl, hop⟩

/-- In format U. -/
theorem reads_U (hop : fOp w = op) (he : encode i = some (mkU (fD w) (fImm17 w) op)) (hi : i.wf = true) : Reads w (.ok i) :=
  reads_ok hi (he.trans (congrArg some ((mkU_eq_iff (hop ▸ Nat.mod_lt _ (by decide))).2 ⟨rfl, rfl, hop⟩)))

/-- In format J. -/
theorem reads_J (hop : fOp w = op) (he : encode i = some (mkJ (fOff w) op)) (hi : i.wf = true) : Reads w (.ok i) :=
  reads_ok hi (he.trans (congrArg some ((mkJ_eq_iff (hop ▸ Nat.mod_lt _ (by decide))).2 ⟨rfl, hop⟩)))

/-- In format H. -/
theorem reads_H (hop : fOp w = op) (he : encode i = some (mkH d (fH w) b m op)) (hi : i.wf = true) (hm : fM10 w = m)
    (hd : fD w = d := by rfl) (hb : fHB w = b := by rfl) : Reads w (.ok i) := by
  refine reads_ok hi (he.trans (congrArg some ?_))
  exact (mkH_eq_iff (hm ▸ fM10_lt w) (hop ▸ Nat.mod_lt _ (by decide))).2 ⟨hd, rfl, hb, hm, hop⟩

/-! ## The classes -/

theorem fM_intW (w : W32) : fM w = ubBit (fM2 w) + intWBits (intW (fM10 w)) := fM_intW_iff.2 ⟨rfl, rfl⟩
theorem fM_size (w : W32) : fM w = ubBit (fM2 w) + sizeBits (sizeOf_ (fM10 w)) := fM_size_iff.2 ⟨rfl, rfl⟩
theorem fM_round (w : W32) : fM w = ubBit (fM2 w) + roundBits (roundOf (fM10 w)) := fM_round_iff.2 ⟨rfl, rfl⟩
theorem fM_dotSign (w : W32) : fM w = ubBit (fM2 w) + dotSignBits (dotSign (fM10 w)) := fM_dotSign_iff.2 ⟨rfl, rfl⟩
theorem fM_bits (w : W32) : fM w = ubBit (fM2 w) + 2 * bit (fM1 w) + bit (fM0 w) := fM_eq_bits_iff.2 ⟨rfl, rfl, rfl⟩
theorem fM_of_fM10 {n : Nat} (h : fM10 w = n) : fM w = ubBit (fM2 w) + n := (fM_eq_iff (h ▸ fM10_lt w)).2 ⟨rfl, h⟩
theorem fM_of_low {n : Nat} (h2 : fM2 w = false) (h : fM10 w = n) : fM w = n := (fM_eq_low_iff (h ▸ fM10_lt w)).2 ⟨h2, h⟩
theorem fM10_size (w : W32) : fM10 w = sizeBits (sizeOf_ (fM10 w)) := (eq_sizeBits_iff (fM10_lt w)).2 rfl
theorem fM10_intW (w : W32) : fM10 w = intWBits (intW (fM10 w)) := (eq_intWBits_iff (fM10_lt w)).2 rfl
theorem fM10_round (w : W32) : fM10 w = roundBits (roundOf (fM10 w)) := (eq_roundBits_iff (fM10_lt w)).2 rfl
theorem fM10_bits (w : W32) : fM10 w = 2 * bit (fM1 w) + bit (fM0 w) := fM10_eq_iff.2 ⟨rfl, rfl⟩
theorem fM10_bit (h : fM1 w = false) : fM10 w = bit (fM0 w) := by rw [fM10_bits, h, bit]; simp

theorem fD_condI {cc : CondI} (h : condI (w.toNat / 2 ^ 28) = some cc) : fD w = ccP (condIBits cc) (field w 25 3) :=
  (fD_eq_ccP_iff (condIBits_lt cc)).2 ⟨eq_condIBits_iff.2 h, rfl⟩
theorem fD_condF {cc : CondF} (h : condF (w.toNat / 2 ^ 28) = some cc) : fD w = ccP (condFBits cc) (field w 25 3) :=
  (fD_eq_ccP_iff (condFBits_lt cc)).2 ⟨eq_condFBits_iff.2 h, rfl⟩

/-- A flag that selects one of two instructions. -/
theorem reads_ite {c : Bool} {x y : Instr} (hx : c = true → Reads w (.ok x)) (hy : c = false → Reads w (.ok y)) :
    Reads w (.ok (if c then x else y)) := by
  cases c
  · exact hy rfl
  · exact hx rfl

theorem reads_decode0 (hop : fOp w = op) : Reads w (decode0 w op) := by
  unfold decode0
  split
  -- add, sub, mul, mad
  case h_1 | h_2 | h_3 | h_7 => exact reads_chk fun hr => reads_R hop rfl hr (fM_intW w)
  -- the saturating forms and mulhi
  case h_4 | h_5 | h_6 => exact reads_chk fun hr => reads_R hop rfl hr (fM_bits w)
  -- min and max, div and rem
  case h_8 | h_13 =>
    exact reads_ite (fun h1 => reads_R hop rfl rfl (fM_eq_bits_iff.2 ⟨rfl, h1, rfl⟩)) fun h1 => reads_R hop rfl rfl (fM_eq_bits_iff.2 ⟨rfl, h1, rfl⟩)
  -- logic and shifts
  case h_9 | h_10 =>
    rcases fM10_cases w with h | h | h | h <;> rw [h] <;> exact reads_R hop rfl rfl (fM_of_fM10 h)
  -- setp
  case h_11 =>
    split
    · next cc hcc => exact reads_chk fun hr => reads_R hop rfl hr (fM_intW w) (fD_condI hcc)
    · exact reads_error
  -- the bit counts
  case h_12 =>
    refine reads_not fun h2 => reads_dec fun hb => ?_
    rcases fM10_cases w with h | h | h | h <;> rw [h] <;> exact reads_R hop rfl rfl (fM_of_low h2 h) rfl rfl hb
  -- the immediates
  case h_14 => exact reads_I hop rfl rfl
  case h_15 | h_16 => exact reads_U hop rfl rfl
  case h_17 => exact reads_error

theorem reads_decode0u (hop : fOp w = op) : Reads w (decode0u w op) := by
  unfold decode0u
  split
  -- uadd, usub, umul, umad
  case h_1 | h_2 | h_3 | h_7 => exact reads_not fun h2 => reads_chk fun hr => reads_R hop rfl hr (fM_of_low h2 (fM10_intW w))
  -- the saturating forms and umulhi
  case h_4 | h_5 | h_6 => exact reads_not fun h2 => reads_chk fun hr => reads_R hop rfl hr (fM_of_low h2 (fM10_bits w))
  -- umin and umax, udiv and urem
  case h_8 | h_13 =>
    exact reads_not fun h2 => reads_ite (fun h1 => reads_R hop rfl rfl (fM_of_low h2 (fM10_eq_iff.2 ⟨h1, rfl⟩))) fun h1 =>
      reads_R hop rfl rfl (fM_of_low h2 (fM10_eq_iff.2 ⟨h1, rfl⟩))
  -- logic and shifts
  case h_9 | h_10 =>
    refine reads_not fun h2 => ?_
    rcases fM10_cases w with h | h | h | h <;> rw [h] <;> exact reads_R hop rfl rfl (fM_of_low h2 h)
  -- usetp
  case h_11 =>
    refine reads_not fun h2 => ?_
    split
    · next cc hcc => exact reads_chk fun hr => reads_R hop rfl hr (fM_of_low h2 (fM10_intW w)) (fD_condI hcc)
    · exact reads_error
  -- the bit counts
  case h_12 =>
    refine reads_not fun h2 => reads_dec fun hb => ?_
    rcases fM10_cases w with h | h | h | h <;> rw [h] <;> exact reads_R hop rfl rfl (fM_of_low h2 h) rfl rfl hb
  -- the immediates
  case h_14 => exact reads_I hop rfl rfl
  case h_15 | h_16 => exact reads_U hop rfl rfl
  case h_17 => exact reads_error

theorem reads_decode1 (hop : fOp w = 32 + op) : Reads w (decode1 w op) := by
  unfold decode1
  split
  -- sums, products and fused products, packed ones among them
  case h_1 | h_2 | h_3 | h_17 | h_18 | h_21 | h_22 => exact reads_R hop rfl rfl (fM_round w)
  case h_4 | h_9 | h_10 | h_11 | h_12 | h_19 | h_23 => exact reads_chk fun hr => reads_R hop rfl hr (fM_round w)
  -- minimum and maximum
  case h_5 | h_20 | h_24 =>
    exact reads_not fun h1 => reads_ite (fun h0 => reads_R hop rfl rfl (fM_of_fM10 (fM10_eq_iff.2 ⟨h1, h0⟩))) fun h0 =>
      reads_R hop rfl rfl (fM_of_fM10 (fM10_eq_iff.2 ⟨h1, h0⟩))
  case h_13 =>
    exact reads_not fun h1 => reads_chk fun hr => reads_ite (fun h0 => reads_R hop rfl hr (fM_of_fM10 (fM10_eq_iff.2 ⟨h1, h0⟩))) fun h0 =>
      reads_R hop rfl hr (fM_of_fM10 (fM10_eq_iff.2 ⟨h1, h0⟩))
  -- comparisons
  case h_6 =>
    refine reads_dec fun h => ?_
    split
    · next cc hcc => exact reads_R hop rfl rfl (fM_of_fM10 h) (fD_condF hcc)
    · exact reads_error
  case h_14 =>
    refine reads_dec fun h => ?_
    split
    · next cc hcc => exact reads_chk fun hr => reads_R hop rfl hr (fM_of_fM10 h) (fD_condF hcc)
    · exact reads_error
  -- signs
  case h_7 =>
    split
    case h_1 h | h_2 h => exact reads_not fun h2 => reads_dec fun hb => reads_R hop rfl rfl (fM_of_low h2 h) rfl rfl hb
    case h_3 h => exact reads_R hop rfl rfl (fM_of_fM10 h)
    case h_4 => exact reads_error
  case h_15 =>
    split
    case h_1 h | h_2 h => exact reads_not fun h2 => reads_dec fun hb => reads_chk fun hr => reads_R hop rfl hr (fM_of_low h2 h) rfl rfl hb
    case h_3 h => exact reads_chk fun hr => reads_R hop rfl hr (fM_of_fM10 h)
    case h_4 => exact reads_error
  -- classes
  case h_8 => exact reads_dec fun hm => reads_dec fun hb => reads_R hop rfl rfl hm rfl rfl hb
  case h_16 => exact reads_dec fun hm => reads_dec fun hb => reads_chk fun hr => reads_R hop rfl hr hm rfl rfl hb
  case h_25 => exact reads_error

/-- A conversion to a floating-point format. -/
theorem reads_decodeCvt {dst : SType} {f : SType → CvtRound → Instr} (hop : fOp w = op)
    (he : ∀ st rm, encode (f st rm) = some (mkR (fD w) (fA w) (cvtSel (field w 16 2) st) (cvtRoundBits rm) op))
    (hi : ∀ st rm, (f st rm).wf = (okCvt dst st (field w 16 2) rm && okCvtRegs dst st (fD w) (fA w))) : Reads w (decodeCvt w dst f) := by
  unfold decodeCvt
  split
  · next st rm hst hrm =>
    exact reads_chk fun hc => reads_dec fun h15 => reads_chk fun hr =>
      reads_R hop (he st rm) ((hi st rm).trans (by rw [hc, hr]; rfl)) (eq_cvtRoundBits_iff.2 hrm) rfl rfl (fB_eq_cvtSel_iff.2 ⟨hst, h15, rfl⟩)
  · exact reads_error

theorem reads_decode2 (hop : fOp w = 64 + op) : Reads w (decode2 w op) := by
  unfold decode2
  split
  -- conversions
  case h_1 | h_2 | h_3 | h_4 | h_5 | h_6 => exact reads_decodeCvt hop (fun _ _ => rfl) fun _ _ => rfl
  case h_7 =>
    split
    · next rm hrm => exact reads_R hop rfl rfl (eq_cvtRoundBits_iff.2 hrm)
    · exact reads_error
  case h_8 => exact reads_R hop rfl rfl (fM_round w)
  case h_9 =>
    refine reads_chk fun hst => reads_not fun h2 => reads_chk fun hr => ?_
    refine reads_R hop rfl hr (fM_of_low h2 (fM10_round w)) rfl rfl (fB_eq_toIntSel_iff.2 ⟨rfl, ?_⟩)
    rcases Bool.or_eq_true_iff.1 hst with h | h <;> rw [of_decide_eq_true h] <;> rfl
  -- special functions
  case h_10 | h_11 | h_12 | h_13 | h_14 | h_15 | h_16 => exact reads_dec fun hm => reads_dec fun hb => reads_R hop rfl rfl hm rfl rfl hb
  -- permutes and dot products
  case h_17 => exact reads_dec fun h => reads_chk fun hr => reads_R hop rfl hr (fM_of_fM10 h)
  case h_18 | h_19 => exact reads_chk fun hr => reads_R hop rfl hr (fM_dotSign w)
  case h_20 => exact reads_not fun h1 => reads_chk fun hr => reads_R hop rfl hr (fM_of_fM10 (fM10_bit h1))
  case h_21 => exact reads_error

theorem reads_decode3 (hop : fOp w = 96 + op) : Reads w (decode3 w op) := by
  unfold decode3
  split
  -- bra, call, jtok
  case h_1 | h_4 | h_7 => exact reads_J hop rfl rfl
  -- brx, ret
  case h_2 | h_3 =>
    exact reads_and <| reads_not fun h2 => reads_not fun h1 => reads_and <| reads_dec fun hd => reads_dec fun hb => reads_chk fun hr =>
      reads_R hop rfl hr (fM_of_low h2 (fM10_bit h1)) hd rfl hb
  -- loop
  case h_5 => exact reads_U hop rfl rfl
  -- exit, join, tret
  case h_6 | h_8 | h_32 =>
    exact reads_dec fun hm => reads_and <| reads_and <| reads_dec fun hd => reads_dec fun ha => reads_dec fun hb => reads_R hop rfl rfl hm hd ha hb
  -- wbase, part, trap, brk
  case h_9 | h_30 | h_31 => exact reads_and <| reads_dec fun hd => reads_dec fun ha => reads_I hop rfl rfl hd ha
  case h_10 => exact reads_chk fun hr => reads_and <| reads_dec fun hd => reads_dec fun ha => reads_I hop rfl hr hd ha
  -- mfs, mts
  case h_11 | h_12 =>
    exact reads_and <| reads_not fun h2 => reads_not fun h1 => reads_dec fun hb => reads_chk fun hr =>
      reads_R hop rfl hr (fM_of_low h2 (fM10_bit h1)) rfl rfl hb
  -- picks
  case h_13 => rcases fM10_cases w with h | h | h | h <;> rw [h] <;> exact reads_R hop rfl rfl (fM_of_fM10 h)
  -- polls
  case h_14 =>
    split
    case h_1 hm | h_2 hm =>
      exact reads_and <| reads_and <| reads_dec fun hd => reads_dec fun ha => reads_dec fun hb => reads_R hop rfl rfl hm
        ((fD_eq_ccP_iff (by decide)).2 ⟨hd, rfl⟩) (fA_eq_ccP_iff.2 ⟨ha, rfl⟩) hb
    case h_3 hm => exact reads_and <| reads_dec fun ha => reads_dec fun hb => reads_R hop rfl rfl hm rfl (fA_eq_ccP_iff.2 ⟨ha, rfl⟩) hb
    case h_4 => exact reads_error
  -- reductions
  case h_15 =>
    split
    case h_1 h | h_2 h | h_3 h => exact reads_dec fun hb => reads_R hop rfl rfl (fM_of_fM10 h) rfl rfl hb
    case h_4 => exact reads_error
  -- first
  case h_16 => exact reads_and <| reads_not fun h2 => reads_not fun h1 => reads_dec fun hb => reads_R hop rfl rfl (fM_of_low h2 (fM10_bit h1)) rfl rfl hb
  -- chains
  case h_17 | h_19 | h_21 | h_22 | h_23 | h_24 | h_25 | h_28 =>
    exact reads_not fun h2 => reads_dec fun hb => reads_R hop rfl rfl (fM_of_low h2 (fM10_bits w)) rfl rfl hb
  case h_18 | h_20 | h_29 =>
    exact reads_not fun h2 => reads_dec fun hb => reads_chk fun hr => reads_R hop rfl hr (fM_of_low h2 (fM10_bits w)) rfl rfl hb
  case h_26 => exact reads_R hop rfl rfl (fM_bits w)
  case h_27 => exact reads_chk fun hr => reads_R hop rfl hr (fM_bits w)
  case h_33 => exact reads_error

theorem reads_decode4 (hop : fOp w = 128 + op) : Reads w (decode4 w op) := by
  unfold decode4
  split
  -- lane, die and fabric accesses
  case h_1 | h_2 | h_7 | h_8 | h_9 | h_10 => exact reads_chk fun hr => reads_R hop rfl hr (fM_size w)
  -- tile accesses
  case h_3 | h_4 | h_5 | h_6 => exact reads_chk fun hr => reads_H hop rfl hr (fM10_size w)
  -- host accesses
  case h_11 | h_12 =>
    exact reads_not fun h2 => reads_dec fun h17 => reads_chk fun hr =>
      reads_R hop rfl hr (fM_of_low h2 (fM10_size w)) rfl rfl (fB_eq_zeroExtend6_iff.2 ⟨h17, rfl⟩)
  -- multicast
  case h_13 =>
    exact reads_dec fun hn => reads_dec fun h15 => reads_chk fun hr =>
      reads_R hop rfl (Bool.and_eq_true_iff.2 ⟨bne_iff_ne.2 hn, hr⟩) (fM_size w) rfl rfl (fB_eq_zeroExtend4_iff.2 ⟨h15, rfl⟩)
  -- atomics with and without a sign
  case h_15 | h_16 | h_23 | h_24 => exact reads_chk fun hr => reads_R hop rfl hr (fM_bits w)
  case h_14 | h_17 | h_18 | h_19 | h_20 | h_21 | h_22 | h_25 | h_26 | h_27 | h_28 | h_29 =>
    exact reads_not fun h1 => reads_chk fun hr => reads_R hop rfl hr (fM_of_fM10 (fM10_bit h1))
  case h_30 => exact reads_error

theorem reads_decode5 (hop : fOp w = 160 + op) : Reads w (decode5 w op) := by
  unfold decode5
  split
  -- talloc
  case h_1 =>
    split
    · next lv hlv => exact reads_chk fun hr => reads_H hop rfl hr (eq_levelBits_iff.2 hlv) (fD_eq_fmt_iff.2 ⟨rfl, rfl⟩)
    · exact reads_error
  -- tfree, tdesc
  case h_2 => exact reads_dec fun hm => reads_and <| reads_dec fun hd => reads_dec fun hb => reads_H hop rfl rfl hm hd hb
  case h_3 => exact reads_not fun h1 => reads_dec fun hb => reads_chk fun hr => reads_H hop rfl hr (fM10_bit h1) rfl hb
  -- the row walker
  case h_4 => exact reads_dec fun hm => reads_dec fun hd => reads_chk fun hr => reads_R hop rfl hr hm hd
  case h_5 =>
    exact reads_and <| reads_dec fun hm => reads_dec fun hp => reads_and <| reads_dec fun ha => reads_dec fun h14 => reads_chk fun hr =>
      reads_R hop rfl (Bool.and_eq_true_iff.2 ⟨bne_iff_ne.2 hp, hr⟩) hm rfl ha (fB_eq_zeroExtend3_iff.2 ⟨h14, rfl⟩)
  -- tile atomics
  case h_6 | h_7 | h_8 | h_9 | h_10 => exact reads_dec fun hm => reads_chk fun hr => reads_H hop rfl hr hm
  -- phasers
  case h_11 =>
    exact reads_not fun h2 => reads_and <| reads_and <| reads_dec fun hd => reads_dec fun ha => reads_dec fun hb =>
      reads_R hop rfl rfl (fM_eq_role_iff.2 ⟨h2, rfl⟩) (fD_eq_zeroExtend4_iff.2 ⟨hd, rfl⟩) ha hb
  case h_12 | h_13 =>
    exact reads_dec fun hm => reads_and <| reads_and <| reads_dec fun hd => reads_dec fun ha => reads_dec fun hb =>
      reads_R hop rfl rfl hm (fD_eq_zeroExtend4_iff.2 ⟨hd, rfl⟩) ha hb
  case h_14 =>
    exact reads_dec fun hm => reads_and <| reads_dec fun hd => reads_dec fun ha => reads_R hop rfl rfl hm (fD_eq_zeroExtend4_iff.2 ⟨hd, rfl⟩) ha
  -- the key
  case h_15 | h_16 =>
    exact reads_dec fun hm => reads_and <| reads_and <| reads_dec fun hd => reads_dec fun ha => reads_dec fun hb => reads_R hop rfl rfl hm hd ha hb
  -- register blocks
  case h_17 | h_18 =>
    exact reads_and <| reads_dec fun hm => reads_dec fun hc => reads_and <| reads_and <| reads_dec fun hd => reads_dec fun ha => reads_dec fun h15 =>
      reads_R hop rfl (bne_iff_ne.2 hc) hm hd ha (fB_eq_zeroExtend4_iff.2 ⟨h15, rfl⟩)
  -- monitors
  case h_19 =>
    exact reads_not fun h2 => reads_and <| reads_dec fun hd => reads_dec fun hb => reads_chk fun hr =>
      reads_R hop rfl hr (fM_of_low h2 (fM10_bits w)) ((fD_eq_ccP_iff (by decide)).2 ⟨hd, rfl⟩) rfl hb
  case h_20 =>
    exact reads_dec fun hm => reads_and <| reads_dec fun hd => reads_dec fun ha =>
      reads_R hop rfl rfl hm ((fD_eq_ccP_iff (by decide)).2 ⟨hd, rfl⟩) ha
  case h_21 =>
    exact reads_not fun h2 => reads_and <| reads_dec fun hd => reads_dec fun hb => reads_chk fun hr =>
      reads_R hop rfl hr (fM_of_low h2 (fM10_bits w)) hd rfl hb
  -- fence
  case h_22 =>
    split
    · next sc hsc =>
      exact reads_and <| reads_and <| reads_dec fun hd => reads_dec fun ha => reads_dec fun hb => reads_R hop rfl rfl (eq_scopeBits_iff.2 hsc) hd ha hb
    · exact reads_error
  case h_23 => exact reads_error

theorem reads_decode6 (hop : fOp w = 192 + op) : Reads w (decode6 w op) := by
  unfold decode6
  split
  -- commands without a selector, with a flag, and with a selector
  case h_1 | h_2 | h_3 | h_10 | h_11 => exact reads_dec fun hm => reads_chk fun hr => reads_R hop rfl hr hm
  case h_4 | h_5 | h_6 | h_7 =>
    exact reads_and <| reads_not fun h2 => reads_not fun h1 => reads_chk fun hr => reads_R hop rfl hr (fM_of_low h2 (fM10_bit h1))
  case h_8 =>
    split
    · next rm hrm => exact reads_chk fun hr => reads_R hop rfl hr (eq_cvtRoundBits_iff.2 hrm)
    · exact reads_error
  case h_9 =>
    split
    · next p hp => exact reads_chk fun hr => reads_R hop rfl hr (eq_pairBits_iff.2 hp)
    · exact reads_error
  -- tag waits
  case h_12 | h_13 =>
    exact reads_dec fun hm => reads_and <| reads_dec fun hd => reads_dec fun hb => reads_chk fun hr => reads_R hop rfl hr hm hd rfl hb
  case h_14 => exact reads_dec fun hm => reads_dec fun hb => reads_chk fun hr => reads_R hop rfl hr hm rfl rfl hb
  case h_15 => exact reads_error

theorem reads_decode7 (hop : fOp w = 224 + op) : Reads w (decode7 w op) := by
  unfold decode7
  split
  -- nop
  case h_1 =>
    exact reads_dec fun hm => reads_and <| reads_and <| reads_dec fun hd => reads_dec fun ha => reads_dec fun hb => reads_R hop rfl rfl hm hd ha hb
  -- launch, dbg.watch
  case h_2 | h_8 => exact reads_dec fun hm => reads_chk fun hr => reads_R hop rfl hr hm
  -- drift commands
  case h_3 =>
    split
    case h_1 hm | h_2 hm => exact reads_dec fun hd => reads_R hop rfl rfl hm hd
    case h_3 => exact reads_error
  -- breakpoints and claims
  case h_4 =>
    split
    case h_1 hm => exact reads_and <| reads_dec fun hd => reads_dec fun ha => reads_R hop rfl rfl hm (fD_eq_zeroExtend3_iff.2 ⟨hd, rfl⟩) ha
    case h_2 hm => exact reads_dec fun hd => reads_chk fun hr => reads_R hop rfl hr hm (fD_eq_zeroExtend3_iff.2 ⟨hd, rfl⟩)
    case h_3 hm | h_4 hm => exact reads_and <| reads_dec fun hd => reads_dec fun ha => reads_R hop rfl rfl hm hd ha
    case h_5 => exact reads_error
  -- hold and run
  case h_5 | h_7 =>
    exact reads_and <| reads_not fun h2 => reads_not fun h1 => reads_and <| reads_dec fun hd => reads_dec fun ha =>
      reads_R hop rfl rfl (fM_of_low h2 (fM10_bit h1)) hd ha
  -- step
  case h_6 =>
    exact reads_and <| reads_not fun h2 => reads_not fun h1 => reads_and <| reads_dec fun hd => reads_dec fun ha =>
      reads_ite (fun h0 => reads_R hop rfl rfl (fM_of_low h2 (fM10_eq_iff.2 ⟨h1, h0⟩)) hd ha) fun h0 =>
        reads_R hop rfl rfl (fM_of_low h2 (fM10_eq_iff.2 ⟨h1, h0⟩)) hd ha
  -- the mailbox
  case h_9 =>
    split
    case h_1 hm | h_2 hm | h_4 hm => exact reads_dec fun hd => reads_chk fun hr => reads_R hop rfl hr hm hd
    case h_3 hm => exact reads_dec fun hd => reads_R hop rfl rfl hm hd
    case h_5 => exact reads_error
  case h_10 => exact reads_error

theorem reads_decodeClass (w : W32) : Reads w (decodeClass w (fOp w / 32) (fOp w % 32)) :=
  decodeClass_cases (P := fun op x => fOp w = op → Reads w x) w (fun _ _ => reads_decode0) (fun _ _ => reads_decode0u) (fun _ _ => reads_decode1)
    (fun _ _ => reads_decode2) (fun _ _ => reads_decode3) (fun _ _ => reads_decode4) (fun _ _ => reads_decode5) (fun _ _ => reads_decode6)
    (fun _ _ => reads_decode7) rfl

theorem reads_decodeWord (accept w : W32) : Reads w (decodeWord accept w) :=
  reads_chk fun _ => reads_chk fun _ => reads_decodeClass w

end
end Sys2Proof

/-! O1: the word of a well-formed instruction decodes to it. The operands are the fields of the word, so each arm of the decoder gives the
instruction back once its checks hold. -/

namespace Sys2Proof

section
variable {w : W32} {i : Instr} {d a b : Reg} {m op : Nat} {e : Bad} {k x : Dec}

/-! ## Checks that hold -/

theorem chk_eq {c : Bool} (h : c = true) (hk : k = x) : chk c e k = x := by subst h; exact hk
theorem chk_not {c : Bool} (h : c = false) (hk : k = x) : chk (!c) e k = x := chk_eq (by rw [h]; rfl) hk
theorem chk_dec {p : Prop} [Decidable p] (h : p) (hk : k = x) : chk (decide p) e k = x := chk_eq (decide_eq_true h) hk
theorem chk_and {c c' : Bool} (h : chk c e (chk c' e k) = x) : chk (c && c') e k = x := by
  cases c
  · exact h
  · exact h

/-- The driver accepts every feature that an opcode needs. -/
theorem fOffer_features : ∀ op k, featureOf op = some k → Config.fOffer.getLsbD k = true := by
  intro op k h
  have hk : k ≤ 6 := by unfold featureOf at h; split_ifs at h <;> cases h <;> decide
  interval_cases k <;> rfl

/-- An assigned opcode is decoded by its class. -/
theorem decodes (hop : fOp w = op) (ha : assigned op = true) (h : decodeClass w (op / 32) (op % 32) = .ok i) :
    decodeWord Config.fOffer w = .ok i := by
  subst hop
  refine chk_eq ha (chk_eq ?_ h)
  split
  · next k hk => exact fOffer_features _ k hk
  · rfl

/-! ## The operands of a word are its fields -/

theorem fields_R {P : Prop} (h : some (mkR d a b m op) = some w) (hm : m < 8) (hM : fM w = m → P) (hop : op < 256 := by decide) :
    fD w = d ∧ fA w = a ∧ fB w = b ∧ P ∧ fOp w = op := by
  obtain ⟨hd, ha, hb, hm, hop⟩ := (mkR_eq_iff hm hop).1 (Option.some.inj h)
  exact ⟨hd, ha, hb, hM hm, hop⟩
theorem fields_I {imm : BitVec 10} (h : some (mkI d a imm op) = some w) (hop : op < 256 := by decide) :
    fD w = d ∧ fA w = a ∧ fImm10 w = imm ∧ fOp w = op := (mkI_eq_iff hop).1 (Option.some.inj h)
theorem fields_U {imm : BitVec 17} (h : some (mkU d imm op) = some w) (hop : op < 256 := by decide) :
    fD w = d ∧ fImm17 w = imm ∧ fOp w = op := (mkU_eq_iff hop).1 (Option.some.inj h)
theorem fields_J {off : BitVec 24} (h : some (mkJ off op) = some w) (hop : op < 256 := by decide) :
    fOff w = off ∧ fOp w = op := (mkJ_eq_iff hop).1 (Option.some.inj h)
theorem fields_H {P : Prop} {n : BitVec 8} (h : some (mkH d n b m op) = some w) (hm : m < 4) (hM : fM10 w = m → P) (hop : op < 256 := by decide) :
    fD w = d ∧ fH w = n ∧ fHB w = b ∧ P ∧ fOp w = op := by
  obtain ⟨hd, hh, hb, hm, hop⟩ := (mkH_eq_iff hm hop).1 (Option.some.inj h)
  exact ⟨hd, hh, hb, hM hm, hop⟩

theorem ubBit_bits_lt (u x y : Bool) : ubBit u + 2 * bit x + bit y < 8 := by
  rw [Nat.add_assoc]; exact ubBit_add_lt u (bits_lt x y)

theorem fM_eq_intW {x : IntW} (h : fM w = intWBits x) : fM2 w = false ∧ intW (fM10 w) = x := by
  rw [fM_eq_low_iff (intWBits_lt x), eq_intWBits_iff (fM10_lt w)] at h; exact h
theorem fM_eq_bits {x y : Bool} (h : fM w = 2 * bit x + bit y) : fM2 w = false ∧ fM1 w = x ∧ fM0 w = y := by
  rw [fM_eq_low_iff (bits_lt x y), fM10_eq_iff] at h; exact h

theorem ubBit_lt (x : Bool) : ubBit x < 8 := by cases x <;> decide
theorem fM_eq_ub {ub : Bool} (h : fM w = ubBit ub) : fM2 w = ub ∧ fM10 w = 0 := (fM_eq_iff (by decide)).1 h
theorem fM_eq_bit {y : Bool} (h : fM w = bit y) : fM2 w = false ∧ fM1 w = false ∧ fM0 w = y :=
  fM_eq_bits (x := false) (by simpa [bit] using h)
theorem fM10_eq_bit {y : Bool} (h : fM10 w = bit y) : fM1 w = false ∧ fM0 w = y := fM10_eq_iff.1 (by simpa [bit] using h)
theorem fM_eq_ub_bit {ub y : Bool} (h : fM w = ubBit ub + bit y) : fM2 w = ub ∧ fM1 w = false ∧ fM0 w = y :=
  fM_eq_bits_iff.1 (by simpa [bit] using h)
theorem bit_lt_four (x : Bool) : bit x < 4 := (bit_lt x).trans (by decide)

/-- A conversion to a floating-point format. -/
theorem decodeCvt_eq {dst st : SType} {rm : CvtRound} {f : SType → CvtRound → Instr} (hrm : cvtRoundOf (fM w) = some rm)
    (hb : fB w = cvtSel (field w 16 2) st) (hw : (okCvt dst st (field w 16 2) rm && okCvtRegs dst st (fD w) (fA w)) = true) :
    decodeCvt w dst f = .ok (f st rm) := by
  obtain ⟨hst, h15, -⟩ := fB_eq_cvtSel_iff.1 hb
  obtain ⟨hc, hr⟩ := Bool.and_eq_true_iff.1 hw
  unfold decodeCvt
  rw [hst, hrm]
  exact chk_eq hc (chk_dec h15 (chk_eq hr rfl))

theorem decodeWord_encode (hw : i.wf = true) (he : encode i = some w) : decodeWord Config.fOffer w = .ok i := by
  cases i
  -- class 0, the lane forms
  case add | sub | mul | mad =>
    obtain ⟨rfl, rfl, rfl, ⟨rfl, rfl⟩, hop⟩ := fields_R he (ubBit_add_lt _ (intWBits_lt _)) fM_intW_iff.1
    exact decodes hop rfl (chk_eq hw rfl)
  case addSat | subSat | mulhi =>
    obtain ⟨rfl, rfl, rfl, ⟨rfl, rfl, rfl⟩, hop⟩ := fields_R he (ubBit_bits_lt _ _ _) fM_eq_bits_iff.1
    exact decodes hop rfl (chk_eq hw rfl)
  case min | div =>
    obtain ⟨rfl, rfl, rfl, ⟨rfl, h1, rfl⟩, hop⟩ := fields_R he (ubBit_bits_lt _ false _) (fM_eq_bits_iff (x := false)).1
    exact decodes hop rfl (congrArg Except.ok (if_neg (by rw [h1]; decide)))
  case max | rem =>
    obtain ⟨rfl, rfl, rfl, ⟨rfl, h1, rfl⟩, hop⟩ := fields_R he (ubBit_bits_lt _ true _) (fM_eq_bits_iff (x := true)).1
    exact decodes hop rfl (congrArg Except.ok (if_pos h1))
  case and | or | xor | andn | shl | shrZ | shrS | rol =>
    obtain ⟨rfl, rfl, rfl, ⟨rfl, h⟩, hop⟩ := fields_R he (ubBit_add_lt _ (by decide)) (fM_eq_iff (by decide)).1
    exact decodes hop rfl (by change Except.ok _ = _; rw [h]; rfl)
  case setp =>
    obtain ⟨hd, rfl, rfl, ⟨rfl, rfl⟩, hop⟩ := fields_R he (ubBit_add_lt _ (intWBits_lt _)) fM_intW_iff.1
    obtain ⟨hcc, rfl⟩ := (fD_eq_ccP_iff (condIBits_lt _)).1 hd
    refine decodes hop rfl ?_
    change decode0 w 10 = _
    rw [decode0, eq_condIBits_iff.1 hcc]
    exact chk_eq hw rfl
  case popc | clz | brev | neg =>
    obtain ⟨rfl, rfl, hb, ⟨h2, h⟩, hop⟩ := fields_R he (by decide) (fM_eq_low_iff (by decide)).1
    exact decodes hop rfl (chk_not h2 (chk_dec hb (by rw [h]; rfl)))
  case addImm | uaddImm =>
    obtain ⟨rfl, rfl, rfl, hop⟩ := fields_I he
    exact decodes hop rfl rfl
  case movi | movh | umovi | umovh | loop =>
    obtain ⟨rfl, rfl, hop⟩ := fields_U he
    exact decodes hop rfl rfl
  -- class 0, the uniform forms
  case uadd | usub | umul | umad =>
    obtain ⟨rfl, rfl, rfl, ⟨h2, rfl⟩, hop⟩ := fields_R he ((intWBits_lt _).trans (by decide)) fM_eq_intW
    exact decodes hop rfl (chk_not h2 (chk_eq hw rfl))
  case uaddSat | usubSat | umulhi =>
    obtain ⟨rfl, rfl, rfl, ⟨h2, rfl, rfl⟩, hop⟩ := fields_R he ((bits_lt _ _).trans (by decide)) fM_eq_bits
    exact decodes hop rfl (chk_not h2 (chk_eq hw rfl))
  case umin | udiv =>
    obtain ⟨rfl, rfl, rfl, ⟨h2, h1, rfl⟩, hop⟩ := fields_R he ((bits_lt false _).trans (by decide)) (fM_eq_bits (x := false))
    exact decodes hop rfl (chk_not h2 (congrArg Except.ok (if_neg (by rw [h1]; decide))))
  case umax | urem =>
    obtain ⟨rfl, rfl, rfl, ⟨h2, h1, rfl⟩, hop⟩ := fields_R he ((bits_lt true _).trans (by decide)) (fM_eq_bits (x := true))
    exact decodes hop rfl (chk_not h2 (congrArg Except.ok (if_pos h1)))
  case uand | uor | uxor | uandn | ushl | ushrZ | ushrS | urol =>
    obtain ⟨rfl, rfl, rfl, ⟨h2, h⟩, hop⟩ := fields_R he (by decide) (fM_eq_low_iff (by decide)).1
    exact decodes hop rfl (chk_not h2 (by rw [h]; rfl))
  case usetp =>
    obtain ⟨hd, rfl, rfl, ⟨h2, rfl⟩, hop⟩ := fields_R he ((intWBits_lt _).trans (by decide)) fM_eq_intW
    obtain ⟨hcc, rfl⟩ := (fD_eq_ccP_iff (condIBits_lt _)).1 hd
    exact decodes hop rfl (chk_not h2 (by rw [eq_condIBits_iff.1 hcc]; exact chk_eq hw rfl))
  case upopc | uclz | ubrev | uneg =>
    obtain ⟨rfl, rfl, hb, ⟨h2, h⟩, hop⟩ := fields_R he (by decide) (fM_eq_low_iff (by decide)).1
    exact decodes hop rfl (chk_not h2 (chk_dec hb (by rw [h]; rfl)))
  -- class 1
  case fadd | fsub | fmul | haddF16 | hmulF16 | haddBf16 | hmulBf16 | cvtF32Qn4 =>
    obtain ⟨rfl, rfl, rfl, ⟨rfl, rfl⟩, hop⟩ := fields_R he (ubBit_add_lt _ (roundBits_lt _)) fM_round_iff.1
    exact decodes hop rfl rfl
  case ffma | dadd | dsub | dmul | dfma | hfmaF16 | hfmaBf16 =>
    obtain ⟨rfl, rfl, rfl, ⟨rfl, rfl⟩, hop⟩ := fields_R he (ubBit_add_lt _ (roundBits_lt _)) fM_round_iff.1
    exact decodes hop rfl (chk_eq hw rfl)
  case fmin | hminF16 | hminBf16 =>
    obtain ⟨rfl, rfl, rfl, ⟨rfl, h1, h0⟩, hop⟩ := fields_R he (ubBit_bits_lt _ false false) (fM_eq_bits_iff (x := false) (y := false)).1
    exact decodes hop rfl (chk_not h1 (congrArg Except.ok (if_neg (by rw [h0]; decide))))
  case fmax | hmaxF16 | hmaxBf16 =>
    obtain ⟨rfl, rfl, rfl, ⟨rfl, h1, h0⟩, hop⟩ := fields_R he (ubBit_bits_lt _ false true) (fM_eq_bits_iff (x := false) (y := true)).1
    exact decodes hop rfl (chk_not h1 (congrArg Except.ok (if_pos h0)))
  case dmin =>
    obtain ⟨rfl, rfl, rfl, ⟨rfl, h1, h0⟩, hop⟩ := fields_R he (ubBit_bits_lt _ false false) (fM_eq_bits_iff (x := false) (y := false)).1
    exact decodes hop rfl (chk_not h1 (chk_eq hw (congrArg Except.ok (if_neg (by rw [h0]; decide)))))
  case dmax =>
    obtain ⟨rfl, rfl, rfl, ⟨rfl, h1, h0⟩, hop⟩ := fields_R he (ubBit_bits_lt _ false true) (fM_eq_bits_iff (x := false) (y := true)).1
    exact decodes hop rfl (chk_not h1 (chk_eq hw (congrArg Except.ok (if_pos h0))))
  case fsetp =>
    obtain ⟨hd, rfl, rfl, ⟨rfl, h⟩, hop⟩ := fields_R he (ubBit_lt _) fM_eq_ub
    obtain ⟨hcc, rfl⟩ := (fD_eq_ccP_iff (condFBits_lt _)).1 hd
    exact decodes hop rfl (chk_dec h (by rw [eq_condFBits_iff.1 hcc]))
  case dsetp =>
    obtain ⟨hd, rfl, rfl, ⟨rfl, h⟩, hop⟩ := fields_R he (ubBit_lt _) fM_eq_ub
    obtain ⟨hcc, rfl⟩ := (fD_eq_ccP_iff (condFBits_lt _)).1 hd
    exact decodes hop rfl (chk_dec h (by rw [eq_condFBits_iff.1 hcc]; exact chk_eq hw rfl))
  case fabs | fneg =>
    obtain ⟨rfl, rfl, hb, ⟨h2, h⟩, hop⟩ := fields_R he (by decide) (fM_eq_low_iff (by decide)).1
    exact decodes hop rfl (by change decode1 w 6 = _; rw [decode1, h]; exact chk_not h2 (chk_dec hb rfl))
  case fcpsgn =>
    obtain ⟨rfl, rfl, rfl, ⟨rfl, h⟩, hop⟩ := fields_R he (ubBit_add_lt _ (by decide)) (fM_eq_iff (by decide)).1
    exact decodes hop rfl (by change decode1 w 6 = _; rw [decode1, h]; rfl)
  case dabs | dneg =>
    obtain ⟨rfl, rfl, hb, ⟨h2, h⟩, hop⟩ := fields_R he (by decide) (fM_eq_low_iff (by decide)).1
    exact decodes hop rfl (by change decode1 w 14 = _; rw [decode1, h]; exact chk_not h2 (chk_dec hb (chk_eq hw rfl)))
  case dcpsgn =>
    obtain ⟨rfl, rfl, rfl, ⟨rfl, h⟩, hop⟩ := fields_R he (ubBit_add_lt _ (by decide)) (fM_eq_iff (by decide)).1
    exact decodes hop rfl (by change decode1 w 14 = _; rw [decode1, h]; exact chk_eq hw rfl)
  case fclass | rcp | rsq | sqrt | exp2 | log2 | sin | cos =>
    obtain ⟨rfl, rfl, hb, hm, hop⟩ := fields_R he (by decide) id
    exact decodes hop rfl (chk_dec hm (chk_dec hb rfl))
  case dclass | twfirst =>
    obtain ⟨rfl, rfl, hb, hm, hop⟩ := fields_R he (by decide) id
    exact decodes hop rfl (chk_dec hm (chk_dec hb (chk_eq hw rfl)))
  -- class 2
  case cvtToF32 | cvtToF64 | cvtToF16 | cvtToBf16 | cvtToE4m3 | cvtToE5m2 =>
    obtain ⟨rfl, rfl, hb, hrm, hop⟩ := fields_R he (cvtRoundBits_lt _) eq_cvtRoundBits_iff.1
    obtain ⟨-, -, rfl⟩ := fB_eq_cvtSel_iff.1 hb
    exact decodes hop rfl (decodeCvt_eq hrm hb hw)
  case cvtQn4F32 =>
    obtain ⟨rfl, rfl, rfl, hrm, hop⟩ := fields_R he (cvtRoundBits_lt _) eq_cvtRoundBits_iff.1
    exact decodes hop rfl (by change decode2 w 6 = _; rw [decode2, hrm])
  case cvtToInteger d a dt f64 rm =>
    obtain ⟨rfl, rfl, hb, ⟨h2, h⟩, hop⟩ := fields_R he ((roundBits_lt _).trans (by decide)) (fM_eq_low_iff (roundBits_lt _)).1
    obtain rfl := (eq_roundBits_iff (fM10_lt w)).1 h
    obtain ⟨rfl, hst⟩ := fB_eq_toIntSel_iff.1 hb
    obtain rfl : decide (w.toNat / 2 ^ 11 % 16 = 5) = f64 := by cases f64 <;> rw [hst] <;> rfl
    refine decodes hop rfl (chk_eq ?_ (chk_not h2 (chk_eq hw rfl)))
    by_cases h5 : w.toNat / 2 ^ 11 % 16 = 5
    · rw [h5]; rfl
    · rw [hst, decide_eq_false h5]; rfl
  case bsel =>
    obtain ⟨rfl, rfl, rfl, ⟨rfl, h⟩, hop⟩ := fields_R he (ubBit_lt _) fM_eq_ub
    exact decodes hop rfl (chk_dec h (chk_eq hw rfl))
  case dp4 | dp2 =>
    obtain ⟨rfl, rfl, rfl, ⟨rfl, rfl⟩, hop⟩ := fields_R he (ubBit_add_lt _ (dotSignBits_lt _)) fM_dotSign_iff.1
    exact decodes hop rfl (chk_eq hw rfl)
  case hdp2 =>
    obtain ⟨rfl, rfl, rfl, ⟨rfl, h1, rfl⟩, hop⟩ := fields_R he (ubBit_add_lt _ (bit_lt_four _)) fM_eq_ub_bit
    exact decodes hop rfl (chk_not h1 (chk_eq hw rfl))
  -- class 3
  case bra | call | jtok =>
    obtain ⟨rfl, hop⟩ := fields_J he
    exact decodes hop rfl rfl
  case brx | ret =>
    obtain ⟨hd, rfl, hb, ⟨h2, h1, rfl⟩, hop⟩ := fields_R he ((bit_lt_four _).trans (by decide)) fM_eq_bit
    exact decodes hop rfl (chk_and (chk_not h2 (chk_not h1 (chk_and (chk_dec hd (chk_dec hb (chk_eq hw rfl)))))))
  case exit | join | tret | keyTake | keyPass | nop =>
    obtain ⟨hd, ha, hb, hm, hop⟩ := fields_R he (by decide) id
    exact decodes hop rfl (chk_dec hm (chk_and (chk_and (chk_dec hd (chk_dec ha (chk_dec hb rfl))))))
  case wbase | trap | brk =>
    obtain ⟨hd, ha, rfl, hop⟩ := fields_I he
    exact decodes hop rfl (chk_and (chk_dec hd (chk_dec ha rfl)))
  case part =>
    obtain ⟨hd, ha, rfl, hop⟩ := fields_I he
    exact decodes hop rfl (chk_eq hw (chk_and (chk_dec hd (chk_dec ha rfl))))
  case mfs | mts =>
    obtain ⟨rfl, rfl, hb, ⟨h2, h1, rfl⟩, hop⟩ := fields_R he ((bit_lt_four _).trans (by decide)) fM_eq_bit
    exact decodes hop rfl (chk_and (chk_not h2 (chk_not h1 (chk_dec hb (chk_eq hw rfl)))))
  case lpickAt | lpickBack | lpickFwd | lpickXor =>
    obtain ⟨rfl, rfl, rfl, ⟨rfl, h⟩, hop⟩ := fields_R he (ubBit_add_lt _ (by decide)) (fM_eq_iff (by decide)).1
    exact decodes hop rfl (by change Except.ok _ = _; rw [h]; rfl)
  case lpollAny | lpollAll =>
    obtain ⟨hd, ha, hb, hm, hop⟩ := fields_R he (by decide) id
    obtain ⟨hd₀, rfl⟩ := (fD_eq_ccP_iff (by decide)).1 hd
    obtain ⟨ha₀, rfl⟩ := fA_eq_ccP_iff.1 ha
    exact decodes hop rfl (by change decode3 w 13 = _; rw [decode3, hm]; exact chk_and (chk_and (chk_dec hd₀ (chk_dec ha₀ (chk_dec hb rfl)))))
  case lpollMap =>
    obtain ⟨rfl, ha, hb, hm, hop⟩ := fields_R he (by decide) id
    obtain ⟨ha₀, rfl⟩ := fA_eq_ccP_iff.1 ha
    exact decodes hop rfl (by change decode3 w 13 = _; rw [decode3, hm]; exact chk_and (chk_dec ha₀ (chk_dec hb rfl)))
  case redAdd | redMin | redMax =>
    obtain ⟨rfl, rfl, hb, ⟨rfl, h⟩, hop⟩ := fields_R he (ubBit_add_lt _ (by decide)) (fM_eq_iff (by decide)).1
    exact decodes hop rfl (by change decode3 w 14 = _; rw [decode3, h]; exact chk_dec hb rfl)
  case first =>
    obtain ⟨rfl, rfl, hb, ⟨h2, h1, rfl⟩, hop⟩ := fields_R he ((bit_lt_four _).trans (by decide)) fM_eq_bit
    exact decodes hop rfl (chk_and (chk_not h2 (chk_not h1 (chk_dec hb rfl))))
  case caddS32 | caddF32 | cminS32 | cminF32 | cmaxS32 | cmaxF32 | cmulF32 | cxorB32 =>
    obtain ⟨rfl, rfl, hb, ⟨h2, rfl, rfl⟩, hop⟩ := fields_R he ((bits_lt _ _).trans (by decide)) fM_eq_bits
    exact decodes hop rfl (chk_not h2 (chk_dec hb rfl))
  case caddS64 | caddF64 | cpassB64 =>
    obtain ⟨rfl, rfl, hb, ⟨h2, rfl, rfl⟩, hop⟩ := fields_R he ((bits_lt _ _).trans (by decide)) fM_eq_bits
    exact decodes hop rfl (chk_not h2 (chk_dec hb (chk_eq hw rfl)))
  case cfmaF32 =>
    obtain ⟨rfl, rfl, rfl, ⟨rfl, rfl, rfl⟩, hop⟩ := fields_R he (ubBit_bits_lt _ _ _) fM_eq_bits_iff.1
    exact decodes hop rfl rfl
  case cfmaF64 | atomMin | atomMax | fatomMin | fatomMax =>
    obtain ⟨rfl, rfl, rfl, ⟨rfl, rfl, rfl⟩, hop⟩ := fields_R he (ubBit_bits_lt _ _ _) fM_eq_bits_iff.1
    exact decodes hop rfl (chk_eq hw rfl)
  -- class 4
  case ldLn | stLn | ldDie | stDie | ldFab | stFab =>
    obtain ⟨rfl, rfl, rfl, ⟨rfl, rfl⟩, hop⟩ := fields_R he (ubBit_add_lt _ (sizeBits_lt _)) fM_size_iff.1
    exact decodes hop rfl (chk_eq hw rfl)
  case ldTs | stTs | ldAcc | stAcc =>
    obtain ⟨rfl, rfl, rfl, rfl, hop⟩ := fields_H he (sizeBits_lt _) (eq_sizeBits_iff (fM10_lt w)).1
    exact decodes hop rfl (chk_eq hw rfl)
  case ldHost | stHost =>
    obtain ⟨rfl, rfl, hb, ⟨h2, h⟩, hop⟩ := fields_R he ((sizeBits_lt _).trans (by decide)) (fM_eq_low_iff (sizeBits_lt _)).1
    obtain rfl := (eq_sizeBits_iff (fM10_lt w)).1 h
    obtain ⟨h17, rfl⟩ := fB_eq_zeroExtend6_iff.1 hb
    exact decodes hop rfl (chk_not h2 (chk_dec h17 (chk_eq hw rfl)))
  case stMc =>
    obtain ⟨rfl, rfl, hb, ⟨rfl, rfl⟩, hop⟩ := fields_R he (ubBit_add_lt _ (sizeBits_lt _)) fM_size_iff.1
    obtain ⟨h15, rfl⟩ := fB_eq_zeroExtend4_iff.1 hb
    obtain ⟨hn, hr⟩ := Bool.and_eq_true_iff.1 hw
    exact decodes hop rfl (chk_dec (bne_iff_ne.1 hn) (chk_dec h15 (chk_eq hr rfl)))
  case atomAdd | atomAnd | atomOr | atomXor | atomExch | atomCas | fatomAdd | fatomAnd | fatomOr | fatomXor | fatomExch | fatomCas =>
    obtain ⟨rfl, rfl, rfl, ⟨rfl, h1, rfl⟩, hop⟩ := fields_R he (ubBit_add_lt _ (bit_lt_four _)) fM_eq_ub_bit
    exact decodes hop rfl (chk_not h1 (chk_eq hw rfl))
  -- class 5
  case talloc =>
    obtain ⟨hd, rfl, rfl, hlv, hop⟩ := fields_H he (levelBits_lt _) eq_levelBits_iff.1
    obtain ⟨rfl, rfl⟩ := fD_eq_fmt_iff.1 hd
    exact decodes hop rfl (by change decode5 w 0 = _; rw [decode5, hlv]; exact chk_eq hw rfl)
  case tfree =>
    obtain ⟨hd, rfl, hb, hm, hop⟩ := fields_H he (by decide) id
    exact decodes hop rfl (chk_dec hm (chk_and (chk_dec hd (chk_dec hb rfl))))
  case tdesc =>
    obtain ⟨rfl, rfl, hb, ⟨h1, rfl⟩, hop⟩ := fields_H he (bit_lt_four _) fM10_eq_bit
    exact decodes hop rfl (chk_not h1 (chk_dec hb (chk_eq hw rfl)))
  case rlwSet =>
    obtain ⟨hd, rfl, rfl, hm, hop⟩ := fields_R he (by decide) id
    exact decodes hop rfl (chk_dec hm (chk_dec hd (chk_eq hw rfl)))
  case rlwNext =>
    obtain ⟨rfl, ha, hb, hm, hop⟩ := fields_R he (by decide) id
    obtain ⟨h14, rfl⟩ := fB_eq_zeroExtend3_iff.1 hb
    obtain ⟨hp, hr⟩ := Bool.and_eq_true_iff.1 hw
    exact decodes hop rfl (chk_and (chk_dec hm (chk_dec (bne_iff_ne.1 hp) (chk_and (chk_dec ha (chk_dec h14 (chk_eq hr rfl)))))))
  case tatomAdd | tatomMin | tatomMax | tatomExch | tatomCas =>
    obtain ⟨rfl, rfl, rfl, hm, hop⟩ := fields_H he (by decide) id
    exact decodes hop rfl (chk_dec hm (chk_eq hw rfl))
  case phReg =>
    obtain ⟨hd, ha, hb, ⟨h2, rfl⟩, hop⟩ := fields_R he ((BitVec.isLt _).trans (by decide)) fM_eq_role_iff.1
    obtain ⟨hd₀, rfl⟩ := fD_eq_zeroExtend4_iff.1 hd
    exact decodes hop rfl (chk_not h2 (chk_and (chk_and (chk_dec hd₀ (chk_dec ha (chk_dec hb rfl))))))
  case phArrive | phWait =>
    obtain ⟨hd, ha, hb, hm, hop⟩ := fields_R he (by decide) id
    obtain ⟨hd₀, rfl⟩ := fD_eq_zeroExtend4_iff.1 hd
    exact decodes hop rfl (chk_dec hm (chk_and (chk_and (chk_dec hd₀ (chk_dec ha (chk_dec hb rfl))))))
  case phExpect =>
    obtain ⟨hd, ha, rfl, hm, hop⟩ := fields_R he (by decide) id
    obtain ⟨hd₀, rfl⟩ := fD_eq_zeroExtend4_iff.1 hd
    exact decodes hop rfl (chk_dec hm (chk_and (chk_dec hd₀ (chk_dec ha rfl))))
  case rbGive | rbClaim =>
    obtain ⟨hd, ha, hb, hm, hop⟩ := fields_R he (by decide) id
    obtain ⟨h15, rfl⟩ := fB_eq_zeroExtend4_iff.1 hb
    exact decodes hop rfl (chk_and (chk_dec hm (chk_dec (bne_iff_ne.1 hw) (chk_and (chk_and (chk_dec hd (chk_dec ha (chk_dec h15 rfl))))))))
  case monArm =>
    obtain ⟨hd, rfl, hb, ⟨h2, rfl, rfl⟩, hop⟩ := fields_R he ((bits_lt _ _).trans (by decide)) fM_eq_bits
    obtain ⟨hd₀, rfl⟩ := (fD_eq_ccP_iff (by decide)).1 hd
    exact decodes hop rfl (chk_not h2 (chk_and (chk_dec hd₀ (chk_dec hb (chk_eq hw rfl)))))
  case monWait =>
    obtain ⟨hd, ha, rfl, hm, hop⟩ := fields_R he (by decide) id
    obtain ⟨hd₀, rfl⟩ := (fD_eq_ccP_iff (by decide)).1 hd
    exact decodes hop rfl (chk_dec hm (chk_and (chk_dec hd₀ (chk_dec ha rfl))))
  case monDisarm =>
    obtain ⟨hd, rfl, hb, ⟨h2, rfl, rfl⟩, hop⟩ := fields_R he ((bits_lt _ _).trans (by decide)) fM_eq_bits
    exact decodes hop rfl (chk_not h2 (chk_and (chk_dec hd (chk_dec hb (chk_eq hw rfl)))))
  case fence =>
    obtain ⟨hd, ha, hb, hsc, hop⟩ := fields_R he (scopeBits_lt _) eq_scopeBits_iff.1
    exact decodes hop rfl (by change decode5 w 21 = _; rw [decode5, hsc]; exact chk_and (chk_and (chk_dec hd (chk_dec ha (chk_dec hb rfl)))))
  -- class 6
  case cpFill | cpDrain | cpTt | tsend | tland | launch | dbgWatch =>
    obtain ⟨rfl, rfl, rfl, hm, hop⟩ := fields_R he (by decide) id
    exact decodes hop rfl (chk_dec hm (chk_eq hw rfl))
  case cpHost | cpFab | cpGth | cpTrn =>
    obtain ⟨rfl, rfl, rfl, ⟨h2, h1, rfl⟩, hop⟩ := fields_R he ((bit_lt_four _).trans (by decide)) fM_eq_bit
    exact decodes hop rfl (chk_and (chk_not h2 (chk_not h1 (chk_eq hw rfl))))
  case cpAcc =>
    obtain ⟨rfl, rfl, rfl, hrm, hop⟩ := fields_R he (cvtRoundBits_lt _) eq_cvtRoundBits_iff.1
    exact decodes hop rfl (by change decode6 w 7 = _; rw [decode6, hrm]; exact chk_eq hw rfl)
  case mx =>
    obtain ⟨rfl, rfl, rfl, hp, hop⟩ := fields_R he (pairBits_lt _) eq_pairBits_iff.1
    exact decodes hop rfl (by change decode6 w 8 = _; rw [decode6, hp]; exact chk_eq hw rfl)
  case twany | twall =>
    obtain ⟨hd, rfl, hb, hm, hop⟩ := fields_R he (by decide) id
    exact decodes hop rfl (chk_dec hm (chk_and (chk_dec hd (chk_dec hb (chk_eq hw rfl)))))
  -- class 7
  case driftSet | driftStep =>
    obtain ⟨hd, rfl, rfl, hm, hop⟩ := fields_R he (by decide) id
    exact decodes hop rfl (by change decode7 w 2 = _; rw [decode7, hm]; exact chk_dec hd rfl)
  case dbgBpClr =>
    obtain ⟨hd, ha, rfl, hm, hop⟩ := fields_R he (by decide) id
    obtain ⟨hd₀, rfl⟩ := fD_eq_zeroExtend3_iff.1 hd
    exact decodes hop rfl (by change decode7 w 8 = _; rw [decode7, hm]; exact chk_and (chk_dec hd₀ (chk_dec ha rfl)))
  case dbgBpSet =>
    obtain ⟨hd, rfl, rfl, hm, hop⟩ := fields_R he (by decide) id
    obtain ⟨hd₀, rfl⟩ := fD_eq_zeroExtend3_iff.1 hd
    exact decodes hop rfl (by change decode7 w 8 = _; rw [decode7, hm]; exact chk_dec hd₀ (chk_eq hw rfl))
  case dbgBpClaim | dbgBpFree =>
    obtain ⟨hd, ha, rfl, hm, hop⟩ := fields_R he (by decide) id
    exact decodes hop rfl (by change decode7 w 8 = _; rw [decode7, hm]; exact chk_and (chk_dec hd (chk_dec ha rfl)))
  case dbgHold | dbgRun =>
    obtain ⟨hd, ha, rfl, ⟨h2, h1, rfl⟩, hop⟩ := fields_R he ((bit_lt_four _).trans (by decide)) fM_eq_bit
    exact decodes hop rfl (chk_and (chk_not h2 (chk_not h1 (chk_and (chk_dec hd (chk_dec ha rfl))))))
  case dbgStep =>
    obtain ⟨hd, ha, rfl, ⟨h2, h1, h0⟩, hop⟩ := fields_R he (by decide) (fM_eq_bit (y := false))
    exact decodes hop rfl (chk_and (chk_not h2 (chk_not h1 (chk_and (chk_dec hd (chk_dec ha (congrArg Except.ok (if_neg (by rw [h0]; decide)))))))))
  case dbgStepTrap =>
    obtain ⟨hd, ha, rfl, ⟨h2, h1, h0⟩, hop⟩ := fields_R he (by decide) (fM_eq_bit (y := true))
    exact decodes hop rfl (chk_and (chk_not h2 (chk_not h1 (chk_and (chk_dec hd (chk_dec ha (congrArg Except.ok (if_pos h0))))))))
  case dbgMbox | dbgMboxBase | dbgMboxRec =>
    obtain ⟨hd, rfl, rfl, hm, hop⟩ := fields_R he (by decide) id
    exact decodes hop rfl (by change decode7 w 13 = _; rw [decode7, hm]; exact chk_dec hd (chk_eq hw rfl))
  case dbgMboxSamp =>
    obtain ⟨hd, rfl, rfl, hm, hop⟩ := fields_R he (by decide) id
    exact decodes hop rfl (by change decode7 w 13 = _; rw [decode7, hm]; exact chk_dec hd rfl)
  -- an event has no word
  all_goals exact nomatch he
end
end Sys2Proof

/-! O4: past the check of the opcode, no class of the decoder answers that an opcode is unassigned. -/

namespace Sys2Proof

section
variable {w : W32} {op : Nat} {c : Bool} {k : Dec}

/-- No other check answers that the opcode is unassigned. -/
theorem chk_unassigned {e : Bad} (he : e ≠ .unassigned) : chk c e k = .error .unassigned ↔ c = true ∧ k = .error .unassigned := by
  cases c <;> simp [chk, he]

theorem decodeCvt_known (dst : SType) (f : SType → CvtRound → Instr) : decodeCvt w dst f ≠ .error .unassigned := by
  unfold decodeCvt
  split <;> simp [chk_unassigned]

/-! The opcodes that each class leaves free. -/

theorem decode0_unassigned (h : decode0 w op = .error .unassigned) : 16 ≤ op := by
  unfold decode0 at h
  split at h
  case h_17 => simp only [imp_false] at *; omega
  case h_11 => split at h <;> simp [chk_unassigned] at h
  all_goals simp [chk_unassigned] at h

theorem decode0u_unassigned (h : decode0u w op = .error .unassigned) : op < 16 ∨ 32 ≤ op := by
  unfold decode0u at h
  split at h
  case h_17 => simp only [imp_false] at *; omega
  case h_11 =>
    rw [chk_unassigned (by decide)] at h
    split at h <;> simp [chk_unassigned] at h
  all_goals simp [chk_unassigned] at h

theorem decode1_unassigned (h : decode1 w op = .error .unassigned) : 24 ≤ op := by
  unfold decode1 at h
  split at h
  case h_25 => simp only [imp_false] at *; omega
  case h_6 | h_14 =>
    rw [chk_unassigned (by decide)] at h
    split at h <;> simp [chk_unassigned] at h
  case h_7 | h_15 => split at h <;> simp [chk_unassigned] at h
  all_goals simp [chk_unassigned] at h

theorem decode2_unassigned (h : decode2 w op = .error .unassigned) : 20 ≤ op := by
  unfold decode2 at h
  split at h
  case h_21 => simp only [imp_false] at *; omega
  case h_7 => split at h <;> simp at h
  all_goals simp [chk_unassigned, decodeCvt_known] at h

theorem decode3_unassigned (h : decode3 w op = .error .unassigned) : 32 ≤ op := by
  unfold decode3 at h
  split at h
  case h_33 => simp only [imp_false] at *; omega
  case h_14 | h_15 => split at h <;> simp [chk_unassigned] at h
  all_goals simp [chk_unassigned] at h

theorem decode4_unassigned (h : decode4 w op = .error .unassigned) : 12 < op ∧ op < 16 ∨ 32 ≤ op := by
  unfold decode4 at h
  split at h
  case h_30 => simp only [imp_false] at *; omega
  all_goals simp [chk_unassigned] at h

theorem decode5_unassigned (h : decode5 w op = .error .unassigned) : 22 ≤ op := by
  unfold decode5 at h
  split at h
  case h_23 => simp only [imp_false] at *; omega
  case h_1 | h_22 => split at h <;> simp [chk_unassigned] at h
  all_goals simp [chk_unassigned] at h

theorem decode6_unassigned (h : decode6 w op = .error .unassigned) : 14 ≤ op := by
  unfold decode6 at h
  split at h
  case h_15 => simp only [imp_false] at *; omega
  case h_8 | h_9 => split at h <;> simp [chk_unassigned] at h
  all_goals simp [chk_unassigned] at h

theorem decode7_unassigned (h : decode7 w op = .error .unassigned) : 2 < op ∧ op < 8 ∨ 14 ≤ op := by
  unfold decode7 at h
  split at h
  case h_10 => simp only [imp_false] at *; omega
  case h_3 | h_4 | h_9 => split at h <;> simp [chk_unassigned] at h
  all_goals simp [chk_unassigned] at h

/-- The check of the opcode follows the opcode map. -/
theorem assigned_eq_false_iff (hop : op < 256) : assigned op = false ↔ Say.unassigned op := by
  simp only [assigned, Say.unassigned, Bool.or_eq_false_iff, Bool.and_eq_false_iff, decide_eq_false_iff_not]
  omega

/-- A class that answers so leaves the opcode free. -/
theorem decodeClass_unassigned (w : W32) : decodeClass w (fOp w / 32) (fOp w % 32) = .error .unassigned → Say.unassigned (fOp w) := by
  refine decodeClass_cases (P := fun op x => x = .error .unassigned → Say.unassigned op) w ?_ ?_ ?_ ?_ ?_ ?_ ?_ ?_ ?_ <;>
    intro o ho h <;> unfold Say.unassigned
  · have := decode0_unassigned h; omega
  · have := decode0u_unassigned h; omega
  · have := decode1_unassigned h; omega
  · have := decode2_unassigned h; omega
  · have := decode3_unassigned h; omega
  · have := decode4_unassigned h; omega
  · have := decode5_unassigned h; omega
  · have := decode6_unassigned h; omega
  · have := decode7_unassigned h; omega

theorem decodeWord_unassigned_iff (accept w : W32) : decodeWord accept w = .error .unassigned ↔ assigned (fOp w) = false := by
  unfold decodeWord
  cases ha : assigned (fOp w)
  · exact iff_of_true rfl rfl
  · refine iff_of_false (fun h => ?_) (by decide)
    obtain ⟨-, h⟩ := (chk_unassigned (e := .feature) (by decide)).1 h
    rw [(assigned_eq_false_iff (fOp_lt w)).2 (decodeClass_unassigned w h)] at ha
    exact Bool.noConfusion ha

end
end Sys2Proof

namespace Sys2Proof.Proofs

/-- Settles O1: the word of an instruction has its operands as fields, and each arm of the decoder gives them back. -/
theorem decodeEncode : Obligations.DecodeEncode := fun _ _ => decodeWord_encode

/-- Settles O2: each arm of the decoder answers an instruction of which every field of the word is an operand, or is checked to be
what the encoder puts there. -/
theorem encodeDecode : Obligations.EncodeDecode := fun accept w => reads_decodeWord accept w

/-- Settles O3: each of the nine is the word of its well-formed instruction. -/
theorem decodeWords : Obligations.DecodeWords :=
  ⟨decodeWord_encode rfl rfl, decodeWord_encode rfl rfl, decodeWord_encode rfl rfl, decodeWord_encode rfl rfl, decodeWord_encode rfl rfl,
    decodeWord_encode rfl rfl, decodeWord_encode rfl rfl, decodeWord_encode rfl rfl, decodeWord_encode rfl rfl⟩

/-- Settles O4: the first check of the decoder follows the opcode map, and no later one answers that the opcode is unassigned. -/
theorem unassignedOpcodes : Obligations.UnassignedOpcodes := fun accept w =>
  (decodeWord_unassigned_iff accept w).trans (assigned_eq_false_iff (fOp_lt w))

end Sys2Proof.Proofs

/-! SUPPORT. Checks of an issue that fail before the instruction acts (R95, R102, R112, R115). -/

namespace Sys2Proof.Machine

open Sys2Proof.Say

variable {s : State} {t : Site}

/-! ## Privileged instructions (R112) -/

/-- A privileged instruction is an issue with the privilege check alone, and one that is disabled takes its turn. -/
theorem exec_privileged {i : Instr} (hi : privileged i = true) (s : State) :
    ∃ act, exec i s = issue true 0 (fun _ => none) act s ∧ ∀ t w, t.once = false → act t w = w := by
  unfold privileged at hi
  split at hi
  case h_1 | h_2 => exact ⟨_, rfl, fun t w ht => if_pos (by simp [ht])⟩
  case h_16 => cases hi
  all_goals exact ⟨_, rfl, fun t w ht => if_neg (by simp [ht])⟩

/-- The answer of a privileged issue in a block with privilege. -/
theorem issue_privileged {act : Site → World → World} (h : At s t) (hp : t.b.bind.priv = true) :
    issue true 0 (fun _ => none) act s = .next (commit s (act t (beginIssue t (enter s)))) := by
  rw [issue_eq h.1, endStep_plain h.2, issueWorld_run (fun _ => hp) (.inl rfl) rfl]

/-! ## Targets (R95, R102) -/

theorem badOffset_below {off : Int} (h : (t.i.pc : Int) + off < 0) : badOffset off t = some 0 := by
  simp only [badOffset, offsetTarget, if_pos h]

/-- A transfer with an offset checks its target whatever the lanes. -/
theorem exec_offset {i : Instr} {off : Int} (hi : offsetOf i = some off) (s : State) :
    ∃ act, exec i s = issue false 0 (badOffset off) act s := by
  unfold offsetOf at hi
  split at hi
  case h_5 => cases hi
  all_goals
    cases hi
    exact ⟨_, rfl⟩

/-- A lane of the issuing path is enabled where the statements say so. -/
theorem getLsbD_enabled {j : Nat} (hj : j < 32) : t.enabled.getLsbD j = on t j := by
  cases hn : t.i.neg <;> simp [Site.enabled, on, Course.enabled, hn, hj]

/-- The bad target of `brx` and `ret` is that of the lowest enabled lane whose PC fails. -/
theorem badRegTarget_lowest {a : Reg} {uni : Bool} {j : Nat} (hj : j < 32) (hon : on t j = true)
    (hgood : ∀ l, l < j → on t l = true → pcGood (regTarget t a uni l) = true) (hbad : pcGood (regTarget t a uni j) = false) :
    badRegTarget a uni t = some (regTarget t a uni j) := by
  have hfirst : (lanesOf t.enabled).find? (fun l => !pcGood (regTarget t a uni l)) = some j := by
    rw [lanesOf, List.find?_filter, List.find?_range_eq_some]
    refine ⟨by simp [getLsbD_enabled hj, hon, hbad], List.mem_range.mpr hj, fun l hl => ?_⟩
    rw [getLsbD_enabled (hl.trans hj)]
    cases hl' : on t l <;> simp_all
  rw [badRegTarget, List.find?_map]
  exact congrArg (Option.map _) hfirst

/-- A target that fails faults in decode. -/
theorem issue_bad {top : Nat} {bad : Site → Option W64} {act : Site → World → World} {v : W64} (h : At s t) (hfits : Fits t top)
    (hbad : bad t = some v) : ∃ s', issue false top bad act s = .next s' ∧ DecodeFaults s s' t 0x04 0 v := by
  rw [issue_eq h.1, endStep_plain h.2, issueWorld_bad (by simp) hfits hbad]
  exact ⟨_, rfl, decodeFaults h 0x04 0 v⟩

end Sys2Proof.Machine

namespace Sys2Proof.Proofs

open Sys2Proof.Machine Sys2Proof.Say

/-- Settles O11: each is an issue with the privilege check, which comes before everything else. -/
theorem privilegedFaults : Obligations.PrivilegedFaults := by
  intro i s t hi h hpriv
  obtain ⟨act, he, -⟩ := exec_privileged hi s
  rw [he, issue_eq h.1, endStep_plain h.2, issueWorld_priv hpriv]
  exact ⟨_, rfl, decodeFaults h 0x07 0 0⟩

/-- Settles O13: `badOffset` finds the target below 0, and `badRegTarget` the lowest enabled lane whose PC fails. -/
theorem targetFaults : Obligations.TargetFaults := by
  refine ⟨fun i off s t hi h hlow => ?_, fun a uni s t j h hfits hj hon hgood hbad => ?_⟩
  · obtain ⟨act, he⟩ := exec_offset hi s
    rw [he]
    exact issue_bad h (.inl rfl) (badOffset_below hlow)
  · have htop : Fits t (if uni then 0 else a.toNat + 2) := by
      cases uni with
      | true => exact .inl rfl
      | false => simpa using hfits
    have hfirst := badRegTarget_lowest hj hon hgood hbad
    exact ⟨issue_bad h htop hfirst, issue_bad h htop hfirst⟩

/-- Settles O17: beginning the issue is all that `nop` does. -/
theorem nopIssue : Obligations.NopIssue := by
  intro s t h
  have hm := moves_beginIssue s t
  exact ⟨_, issuePlain_run h, hm.issued, ⟨hm.own, hm.others, hm.blocks, hm.tiles, hm.tags, hm.cmds, hm.arms, hm.watches, hm.trap⟩,
    hm.flights, hm.accs, hm.results⟩

end Sys2Proof.Proofs

/-! SUPPORT. A predicate result that lands (R105, R118, R155). -/

namespace Sys2Proof.Machine

open Sys2Proof.Say

/-- The lanes of a predicate that a write reaches take its values; p7 and every other predicate and lane stand. -/
theorem getLsbD_pred_setPred (k : Course) (p q : BitVec 3) (m v : LaneMask) {j : Nat} (hj : j < 32) :
    ((k.setPred p m v).pred q).getLsbD j = if q = p ∧ p ≠ 7 ∧ m.getLsbD j = true then v.getLsbD j else (k.pred q).getLsbD j := by
  by_cases hp : p = 7
  · subst hp
    rw [setPred_seven, if_neg (by simp)]
  · by_cases hq : q = p
    · subst hq
      have hp' : q ≠ 7#3 := hp
      simp only [Course.setPred, Course.pred, hp, if_false, Tab.get_set_same]
      cases hm : m.getLsbD j <;> simp [hm, hj, hp', -BitVec.getLsbD_eq_getElem]
    · have hn : q.toNat ≠ p.toNat := fun h => hq (BitVec.eq_of_toNat_eq h)
      simp only [Course.setPred, Course.pred, hp, hq, if_false, false_and, Tab.get_set_other _ _ _ hn]

/-- One predicate write that lands (R118, R155): the course holds it in its live lanes, and raises the result's flags. -/
theorem landed_pred {r : Result} {p : BitVec 3} {m v : LaneMask} (k : Course) (hw : r.writes = [.pred p m v]) :
    ∃ f, k.landed r = { k.setPred p (m &&& k.live) v with fpst := f } := by
  simp only [Course.landed, hw, List.foldl_cons, List.foldl_nil, clearGranule, Course.land]
  split <;> exact ⟨_, rfl⟩

end Sys2Proof.Machine

namespace Sys2Proof.Proofs

open Sys2Proof.Machine Sys2Proof.Say

/-- Settles O24: the landed course is the old one with the predicate set under the live lanes of its mask. -/
theorem predicateResultLands : Obligations.PredicateResultLands := by
  intro s c rid r k p m v h hw
  obtain ⟨s', he, hl, hb⟩ := exec_resultReady h
  obtain ⟨f, hk⟩ := landed_pred k hw
  have hsame : ∃ x, k.setPred p (m &&& k.live) v = { k with preds := x } := by
    unfold Course.setPred
    split <;> exact ⟨_, rfl⟩
  rw [hw] at hb
  rw [hk] at hl
  refine ⟨s', _, he, hl, fun o => congrArg (Tab.find · o) hb, ?_, ?_, ?_, ?_, pred_seven k, pred_seven _, fun q j hj => ?bits⟩
  case bits =>
    refine (getLsbD_pred_setPred k p q (m &&& k.live) v hj).trans ?_
    simp only [BitVec.getLsbD_and, Bool.and_eq_true]
  all_goals
    obtain ⟨x, hx⟩ := hsame
    rw [hx]

end Sys2Proof.Proofs

/-! SUPPORT. Moves between uniform and special registers (R106, R161, R162, R386). -/

namespace Sys2Proof.Machine

open Sys2Proof.Say

variable {s : State} {t : Site}

/-! ## Special registers at an issue (R161) -/

theorem sashOf_beginIssue (t : Site) (w : World) : sashOf (beginIssue t w) t.i.core = sashOf w t.i.core := by
  unfold sashOf
  rw [(passes_beginIssue t w).own]
  rfl

/-- `%bri` of any course of the issuing core: an issue changes no `%bro` (R20). -/
theorem briOf_beginIssue_core (h : At s t) (cr : Nat) :
    briOf (beginIssue t (enter s)) t.i.core t.b cr = briOf (enter s) t.i.core t.b cr := by
  obtain ⟨-, -, hk, -, -⟩ := siteOf_some h.1
  unfold briOf
  by_cases hkey : 32 * t.b.bind.owner + (cr - 1) = 32 * t.i.owner + t.i.cr
  · have hold : (enter s).course? t.i.core t.b.bind.owner (cr - 1) = some t.k := by rw [← hk]; unfold World.course?; rw [hkey]
    have hnew : (beginIssue t (enter s)).course? t.i.core t.b.bind.owner (cr - 1) = some (issuedCourse t) := by
      rw [← (passes_beginIssue t (enter s)).course]; unfold World.course?; rw [hkey]
    rw [hold, hnew]
    have hbro : (issuedCourse t).bro = t.k.bro := by unfold issuedCourse Course.setPath; split <;> rfl
    simp only [hbro]
  · rw [(passes_beginIssue t (enter s)).others _ _ hkey]

/-- A special register as an instruction reads it at its issue is that of the state. -/
theorem readSr_beginIssue (h : At s t) (n lane : Nat) :
    readSr (beginIssue t (enter s)) t.i.core t.b t.k n lane t.k.dii = special s t n lane := by
  unfold readSr
  simp only [vccOf, sashOf_beginIssue, blockTags_beginIssue, briOf_beginIssue_core h]
  rfl

/-! ## Untimed inputs (R386) -/

theorem dieWrite_cores (w : World) (d off : Nat) (bs : List Byte) : (dieWrite w d off bs).mach.cores = w.mach.cores := by
  unfold dieWrite outsideWrite
  split
  · split <;> rfl
  · rfl

theorem ringWrite_cores (w : World) (d base : Nat) (l : List Nat) : (ringWrite w d base l).mach.cores = w.mach.cores := by
  rw [ringWrite]
  split
  · exact (dieWrite_cores ..).trans (dieWrite_cores ..)
  · exact dieWrite_cores ..

/-- An untimed input changes no core, whatever its die records or replays. -/
theorem untimed_cores (w : World) (c o r l pc a v : Nat) : (untimed w c o r l pc a v).1.mach.cores = w.mach.cores := by
  unfold untimed
  simp only
  split
  · exact ringWrite_cores ..
  · split <;> rfl

theorem core_of_cores {w w' : World} (h : w'.mach.cores = w.mach.cores) (c : Nat) : w'.core c = w.core c := by
  unfold World.core; rw [h]

/-- An instruction that executes once leaves its course and one result, also where its operand is an untimed input. -/
theorem onceResult_of_cores {w : World} (hw : w.mach.cores = (beginIssue t (enter s)).mach.cores) (lat : Nat) (l : List Write) :
    course (commit s (onceResult t lat l w)) t.i.core t.i.owner t.i.cr = some (issuedCourse t) ∧
      (Say.core (commit s (onceResult t lat l w)) t.i.core).results =
        (Say.core s t.i.core).results ++ [pending s t (t.i.cyc + lat) l] := by
  have hm := moves_onceResult s t lat l
  have hcore : (onceResult t lat l w).core t.i.core = (onceResult t lat l (beginIssue t (enter s))).core t.i.core := by
    simp only [onceResult, pushResult, core_modCore_same, core_of_cores hw]
  refine ⟨?_, ?_⟩
  · rw [← hm.own]
    exact congrArg (fun x : Core => x.courses.find (32 * t.i.owner + t.i.cr)) hcore
  · rw [← hm.results]
    exact congrArg Core.results hcore

/-! ## `mfs` and `mts` of a uniform register (R161, R162) -/

/-- The writes of `mfs` to a uniform register or pair. -/
def mfsWrites (d sr : Reg) (v : W64) : List Write := if srWide sr.toNat then uniPairWrites d.toNat v else [.uni d.toNat (v.truncate 32)]

theorem dstWrites_mfs (d sr : Reg) (v : W64) : dstWrites (uniDst (srWide sr.toNat) d) 0 v = mfsWrites d sr v := by
  unfold mfsWrites
  cases srWide sr.toNat <;> rfl

/-- What `mfs` reads, and the world with the input in its log. -/
def mfsRead (sr : Reg) (t : Site) (w : World) : World × Nat :=
  let v := readSr w t.i.core t.b t.k sr.toNat (lowestLane t.p.mask) t.k.dii
  if sr = 5 then untimed w t.i.core t.i.owner t.i.cr (lowestLane t.p.mask) (pcWord t.i.pc).toNat 0 v.toNat else (w, v.toNat)

/-- `mfs` to a uniform register at a site. -/
theorem exec_mfs_uni (h : At s t) (d sr : Reg) :
    exec (.mfs d sr true) s = .next (commit s (if t.once then
      onceResult t 2 (dstWrites (uniDst (srWide sr.toNat) d) 0 (BitVec.ofNat 64 (mfsRead sr t (beginIssue t (enter s))).2))
        (mfsRead sr t (beginIssue t (enter s))).1
    else beginIssue t (enter s))) :=
  issuePlain_run (act := fun t w => if t.once then
    onceResult t 2 (dstWrites (uniDst (srWide sr.toNat) d) 0 (BitVec.ofNat 64 (mfsRead sr t w).2)) (mfsRead sr t w).1 else w) h

/-- The value as it stands at the issue, where no log answers for it. -/
theorem mfsRead_plain (h : At s t) {sr : Reg} (hplain : sr ≠ 5 ∨ (die s (dieOf t.i.core)).recMode = 0) :
    mfsRead sr t (beginIssue t (enter s)) = (beginIssue t (enter s), (special s t sr.toNat (lowestLane t.p.mask)).toNat) := by
  unfold mfsRead
  rw [readSr_beginIssue h]
  refine ite_eq_right_iff.mpr fun hsr => ?_
  have hrec : ((beginIssue t (enter s)).die (dieOf t.i.core)).recMode = 0 := hplain.resolve_left (not_not_intro hsr)
  exact untimed_plain hrec ..

theorem mfsRead_cores (sr : Reg) (t : Site) (w : World) : (mfsRead sr t w).1.mach.cores = w.mach.cores := by
  unfold mfsRead
  split
  · exact untimed_cores ..
  · rfl

/-- A disabled `mfs` takes its turn alone. -/
theorem exec_mfs_off (h : At s t) (d sr : Reg) (hoff : once t = false) :
    ∃ s', exec (.mfs d sr true) s = .next s' ∧ Moves s s' t (issuedCourse t) [] := by
  rw [exec_mfs_uni h, if_neg (by simp [site_once, hoff])]
  exact ⟨_, rfl, moves_beginIssue s t⟩

/-- A read that is no untimed input of a log leaves the value of the state. -/
theorem exec_mfs_plain (h : At s t) (d sr : Reg) (hon : once t = true) (hplain : sr ≠ 5 ∨ (die s (dieOf t.i.core)).recMode = 0) :
    ∃ s', exec (.mfs d sr true) s = .next s' ∧
      Moves s s' t (issuedCourse t) [pending s t (t.i.cyc + 2) (mfsWrites d sr (special s t sr.toNat (lowestLane t.p.mask)))] := by
  rw [exec_mfs_uni h, if_pos (by rw [site_once, hon]), mfsRead_plain h hplain, dstWrites_mfs, BitVec.ofNat_toNat, BitVec.setWidth_eq]
  exact ⟨_, rfl, moves_onceResult s t 2 _⟩

/-- Any read leaves its course and one result. -/
theorem exec_mfs_any (h : At s t) (d sr : Reg) (hon : once t = true) : ∃ s' v, exec (.mfs d sr true) s = .next s' ∧
    course s' t.i.core t.i.owner t.i.cr = some (issuedCourse t) ∧
    (Say.core s' t.i.core).results = (Say.core s t.i.core).results ++ [pending s t (t.i.cyc + 2) (mfsWrites d sr v)] := by
  rw [exec_mfs_uni h, if_pos (by rw [site_once, hon]), dstWrites_mfs]
  exact ⟨_, _, rfl, onceResult_of_cores (mfsRead_cores ..) 2 _⟩

/-- The operand of `mts` from a uniform register. -/
def mtsValue (t : Site) (sr a : Reg) : W64 := t.k.src 0 (if srWide sr.toNat then .uniPair a.toNat else .uni a.toNat)

/-- `mts` from a uniform register: what its check of a PC finds. -/
def mtsBad (sr a : Reg) (t : Site) : Option W64 :=
  if t.once && sr == 0x12 && !pcGood (mtsValue t sr a) then some (mtsValue t sr a) else none

theorem exec_mts_uni (sr a : Reg) (s : State) : exec (.mts sr a true) s = issue false 0 (mtsBad sr a)
    (fun t w => if t.once then onceResult t 2 [.sr sr.toNat (mtsValue t sr a)] w else w) s := rfl

/-- A uniform `mts` whose value may be written takes its turn, and leaves one result where it is enabled. -/
theorem exec_mts_good (h : At s t) (sr a : Reg) (hgood : mtsBad sr a t = none) : ∃ s', exec (.mts sr a true) s = .next s' ∧
    Moves s s' t (issuedCourse t) (if once t then [pending s t (t.i.cyc + 2) [.sr sr.toNat (mtsValue t sr a)]] else []) := by
  rw [exec_mts_uni, issue_run h (.inl rfl) hgood, site_once]
  refine ⟨_, rfl, ?_⟩
  split
  · exact moves_onceResult s t 2 _
  · exact moves_beginIssue s t

/-- `mts` from a uniform register: disabled, with a value that may be written, and with a `%tpc` that fails R95. -/
theorem exec_mts_spec (h : At s t) (sr a : Reg) : ∃ s', exec (.mts sr a true) s = .next s' ∧
    (once t = false → Moves s s' t (issuedCourse t) []) ∧
    (once t = true → (sr ≠ 0x12 ∨ pcGood (mtsValue t sr a) = true) →
      Moves s s' t (issuedCourse t) [pending s t (t.i.cyc + 2) [.sr sr.toNat (mtsValue t sr a)]]) ∧
    (once t = true → sr = 0x12 → pcGood (mtsValue t sr a) = false → DecodeFaults s s' t 0x04 0 (mtsValue t sr a)) := by
  by_cases hfails : once t = true ∧ sr = 0x12 ∧ pcGood (mtsValue t sr a) = false
  · obtain ⟨hon, hsr, hpc⟩ := hfails
    have hbad : mtsBad sr a t = some (mtsValue t sr a) := if_pos (by rw [site_once, hon, hpc, hsr]; rfl)
    obtain ⟨s', he, hf⟩ := issue_bad h (.inl rfl) hbad
    exact ⟨s', (exec_mts_uni sr a s).trans he, fun hoff => by simp [hon] at hoff,
      fun _ hgood => hgood.elim (absurd hsr) fun hg => by simp [hpc] at hg, fun _ _ _ => hf⟩
  · have hgood : mtsBad sr a t = none := if_neg (by simpa [site_once, and_assoc] using hfails)
    obtain ⟨s', he, hm⟩ := exec_mts_good h sr a hgood
    exact ⟨s', he, fun hoff => by simpa [hoff] using hm, fun hon _ => by simpa [hon] using hm,
      fun hon hsr hpc => absurd ⟨hon, hsr, hpc⟩ hfails⟩

end Sys2Proof.Machine

namespace Sys2Proof.Proofs

open Sys2Proof.Machine Sys2Proof.Say

/-- Settles O43: `mfs` reads as the state stands, but that a log may answer for `%gcc`; `mts` faults on a bad PC alone. -/
theorem specialMoves : Obligations.SpecialMoves := by
  refine ⟨fun d sr s t h => ?mfs, fun sr a s t h => ?mts⟩
  case mfs =>
    cases hon : once t with
    | false =>
      obtain ⟨s', he, hm⟩ := exec_mfs_off h d sr hon
      exact ⟨s', special s t sr.toNat (lowestLane t.p.mask), he, hm.own, hm.results, fun _ => ⟨rfl, hm⟩⟩
    | true =>
      by_cases hplain : sr ≠ 5 ∨ (die s (dieOf t.i.core)).recMode = 0
      · obtain ⟨s', he, hm⟩ := exec_mfs_plain h d sr hon hplain
        exact ⟨s', _, he, hm.own, hm.results, fun _ => ⟨rfl, hm⟩⟩
      · obtain ⟨s', v, he, hk, hr⟩ := exec_mfs_any h d sr hon
        exact ⟨s', v, he, hk, hr, fun hp => absurd hp hplain⟩
  case mts => exact exec_mts_spec h sr a

end Sys2Proof.Proofs

/-! SUPPORT. A `brk` of a block that a debug course has claimed (R377, R380). -/

namespace Sys2Proof.Machine

open Sys2Proof.Say

variable {s : State} {t : Site}

/-- In a free launch its path is held, and goes past a breakpoint of the slot that the path itself comes to next. -/
theorem exec_brk_claimed_free (h : At s t) (code : BitVec 10) (hon : once t = true) (hfree : t.b.hdr.timed = false) {n : Nat × Nat × Nat}
    (hclaim : (Say.core s t.i.core).claims.find t.i.owner = some n) :
    ∃ s', exec (.brk code) s = .next s' ∧ course s' t.i.core t.i.owner t.i.cr =
      some ((issuedCourse t).setPath t.i.slot { passed t with held := true, bpSkip := some (t.p.pc + 1) }) := by
  refine ⟨_, issuePlain_run h, ?_⟩
  have hclaim' : ((beginIssue t (enter s)).core t.i.core).claims.find t.i.owner = some n := by
    rw [(passes_beginIssue t (enter s)).own]; exact hclaim
  simp only [site_once, hon, if_true, hclaim', Site.timed, hfree, Bool.false_eq_true, if_false]
  have hbegun := CourseBecomes.start (passes_beginIssue t (enter s)).course
  exact ((hbegun.modPath (path_issuedCourse h) fun p => { p with held := true, bpSkip := some p.pc }).debugRecord ..).course

end Sys2Proof.Machine

namespace Sys2Proof.Proofs

open Sys2Proof.Machine Sys2Proof.Say

/-- A path at slot 0 of a claimed block, and slot 1 at the issue port: the machine after reset with them on core 0. -/
def strayPath : Path := { id := 0, mask := 1, pc := 0 }
def strayCourse : Course := { uniformCourse with slot0 := some strayPath }
def strayIssuer : Issuer := { core := 0, owner := 0, cr := 0, slot := 0, pc := 1, word := 0, pred := 7, neg := false, cyc := 0 }
def straySite : Site := { i := strayIssuer, b := uniformBlock, k := strayCourse, p := strayPath, seq := 0 }
def strayState : State :=
  { mach := { cur := some strayIssuer
              cores := [(0, { blocks := [(0, uniformBlock)], courses := [(0, strayCourse)], claims := [(0, (0, 0, 0))] })] } }

theorem strayState_at : At strayState straySite := ⟨rfl, rfl⟩

/-- Refutes O44: the statement lets the index at the issue port differ from that of the path. In `strayState` the port holds slot 1 while its
path stands at slot 0: a claimed `brk` lets the path go past slot 1, which is its next, where the statement has slot 2. With the index of
the path it holds (`exec_brk_claimed_free`). -/
theorem not_trapsTaken : ¬ Obligations.TrapsTaken := by
  intro h
  obtain ⟨-, hclaimed, -⟩ := h
  have hon : once straySite = true := by decide
  obtain ⟨s₁, he₁, hk₁⟩ := hclaimed 0 strayState straySite (0, 0, 0) strayState_at hon rfl rfl
  obtain ⟨s₂, he₂, hk₂⟩ := exec_brk_claimed_free strayState_at 0 hon rfl (n := (0, 0, 0)) rfl
  obtain rfl : s₁ = s₂ := Host.Outcome.next.inj (he₁.symm.trans he₂)
  have hskip : some (some 2) = some (some 1) := congrArg (fun k => k.slot0.map Path.bpSkip) (Option.some.inj (hk₁.symm.trans hk₂))
  exact absurd hskip (by decide)

end Sys2Proof.Proofs

/-! SUPPORT. The drift and debug instructions in a block with privilege (R112, R346, R371 to R376, R383, R386). -/

namespace Sys2Proof.Machine

open Sys2Proof.Say

variable {s : State} {t : Site} {w w' : World} {c o r : Nat} {k : Course} {bs : Tab Block}

/-! ## What an issue leaves of the machine -/

/-- A world without a write in its log leaves every byte. -/
theorem sameBytes_commit (h : w.out = []) : SameBytes s (commit s w) := by
  have hm : (commit s w).mem = s.mem := by rw [commit_mem, h]; rfl
  exact ⟨fun st a => by rw [hm], by rw [hm]⟩

/-- An issue leaves the debug commands and the mailbox records of every core. -/
theorem core_beginIssue_debug (t : Site) (w : World) (c : Nat) :
    ((beginIssue t w).core c).dbg = (w.core c).dbg ∧ ((beginIssue t w).core c).recs = (w.core c).recs := by
  by_cases hc : c = t.i.core
  · subst hc
    rw [(passes_beginIssue t w).own]
    exact ⟨rfl, rfl⟩
  · rw [beginIssue_core_other t w hc]
    exact ⟨rfl, rfl⟩

/-- The issuing course as an issue leaves it. -/
theorem becomes_beginIssue (t : Site) (w : World) : CourseBecomes (beginIssue t w) (beginIssue t w) t.i.core t.i.owner t.i.cr (issuedCourse t)
    ((beginIssue t w).core t.i.core).blocks := .start (passes_beginIssue t w).course

/-! ## Records of the mailbox (R373) -/

theorem CourseBecomes.mailNote (h : CourseBecomes w w' c o r k bs) (agent : Nat) (l : List Nat) :
    CourseBecomes w (mailNote w' c agent l) c o r k bs := by
  unfold Machine.mailNote
  split
  · exact h.setCore rfl rfl
  · exact h

/-- A record is no debug command. -/
theorem mailNote_dbg (w : World) (c agent : Nat) (l : List Nat) (c' : Nat) : ((mailNote w c agent l).core c').dbg = (w.core c').dbg := by
  unfold mailNote
  split
  · by_cases hc : c' = c
    · subst hc; rw [core_modCore_same]
    · rw [core_modCore_other _ _ hc]
  · rfl

/-- A record of the issuing core joins those that its core holds, where the die has a mailbox. -/
theorem mailed_mailNote (s : State) (t : Site) (agent : Nat) (l : List Nat) :
    Mailed s (commit s (mailNote (beginIssue t (enter s)) t.i.core agent l)) t.i.core l := by
  have hrecs : ((beginIssue t (enter s)).core t.i.core).recs = (Say.core s t.i.core).recs := (core_beginIssue_debug t (enter s) _).2
  refine ⟨fun mb hmb => ⟨agent, ?_⟩, fun hmb => ?_⟩ <;>
    change ((mailNote (beginIssue t (enter s)) t.i.core agent l).core t.i.core).recs = _ <;>
    change ((beginIssue t (enter s)).die (dieOf t.i.core)).mbox = _ at hmb
  · simp only [mailNote, hmb, core_modCore_same, hrecs]
  · simp only [mailNote, hmb, hrecs]

/-! ## Instructions that are disabled, and those that are not -/

/-- A disabled one takes its turn alone. -/
theorem exec_privileged_off {i : Instr} (hi : privileged i = true) (h : At s t) (hp : t.b.bind.priv = true) (hoff : once t = false) :
    ∃ s', exec i s = .next s' ∧ Moves s s' t (issuedCourse t) [] := by
  obtain ⟨act, he, hact⟩ := exec_privileged hi s
  rw [he, issue_privileged h hp, hact t _ (by rw [site_once, hoff])]
  exact ⟨_, rfl, moves_beginIssue s t⟩

/-- A debug instruction that executes once. -/
theorem issueDebug_on {act : Site → World → World} (h : At s t) (hp : t.b.bind.priv = true) (hon : once t = true) :
    issueDebug act s = .next (commit s (act t (beginIssue t (enter s)))) := by
  rw [issueDebug, issue_privileged h hp, site_once, if_pos hon]

/-! ## Drift commands (R346) -/

/-- What an enabled drift instruction does. -/
def driftAct (set : Bool) (a b : Reg) (t : Site) (w : World) : World :=
  let num := (t.k.uni a.toNat).toNat % 512
  let v := (t.k.uni b.toNat).toNat
  match moduleByNum w.mach num with
  | none => siteFault t 0x03 0 1 (BitVec.ofNat 64 num) 0 [] w
  | some m => w.step.modModule m fun x => { x with drifts := x.drifts ++
      [{ set := set, value := if set then v else v % 256, src := modOf t.i.core, due := w.later 0 }] }

theorem issueDrift_on (set : Bool) (a b : Reg) (h : At s t) (hp : t.b.bind.priv = true) (hon : once t = true) :
    issueDrift set a b s = .next (commit s (driftAct set a b t (beginIssue t (enter s)))) := by
  rw [issueDrift, issue_privileged h hp, if_neg (by simp [site_once, hon])]
  rfl

/-! ## Debug commands (R371, R372) -/

/-- An enabled debug instruction sends the command of its form. -/
theorem exec_debugForm {i : Instr} {op : DbgOp} {v : W32} (hi : debugForm t i = some (op, v)) (h : At s t) (hp : t.b.bind.priv = true)
    (hon : once t = true) : exec i s = .next (commit s (sendDebug op v t (beginIssue t (enter s)))) := by
  unfold debugForm at hi
  split at hi
  case h_11 => cases hi
  all_goals
    cases hi
    exact issueDebug_on h hp hon

/-- A command whose CORE the die does not have leaves a record alone. -/
theorem sendDebug_refused (op : DbgOp) {v : W32} (hv : 336 ≤ v.toNat / 2 ^ 23) (t : Site) (w : World) :
    sendDebug op v t w = mailNote w t.i.core 0 (refusedWords v) := by
  rw [sendDebug, if_pos (show Config.coresPerDie ≤ tgtCore v from hv)]
  simp [refuseDebug, refusedWords, lohi, cmdFrom, tgtWord]

/-- The commands of the issuing debug course that are on their way to a core, and the last cycle at which one of a list arrives. -/
def sentBefore (t : Site) (k : Core) : List DbgCmd :=
  k.dbg.filter fun x => decide (x.src = t.i.core) && decide (x.srcOwner = t.i.owner) && decide (x.srcCr = t.i.cr)
def lastDue (l : List DbgCmd) (n : Nat) : Nat := l.foldl (fun n x => max n x.due) n

/-- The command that an issuing debug course sends: it arrives within 64 cycles, or not before an earlier one of the same course. -/
def sentDebug (op : DbgOp) (v : W32) (t : Site) (w : World) : DbgCmd :=
  cmdFrom t op v (w.core (targetCore t v)).nextId
    (max (w.mach.clock + Config.realDelay w.free % 65) (lastDue (sentBefore t (w.core (targetCore t v))) 0))

theorem sendDebug_sent (op : DbgOp) {v : W32} (hv : v.toNat / 2 ^ 23 < 336) (t : Site) (w : World) :
    sendDebug op v t w = w.step.setCore (targetCore t v) { w.core (targetCore t v) with
      dbg := (w.core (targetCore t v)).dbg ++ [sentDebug op v t w], nextId := (w.core (targetCore t v)).nextId + 1 } := by
  rw [sendDebug, if_neg (show ¬ Config.coresPerDie ≤ tgtCore v from Nat.not_le.mpr hv)]
  rfl

/-- That cycle is the least one given, or an element's. -/
theorem lastDue_mem (l : List DbgCmd) (n : Nat) : lastDue l n = n ∨ ∃ y ∈ l, y.due = lastDue l n := by
  induction l generalizing n with
  | nil => exact .inl rfl
  | cons x l ih =>
    change lastDue l (max n x.due) = n ∨ ∃ y ∈ x :: l, y.due = lastDue l (max n x.due)
    rcases ih (max n x.due) with h | ⟨y, hy, h⟩
    · rcases Nat.le_total n x.due with hx | hx
      · exact .inr ⟨x, List.mem_cons_self, by rw [h, Nat.max_eq_right hx]⟩
      · exact .inl (by rw [h, Nat.max_eq_left hx])
    · exact .inr ⟨y, List.mem_cons_of_mem _ hy, h⟩

theorem sentDebug_due (op : DbgOp) (v : W32) (t : Site) (w : World) :
    (sentDebug op v t w).due ≤ w.mach.clock + 64 ∨ ∃ y ∈ (w.core (targetCore t v)).dbg, y.due = (sentDebug op v t w).due := by
  unfold sentDebug cmdFrom
  simp only
  generalize hl : sentBefore t (w.core (targetCore t v)) = l
  rcases Nat.le_total (lastDue l 0) (w.mach.clock + Config.realDelay w.free % 65) with hle | hle
  · rw [Nat.max_eq_left hle]
    exact .inl (by omega)
  · rw [Nat.max_eq_right hle]
    rcases lastDue_mem l 0 with h | ⟨y, hy, h⟩
    · exact .inl (by omega)
    · subst hl
      exact .inr ⟨y, List.mem_of_mem_filter hy, h⟩

/-- A command that is sent changes the commands of one core, of no other, and no course. -/
theorem becomes_sendDebug (op : DbgOp) {v : W32} (hv : v.toNat / 2 ^ 23 < 336) (s : State) (t : Site) :
    (sendDebug op v t (beginIssue t (enter s))).out = [] ∧
      (sendDebug op v t (beginIssue t (enter s))).course? t.i.core t.i.owner t.i.cr = some (issuedCourse t) ∧
      ((sendDebug op v t (beginIssue t (enter s))).core (targetCore t v)).dbg =
        (Say.core s (targetCore t v)).dbg ++ [sentDebug op v t (beginIssue t (enter s))] := by
  have hcourse := (passes_beginIssue t (enter s)).course
  rw [sendDebug_sent op hv]
  refine ⟨rfl, ?_, ?_⟩
  · by_cases hc : t.i.core = targetCore t v
    · rw [World.course?, hc, core_setCore_same, ← hc]
      exact hcourse
    · rw [World.course?, core_setCore_other _ _ hc]
      exact hcourse
  · rw [core_setCore_same, (core_beginIssue_debug t (enter s) (targetCore t v)).1]
    rfl

/-! ## The mailbox and the recording mode (R373, R383, R386) -/

/-- The record of `dbg.mbox`. -/
theorem debugRecord_mbox (h : At s t) (data code : Nat) : ∃ agent held, held ≤ 1 ∧
    debugRecord (beginIssue t (enter s)) t.i.core t.i.owner t.i.cr t.i.slot { kind := 0x10, data := data, code := code } =
      mailNote (beginIssue t (enter s)) t.i.core agent (mboxWords s t held data code) := by
  have hb : (beginIssue t (enter s)).block? t.i.core t.i.owner = some t.b := (beginIssue_block t (enter s) _ _).trans (siteOf_some h.1).2.1
  refine ⟨recordAgent (beginIssue t (enter s)) t.i.core t.i.owner t.i.cr t.i.slot { kind := 0x10, data := data, code := code },
    (recordHeld (beginIssue t (enter s)) t.i.core t.i.owner t.i.cr t.i.slot).toNat, Bool.toNat_le _, ?_⟩
  unfold debugRecord mboxWords
  simp only [hb, (passes_beginIssue t (enter s)).vcc]
  cases recordHeld (beginIssue t (enter s)) t.i.core t.i.owner t.i.cr t.i.slot <;> simp [lohi, targetWord, Config.coresPerDie]

/-- A die with the monitor entries of some granules triggered (R206). -/
def Die.trigger (gs : List Nat) (x : Die) : Die :=
  { x with mons := x.mons.map fun m => if gs.contains m.granule then { m with trig := true } else m }

theorem monTrigger_die (w : World) (st : Store) (key n d : Nat) :
    (monTrigger w st key n).die d = (((w.mach.dies.find d).map (Die.trigger (granulesOf st key n))).getD {}) :=
  congrArg (·.getD {}) (Tab.find_mapValues w.mach.dies (Die.trigger (granulesOf st key n)) d)

/-- A write of the die by itself sets no mailbox, and changes no core. -/
theorem dieWrite_mbox (w : World) (d off : Nat) (bs : List Byte) (d' : Nat) : ((dieWrite w d off bs).die d').mbox = (w.die d').mbox := by
  have htrigger : ∀ (v : World) (st : Store) (key n : Nat), ((monTrigger v st key n).die d').mbox = (v.die d').mbox := fun v st key n => by
    rw [monTrigger_die, World.die]
    cases v.mach.dies.find d' <;> rfl
  unfold dieWrite outsideWrite
  split
  · split
    · rfl
    · exact htrigger ..
  · rfl

/-- What `dbg.mbox.base` and `dbg.mbox.rec` make of the die. -/
def mboxBaseAct (a b : Reg) (t : Site) (w : World) : World :=
  dieWrite (w.modDie (dieOf t.i.core) fun x => { x with mbox := some ((t.k.uniPair a.toNat).toNat / 64 * 64) }) (dieOf t.i.core)
    ((t.k.uniPair a.toNat).toNat / 64 * 64)
    (wordBytes ([0, 0, max 4 (min 12 ((t.k.uni b.toNat).toNat % 16))] ++ List.replicate 13 0))

def Die.recording (x : Die) (mode base : Nat) : Die :=
  if mode = 3 then x
  else if mode = 0 then { x with recMode := 0 }
  else { x with recMode := mode, recBase := base, recPos := 0, recUsed := [], commits := [] }

theorem recording_recMode (x : Die) {mode : Nat} (base : Nat) (h : mode ≠ 3) : (x.recording mode base).recMode = mode := by
  unfold Die.recording
  rw [if_neg h]
  split
  · next hz => exact hz.symm
  · rfl

theorem exec_dbgMbox (h : At s t) (hp : t.b.bind.priv = true) (hon : once t = true) (a b : Reg) : exec (.dbgMbox a b) s =
    .next (commit s (debugRecord (beginIssue t (enter s)) t.i.core t.i.owner t.i.cr t.i.slot
      { kind := 0x10, data := (t.k.uniPair a.toNat).toNat, code := (t.k.uni b.toNat).toNat })) :=
  issueDebug_on h hp hon

theorem exec_dbgMboxBase (h : At s t) (hp : t.b.bind.priv = true) (hon : once t = true) (a b : Reg) : exec (.dbgMboxBase a b) s =
    .next (commit s (mboxBaseAct a b t (beginIssue t (enter s)))) :=
  issueDebug_on (act := mboxBaseAct a b) h hp hon

theorem exec_dbgMboxRec (h : At s t) (hp : t.b.bind.priv = true) (hon : once t = true) (a b : Reg) : exec (.dbgMboxRec a b) s =
    .next (commit s ((beginIssue t (enter s)).modDie (dieOf t.i.core) fun x =>
      x.recording ((t.k.uni b.toNat).toNat % 4) ((t.k.uniPair a.toNat).toNat / 64 * 64))) :=
  issueDebug_on h hp hon

/-! ## What each form does, enabled and in a block with privilege -/

/-- A drift instruction: its module takes the command, or there is none in the group. -/
theorem driftIssue (h : At s t) (hp : t.b.bind.priv = true) (hon : once t = true) (set : Bool) (a b : Reg) :
    ∃ s', issueDrift set a b s = .next s' ∧
      (moduleByNum s.mach ((t.k.uni a.toNat).toNat % 512) = none →
        OnceFaults s s' t 0x03 0 1 (BitVec.ofNat 64 ((t.k.uni a.toNat).toNat % 512))) ∧
      (∀ m, moduleByNum s.mach ((t.k.uni a.toNat).toNat % 512) = some m →
        SameBytes s s' ∧ course s' t.i.core t.i.owner t.i.cr = some (issuedCourse t) ∧
        ∃ x : DriftCmd, module s' m = { module s m with drifts := (module s m).drifts ++ [x] } ∧ x.set = set ∧
          x.value = (if set then (t.k.uni b.toNat).toNat else (t.k.uni b.toNat).toNat % 256) ∧ s.mach.clock ≤ x.due) := by
  refine ⟨_, issueDrift_on set a b h hp hon, fun hnone => ?_, fun m hm => ?_⟩
  · change moduleByNum (beginIssue t (enter s)).mach _ = _ at hnone
    simp only [driftAct, hnone]
    exact onceFaults h 0x03 0 1 _ 0 [] (by decide)
  · change moduleByNum (beginIssue t (enter s)).mach _ = _ at hm
    simp only [driftAct, hm]
    refine ⟨sameBytes_commit rfl, (passes_beginIssue t (enter s)).course, _, module_setModule_same .., rfl, rfl, ?_⟩
    exact (Nat.le_add_right _ _).trans (Nat.le_add_right _ _)

/-- A debug command whose CORE the die has, and one whose CORE it has not. -/
theorem debugCommandIssue (h : At s t) (hp : t.b.bind.priv = true) (hon : once t = true) {i : Instr} {op : DbgOp} {v : W32}
    (hi : debugForm t i = some (op, v)) : ∃ s', exec i s = .next s' ∧
      course s' t.i.core t.i.owner t.i.cr = some (issuedCourse t) ∧
      (336 ≤ v.toNat / 2 ^ 23 → SameBytes s s' ∧ (∀ c, (Say.core s' c).dbg = (Say.core s c).dbg) ∧ Mailed s s' t.i.core (refusedWords v)) ∧
      (v.toNat / 2 ^ 23 < 336 → SameBytes s s' ∧ ∃ x : DbgCmd, (Say.core s' (targetCore t v)).dbg = (Say.core s (targetCore t v)).dbg ++ [x] ∧
        x.op = op ∧ x.target = v ∧ x.src = t.i.core ∧ x.srcOwner = t.i.owner ∧ x.srcCr = t.i.cr ∧
        (x.due ≤ s.mach.clock + 64 ∨ ∃ y ∈ (Say.core s (targetCore t v)).dbg, y.due = x.due)) := by
  refine ⟨_, exec_debugForm hi h hp hon, ?_⟩
  rcases Nat.lt_or_ge (v.toNat / 2 ^ 23) 336 with hv | hv
  · obtain ⟨hout, hcourse, hdbg⟩ := becomes_sendDebug op hv s t
    refine ⟨hcourse, fun hge => absurd hge (Nat.not_le.mpr hv), fun _ => ⟨sameBytes_commit hout, _, hdbg, rfl, rfl, rfl, rfl, rfl, ?_⟩⟩
    have hdue := sentDebug_due op v t (beginIssue t (enter s))
    rwa [(core_beginIssue_debug t (enter s) _).1] at hdue
  · rw [sendDebug_refused op hv]
    have hbecomes := (becomes_beginIssue t (enter s)).mailNote 0 (refusedWords v)
    refine ⟨hbecomes.course, fun _ => ⟨sameBytes_commit hbecomes.out, fun c => ?_, mailed_mailNote s t 0 _⟩,
      fun hlt => absurd hv (Nat.not_le.mpr hlt)⟩
    exact (mailNote_dbg ..).trans (core_beginIssue_debug t (enter s) c).1

/-- `dbg.mbox` leaves its record, and where the die has no mailbox nothing. -/
theorem mboxIssue (h : At s t) (hp : t.b.bind.priv = true) (hon : once t = true) (a b : Reg) : ∃ s', exec (.dbgMbox a b) s = .next s' ∧
    course s' t.i.core t.i.owner t.i.cr = some (issuedCourse t) ∧
    ((die s (dieOf t.i.core)).mbox = none → Moves s s' t (issuedCourse t) []) ∧ SameBytes s s' ∧
    ∃ held, held ≤ 1 ∧ Mailed s s' t.i.core (mboxWords s t held (t.k.uniPair a.toNat).toNat (t.k.uni b.toNat).toNat) := by
  obtain ⟨agent, held, hheld, hrecord⟩ := debugRecord_mbox h (t.k.uniPair a.toNat).toNat (t.k.uni b.toNat).toNat
  rw [exec_dbgMbox h hp hon, hrecord]
  have hbecomes := (becomes_beginIssue t (enter s)).mailNote agent (mboxWords s t held (t.k.uniPair a.toNat).toNat (t.k.uni b.toNat).toNat)
  refine ⟨_, rfl, hbecomes.course, fun hnone => ?_, sameBytes_commit hbecomes.out, held, hheld, mailed_mailNote s t agent _⟩
  change ((beginIssue t (enter s)).die _).mbox = none at hnone
  simp only [mailNote, hnone]
  exact moves_beginIssue s t

/-- `dbg.mbox.base` sets the mailbox. -/
theorem mboxBaseIssue (h : At s t) (hp : t.b.bind.priv = true) (hon : once t = true) (a b : Reg) : ∃ s', exec (.dbgMboxBase a b) s = .next s' ∧
    course s' t.i.core t.i.owner t.i.cr = some (issuedCourse t) ∧
    (die s' (dieOf t.i.core)).mbox = some ((t.k.uniPair a.toNat).toNat / 64 * 64) := by
  refine ⟨_, exec_dbgMboxBase h hp hon a b, ?_, ?_⟩
  · rw [← (passes_beginIssue t (enter s)).course]
    exact congrArg (fun x : Core => x.courses.find _) (core_of_cores (dieWrite_cores ..) t.i.core)
  · refine (dieWrite_mbox ..).trans ?_
    rw [World.modDie, die_setDie_same]

/-- `dbg.mbox.rec` sets the recording mode. -/
theorem mboxRecIssue (h : At s t) (hp : t.b.bind.priv = true) (hon : once t = true) (a b : Reg) : ∃ s', exec (.dbgMboxRec a b) s = .next s' ∧
    SameBytes s s' ∧ course s' t.i.core t.i.owner t.i.cr = some (issuedCourse t) ∧
    ((t.k.uni b.toNat).toNat % 4 ≠ 3 → (die s' (dieOf t.i.core)).recMode = (t.k.uni b.toNat).toNat % 4) := by
  refine ⟨_, exec_dbgMboxRec h hp hon a b, sameBytes_commit rfl, (passes_beginIssue t (enter s)).course, fun hmode => ?_⟩
  exact (congrArg Die.recMode (die_setDie_same ..)).trans (recording_recMode _ _ hmode)

end Sys2Proof.Machine

namespace Sys2Proof.Proofs

open Sys2Proof.Machine Sys2Proof.Say

/-- Settles O55: a lemma for each of the privileged forms. -/
theorem privilegedIssue : Obligations.PrivilegedIssue := by
  intro s t h hp
  refine ⟨fun i hi hoff => exec_privileged_off hi h hp hoff, fun hon set a b i hi => ?drift,
    fun hon i op v hi => debugCommandIssue h hp hon hi,
    fun hon a b => ⟨mboxIssue h hp hon a b, mboxBaseIssue h hp hon a b, mboxRecIssue h hp hon a b⟩⟩
  case drift =>
    rcases hi with ⟨rfl, rfl⟩ | ⟨rfl, rfl⟩
    · exact driftIssue h hp hon true a b
    · exact driftIssue h hp hon false a b

end Sys2Proof.Proofs

/-! SUPPORT. Logic, shifts and bit counts, division, comparison and immediate moves of 32-bit words (R125 to R128). -/

namespace Sys2Proof.Machine

open Sys2Proof.Say

/-! ## Words of results (R125) -/

/-- The low 32 bits of an integer, as a word. -/
theorem bitsOfInt_word (v : Int) : bitsOfInt 32 v = word (BitVec.ofInt 32 v) := bitsOfInt_eq 32 v

/-- A natural number below 2^32 is the word of its bits. -/
theorem ofNat_eq_word_of_lt {x : Nat} (h : x < 2 ^ 32) : BitVec.ofNat 64 x = word (BitVec.ofNat 32 x) := by
  rw [← ofNat_toNat_word, BitVec.toNat_ofNat, Nat.mod_eq_of_lt h]

/-- Shifts multiply and divide by powers of two. -/
theorem ofNat_mul_two_pow (a : W32) (k : Nat) : BitVec.ofNat 32 (a.toNat * 2 ^ k) = a <<< k := by
  apply BitVec.eq_of_toNat_eq
  rw [BitVec.toNat_ofNat, BitVec.toNat_shiftLeft, Nat.shiftLeft_eq]

theorem ofNat_div_two_pow (a : W32) (k : Nat) : BitVec.ofNat 32 (a.toNat / 2 ^ k) = a >>> k := by
  apply BitVec.eq_of_toNat_eq
  rw [BitVec.toNat_ofNat, BitVec.toNat_ushiftRight, Nat.shiftRight_eq_div_pow, Nat.mod_eq_of_lt ((Nat.div_le_self _ _).trans_lt a.isLt)]

/-- The right shift that copies the sign divides and rounds down. -/
theorem ofInt_div_two_pow (a : W32) (k : Nat) : BitVec.ofInt 32 (a.toInt / 2 ^ k) = a.sshiftRight k := by
  rw [BitVec.sshiftRight, Int.shiftRight_eq_div_pow]
  push_cast
  rfl

/-- The bits that a rotation shifts out come in at the other end. -/
theorem ofNat_rotateLeft (a : W32) (k : Nat) :
    BitVec.ofNat 64 (a.toNat * 2 ^ (k % 32) % 2 ^ 32 ||| a.toNat / 2 ^ (32 - k % 32)) = word (a.rotateLeft k) := by
  have hor : a.toNat * 2 ^ (k % 32) % 2 ^ 32 ||| a.toNat / 2 ^ (32 - k % 32) = (a.rotateLeft k).toNat := by
    rw [BitVec.rotateLeft_def, BitVec.toNat_or, BitVec.toNat_shiftLeft, BitVec.toNat_ushiftRight, Nat.shiftLeft_eq, Nat.shiftRight_eq_div_pow]
  rw [hor, ofNat_toNat_word]

/-- Above its 32 bits an operand is clear, so what the complement sets there goes. -/
theorem word_and_not (a b : W32) : word a &&& ~~~word b = word (a &&& ~~~b) := by
  refine BitVec.eq_of_getLsbD_eq fun i hi => ?_
  rcases Nat.lt_or_ge i 32 with h | h
  · simp [word, hi, h]
  · simp [word, hi, BitVec.getLsbD_of_ge a i h]

/-! ## Counting bits (R125) -/

theorem popcount_toNat (a : W32) : popcount a.toNat = ((List.range 32).filter fun i => a.getLsbD i).length := by
  simp only [popcount, BitVec.getLsbD, Nat.testBit_eq_decide_div_mod_eq]

/-- The leading zeros of a word, and the 1 bit below them. -/
theorem clz32_spec (a : W32) : clz32 a.toNat ≤ 32 ∧ (∀ i, 32 - clz32 a.toNat ≤ i → a.getLsbD i = false) ∧
    (clz32 a.toNat < 32 → a.getLsbD (31 - clz32 a.toNat) = true) := by
  rw [clz32, Nat.mod_eq_of_lt a.isLt]
  by_cases h0 : a.toNat = 0
  · have ha : a = 0 := BitVec.eq_of_toNat_eq h0
    rw [if_pos h0]
    exact ⟨le_rfl, fun i _ => by rw [ha]; exact BitVec.getLsbD_zero, fun h => absurd h (lt_irrefl _)⟩
  · have hlog : log2Nat a.toNat < 32 := (Nat.log2_lt h0).mpr a.isLt
    rw [if_neg h0]
    refine ⟨by omega, fun i hi => ?_, fun _ => ?_⟩
    · have hlt : a.toNat < 2 ^ (log2Nat a.toNat + 1) := Nat.lt_log2_self
      exact Nat.testBit_eq_false_of_lt (hlt.trans_le (Nat.pow_le_pow_right (by decide) (by omega)))
    · rw [show 31 - (31 - log2Nat a.toNat) = log2Nat a.toNat by omega]
      exact Nat.testBit_log2 h0

/-! ## Reversing bits (R125) -/

/-- Doubling the weights of a sum of bits doubles the sum. -/
theorem foldl_weights_double (y : Nat → Nat) (n : Nat) (l : List Nat) (h : ∀ i ∈ l, i < n) (a : Nat) :
    l.foldl (fun acc i => acc + y i * 2 ^ (n - i)) (2 * a) = 2 * l.foldl (fun acc i => acc + y i * 2 ^ (n - 1 - i)) a := by
  induction l generalizing a with
  | nil => rfl
  | cons i l ih =>
    have hi : n - i = n - 1 - i + 1 := by have := h i List.mem_cons_self; omega
    rw [List.foldl_cons, List.foldl_cons, ← ih (fun j hj => h j (List.mem_cons_of_mem _ hj)), hi, pow_succ]
    congr 1
    ring

/-- One more bit comes in at the low end. -/
theorem brev_succ (n v : Nat) : brev (n + 1) v = 2 * brev n v + v / 2 ^ n % 2 := by
  unfold brev
  rw [List.range_succ, List.foldl_append, List.foldl_cons, List.foldl_nil, Nat.add_sub_cancel, Nat.sub_self, pow_zero, mul_one]
  exact congrArg (· + _) (foldl_weights_double (fun i => v / 2 ^ i % 2) n _ (fun i => List.mem_range.mp) 0)

theorem brev_lt (n v : Nat) : brev n v < 2 ^ n := by
  induction n with
  | zero => exact Nat.one_pos
  | succ n ih => rw [brev_succ, pow_succ]; omega

/-- Bit `k` of reversed bits is the bit at the other end. -/
theorem testBit_brev {n k : Nat} (v : Nat) (hk : k < n) : (brev n v).testBit k = v.testBit (n - 1 - k) := by
  induction n generalizing k with
  | zero => cases hk
  | succ n ih =>
    rw [brev_succ]
    cases k with
    | zero => simp [Nat.testBit_zero, Nat.testBit_eq_decide_div_mod_eq (i := n)]
    | succ k =>
      rw [Nat.testBit_succ, show (2 * brev n v + v / 2 ^ n % 2) / 2 = brev n v by omega, ih (Nat.lt_of_succ_lt_succ hk)]
      congr 1
      omega

/-! ## Division (R127) -/

/-- The low bits of an operand are the bits of the integer read from them. -/
theorem ofInt_low (n : Nat) (u : Bool) (v : W64) : BitVec.ofInt n (low n u v) = v.truncate n := by
  cases u
  · exact BitVec.ofInt_toInt
  · exact (BitVec.ofInt_natCast ..).trans (BitVec.ofNat_toNat .. |>.trans (BitVec.setWidth_eq _))

/-- What division and remainder give, in the words of the statements. -/
theorem divRem_eq (u : Bool) (a b : W64) : divRem u a b =
    if low 32 u b = 0 then (0xFFFFFFFF, word (a.truncate 32))
    else if u = false ∧ low 32 u a = -2 ^ 31 ∧ low 32 u b = -1 then (0x80000000, 0)
    else (word (BitVec.ofInt 32 (Int.tdiv (low 32 u a) (low 32 u b))),
      word (BitVec.ofInt 32 (low 32 u a - Int.tdiv (low 32 u a) (low 32 u b) * low 32 u b))) := by
  have hover : (!u && decide (low 32 u a = -(2 ^ 31)) && decide (low 32 u b = -1)) = true ↔
      u = false ∧ low 32 u a = -2 ^ 31 ∧ low 32 u b = -1 := by
    simp only [Bool.and_eq_true, Bool.not_eq_true', decide_eq_true_eq, and_assoc]
  simp only [divRem, readInt_eq_low 32 u _ (by decide), bitsOfInt_eq, ofInt_low, hover, Int.mul_comm (low 32 u b)]
  rfl

/-! ## Comparison (R126) -/

/-- The low bits read without sign. -/
theorem low_unsigned (n : Nat) (v : W64) : low n true v = (v.toNat % 2 ^ n : Nat) := by
  rw [low, if_pos rfl, BitVec.truncate_eq_setWidth, BitVec.toNat_setWidth]

theorem toSigned_eq_low (n : Nat) (v : W64) (hn : 0 < n) : toSigned n v.toNat = low n false v := by
  rw [← readInt_eq_low n false v hn]; rfl

/-- A condition code holds where the statements say so. -/
theorem condEval_iff (cc : CondI) {n : Nat} (hn : 0 < n) (a b : W64) : condEval cc n a b = true ↔ Say.compare cc n a b := by
  unfold condEval Say.compare
  simp only [low_unsigned, toSigned_eq_low n _ hn, Nat.cast_inj, Nat.cast_lt, Nat.cast_le, ne_eq, gt_iff_lt, ge_iff_le]
  cases cc <;> exact decide_eq_true_iff

/-! ## Immediate moves (R128) -/

/-- 17 bits above the low 15 of a word. -/
theorem movh_word (imm : BitVec 17) (c : W32) :
    BitVec.ofNat 64 ((imm.zeroExtend 64).toNat * 2 ^ 15 + c.toNat % 2 ^ 15) = word ((imm.zeroExtend 32 <<< 15) ||| (c &&& 0x7FFF)) := by
  have hlow : (c &&& 0x7FFF).toNat = c.toNat % 2 ^ 15 := (BitVec.toNat_and ..).trans (Nat.and_two_pow_sub_one_eq_mod c.toNat 15)
  have hhigh : (imm.zeroExtend 32 <<< 15).toNat = imm.toNat <<< 15 := by
    have himm := imm.isLt
    rw [BitVec.toNat_shiftLeft, BitVec.toNat_setWidth, Nat.mod_eq_of_lt (himm.trans (by decide)), Nat.shiftLeft_eq, Nat.mod_eq_of_lt (by omega)]
  rw [← ofNat_toNat_word, BitVec.toNat_or, hlow, hhigh, BitVec.toNat_setWidth, Nat.mod_eq_of_lt (imm.isLt.trans (by decide)),
    ← Nat.shiftLeft_add_eq_or_of_lt (Nat.mod_lt _ (by decide)), Nat.shiftLeft_eq]

theorem intBits_pos (w : IntW) : 0 < intBits w := by cases w <;> decide

end Sys2Proof.Machine

namespace Sys2Proof.Proofs

open Sys2Proof.Machine Sys2Proof.Say

/-- Settles O27: each operation is the one on words, bit counts by the highest 1 bit and reversal from the top bit down. -/
theorem logicValues : Obligations.LogicValues := by
  intro a b c d
  refine ⟨?and, ?or, ?xor, ?andn, ?shl, ?shrZ, ?shrS, ?rol, ?neg, ?popc, ?clz, ?brev⟩
  case and | or | xor => simp only [aluEval, word, BitVec.setWidth_and, BitVec.setWidth_or, BitVec.setWidth_xor]
  case andn => simp only [aluEval, word_and_not]
  case shl => simp only [aluEval, word_toNat, bitsOfInt_word, BitVec.ofInt_natCast, ofNat_mul_two_pow]
  case shrZ => simp only [aluEval, word_toNat, bitsOfInt_word, BitVec.ofInt_natCast, Nat.mod_eq_of_lt a.isLt, ofNat_div_two_pow]
  case shrS =>
    simp only [aluEval, word_toNat, bitsOfInt_word, toSigned_eq_toInt 32 _ (by decide), BitVec.ofNat_toNat, BitVec.setWidth_eq, ofInt_div_two_pow]
  case rol =>
    simp only [aluEval, word_toNat, Nat.mod_eq_of_lt a.isLt, ← ofNat_rotateLeft, Nat.mod_mod]
  case neg => simp only [aluEval, word_toNat, bitsOfInt_word, BitVec.ofInt_neg, BitVec.ofInt_natCast, BitVec.ofNat_toNat, BitVec.setWidth_eq]
  case popc => simp only [aluEval, word_toNat, popcount_toNat]
  case clz =>
    obtain ⟨hle, hzero, hone⟩ := clz32_spec a
    exact ⟨clz32 a.toNat, hle, by simp only [aluEval, word_toNat], hzero, hone⟩
  case brev =>
    refine ⟨BitVec.ofNat 32 (brev 32 a.toNat), by simp only [aluEval, word_toNat, ofNat_eq_word_of_lt (brev_lt 32 _)], fun i hi => ?_⟩
    rw [BitVec.getLsbD_ofNat, decide_eq_true hi, Bool.true_and, testBit_brev _ hi]
    rfl

/-- Settles O28: the three cases of `divRem`. -/
theorem divisionValues : Obligations.DivisionValues := by
  intro a b c d u
  simp only [aluEval, divRem_eq]
  refine ⟨fun hzero => ?_, fun hu ha hb => ?_, fun hzero hover => ?_⟩
  · rw [if_pos hzero]; exact ⟨rfl, rfl⟩
  · rw [if_neg (by rw [hb]; decide), if_pos ⟨hu, ha, hb⟩]; exact ⟨rfl, rfl⟩
  · rw [if_neg hzero, if_neg hover]; exact ⟨rfl, rfl⟩

/-- Settles O29: a comparison gives the truth of its condition, and `movh` puts 17 bits above 15. -/
theorem compareAndMoveValues : Obligations.CompareAndMoveValues := by
  refine ⟨fun a b c d cc w => ?compare, fun imm b c d => rfl, fun imm b c d => ?movh⟩
  case compare =>
    have hiff := condEval_iff cc (intBits_pos w) a b
    exact ⟨fun h => by simp only [aluEval, hiff.mpr h, if_true],
      fun h => by simp only [aluEval, Bool.eq_false_iff.mpr (mt hiff.mp h), Bool.false_eq_true, if_false]⟩
  case movh => simp only [aluEval, word_toNat, movh_word]

end Sys2Proof.Proofs

/-! SUPPORT. The sign bit of a pattern, and its class (R133, R134). -/

namespace Sys2Proof.Machine

open Sys2Proof.Say

/-! ## The sign bit (R133) -/

/-- The patterns that `fabs`, `fneg` and `fcpsgn` give. -/
def clearSign (f : FFmt) (x : Nat) : Nat := x % 2 ^ (fmtWidth f - 1)
def flipSign (f : FFmt) (x : Nat) : Nat := x ^^^ 2 ^ (fmtWidth f - 1)
def copySign (f : FFmt) (x y : Nat) : Nat := clearSign f x + y / 2 ^ (fmtWidth f - 1) * 2 ^ (fmtWidth f - 1)

theorem aluEval_fabs (f : FFmt) (a b c : W64) (d : Nat → Nat) :
    aluEval (.fabs f) a b c d = { val := BitVec.ofNat 64 (clearSign f (pat f a)) } := rfl
theorem aluEval_fneg (f : FFmt) (a b c : W64) (d : Nat → Nat) :
    aluEval (.fneg f) a b c d = { val := BitVec.ofNat 64 (flipSign f (pat f a)) } := rfl
theorem aluEval_fcpsgn (f : FFmt) (a b c : W64) (d : Nat → Nat) :
    aluEval (.fcpsgn f) a b c d = { val := BitVec.ofNat 64 (copySign f (pat f a) (pat f b)) } := rfl

variable {f : FFmt} {n : Nat}

/-- On the bits of a pattern `fabs` keeps every bit but the highest, -/
theorem clearSign_toNat (hn : fmtWidth f = n + 1) (a : BitVec (n + 1)) :
    clearSign f a.toNat = (a &&& BitVec.ofNat (n + 1) (2 ^ n - 1)).toNat := by
  have hlt : 2 ^ n - 1 < 2 ^ (n + 1) := (Nat.sub_le ..).trans_lt (Nat.pow_lt_pow_right (by decide) n.lt_succ_self)
  rw [clearSign, hn, Nat.add_sub_cancel, BitVec.toNat_and, BitVec.toNat_ofNat, Nat.mod_eq_of_lt hlt, Nat.and_two_pow_sub_one_eq_mod]

/-- `fneg` changes the highest one, -/
theorem flipSign_toNat (hn : fmtWidth f = n + 1) (a : BitVec (n + 1)) :
    flipSign f a.toNat = (a ^^^ BitVec.ofNat (n + 1) (2 ^ n)).toNat := by
  rw [flipSign, hn, Nat.add_sub_cancel, BitVec.toNat_xor, BitVec.toNat_ofNat, Nat.mod_eq_of_lt (Nat.pow_lt_pow_right (by decide) n.lt_succ_self)]

/-- and `fcpsgn` takes it from the other pattern. -/
theorem copySign_toNat (hn : fmtWidth f = n + 1) (a b : BitVec (n + 1)) : copySign f a.toNat b.toNat =
    ((a &&& BitVec.ofNat (n + 1) (2 ^ n - 1)) ||| (b &&& BitVec.ofNat (n + 1) (2 ^ n))).toNat := by
  have hlow : clearSign f a.toNat < 2 ^ n := by
    rw [clearSign, hn, Nat.add_sub_cancel]; exact Nat.mod_lt _ (by positivity)
  have hhigh : (b &&& BitVec.ofNat (n + 1) (2 ^ n)).toNat = (b.toNat / 2 ^ n) <<< n := by
    have hbit : b.toNat / 2 ^ n < 2 := Nat.div_lt_of_lt_mul (by rw [← pow_succ]; exact b.isLt)
    rw [BitVec.toNat_and, BitVec.toNat_ofNat, Nat.mod_eq_of_lt (Nat.pow_lt_pow_right (by decide) n.lt_succ_self), Nat.and_two_pow,
      Nat.shiftLeft_eq, Nat.testBit_eq_decide_div_mod_eq, Nat.mod_eq_of_lt hbit]
    rcases Nat.lt_or_ge (b.toNat / 2 ^ n) 1 with h | h
    · simp [Nat.lt_one_iff.mp h]
    · simp [Nat.le_antisymm (Nat.le_of_lt_succ hbit) h]
  rw [BitVec.toNat_or, ← clearSign_toNat hn, hhigh, Nat.or_comm, ← Nat.shiftLeft_add_eq_or_of_lt hlow, copySign, hn, Nat.add_sub_cancel,
    Nat.shiftLeft_eq, Nat.add_comm]

/-! ## Classes (R134) -/

/-- The class of a pattern by its fields: `unpackF` reads them apart in the same order. -/
theorem classF_eq (he : f ≠ .e4m3) (x : Nat) : classF f x = 2 ^ classBit (negative f x) (x / 2 ^ fracBits f % 2 ^ expBits f) (expBits f)
    (x % 2 ^ fracBits f) (decide (x % 2 ^ fracBits f / 2 ^ (fracBits f - 1) ≠ 0)) := by
  rw [expField_eq, fracField_eq, classF, unpackF_eq, if_neg he, classBit, readNumber]
  have hfr := Nat.mod_lt (mags f x) (show 0 < 2 ^ fracBits f by positivity)
  by_cases hmax : mags f x / 2 ^ fracBits f = 2 ^ expBits f - 1
  · rw [if_pos hmax, if_pos hmax]
    by_cases hzero : mags f x % 2 ^ fracBits f = 0
    · rw [if_pos hzero, if_pos hzero]
      cases negative f x <;> rfl
    · rw [if_neg hzero, if_neg hzero]
      by_cases hq : mags f x % 2 ^ fracBits f / 2 ^ (fracBits f - 1) = 0 <;> simp [hq]
  · rw [if_neg hmax, if_neg hmax]
    by_cases hexp : mags f x / 2 ^ fracBits f = 0
    · rw [if_pos hexp, if_pos hexp]
      by_cases hzero : mags f x % 2 ^ fracBits f = 0
      · cases negative f x <;> simp [hzero]
      · cases negative f x <;> simp [hzero, hfr]
    · rw [if_neg hexp, if_neg hexp]
      cases negative f x <;> simp

/-- A NaN is quiet where the highest bit of its fraction is set (R61). -/
theorem quiet_eq_getLsbD {m k : Nat} (a : BitVec m) : decide (a.toNat % 2 ^ (k + 1) / 2 ^ k ≠ 0) = a.getLsbD k := by
  rw [pow_succ, Nat.mod_mul_right_div_self, ← Bool.not_not (a.getLsbD k), ← decide_bit_clear, decide_not]

end Sys2Proof.Machine

namespace Sys2Proof.Proofs

open Sys2Proof.Machine Sys2Proof.Say

/-- Settles O30: on patterns each changes the highest bit alone. -/
theorem signValues : Obligations.SignValues := by
  refine ⟨fun a b c d => ?single, fun a b c d => ?double⟩
  case single =>
    have hn : fmtWidth .f32 = 31 + 1 := rfl
    simp only [aluEval_fabs, aluEval_fneg, aluEval_fcpsgn, pat_f32_word, clearSign_toNat hn a, flipSign_toNat hn a, copySign_toNat hn a b,
      ofNat_toNat_word]
    exact ⟨rfl, rfl, rfl⟩
  case double =>
    have hn : fmtWidth .f64 = 63 + 1 := rfl
    simp only [aluEval_fabs, aluEval_fneg, aluEval_fcpsgn, pat_f64, clearSign_toNat hn a, flipSign_toNat hn a, copySign_toNat hn a b,
      BitVec.ofNat_toNat, BitVec.setWidth_eq]
    exact ⟨rfl, rfl, rfl⟩

/-- Settles O31: `classF` by the fields of the pattern. -/
theorem classValues : Obligations.ClassValues := by
  refine ⟨fun a b c d => ?single, fun a b c d => ?double⟩
  case single =>
    rw [msb_eq_negative (f := .f32) a rfl, ← quiet_eq_getLsbD]
    simp only [aluEval, pat_f32_word, classF_eq (f := .f32) (by decide)]
    rfl
  case double =>
    rw [msb_eq_negative (f := .f64) a rfl, ← quiet_eq_getLsbD]
    simp only [aluEval, pat_f64, classF_eq (f := .f64) (by decide)]
    rfl

end Sys2Proof.Proofs

/-! SUPPORT. Issues of instructions that execute once: uniform forms (R118), and those that change the block as they go on (R208 to R211). -/

namespace Sys2Proof.Machine

open Sys2Proof.Say

variable {s : State} {w w' : World} {t : Site} {k : Course} {b : Block} {rs : List Result}

/-! ## Taking a turn (R118) -/

/-- An instruction that does nothing at its issue takes its turn alone. -/
theorem issuePlain_off {act : Site → World → World} (h : At s t) (hact : act t (beginIssue t (enter s)) = beginIssue t (enter s)) :
    ∃ s', issuePlain act s = .next s' ∧ Moves s s' t (issuedCourse t) [] := by
  rw [issuePlain_run h, hact]
  exact ⟨_, rfl, moves_beginIssue s t⟩

/-- An issue that only passes its course on leaves its results. -/
theorem leavesResults_of_moves {s' : State} (h : Moves s s' t (issuedCourse t) rs) : LeavesResults s s' t rs :=
  ⟨h.issued, ⟨h.own, h.others, h.blocks, h.tiles, h.tags, h.cmds, h.arms, h.watches, h.trap⟩, h.flights, h.accs, h.results⟩

/-! ## Uniform forms (R118, R122) -/

/-- A uniform form computes its operation. -/
theorem uniForm_op {i : Instr} {op : AluOp} {f : Form} (h : uniForm i = some (op, f)) : f.op = .alu op := by
  cases i <;> cases h <;> rfl

/-- Its destination is a uniform register or pair, or a predicate. -/
theorem uniForm_dst {i : Instr} {op : AluOp} {f : Form} (h : uniForm i = some (op, f)) :
    (∃ wide d, f.dst = uniDst wide d) ∨ ∃ p, f.dst = .pred p := by
  cases i
  case usetp cc p a b w =>
    cases h
    exact .inr ⟨p, rfl⟩
  case uadd | usub | umul | umad | uaddSat | usubSat | umulhi =>
    cases h
    exact .inl ⟨_, _, rfl⟩
  all_goals
    cases h <;> exact .inl ⟨false, _, rfl⟩

/-- Every uniform form is issued as such. -/
theorem exec_of_uniForm {i : Instr} {op : AluOp} {f : Form} (h : uniForm i = some (op, f)) (s : State) : exec i s = issueUni f s := by
  cases i <;> cases h <;> rfl

/-- What the result of such a destination writes. -/
theorem onceWrites_eq_uniWrites {d : Dst} (h : (∃ wide r, d = uniDst wide r) ∨ ∃ p, d = .pred p) (t : Site) (v : W64) :
    onceWrites t d v = uniWrites t d v := by
  rcases h with ⟨wide, r, rfl⟩ | ⟨p, rfl⟩
  · cases wide <;> rfl
  · rfl

/-! ## An issue that changes its block -/

/-- `w'` is `w` after an issue at `t` that leaves the course `k` and the block `b`; of its core the strings, the profiles and the count of
issues have moved on too. -/
structure Handed (w w' : World) (t : Site) (k : Course) (b : Block) : Prop where
  out : w'.out = w.out
  mach : w'.mach = { w.mach with cur := none, cores := w'.mach.cores }
  cores : ∀ c, c ≠ t.i.core → w'.core c = w.core c
  course : w'.course? t.i.core t.i.owner t.i.cr = some k
  others : ∀ o r, 32 * o + r ≠ 32 * t.i.owner + t.i.cr → w'.course? t.i.core o r = w.course? t.i.core o r
  block : w'.block? t.i.core t.i.owner = some b
  blocks : ∀ o, o ≠ t.i.owner → w'.block? t.i.core o = w.block? t.i.core o
  own : w'.core t.i.core = { w.core t.i.core with
    courses := (w'.core t.i.core).courses, strs := (w'.core t.i.core).strs, samples := (w'.core t.i.core).samples
    blocks := (w'.core t.i.core).blocks, seq := t.seq + 1 }

/-- Before the instruction does anything its block is as it was. -/
theorem handed_beginIssue (h : At s t) : Handed (enter s) (beginIssue t (enter s)) t (issuedCourse t) t.b := by
  have hp := passes_beginIssue t (enter s)
  refine ⟨hp.out, hp.mach, hp.cores, hp.course, hp.others, ?_, fun o _ => beginIssue_block t (enter s) _ o, ?_⟩
  · exact (beginIssue_block t (enter s) _ _).trans (siteOf_some h.1).2.1
  · rw [hp.own, beginIssue_seq]

theorem Handed.setBlock (h : Handed w w' t k b) (b' : Block) : Handed w (w'.setBlock t.i.core t.i.owner b') t k b' where
  out := h.out
  mach := by rw [World.setBlock, World.modCore, World.setCore, h.mach]
  cores c hne := by rw [World.setBlock, core_modCore_other _ _ hne, h.cores c hne]
  course := by rw [← h.course, World.course?, World.setBlock, core_modCore_same]; rfl
  others o r hne := by rw [← h.others o r hne, World.course?, World.setBlock, core_modCore_same]; rfl
  block := by rw [World.block?, World.setBlock, core_modCore_same]; exact Tab.find_put_same ..
  blocks o hne := by rw [← h.blocks o hne, World.block?, World.setBlock, core_modCore_same]; exact Tab.find_put_other _ _ hne
  own := by rw [World.setBlock, core_modCore_same, h.own]

theorem Handed.modBlock (h : Handed w w' t k b) (f : Block → Block) : Handed w (w'.modBlock t.i.core t.i.owner f) t k (f b) := by
  have he : w'.modBlock t.i.core t.i.owner f = w'.setBlock t.i.core t.i.owner (f b) := by simp only [World.modBlock, h.block]
  rw [he]
  exact h.setBlock _

theorem Handed.setCourse (h : Handed w w' t k b) (k' : Course) : Handed w (w'.setCourse t.i.core t.i.owner t.i.cr k') t k' b where
  out := h.out
  mach := by rw [World.setCourse, World.modCore, World.setCore, h.mach]
  cores c hne := by rw [World.setCourse, core_modCore_other _ _ hne, h.cores c hne]
  course := course_setCourse_same ..
  others o r hne := by
    rw [← h.others o r hne]
    simp only [World.course?, World.setCourse, core_modCore_same, Tab.find_put_other _ _ hne]
  block := by rw [← h.block, World.block?, World.setCourse, core_modCore_same]; rfl
  blocks o hne := by rw [← h.blocks o hne, World.block?, World.setCourse, core_modCore_same]; rfl
  own := by rw [World.setCourse, core_modCore_same, h.own]

/-- In a state: what the statements say of such an issue. -/
theorem Handed.hands (h : Handed (enter s) w t k b) : Hands s (commit s w) t k b [] := by
  have hmem : (commit s w).mem = s.mem := by rw [commit_mem, h.out]; rfl
  have hown : Say.core (commit s w) t.i.core = _ := h.own
  exact {
    issued := {
      bytes := ⟨fun st a => by rw [hmem], by rw [hmem]⟩
      mach := h.mach
      seq := by rw [hown]
      kept := by rw [CoreKept, hown]; rfl
      cores := h.cores }
    own := h.course
    others := h.others
    block := h.block
    blocks := h.blocks
    tiles := by rw [hown]; rfl
    tags := by rw [hown]; rfl
    cmds := by rw [hown]; rfl
    arms := by rw [hown]; rfl
    flights := by rw [hown]; rfl
    accs := by rw [hown]; rfl
    results := by rw [hown, List.append_nil]; rfl }

/-! ## Phasers (R208, R209) -/

theorem finish_eq_phased (x : Phaser) : x.finish = phased x := by
  simp only [Phaser.finish, phased, Bool.and_eq_true, decide_eq_true_eq, and_assoc]

theorem setPhaser_eq_withPhaser (b : Block) (n : Nat) (x : Phaser) : b.setPhaser n x = withPhaser b n x := by
  rw [Block.setPhaser, finish_eq_phased, withPhaser]

/-- A change of a phaser of the issuing block, which leaves the course as issued. -/
theorem hands_setPhaser (h : At s t) (n : Nat) (g : Block → Phaser) :
    Hands s (commit s ((beginIssue t (enter s)).modBlock t.i.core t.i.owner fun b => b.setPhaser n (g b))) t (issuedCourse t)
      (withPhaser t.b n (g t.b)) [] := by
  have hh := ((handed_beginIssue h).modBlock fun b => b.setPhaser n (g b)).hands
  rwa [setPhaser_eq_withPhaser] at hh

/-- A phaser instruction faults where its block has no such phaser, and acts where it has. -/
theorem issuePhaser_spec {n : Nat} {act : Site → World → World} {P : State → Prop} (h : At s t) (hon : once t = true)
    (hP : n < t.b.hdr.phasers → P (commit s (act t (beginIssue t (enter s))))) :
    ∃ s', issuePhaser n act s = .next s' ∧ (t.b.hdr.phasers ≤ n → OnceFaults s s' t 0x0B 0 1 0) ∧ (n < t.b.hdr.phasers → P s') := by
  rcases Nat.lt_or_ge n t.b.hdr.phasers with hn | hn
  · exact ⟨_, issuePhaser_run h hon hn act, fun hge => absurd hn (Nat.not_lt.mpr hge), hP⟩
  · refine ⟨commit s (siteFault t 0x0B 0 1 0 0 [] (beginIssue t (enter s))), ?_, fun _ => onceFaults h 0x0B 0 1 0 0 [] (by decide),
      fun hlt => absurd hlt (Nat.not_lt.mpr hn)⟩
    rw [issuePhaser, issuePlain_run h]
    simp only [site_once, hon, Bool.not_true, Bool.false_eq_true, if_false, if_pos hn]

/-! ## Releases (R244) -/

/-- An issue leaves the marks that its core's accesses meet. -/
theorem markMet_beginIssue (t : Site) (w : World) (vcc : Nat) (m : Mark) :
    markMet (beginIssue t w) t.i.core vcc m = markMet w t.i.core vcc m := by
  unfold markMet
  rw [(passes_beginIssue t w).own]

/-- A release at the issue. -/
theorem releaseAt_once (h : atOnce s t) (key : Bool) (n : Nat) :
    releaseAt t key n (beginIssue t (enter s)) = doRelease t.i.core (heldBack t key n) t.i.owner (beginIssue t (enter s)) := by
  have hc : (t.timed || markMet (beginIssue t (enter s)) t.i.core t.i.cyc (.performed t.seq .blk t.ids)) = true := by
    rw [markMet_beginIssue, Bool.or_eq_true]
    exact h
  rw [releaseAt]
  simp only [hc, if_true, heldBack]

/-- A release that the block keeps. -/
theorem hands_releaseAt_later (h : At s t) (hlater : ¬ atOnce s t) (key : Bool) (n : Nat) :
    Hands s (commit s (releaseAt t key n (beginIssue t (enter s)))) t (issuedCourse t) { t.b with pends := t.b.pends ++ [heldBack t key n] } [] := by
  have hc : ¬ (t.timed || markMet (beginIssue t (enter s)) t.i.core t.i.cyc (.performed t.seq .blk t.ids)) = true := by
    rw [markMet_beginIssue, Bool.or_eq_true]
    exact hlater
  rw [releaseAt]
  simp only [hc]
  exact ((handed_beginIssue h).modBlock _).hands

/-- An arrival that takes place: the course signals, and its bit joins the arrivals. -/
theorem doRelease_arrival {cr n : Nat} (m : Mark) (anc : List Nat) (hb : w.block? t.i.core t.i.owner = some b) (hcr : cr < 32)
    (hsig : (b.phaser n).sig.getLsbD cr = true) :
    doRelease t.i.core { key := false, ph := n, cr := cr, mark := m, anc := anc } t.i.owner w =
      w.setBlock t.i.core t.i.owner (b.setPhaser n { b.phaser n with arr := (b.phaser n).arr ||| laneBit cr }) := by
  have hbit : ¬ (b.phaser n).sig &&& laneBit cr = 0 := fun h0 => by
    have := congrArg (BitVec.getLsbD · cr) h0
    simp [hsig, getLsbD_laneBit cr hcr, -BitVec.getLsbD_eq_getElem] at this
  simp only [doRelease, hb, Bool.false_eq_true, if_false, if_neg hbit]

/-- A course that signals and need not wait has not arrived. -/
theorem arrived_of_mustWait_none {n : BitVec 4} (hn : n.toNat < t.b.hdr.phasers) (hsig : (phaser t n.toNat).sig.getLsbD t.i.cr = true)
    (hwait : mustWait s t (.phArrive n) = none) : arrived t.b n.toNat t.i.cr = false := by
  rw [← Bool.not_eq_true]
  intro harr
  rw [arrived, Bool.or_eq_true, List.any_eq_true] at harr
  have hagain : (phaser t n.toNat).arr.getLsbD t.i.cr = true ∨ ∃ p ∈ t.b.pends, p.key = false ∧ p.ph = n.toNat ∧ p.cr = t.i.cr :=
    harr.imp id fun ⟨p, hp, hq⟩ => ⟨p, hp, by simpa [and_assoc] using hq⟩
  have hsome : mustWait s t (.phArrive n) = some (.phArrive n.toNat) := if_pos ⟨hn, hsig, hagain⟩
  rw [hsome] at hwait
  cases hwait

/-! ## The matrix key (R210) -/

/-- An issue leaves the lanes of every course of its core. -/
theorem live_beginIssue (h : At s t) (o r : Nat) :
    ((beginIssue t (enter s)).course? t.i.core o r).map Course.live = (course s t.i.core o r).map Course.live := by
  by_cases hkey : 32 * o + r = 32 * t.i.owner + t.i.cr
  · have hold : course s t.i.core o r = some t.k := by
      rw [← (siteOf_some h.1).2.2.1, World.course?, ← hkey]; rfl
    have hnew : (beginIssue t (enter s)).course? t.i.core o r = some (issuedCourse t) := by
      rw [← (passes_beginIssue t (enter s)).course, World.course?, World.course?, hkey]
    have hlive : (issuedCourse t).live = t.k.live := by unfold issuedCourse Course.setPath; split <;> rfl
    rw [hold, hnew, Option.map_some, Option.map_some, hlive]
  · rw [(passes_beginIssue t (enter s)).others _ _ hkey]
    rfl

/-- The next course of the rotation that has lanes left. -/
theorem nextHolder_beginIssue (h : At s t) : nextHolder (beginIssue t (enter s)) t.i.core t.b t.i.cr =
    ((List.range t.b.hdr.courses).map fun i => (t.i.cr + 1 + i) % t.b.hdr.courses).find? fun r =>
      ((course s t.i.core t.b.bind.owner r).map fun k => decide (k.live ≠ 0)).getD false := by
  unfold nextHolder
  refine congrArg (fun p => List.find? p _) (funext fun r => ?_)
  have hlive := live_beginIssue h t.b.bind.owner r
  cases hnew : (beginIssue t (enter s)).course? t.i.core t.b.bind.owner r <;>
    cases hold : course s t.i.core t.b.bind.owner r <;> rw [hnew, hold] at hlive <;> simp_all [Course.gone]

/-- `key.pass` of the course that holds the key, where its earlier accesses are performed. -/
theorem hands_passKey (h : At s t) (hkey : t.b.key = t.i.cr) :
    Hands s (commit s (doRelease t.i.core (heldBack t true 0) t.i.owner (beginIssue t (enter s)))) t (issuedCourse t)
      { t.b with key := (((List.range t.b.hdr.courses).map fun i => (t.i.cr + 1 + i) % t.b.hdr.courses).find? fun r =>
        ((course s t.i.core t.b.bind.owner r).map fun k => decide (k.live ≠ 0)).getD false).getD t.i.cr } [] := by
  have hb := handed_beginIssue h
  simp only [doRelease, hb.block, heldBack, hkey, if_true, nextHolder_beginIssue h]
  exact (hb.setBlock _).hands

/-! ## Register blocks (R211) -/

@[simp] theorem issuedCourse_allot (t : Site) : (issuedCourse t).allot = t.k.allot := by
  unfold issuedCourse Course.setPath; split <;> rfl
@[simp] theorem issuedCourse_str (t : Site) : (issuedCourse t).str = t.k.str := by
  unfold issuedCourse Course.setPath; split <;> rfl
@[simp] theorem issuedCourse_regs (t : Site) : (issuedCourse t).regs = t.k.regs := by
  unfold issuedCourse Course.setPath; split <;> rfl

/-- A course that takes `n` words at a cycle: they read zero (R211). -/
def Course.grown (k : Course) (n cyc : Nat) : Course :=
  { k with
    allot := k.allot + n
    grow := some (cyc + 2, k.allot)
    regs := k.regs.filter fun (x : Nat × W32) => decide (x.1 / 32 < k.allot) || decide (k.allot + n ≤ x.1 / 32)
    poison := k.poison.filter fun (x : Nat × Bool) => decide (x.1 / 32 * 2 < k.allot) }

/-- The new words read zero, and every other one stands. -/
theorem reg_grown (k : Course) (n cyc x : Nat) {j : Nat} (hj : j < 32) :
    (k.grown n cyc).reg x j = if k.allot ≤ x ∧ x < k.allot + n then 0 else k.reg x j := by
  have hword : (x * 32 + j) / 32 = x := by omega
  simp only [Course.reg, Course.grown, Tab.get]
  split
  · next hnew =>
    rw [Tab.find_filter_none _ _ _ fun v => ?_]
    · rfl
    · simp only [hword, Bool.or_eq_false_iff, decide_eq_false_iff_not]
      omega
  · next hold =>
    rw [Tab.find_filter _ _ _ fun v => ?_]
    simp only [hword, Bool.or_eq_true, decide_eq_true_eq]
    omega

/-- Taking words from the pool of the course's string. -/
theorem handed_takeWords (h : At s t) (n cyc : Nat) :
    Handed (enter s) (takeWords t.i.core t.i.owner t.i.cr n cyc (beginIssue t (enter s))) t ((issuedCourse t).grown n cyc)
      { t.b with pools := t.b.pools.put t.k.str ((t.b.pools.find t.k.str).getD 0 - n) } := by
  have hb := handed_beginIssue h
  have htake : takeWords t.i.core t.i.owner t.i.cr n cyc (beginIssue t (enter s)) =
      ((beginIssue t (enter s)).modBlock t.i.core t.i.owner fun b =>
        { b with pools := b.pools.put t.k.str ((b.pools.find t.k.str).getD 0 - n) }).setCourse t.i.core t.i.owner t.i.cr
          ((issuedCourse t).grown n cyc) := by
    simp only [takeWords, hb.course, Course.grown, issuedCourse_str]
  rw [htake]
  exact (hb.modBlock _).setCourse _

/-- `rb.give`: a course gives words that lie above its window base, and keeps 32 at least. -/
theorem exec_rbGive (h : At s t) (hon : once t = true) (c : BitVec 4) : exec (.rbGive c) s = .next (commit s
    (if t.k.allot < 32 * c.toNat + 32 ∨ t.k.allot - 32 * c.toNat ≤ t.k.wb then siteFault t 0x0B 0 1 0 0 [] (beginIssue t (enter s))
      else ((beginIssue t (enter s)).modCourse t.i.core t.i.owner t.i.cr fun k => { k with allot := k.allot - 32 * c.toNat, grow := none }).modBlock
        t.i.core t.i.owner fun b => { b with pools := b.pools.put t.k.str ((b.pools.find t.k.str).getD 0 + 32 * c.toNat) })) := by
  change execRbGive c s = _
  rw [execRbGive, issuePlain_run h]
  simp only [site_once, hon, Bool.not_true, Bool.false_eq_true, if_false]
  rfl

/-- `rb.claim`: a course takes words that its pool holds, up to 512 in all. -/
theorem exec_rbClaim (h : At s t) (hon : once t = true) (c : BitVec 4) : exec (.rbClaim c) s = .next (commit s
    (if 512 < t.k.allot + 32 * c.toNat then siteFault t 0x0B 0 1 0 0 [] (beginIssue t (enter s))
      else if poolHas t.b t.k (32 * c.toNat) then takeWords t.i.core t.i.owner t.i.cr (32 * c.toNat) t.i.cyc (beginIssue t (enter s))
      else waitOr t (.claim (32 * c.toNat)) 0 [] (beginIssue t (enter s)))) := by
  change execRbClaim c s = _
  rw [execRbClaim, issuePlain_run h]
  simp only [site_once, hon, Bool.not_true, Bool.false_eq_true, if_false]

/-- `key.pass`: the course that holds the key releases it. -/
theorem exec_keyPass (h : At s t) (hon : once t = true) : exec .keyPass s = .next (commit s
    (if t.b.key ≠ t.i.cr then siteFault t 0x06 0 1 0 0 [] (beginIssue t (enter s)) else releaseAt t true 0 (beginIssue t (enter s)))) := by
  change execKeyPass s = _
  rw [execKeyPass, issuePlain_run h]
  simp only [site_once, hon, Bool.not_true, Bool.false_eq_true, if_false]

/-! ## What each form does where it is enabled (R208 to R211) -/

/-- Each of them is an issue without checks, and one that is disabled does nothing. -/
theorem exec_handover {n : BitVec 4} {role : BitVec 2} {b : Reg} {i : Instr}
    (hi : i ∈ [Instr.phReg n role, .phArrive n, .phWait n, .phExpect n b, .keyTake, .keyPass, .rbGive n, .rbClaim n]) (s : State) :
    ∃ act, exec i s = issuePlain act s ∧ ∀ t w, t.once = false → act t w = w := by
  simp only [List.mem_cons, List.not_mem_nil, or_false] at hi
  rcases hi with rfl | rfl | rfl | rfl | rfl | rfl | rfl | rfl
  all_goals exact ⟨_, rfl, fun t w hoff => if_pos (by simp [hoff])⟩

/-- `ph.arrive`: a course that does not signal passes by, and one that does arrives. -/
theorem phArriveIssue (h : At s t) (hon : once t = true) (n : BitVec 4) : let x := phaser t n.toNat
    ∃ s', exec (.phArrive n) s = .next s' ∧ (t.b.hdr.phasers ≤ n.toNat → OnceFaults s s' t 0x0B 0 1 0) ∧
      (n.toNat < t.b.hdr.phasers → x.sig.getLsbD t.i.cr = false → Moves s s' t (issuedCourse t) []) ∧
      (n.toNat < t.b.hdr.phasers → x.sig.getLsbD t.i.cr = true → mustWait s t (.phArrive n) = none → t.i.cr < 32 →
        (atOnce s t → Hands s s' t (issuedCourse t) (withPhaser t.b n.toNat { x with arr := x.arr ||| laneBit t.i.cr }) []) ∧
        (¬ atOnce s t → Hands s s' t (issuedCourse t) { t.b with pends := t.b.pends ++ [heldBack t false n.toNat] } [])) := by
  obtain ⟨s', he, hf, hs⟩ := issuePhaser_spec (n := n.toNat) (P := fun s' => s' = _) h hon fun _ => rfl
  refine ⟨s', he, hf, fun hn hsig => ?_, fun hn hsig hwait hcr => ?_⟩
  all_goals
    obtain rfl := hs hn
    have hsig' : (t.b.phaser n.toNat).sig.getLsbD t.i.cr = _ := hsig
  · simp only [hsig', Bool.not_false, if_true]
    exact moves_beginIssue s t
  · simp only [hsig', arrived_of_mustWait_none hn hsig hwait, Bool.not_true, Bool.false_eq_true, if_false]
    refine ⟨fun hnow => ?_, fun hlater => hands_releaseAt_later h hlater false n.toNat⟩
    rw [releaseAt_once hnow, heldBack, doRelease_arrival _ _ (handed_beginIssue h).block hcr hsig', setPhaser_eq_withPhaser]
    exact ((handed_beginIssue h).setBlock _).hands

/-- `ph.wait`: a course that does not wait passes by, and one that is behind the phase takes it. -/
theorem phWaitIssue (h : At s t) (hon : once t = true) (n : BitVec 4) : let x := phaser t n.toNat
    ∃ s', exec (.phWait n) s = .next s' ∧ (t.b.hdr.phasers ≤ n.toNat → OnceFaults s s' t 0x0B 0 1 0) ∧
      (n.toNat < t.b.hdr.phasers → x.wait.getLsbD t.i.cr = false → Moves s s' t (issuedCourse t) []) ∧
      (n.toNat < t.b.hdr.phasers → x.wait.getLsbD t.i.cr = true → ((x.wph.find t.i.cr).getD 0).toNat < x.phase.toNat →
        Hands s s' t (issuedCourse t) (withPhaser t.b n.toNat { x with wph := x.wph.put t.i.cr ((x.wph.find t.i.cr).getD 0 + 1) }) []) := by
  obtain ⟨s', he, hf, hs⟩ := issuePhaser_spec (n := n.toNat) (P := fun s' => s' = _) h hon fun _ => rfl
  refine ⟨s', he, hf, fun hn hwait => ?_, fun hn hwait hahead => ?_⟩
  all_goals
    obtain rfl := hs hn
    have hwait' : (t.b.phaser n.toNat).wait.getLsbD t.i.cr = _ := hwait
  · simp only [hwait', Bool.not_false, if_true]
    exact moves_beginIssue s t
  · have hahead' : (t.b.phaser n.toNat).ahead t.i.cr = true := decide_eq_true hahead
    simp only [hwait', hahead', Bool.not_true, Bool.false_eq_true, if_false, if_true]
    exact hands_setPhaser h n.toNat fun _ => (t.b.phaser n.toNat).waited t.i.cr

/-- `key.pass`: without the key it faults, and with it the key moves on, now or later. -/
theorem keyPassIssue (h : At s t) (hon : once t = true) : ∃ s', exec .keyPass s = .next s' ∧
    (t.b.key ≠ t.i.cr → OnceFaults s s' t 0x06 0 1 0) ∧
    (t.b.key = t.i.cr → atOnce s t → Hands s s' t (issuedCourse t) { t.b with key :=
      (((List.range t.b.hdr.courses).map fun i => (t.i.cr + 1 + i) % t.b.hdr.courses).find? fun r =>
        ((course s t.i.core t.b.bind.owner r).map fun k => decide (k.live ≠ 0)).getD false).getD t.i.cr } []) ∧
    (t.b.key = t.i.cr → ¬ atOnce s t → Hands s s' t (issuedCourse t) { t.b with pends := t.b.pends ++ [heldBack t true 0] } []) := by
  refine ⟨_, exec_keyPass h hon, fun hkey => ?_, fun hkey hnow => ?_, fun hkey hlater => ?_⟩
  · rw [if_pos hkey]
    exact onceFaults h 0x06 0 1 0 0 [] (by decide)
  · rw [if_neg (not_not_intro hkey), releaseAt_once hnow]
    exact hands_passKey h hkey
  · rw [if_neg (not_not_intro hkey)]
    exact hands_releaseAt_later h hlater true 0

/-- `rb.give`: the words go to the pool of the course's string. -/
theorem rbGiveIssue (h : At s t) (hon : once t = true) (c : BitVec 4) : let n := 32 * c.toNat
    ∃ s', exec (.rbGive c) s = .next s' ∧ (t.k.allot < n + 32 ∨ t.k.allot - n ≤ t.k.wb → OnceFaults s s' t 0x0B 0 1 0) ∧
      (n + 32 ≤ t.k.allot → t.k.wb < t.k.allot - n → Hands s s' t { issuedCourse t with allot := t.k.allot - n, grow := none }
        { t.b with pools := t.b.pools.put t.k.str ((t.b.pools.find t.k.str).getD 0 + n) } []) := by
  refine ⟨_, exec_rbGive h hon c, fun hbad => ?_, fun hroom hbase => ?_⟩
  · rw [if_pos hbad]
    exact onceFaults h 0x0B 0 1 0 0 [] (by decide)
  · rw [if_neg (not_or.mpr ⟨Nat.not_lt.mpr hroom, Nat.not_le.mpr hbase⟩)]
    have hb := handed_beginIssue h
    simp only [World.modCourse, hb.course, issuedCourse_allot]
    exact ((hb.setCourse _).modBlock _).hands

/-- `rb.claim`: the words come from that pool. -/
theorem rbClaimIssue (h : At s t) (hon : once t = true) (c : BitVec 4) : let n := 32 * c.toNat
    ∃ s', exec (.rbClaim c) s = .next s' ∧ (512 < t.k.allot + n → OnceFaults s s' t 0x0B 0 1 0) ∧
      (t.k.allot + n ≤ 512 → n ≤ (t.b.pools.find t.k.str).getD 0 → ∃ k', Hands s s' t k'
          { t.b with pools := t.b.pools.put t.k.str ((t.b.pools.find t.k.str).getD 0 - n) } [] ∧
        k' = { issuedCourse t with allot := t.k.allot + n, grow := some (t.i.cyc + 2, t.k.allot), regs := k'.regs, poison := k'.poison } ∧
        ∀ x j, j < 32 → k'.reg x j = if t.k.allot ≤ x ∧ x < t.k.allot + n then 0 else t.k.reg x j) := by
  refine ⟨_, exec_rbClaim h hon c, fun hbad => ?_, fun hroom hpool => ?_⟩
  · rw [if_pos hbad]
    exact onceFaults h 0x0B 0 1 0 0 [] (by decide)
  · rw [if_neg (Nat.not_lt.mpr hroom), if_pos (show poolHas t.b t.k _ = true from decide_eq_true hpool)]
    refine ⟨_, (handed_takeWords h _ _).hands, by simp only [Course.grown, issuedCourse_allot], fun x j hj => ?_⟩
    rw [reg_grown _ _ _ _ hj, issuedCourse_allot, Course.reg, issuedCourse_regs]
    rfl

end Sys2Proof.Machine

namespace Sys2Proof.Proofs

open Sys2Proof.Machine Sys2Proof.Say

/-- Settles O16: each is a uniform issue of its form, which leaves one result where the lowest active lane is enabled. -/
theorem uniformIssue : Obligations.UniformIssue := by
  intro i op f s t hi h
  rw [exec_of_uniForm hi, issueUni, uniForm_op hi]
  refine ⟨_, issuePlain_run h, leavesResults_of_moves ?_⟩
  simp only [uniAct, site_once, onceWrites_eq_uniWrites (uniForm_dst hi)]
  split
  · exact moves_onceResult s t f.lat _
  · exact moves_beginIssue s t

/-- Settles O51: a lemma for each form, which changes its block's phaser, key or pool, or keeps the release for later. -/
theorem handsOver : Obligations.HandsOver := by
  refine ⟨fun n role b s t h hoff i hi => ?off, fun s t h hon => ⟨fun n role => ?reg, phArriveIssue h hon, phWaitIssue h hon, fun n b => ?expect,
    fun hkey => ?take, keyPassIssue h hon, rbGiveIssue h hon, rbClaimIssue h hon⟩⟩
  case off =>
    obtain ⟨act, he, hact⟩ := exec_handover hi s
    rw [he]
    exact issuePlain_off h (hact t _ (by rw [site_once, hoff]))
  case reg =>
    exact issuePhaser_spec h hon fun _ => hands_setPhaser h n.toNat fun b =>
      (b.phaser n.toNat).register t.i.cr (role.getLsbD 0) (role.getLsbD 1)
  case expect =>
    exact issuePhaser_spec h hon fun _ => hands_setPhaser h n.toNat fun y => { y.phaser n.toNat with bal := (y.phaser n.toNat).bal + t.k.uni b.toNat }
  case take => exact issuePlain_off h (if_pos (by simp [hkey]))

end Sys2Proof.Proofs

/-! SUPPORT. Tag waits and `mon.wait` whose condition holds at the issue (R206, R235), on a die that neither records nor replays. -/

namespace Sys2Proof.Machine

open Sys2Proof.Say

variable {s : State} {w : World} {t : Site}

/-! ## Tag waits (R235) -/

/-- The lowest set tag is set and every lower one is clear; without a set tag it is 64. -/
theorem firstTag_spec (v : W64) : (v = 0 → firstTag v = 64) ∧
    (v ≠ 0 → firstTag v < 64 ∧ v.getLsbD (firstTag v) = true ∧ ∀ q, q < firstTag v → v.getLsbD q = false) := by
  rw [firstTag]
  cases hfind : (List.range 64).find? fun n => v.getLsbD n with
  | none =>
    refine ⟨fun _ => rfl, fun hne => absurd (BitVec.eq_of_getLsbD_eq fun i hi => ?_) hne⟩
    rw [Bool.eq_false_iff.mpr (List.find?_eq_none.mp hfind i (List.mem_range.mpr hi))]
    exact BitVec.getLsbD_zero.symm
  | some n =>
    obtain ⟨hset, hmem, hlow⟩ := List.find?_range_eq_some.mp hfind
    refine ⟨fun h0 => ?_, fun _ => ⟨List.mem_range.mp hmem, hset, fun q hq => by simpa using hlow q hq⟩⟩
    rw [h0] at hset
    exact absurd hset (by simp)

theorem exec_twany (a : Reg) (s : State) : exec (.twany a) s = issueTags a false .tagAny [] (fun _ => []) s := rfl
theorem exec_twall (a : Reg) (s : State) : exec (.twall a) s = issueTags a true .tagAll [] (fun _ => []) s := rfl
theorem exec_twfirst (d a : Reg) (s : State) : exec (.twfirst d a) s =
    issueTags a false (.tagFirst d.toNat) [.uni d.toNat 0] (fun n => [.uni d.toNat (BitVec.ofNat 32 n)]) s := rfl

/-- Each tag wait is the issue of a condition and of the writes of its result. -/
theorem exec_tagWait {d a : Reg} {i : Instr} (hi : i ∈ [Instr.twany a, .twall a, .twfirst d a]) (s : State) :
    ∃ all x zero out, exec i s = issueTags a all x zero out s := by
  simp only [List.mem_cons, List.not_mem_nil, or_false] at hi
  rcases hi with rfl | rfl | rfl
  · exact ⟨_, _, _, _, exec_twany a s⟩
  · exact ⟨_, _, _, _, exec_twall a s⟩
  · exact ⟨_, _, _, _, exec_twfirst d a s⟩

/-- A tag wait that is disabled. -/
theorem issueTags_off {a : Reg} {all : Bool} {x : W64 → Wait} {zero : List Write} {out : Nat → List Write} (h : At s t)
    (hoff : once t = false) : ∃ s', issueTags a all x zero out s = .next s' ∧ Moves s s' t (issuedCourse t) [] :=
  issuePlain_off h (if_pos (by simp [site_once, hoff]))

/-- A tag wait whose mask has a bit beyond the block's tags. -/
theorem issueTags_beyond {a : Reg} {all : Bool} {x : W64 → Wait} {zero : List Write} {out : Nat → List Write} (h : At s t)
    (hon : once t = true) (hhigh : (t.k.uniPair a.toNat).toNat / 2 ^ t.b.hdr.tags ≠ 0) :
    ∃ s', issueTags a all x zero out s = .next s' ∧ OnceFaults s s' t 0x0B 0 1 0 := by
  refine ⟨commit s (siteFault t 0x0B 0 1 0 2 zero (beginIssue t (enter s))), ?_, onceFaults h 0x0B 0 1 0 2 zero (by decide)⟩
  rw [issueTags, issuePlain_run h]
  simp only [site_once, hon, Bool.not_true, Bool.false_eq_true, if_false, if_pos hhigh]

/-- A tag wait whose condition holds leaves the result of the lowest tag that meets it. -/
theorem issueTags_met {a : Reg} {all : Bool} {x : W64 → Wait} {zero : List Write} {out : Nat → List Write} (h : At s t)
    (hon : once t = true) (hrec : (die s (dieOf t.i.core)).recMode = 0) (hhigh : (t.k.uniPair a.toNat).toNat / 2 ^ t.b.hdr.tags = 0)
    (hcond : tagCond all (t.k.uniPair a.toNat) (blockTags (Say.core s t.i.core) t.b) = true) :
    ∃ s', issueTags a all x zero out s = .next s' ∧ Moves s s' t (issuedCourse t)
      [pending s t (t.i.cyc + 2) (out (firstTag (t.k.uniPair a.toNat &&& blockTags (Say.core s t.i.core) t.b)))] := by
  have hrec' : ((beginIssue t (enter s)).die (dieOf t.i.core)).recMode = 0 := hrec
  have htags : blockTags ((enter s).core t.i.core) t.b = blockTags (Say.core s t.i.core) t.b := rfl
  refine ⟨_, ?_, moves_onceResult s t 2 _⟩
  rw [issueTags, issuePlain_run h]
  simp only [site_once, hon, hhigh, tagOutcome_plain hrec', untimed_plain hrec', blockTags_beginIssue, htags, hcond, Bool.not_true,
    Bool.false_eq_true, if_false, if_true, ne_eq, not_true, ite_self, BitVec.ofNat_toNat, BitVec.setWidth_eq]

/-- `twany` and `twfirst` go on with an empty mask, or with a tag that meets it; `twall` where no tag misses it. -/
theorem tagCond_any_met {mask tags : W64} (h : mask = 0 ∨ mask &&& tags ≠ 0) : tagCond false mask tags = true := by
  simpa only [tagCond, Bool.false_eq_true, if_false, Bool.or_eq_true, decide_eq_true_eq] using h

theorem tagCond_all_met {mask tags : W64} (h : mask &&& ~~~tags = 0) : tagCond true mask tags = true := decide_eq_true h

/-- `twany` and `twfirst` that go on. -/
theorem tagAnyIssue (h : At s t) (hon : once t = true) (d a : Reg) (hrec : (die s (dieOf t.i.core)).recMode = 0)
    (hhigh : (t.k.uniPair a.toNat).toNat / 2 ^ t.b.hdr.tags = 0) : let m := t.k.uniPair a.toNat
    let tags := blockTags (Say.core s t.i.core) t.b
    m = 0 ∨ m &&& tags ≠ 0 → (∃ s', exec (.twany a) s = .next s' ∧ Moves s s' t (issuedCourse t) [pending s t (t.i.cyc + 2) []]) ∧
      (∃ s' n, exec (.twfirst d a) s = .next s' ∧ Moves s s' t (issuedCourse t) [pending s t (t.i.cyc + 2) [.uni d.toNat (BitVec.ofNat 32 n)]] ∧
        (m &&& tags = 0 → n = 64) ∧ (m &&& tags ≠ 0 → n < 64 ∧ (m &&& tags).getLsbD n = true ∧ ∀ q, q < n → (m &&& tags).getLsbD q = false)) := by
  intro m tags hmet
  have hcond := tagCond_any_met hmet
  rw [exec_twany, exec_twfirst]
  obtain ⟨s', he, hm⟩ := issueTags_met (x := .tagFirst d.toNat) (zero := [.uni d.toNat 0])
    (out := fun n => [.uni d.toNat (BitVec.ofNat 32 n)]) h hon hrec hhigh hcond
  exact ⟨issueTags_met h hon hrec hhigh hcond, s', _, he, hm, firstTag_spec _⟩

/-! ## Monitor waits (R206) -/

/-- Clearing the triggers of a course leaves it none. -/
theorem monHit_monClear (w : World) (c o r : Nat) : monHit (monClear w c o r) c o r = false := by
  rw [monHit, monClear, List.any_eq_false]
  intro x hx
  obtain ⟨y, -, rfl⟩ := List.mem_map.mp hx
  rw [Bool.not_eq_true, List.any_eq_false]
  intro m hm
  obtain ⟨n, -, rfl⟩ := List.mem_map.mp hm
  split
  · simp
  · next hother =>
    intro hmine
    simp only [Bool.and_eq_true, decide_eq_true_eq] at hmine hother
    exact hother hmine.1

/-- `mon.wait` where a monitor entry of its course is triggered: the entries are clear afterwards. -/
theorem monWait_hit (h : At s t) (hon : once t = true) (p : BitVec 3) (b : Reg) (hhit : monHit (enter s) t.i.core t.i.owner t.i.cr = true) :
    ∃ s', exec (.monWait p b) s = .next s' ∧ SameBytes s s' ∧ course s' t.i.core t.i.owner t.i.cr = some (issuedCourse t) ∧
      (Say.core s' t.i.core).results = (Say.core s t.i.core).results ++ [pending s t (t.i.cyc + 2) [.pred p t.p.mask 0xFFFFFFFF]] ∧
      monHit (enter s') t.i.core t.i.owner t.i.cr = false := by
  have hhit' : monHit (beginIssue t (enter s)) t.i.core t.i.owner t.i.cr = true := hhit
  have he : exec (.monWait p b) s = .next (commit s (onceResult t 2 [.pred p t.p.mask 0xFFFFFFFF]
      (monClear (beginIssue t (enter s)) t.i.core t.i.owner t.i.cr))) := by
    change execMonWait p b s = _
    rw [execMonWait, issuePlain_run h]
    simp only [site_once, hon, hhit', Bool.not_true, Bool.false_eq_true, if_false, if_true]
  obtain ⟨hcourse, hresults⟩ := onceResult_of_cores (t := t) (s := s)
    (w := monClear (beginIssue t (enter s)) t.i.core t.i.owner t.i.cr) rfl 2 [.pred p t.p.mask 0xFFFFFFFF]
  exact ⟨_, he, sameBytes_commit rfl, hcourse, hresults, monHit_monClear (beginIssue t (enter s)) t.i.core t.i.owner t.i.cr⟩

/-- `mon.wait` with no limit, where none is. -/
theorem monWait_poll (h : At s t) (hon : once t = true) (p : BitVec 3) (b : Reg)
    (hhit : monHit (enter s) t.i.core t.i.owner t.i.cr = false) (hlimit : t.k.uni b.toNat = 0) :
    ∃ s', exec (.monWait p b) s = .next s' ∧ Moves s s' t (issuedCourse t) [pending s t (t.i.cyc + 2) [.pred p t.p.mask 0]] := by
  have hhit' : monHit (beginIssue t (enter s)) t.i.core t.i.owner t.i.cr = false := hhit
  have hzero : (t.k.uni b.toNat).toNat = 0 := congrArg BitVec.toNat hlimit
  refine ⟨_, ?_, moves_onceResult s t 2 _⟩
  change execMonWait p b s = _
  rw [execMonWait, issuePlain_run h]
  simp only [site_once, hon, hhit', Bool.not_true, Bool.false_eq_true, if_false, if_pos hzero]

end Sys2Proof.Machine

namespace Sys2Proof.Proofs

open Sys2Proof.Machine Sys2Proof.Say

/-- Settles O52: a tag wait that goes on leaves the result of `issueTags_met`, and `mon.wait` one of two. -/
theorem waitsPass : Obligations.WaitsPass := by
  refine ⟨fun d a b p s t h hoff i hi => ?off, fun s t h hon => ⟨fun d a => ⟨fun hhigh i hi => ?beyond, fun hhigh hrec =>
    ⟨tagAnyIssue h hon d a hrec hhigh, fun hall => ?all⟩⟩, fun p b => ⟨monWait_hit h hon p b, monWait_poll h hon p b⟩⟩⟩
  case off =>
    rcases List.mem_append.mp (show i ∈ [Instr.twany a, .twall a, .twfirst d a] ++ [.monWait p b] from hi) with htag | hmon
    · obtain ⟨all, x, zero, out, he⟩ := exec_tagWait htag s
      rw [he]
      exact issueTags_off h hoff
    · rw [List.mem_singleton.mp hmon]
      exact issuePlain_off h (if_pos (by simp [site_once, hoff]))
  case beyond =>
    obtain ⟨all, x, zero, out, he⟩ := exec_tagWait hi s
    rw [he]
    exact issueTags_beyond h hon hhigh
  case all =>
    rw [exec_twall]
    exact issueTags_met h hon hrec hhigh (tagCond_all_met hall)

end Sys2Proof.Proofs

/-! SUPPORT. The issue of transfers, of `loop`, of `wbase` and `part`, and of `exit` (R151 to R155, R159, R160). -/

namespace Sys2Proof.Machine

open Sys2Proof.Say

variable {s : State} {w w' : World} {t : Site} {k : Course} {rs : List Result} {fs : List Flight}

/-! ## A result of an issue that moves its course on (R9) -/

/-- One more result, with the next number of its core. -/
theorem GoesOn.onceResult (h : GoesOn w w' t k rs fs) (lat : Nat) (l : List Write) :
    GoesOn w (onceResult t lat l w') t k
      (rs ++ [{ w.pending t 0 (t.i.cyc + lat) l with id := (w'.core t.i.core).nextId }]) fs where
  out := h.out
  mach := by rw [Machine.onceResult, pushResult, World.modCore, World.setCore, h.mach]
  cores c hne := by rw [Machine.onceResult, pushResult, core_modCore_other _ _ hne, h.cores c hne]
  course := by rw [← h.course, Machine.onceResult, pushResult, World.course?, core_modCore_same]; rfl
  others o r hne := by rw [← h.others o r hne, Machine.onceResult, pushResult, World.course?, core_modCore_same]; rfl
  own := by
    rw [Machine.onceResult, pushResult, core_modCore_same, h.own, ← List.append_assoc]
    rfl

@[simp] theorem modCourse_nextId (w : World) (c o r : Nat) (f : Course → Course) (c' : Nat) :
    ((w.modCourse c o r f).core c').nextId = (w.core c').nextId := by
  unfold World.modCourse
  split
  · by_cases hc : c' = c
    · subst hc; rw [World.setCourse, core_modCore_same]
    · rw [World.setCourse, core_modCore_other _ _ hc]
  · rfl

@[simp] theorem leaveSweeps_nextId (t : Site) (w : World) : ((leaveSweeps t w).core t.i.core).nextId = (w.core t.i.core).nextId := by
  unfold leaveSweeps
  split
  · rfl
  · simp only
    split
    · rw [core_modCore_same]
    · rfl

theorem beginIssue_nextId (t : Site) (w : World) : ((beginIssue t w).core t.i.core).nextId = (w.core t.i.core).nextId := by
  rw [(passes_beginIssue t w).own]

/-! ## Transfers (R151 to R153) -/

/-- The lanes that are enabled are those that the statements say, beyond lane 31 too. -/
theorem enabled_getLsbD (t : Site) (j : Nat) : t.enabled.getLsbD j = on t j := by
  by_cases hj : j < 32
  · exact getLsbD_enabled hj
  · have hmask : t.p.mask.getLsbD j = false := BitVec.getLsbD_of_ge _ _ (by omega)
    rw [BitVec.getLsbD_of_ge _ _ (by omega), on, hmask, Bool.false_and]

/-- Some lane is enabled where the mask of the enabled lanes is not empty. -/
theorem enabled_eq_zero_iff (t : Site) : t.enabled = 0 ↔ (List.range 32).any (on t) = false := by
  rw [List.any_eq_false]
  refine ⟨fun h j _ => ?_, fun h => BitVec.eq_of_getLsbD_eq fun j hj => ?_⟩
  · rw [← enabled_getLsbD, h]
    simp
  · rw [enabled_getLsbD, Bool.eq_false_iff.mpr (h j (List.mem_range.mpr hj))]
    simp

/-- After the transfer of an issue its course is that of `went`, and the lanes that left their path have left its sweeps (R171). -/
theorem goesOn_transferLanes (s : State) (t : Site) (x : Nat → Nat) :
    GoesOn (enter s) (transferLanes t x (beginIssue t (enter s))) t (went t x) []
      ((Say.core s t.i.core).flights.map (leftBehind t (went t x))) := by
  have htargets : (fun j => if on t j then x j else t.i.pc + 1) = fun j => if t.enabled.getLsbD j then x j else t.i.pc + 1 :=
    funext fun j => by rw [enabled_getLsbD]
  rw [went, htargets]
  exact ((goesOn_beginIssue t (enter s)).modCourse _).leaveSweeps

/-- `bra` at a site. -/
theorem exec_bra {off : BitVec 24} {x : Nat} (h : At s t) (hx : (t.i.pc : Int) + off.toInt = x) :
    ∃ s', exec (.bra off) s = .next s' ∧ Leaves s s' t (went t fun _ => x) [] := by
  refine ⟨_, issue_run h (.inl rfl) (badOffset_none hx), ?_⟩
  rw [offsetTarget_eq hx]
  exact (goesOn_transferLanes s t _).movesWith

/-- `call` at a site: with an enabled lane the link is one result (R153). -/
theorem exec_call {off : BitVec 24} {x : Nat} (h : At s t) (hx : (t.i.pc : Int) + off.toInt = x) :
    ∃ s', exec (.call off) s = .next s' ∧ Leaves s s' t (went t fun _ => x)
      (if (List.range 32).any (on t) then [pending s t (t.i.cyc + 2) (uniPairWrites 124 (pcWord (t.i.pc + 1)))] else []) := by
  refine ⟨_, issue_run h (.inl rfl) (badOffset_none hx), ?_⟩
  rw [offsetTarget_eq hx]
  have hgo := goesOn_transferLanes s t fun _ => x
  cases hany : (List.range 32).any (on t) with
  | false =>
    simp only [(enabled_eq_zero_iff t).mpr hany, if_true, Bool.false_eq_true, if_false]
    exact hgo.movesWith
  | true =>
    have hne : t.enabled ≠ 0 := by rw [ne_eq, enabled_eq_zero_iff, hany]; simp
    have hid : ((transferLanes t (fun _ => x) (beginIssue t (enter s))).core t.i.core).nextId = (Say.core s t.i.core).nextId := by
      rw [transferLanes, leaveSweeps_nextId, onCourse, modCourse_nextId, beginIssue_nextId]
      rfl
    have hresult := hgo.onceResult 2 (uniPairWrites 124 (pcWord (t.i.pc + 1)))
    rw [hid] at hresult
    simp only [if_neg hne, if_true]
    exact hresult.movesWith

/-- `brx` and `ret` are one transfer to supplied targets (R151, R152). -/
theorem exec_regTransfer {a : Reg} {uni : Bool} {i : Instr} (hi : i ∈ [Instr.brx a uni, .ret a uni]) (s : State) :
    exec i s = issue false (if uni then 0 else a.toNat + 2) (badRegTarget a uni) (regTransfer a uni) s := by
  simp only [List.mem_cons, List.not_mem_nil, or_false] at hi
  rcases hi with rfl | rfl <;> rfl

/-- No supplied target is bad where every enabled lane supplies a good one. -/
theorem badRegTarget_none {a : Reg} {uni : Bool} (hgood : ∀ j, j < 32 → on t j = true → pcGood (supplied t a uni j) = true) :
    badRegTarget a uni t = none := by
  rw [badRegTarget, List.find?_eq_none]
  intro v hv
  obtain ⟨j, hj, rfl⟩ := List.mem_map.mp hv
  have hon : on t j = true := by rw [← enabled_getLsbD]; exact mem_lanesOf.mp hj
  have hlt : j < 32 := List.mem_range.mp (List.mem_filter.mp hj).1
  have hpc : pcGood (regTarget t a uni j) = true := hgood j hlt hon
  simp [hpc]

/-- The poison check of `brx` and `ret` is that of the pairs of the enabled lanes (R332). -/
theorem anyPoisoned_iff (t : Site) (a : Reg) (uni : Bool) :
    (!uni && (lanesOf t.enabled).any fun j => srcPoisoned t.k j (.pair (t.k.wb + a.toNat))) = true ↔
      ∃ j, j < 32 ∧ on t j = true ∧ pairPoisoned t a uni j = true := by
  simp only [Bool.and_eq_true, List.any_eq_true, lanesOf, List.mem_filter, List.mem_range, enabled_getLsbD, pairPoisoned]
  tauto

/-- A supplied transfer whose targets are good and whose pairs are sound. -/
theorem exec_regTransfer_sound {a : Reg} {uni : Bool} {i : Instr} (h : At s t) (hi : i ∈ [Instr.brx a uni, .ret a uni])
    (hfits : Fits t (if uni then 0 else a.toNat + 2)) (hgood : ∀ j, j < 32 → on t j = true → pcGood (supplied t a uni j) = true)
    (hsound : ∀ j, j < 32 → on t j = true → pairPoisoned t a uni j = false) :
    ∃ s', exec i s = .next s' ∧ Leaves s s' t (went t fun j => pcIndex (supplied t a uni j)) [] := by
  rw [exec_regTransfer hi, issue_run h hfits (badRegTarget_none hgood), regTransfer, if_neg]
  · exact ⟨_, rfl, (goesOn_transferLanes s t _).movesWith⟩
  · rw [anyPoisoned_iff]
    rintro ⟨j, hj, hon, hp⟩
    rw [hsound j hj hon] at hp
    cases hp

/-- One whose pair is poisoned in an enabled lane. -/
theorem exec_regTransfer_poisoned {a : Reg} {uni : Bool} {i : Instr} {j : Nat} (h : At s t) (hi : i ∈ [Instr.brx a uni, .ret a uni])
    (hfits : Fits t (if uni then 0 else a.toNat + 2)) (hgood : ∀ j, j < 32 → on t j = true → pcGood (supplied t a uni j) = true)
    (hj : j < 32) (hon : on t j = true) (hp : pairPoisoned t a uni j = true) :
    ∃ s', exec i s = .next s' ∧ OnceFaults s s' t 0x09 0 1 0 := by
  rw [exec_regTransfer hi, issue_run h hfits (badRegTarget_none hgood), regTransfer, if_pos ((anyPoisoned_iff t a uni).mpr ⟨j, hj, hon, hp⟩)]
  exact ⟨_, rfl, onceFaults h 0x09 0 1 0 0 [] (by decide)⟩

/-! ## `loop` (R154) -/

/-- A change of the issuing path after an issue. -/
theorem GoesOn.modPath (h : GoesOn w w' t k rs fs) {p : Path} (hp : k.path? t.i.slot = some p) (f : Path → Path) :
    GoesOn w (modPath w' t.i.core t.i.owner t.i.cr t.i.slot f) t (k.setPath t.i.slot (f p)) rs fs := by
  have hgo := h.modCourse fun k => match k.path? t.i.slot with
    | some p => k.setPath t.i.slot (f p)
    | none => k
  simp only [hp] at hgo
  exact hgo

/-- `loop` where the lowest active lane is enabled. -/
theorem exec_loop {d : Reg} {off : BitVec 17} {x : Nat} (h : At s t) (hx : (t.i.pc : Int) + off.toInt = x) (hon : once t = true) :
    ∃ s', exec (.loop d off) s = .next s' ∧
      Moves s s' t (if t.k.uni d.toNat = 1 then issuedCourse t else (issuedCourse t).setPath t.i.slot { passed t with pc := x })
        [pending s t (t.i.cyc + 2) [.uni d.toNat (t.k.uni d.toNat - 1)]] := by
  refine ⟨_, issue_run h (.inl rfl) (badOffset_none hx), ?_⟩
  rw [offsetTarget_eq hx]
  simp only [site_once, hon, if_true]
  have hgo := (goesOn_beginIssue t (enter s)).onceResult 2 [.uni d.toNat (t.k.uni d.toNat - 1)]
  rw [beginIssue_nextId] at hgo
  have hzero : t.k.uni d.toNat - 1 = 0 ↔ t.k.uni d.toNat = 1 := by bv_omega
  by_cases hlast : t.k.uni d.toNat = 1
  · rw [if_pos (hzero.mpr hlast), if_pos hlast]
    exact hgo.movesWith
  · rw [if_neg (mt hzero.mp hlast), if_neg hlast]
    exact (hgo.modPath (path_issuedCourse h) _).movesWith

/-- `loop` where it is disabled. -/
theorem exec_loop_off {d : Reg} {off : BitVec 17} {x : Nat} (h : At s t) (hx : (t.i.pc : Int) + off.toInt = x) (hoff : once t = false) :
    ∃ s', exec (.loop d off) s = .next s' ∧ Moves s s' t (issuedCourse t) [] := by
  refine ⟨_, issue_run h (.inl rfl) (badOffset_none hx), ?_⟩
  simp only [site_once, hoff, Bool.false_eq_true, if_false]
  exact moves_beginIssue s t

/-! ## `wbase` and `part` (R159, R160) -/

/-- A change of the issuing course by an issue. -/
theorem moves_onCourse (s : State) (t : Site) (f : Course → Course) :
    Moves s (commit s (onCourse t (beginIssue t (enter s)) f)) t (f (issuedCourse t)) [] :=
  ((goesOn_beginIssue t (enter s)).modCourse f).movesWith

/-- What `wbase` does. -/
theorem exec_wbase {n : BitVec 10} (h : At s t) : exec (.wbase n) s = .next (commit s
    (if once t then
      if 32 * n.toNat < t.k.allotAt t.i.cyc then onCourse t (beginIssue t (enter s)) fun k => { k with wb := 32 * n.toNat }
      else siteFault t 0x0C 0 1 0 0 [] (beginIssue t (enter s))
    else beginIssue t (enter s))) := by
  change execWbase n s = _
  rw [execWbase, issuePlain_run h]
  simp only [site_once]

/-- What `part` does. -/
theorem exec_part {e : BitVec 10} (h : At s t) : exec (.part e) s = .next (commit s
    (if once t && !t.b.hdr.compat then onCourse t (beginIssue t (enter s)) fun k => { k with part := 2 ^ e.toNat }
      else beginIssue t (enter s))) := by
  change execPart e s = _
  rw [execPart, issuePlain_run h]
  simp only [site_once]

end Sys2Proof.Machine

namespace Sys2Proof.Proofs

open Sys2Proof.Machine Sys2Proof.Say

/-- Settles O37: each leaves the course of `went`, `call` its link too, and a poisoned pair of an enabled lane faults. -/
theorem transferIssue : Obligations.TransferIssue := by
  refine ⟨fun off s t x h hx => ⟨exec_bra h hx, exec_call h hx⟩, fun a uni s t h hfits hgood => ?_⟩
  have htop : Fits t (if uni then 0 else a.toNat + 2) := by
    cases uni with
    | true => exact .inl rfl
    | false => simpa using hfits
  refine ⟨fun hsound => ⟨?_, ?_⟩, fun j hj hon hp i hi => exec_regTransfer_poisoned h hi htop hgood hj hon hp⟩
  · exact exec_regTransfer_sound h (.head _) htop hgood hsound
  · exact exec_regTransfer_sound h (.tail _ (.head _)) htop hgood hsound

/-- Settles O39: the count leaves one result, and the path goes back while it is not zero. -/
theorem loopExecutes : Obligations.LoopExecutes := by
  intro d off s t x h hx
  cases hon : once t with
  | true =>
    obtain ⟨s', he, hm⟩ := exec_loop h hx hon
    exact ⟨s', he, fun _ => hm, nofun⟩
  | false =>
    obtain ⟨s', he, hm⟩ := exec_loop_off h hx hon
    exact ⟨s', he, nofun, fun _ => hm⟩

/-- Settles O42: `wbase` changes the course or faults, `part` changes the course or nothing. -/
theorem windowAndPartition : Obligations.WindowAndPartition := by
  refine ⟨fun n s t h => ⟨_, exec_wbase h, fun hon hroom => ?moves, fun hon hfull => ?faults, fun hoff => ?off⟩,
    fun e s t h => ⟨_, exec_part h, fun hon hcompat => ?sets, fun hnot => ?stands⟩⟩
  case moves =>
    rw [if_pos hon, if_pos hroom]
    exact moves_onCourse s t _
  case faults =>
    rw [if_pos hon, if_neg (Nat.not_lt.mpr hfull)]
    exact onceFaults h 0x0C 0 1 0 0 [] (by decide)
  case off =>
    rw [if_neg (by simp [hoff])]
    exact moves_beginIssue s t
  case sets =>
    rw [hon, hcompat]
    exact moves_onCourse s t _
  case stands =>
    rw [if_neg (by rcases hnot with h | h <;> simp [h])]
    exact moves_beginIssue s t

end Sys2Proof.Proofs

/-! SUPPORT. `exit` (R155): what the lanes that leave make of their course, and what ends with a course. -/

namespace Sys2Proof.Machine

open Sys2Proof.Say

variable {s : State} {t : Site}

/-! ## The lanes that a course has left -/

section
variable (k : Course)

@[simp] theorem setPath_live (i : Nat) (p : Path) : (k.setPath i p).live = k.live := by
  unfold Course.setPath; split <;> rfl
@[simp] theorem setFill_live (i c : Nat) : (k.setFill i c).live = k.live := by
  unfold Course.setFill Course.setWindow; split <;> rfl
@[simp] theorem clearSlot_live (i : Nat) : (k.clearSlot i).live = k.live := by
  unfold Course.clearSlot; split <;> rfl

/-- No lane leaves the course as a slot fills, a course settles or a token completes. -/
@[simp] theorem vacate_live (i c : Nat) : (k.vacate i c).live = k.live := by
  obtain h | ⟨n, p, -, hsome, hnone⟩ := vacate_cases (k := k) (s := i) c
  · rw [h]
  · cases hq : k.path? i with
    | some q => rw [hsome q hq]; simp
    | none => rw [hnone hq]; simp

@[simp] theorem settle_live (c : Nat) : (k.settle c).live = k.live := by
  unfold Course.settle
  split
  · split
    · rfl
    · split
      · rfl
      · rw [setFill_live]
  · rfl

@[simp] theorem dropMember_live (ids : List Nat) (i c j : Nat) : (k.dropMember ids i c j).live = k.live := by
  unfold Course.dropMember
  split
  · split
    · simp
    · rfl
  · rfl

/-- A completing token puts the united path into the course and takes the other members out of their slots. -/
theorem complete_drops {k : Course} {n ix : Nat} {x : Token} {u : Path} {rest : List (Nat × Path)} (c : Nat)
    (hx : k.tokens[n]? = some x) (hm : k.members n = (ix, u) :: rest) : ∃ k' : Course, k'.live = k.live ∧
      (k.complete n c = k' ∨ ∃ ids, k.complete n c = Course.dropMember ids ix c (Course.dropMember ids ix c k' 0) 1) := by
  unfold Course.complete
  rw [Course.members] at hm
  simp only [hx, hm]
  split
  · exact ⟨_, by rfl, .inl rfl⟩
  · refine ⟨_, ?_, .inr ⟨(u :: rest.map Prod.snd).map Path.id, rfl⟩⟩
    split <;> simp

@[simp] theorem complete_live (n c : Nat) : (k.complete n c).live = k.live := by
  cases hx : k.tokens[n]? with
  | none => simp only [Course.complete, hx]
  | some x =>
    cases hm : k.members n with
    | nil =>
      rw [Course.members] at hm
      simp only [Course.complete, hx, hm]
    | cons y rest =>
      obtain ⟨k', hlive, he | ⟨ids, he⟩⟩ := complete_drops c hx hm
      · rw [he, hlive]
      · rw [he, dropMember_live, dropMember_live, hlive]

@[simp] theorem completeAll_live (c : Nat) : (k.completeAll c).live = k.live := by
  unfold Course.completeAll
  generalize (List.range k.tokens.length).reverse = l
  induction l generalizing k with
  | nil => rfl
  | cons n l ih =>
    rw [List.foldl_cons, ih]
    split
    · exact complete_live ..
    · rfl

end

/-- Lanes of a path that exit leave the course. -/
theorem exitLanes_live {k : Course} {ix : Nat} {p : Path} (cyc : Nat) (lanes : LaneMask) (hp : k.path? ix = some p) :
    (k.exitLanes ix cyc lanes).live = k.live &&& ~~~(lanes &&& p.mask) := by
  unfold Course.exitLanes
  rw [hp]
  simp only
  split
  · next hnone =>
    rw [hnone]
    exact BitVec.and_allOnes.symm
  · rw [settle_live]
    split
    · split
      · split <;> simp
      · simp
    · simp

@[simp] theorem issuedCourse_live (t : Site) : (issuedCourse t).live = t.k.live := setPath_live ..

/-- The course after an `exit`. -/
def Site.exited (t : Site) : Course := (issuedCourse t).exitLanes t.i.slot t.i.cyc t.enabled

theorem getLsbD_exited_live (h : At s t) {j : Nat} (hj : j < 32) : t.exited.live.getLsbD j = (t.k.live.getLsbD j && !on t j) := by
  have hmask : (passed t).mask = t.p.mask := rfl
  have hon : (on t j && t.p.mask.getLsbD j) = on t j := by rw [on, Bool.and_right_comm, Bool.and_self]
  rw [Site.exited, exitLanes_live _ _ (path_issuedCourse h), hmask, issuedCourse_live]
  simp only [BitVec.getLsbD_and, BitVec.getLsbD_not, hj, decide_true, Bool.true_and, getLsbD_enabled hj, hon]

/-- It is gone where every lane that is left exits, and only there. -/
theorem gone_exited_iff (h : At s t) : t.exited.gone = true ↔ ∀ j, j < 32 → t.k.live.getLsbD j = true → on t j = true := by
  have hbit := fun j (hj : j < 32) => getLsbD_exited_live h hj
  simp only [Course.gone, decide_eq_true_eq]
  constructor
  · intro h0 j hj hl
    have := hbit j hj
    rw [h0, hl] at this
    simpa using this
  · intro hall
    refine BitVec.eq_of_getLsbD_eq fun j hj => ?_
    rw [hbit j hj]
    cases hl : t.k.live.getLsbD j with
    | false => simp
    | true => simp [hall j hj hl]

/-! ## What ends with a course (R207, R209, R210, R340) -/

/-- A phaser as a course ends: its flags of the course clear, which may complete a phase. -/
def Phaser.without (x : Phaser) (r : Nat) : Phaser :=
  ({ x with sig := x.sig &&& ~~~(laneBit r), arr := x.arr &&& ~~~(laneBit r) } : Phaser).finish

theorem without_sig (x : Phaser) (r : Nat) : (x.without r).sig.getLsbD r = false := by
  have hsig : (x.without r).sig = x.sig &&& ~~~(laneBit r) := by
    unfold Phaser.without Phaser.finish; split <;> rfl
  rw [hsig, BitVec.getLsbD_and, BitVec.getLsbD_not]
  by_cases hr : r < 32
  · simp [getLsbD_laneBit r hr]
  · simp [hr]

/-- So no phaser of a table has a SIG flag of that course left. -/
theorem sig_without (l : Tab Phaser) (r n : Nat) :
    ((Tab.find (l.map fun (x : Nat × Phaser) => (x.1, x.2.without r)) n).getD {}).sig.getLsbD r = false := by
  rw [Tab.find_mapValues l (fun x => x.without r)]
  cases l.find n with
  | none => exact BitVec.getLsbD_zero
  | some x => exact without_sig x r

/-- The end of a course writes no byte and leaves the port. -/
theorem courseEnd_out (w : World) (c o r : Nat) : (courseEnd w c o r).out = w.out := by
  unfold courseEnd
  simp only
  split <;> rfl

theorem courseEnd_cur (w : World) (c o r : Nat) : (courseEnd w c o r).mach.cur = w.mach.cur := by
  unfold courseEnd
  simp only
  split <;> rfl

/-- A change of every core that keeps its blocks, as the end of the claims of a course is one (R377), leaves every block. -/
theorem block_mapCores (w : World) (f : Core → Core) (hf : ∀ k, (f k).blocks = k.blocks) (c o : Nat) :
    ({ w with mach := { w.mach with cores := w.mach.cores.map fun x => (x.1, f x.2) } } : World).block? c o = w.block? c o := by
  simp only [World.block?, World.core, Tab.find_mapValues _ f]
  cases w.mach.cores.find c with
  | none => rfl
  | some k => exact congrArg (Tab.find · o) (hf k)

/-- The phasers of its block are without its flags. -/
theorem courseEnd_phasers (w : World) (c o r : Nat) : ((courseEnd w c o r).block? c o).map Block.phasers =
    (w.block? c o).map fun b => b.phasers.map fun (x : Nat × Phaser) => (x.1, x.2.without r) := by
  unfold courseEnd
  simp only
  refine (congrArg (Option.map Block.phasers) (block_mapCores _
    (fun x => { x with claims := x.claims.filter fun (y : Nat × Nat × Nat × Nat) => decide (y.2 ≠ (c, o, r)) }) (fun _ => rfl) c o)).trans ?_
  cases hb : w.block? c o with
  | none => exact congrArg (Option.map Block.phasers) hb
  | some b => simp [World.block?, World.setBlock, World.modCore, World.setCore, World.core, Phaser.without]

theorem releaseExited_out (w : World) (c o : Nat) : (releaseExited w c o).out = w.out := by
  unfold releaseExited
  split
  · rfl
  · simp only
    split <;> rfl

theorem releaseExited_cur (w : World) (c o : Nat) : (releaseExited w c o).mach.cur = w.mach.cur := by
  unfold releaseExited
  split
  · rfl
  · simp only
    split <;> rfl

/-- Courses that give up their slots leave the phasers of their block. -/
theorem releaseExited_phasers (w : World) (c o : Nat) :
    ((releaseExited w c o).block? c o).map Block.phasers = (w.block? c o).map Block.phasers := by
  unfold releaseExited
  split
  · rfl
  · next b hb =>
    simp only
    split
    · rfl
    · simp only [World.block?, core_modCore_same, World.setBlock, Tab.find_put_same]
      rw [World.block?] at hb
      rw [hb]
      rfl

/-- Once a course has ended no phaser of its block has its SIG flag (R155, R209). -/
theorem sig_of_ended {w : World} {c o r : Nat} {b : Block} (h : (releaseExited (courseEnd w c o r) c o).block? c o = some b) (n : Nat) :
    ((b.phasers.find n).getD {}).sig.getLsbD r = false := by
  have hphasers := releaseExited_phasers (courseEnd w c o r) c o
  rw [courseEnd_phasers, h, Option.map_some, eq_comm, Option.map_eq_some_iff] at hphasers
  obtain ⟨b₀, -, he⟩ := hphasers
  rw [← he]
  exact sig_without b₀.phasers r n

/-- The block of a state that was closed over a world is the world's. -/
theorem block_commit (s : State) (w : World) (c o : Nat) : block (commit s w) c o = w.block? c o := rfl

/-! ## `exit` at a site -/

/-- The world after the lanes of an `exit` have gone, before anything ends. -/
def Site.exitWorld (t : Site) (w : World) : World :=
  leaveSweeps t (onCourse t w fun k => k.exitLanes t.i.slot t.i.cyc t.enabled)

theorem goesOn_exitWorld (s : State) (t : Site) : GoesOn (enter s) (t.exitWorld (beginIssue t (enter s))) t t.exited []
    ((Say.core s t.i.core).flights.map (leftBehind t t.exited)) :=
  ((goesOn_beginIssue t (enter s)).modCourse _).leaveSweeps

/-- What `exit` does. -/
theorem exec_exit (h : At s t) : exec .exit s = .next (commit s
    (if t.exited.gone then
      releaseExited (courseEnd (t.exitWorld (beginIssue t (enter s))) t.i.core t.i.owner t.i.cr) t.i.core t.i.owner
    else t.exitWorld (beginIssue t (enter s)))) := by
  change execExit s = _
  have hcourse := (goesOn_exitWorld s t).course
  rw [execExit, issuePlain_run h]
  change Host.Outcome.next (commit s (if ((World.course? (t.exitWorld _) _ _ _).map Course.gone).getD false then _ else _)) = _
  rw [hcourse, Option.map_some, Option.getD_some]
  rfl

end Sys2Proof.Machine

namespace Sys2Proof.Proofs

open Sys2Proof.Machine Sys2Proof.Say

/-- Settles O40: the course is that of `exited`; with the last lane the course ends, and its block has no SIG flag of it left. -/
theorem exitExecutes : Obligations.ExitExecutes := by
  intro s t h
  have hgo := goesOn_exitWorld s t
  refine ⟨_, exec_exit h, ?bytes, ?port, fun j hj => getLsbD_exited_live h hj, ?left, ?last⟩
  case bytes =>
    have hout : (t.exitWorld (beginIssue t (enter s))).out = [] := hgo.out
    exact sameBytes_commit (by split <;> simp only [releaseExited_out, courseEnd_out, hout])
  case port =>
    have hcur : (t.exitWorld (beginIssue t (enter s))).mach.cur = none := congrArg Mach.cur hgo.mach
    rw [commit_mach]
    split <;> simp only [releaseExited_cur, courseEnd_cur, hcur]
  case left =>
    rintro ⟨j, hj, hl, hoff⟩
    have hgone : ¬ t.exited.gone = true := fun hg => by
      rw [(gone_exited_iff h).mp hg j hj hl] at hoff
      cases hoff
    rw [if_neg hgone]
    exact hgo.movesWith
  case last =>
    intro hall b hb n
    rw [if_pos ((gone_exited_iff h).mpr hall), block_commit] at hb
    exact sig_of_ended hb n

end Sys2Proof.Proofs

/-! SUPPORT. What a collected cross-lane instruction delivers (R163 to R167, R178): its results, and the value of each lane. -/

namespace Sys2Proof.Machine

open Sys2Proof.Say

variable {s : State} {w w' : World} {c : Nat} {rs : List Result}

/-! ## The lanes of a partition tile -/

/-- The enabled lanes of the tile of lane `j`, ascending. -/
def tileLanes (width : Nat) (en : Nat → Bool) (j : Nat) : List Nat := ((List.range width).map (j / width * width + ·)).filter en

/-- Lane `n` is an enabled lane of the tile of lane `j`. -/
def InTile (width : Nat) (en : Nat → Bool) (j n : Nat) : Prop := j / width * width ≤ n ∧ n < j / width * width + width ∧ en n = true

variable {width j : Nat} {en : Nat → Bool} {v : Nat → W32}

theorem mem_tileLanes {n : Nat} : n ∈ tileLanes width en j ↔ InTile width en j n := by
  simp only [tileLanes, InTile, List.mem_filter, List.mem_map, List.mem_range, ← and_assoc, and_congr_left_iff]
  intro _
  constructor
  · rintro ⟨i, hi, rfl⟩; omega
  · intro ⟨hlo, hhi⟩; exact ⟨n - j / width * width, by omega, by omega⟩

theorem tileLanes_sorted (width : Nat) (en : Nat → Bool) (j : Nat) : (tileLanes width en j).Pairwise (· < ·) := by
  refine List.Pairwise.filter _ (List.pairwise_map.mpr ?_)
  exact List.pairwise_lt_range.imp fun h => by omega

/-- A lane lies in its own tile, at its number modulo the width. -/
theorem inTile_self (hw : 0 < width) (hj : en j = true) : InTile width en j j := by
  have h := Nat.div_add_mod' j width
  have hlt := Nat.mod_lt j hw
  exact ⟨by omega, by omega, hj⟩

theorem sub_tile (width j : Nat) : j - j / width * width = j % width := by
  have h := Nat.div_add_mod' j width
  omega

/-! ## Picks (R164) -/

/-- Going back `b` lanes in a tile, as numbers and as integers. -/
theorem back_mod {l b : Nat} (hw : 0 < width) : (l + width - b % width) % width = (((l : ℤ) - b) % width).toNat := by
  have hlt := Nat.mod_lt b hw
  have hcast : ((l + width - b % width : ℕ) : ℤ) = (l : ℤ) - b + width * (1 + ((b / width : ℕ) : ℤ)) := by
    have hdiv : (width : ℤ) * ((b / width : ℕ) : ℤ) + ((b % width : ℕ) : ℤ) = b := by exact_mod_cast Nat.div_add_mod b width
    rw [Nat.cast_sub (by omega), Nat.cast_add]
    linarith
  have hmod : (((l + width - b % width) % width : ℕ) : ℤ) = ((l : ℤ) - b) % width := by
    rw [Int.natCast_mod, hcast, Int.add_mul_emod_self_left]
  rw [← hmod, Int.toNat_natCast]

/-! ## Polls (R165) -/

/-- The map of the lanes of a list whose value is not zero. -/
theorem getLsbD_pollMap (v : Nat → W32) (l : List Nat) (m : LaneMask) {i : Nat} (hi : i < 32) :
    (l.foldl (fun m n => if v n ≠ 0 then m ||| laneBit n else m) m).getLsbD i = (m.getLsbD i || decide (i ∈ l ∧ v i ≠ 0)) := by
  induction l generalizing m with
  | nil => simp
  | cons n l ih =>
    rw [List.foldl_cons, ih]
    by_cases hn : i = n
    · subst hn
      by_cases hv : v i = 0
      · simp [hv]
      · rw [if_pos hv]
        simp [getLsbD_laneBit i hi, show ¬ v i = 0#32 from hv]
    · split <;> simp [getLsbD_laneBit n hi, hn]

/-! ## Reductions (R166) -/

/-- The sum of the enabled lanes of a list. -/
theorem foldl_add_filter (en : Nat → Bool) (v : Nat → W32) (l : List Nat) (a : W32) :
    ((l.filter en).map v).foldl (· + ·) a = a + BitVec.ofNat 32 ((l.map fun n => if en n then (v n).toNat else 0).sum) := by
  induction l generalizing a with
  | nil => simp
  | cons n l ih =>
    cases hn : en n with
    | false => simp only [List.filter_cons, List.map_cons, List.sum_cons, hn, Bool.false_eq_true, if_false, ih, Nat.zero_add]
    | true =>
      simp only [List.filter_cons, List.map_cons, List.sum_cons, hn, if_true, List.foldl_cons, ih, BitVec.ofNat_add, BitVec.ofNat_toNat,
        BitVec.setWidth_eq, BitVec.add_assoc]

/-- The element of a list whose key is least, the first of equal ones. -/
def leastBy (key : W32 → ℤ) (l : List W32) : W32 := l.foldl (fun a b => if key b < key a then b else a) (l.headD 0)

theorem foldl_least (key : W32 → ℤ) (a : W32) (l : List W32) : let r := l.foldl (fun a b => if key b < key a then b else a) a
    r ∈ a :: l ∧ ∀ x ∈ a :: l, key r ≤ key x := by
  induction l generalizing a with
  | nil => simp
  | cons b l ih =>
    obtain ⟨hmem, hle⟩ := ih (if key b < key a then b else a)
    rw [List.foldl_cons]
    by_cases hlt : key b < key a
    · rw [if_pos hlt] at hmem hle ⊢
      refine ⟨.tail _ hmem, fun x hx => ?_⟩
      rcases List.mem_cons.mp hx with rfl | hx
      · exact (hle b (.head _)).trans hlt.le
      · exact hle x hx
    · rw [if_neg hlt] at hmem hle ⊢
      refine ⟨?_, fun x hx => ?_⟩
      · rcases List.mem_cons.mp hmem with h | h
        · rw [h]; exact .head _
        · exact .tail _ (.tail _ h)
      · rcases List.mem_cons.mp hx with rfl | hx
        · exact hle x (.head _)
        · rcases List.mem_cons.mp hx with rfl | hx
          · exact (hle a (.head _)).trans (not_lt.mp hlt)
          · exact hle x (.tail _ hx)

theorem leastBy_spec {key : W32 → ℤ} {l : List W32} (h : l ≠ []) : leastBy key l ∈ l ∧ ∀ x ∈ l, key (leastBy key l) ≤ key x := by
  cases l with
  | nil => exact absurd rfl h
  | cons a l =>
    have hfirst : leastBy key (a :: l) = l.foldl (fun a b => if key b < key a then b else a) a := by simp [leastBy]
    rw [hfirst]
    exact foldl_least key a l

/-- A word as a number, as R166 compares it. -/
theorem low_word (uns : Bool) (x : W32) : low 32 uns (word x) = if uns then (x.toNat : ℤ) else x.toInt := by
  unfold low word
  simp

/-- What `red.min` and `red.max` fold is the least, and the least of the negated. -/
theorem redMin_eq (uns : Bool) (l : List W32) :
    l.foldl (fun a b => if (if uns then decide (b.toNat < a.toNat) else decide (b.toInt < a.toInt)) then b else a) (l.headD 0) =
      leastBy (fun x => low 32 uns (word x)) l := by
  unfold leastBy
  simp only [low_word]
  cases uns <;> simp

theorem redMax_eq (uns : Bool) (l : List W32) :
    l.foldl (fun a b => if (if uns then decide (a.toNat < b.toNat) else decide (a.toInt < b.toInt)) then b else a) (l.headD 0) =
      leastBy (fun x => -low 32 uns (word x)) l := by
  unfold leastBy
  simp only [low_word]
  cases uns <;> simp

/-! ## The value of a lane -/

/-- The entry of a lane among the collected ones. -/
def entryOf (coll : List (Bool × W32 × W32)) (n : Nat) : Bool × W32 × W32 := (coll[n]?).getD (false, 0, 0)

/-- The word at a position of a tile, or the lane's own where there is none (R178). -/
def pickedWord (v : Nat → W32) (base j : Nat) : Option Nat → W32
  | some x => v (base + x)
  | none => v j

theorem pickedWord_ite (v : Nat → W32) (base j x : Nat) (p : Prop) [Decidable p] :
    pickedWord v base j (if p then some x else none) = if p then v (base + x) else v j := by
  split <;> rfl

/-- A pick is of the word at its source position. -/
theorem xValue_pick {op : XOp} (hop : op ∈ [XOp.pickAt, .pickBack, .pickFwd, .pickXor]) (compat : Bool) (width : Nat)
    (coll : List (Bool × W32 × W32)) (j : Nat) : xValue op compat width coll j =
      pickedWord (fun n => (entryOf coll n).2.1) (j / width * width) j (pickSource op compat width (j % width) (entryOf coll j).2.2.toNat) := by
  rw [← sub_tile]
  simp only [List.mem_cons, List.not_mem_nil, or_false] at hop
  rcases hop with rfl | rfl | rfl | rfl <;> rfl

/-- Some lane of the tile has a value that is not zero, or every one has. -/
theorem anyTile_iff : ((tileLanes width en j).map v).any (· ≠ 0) = true ↔ ∃ n, InTile width en j n ∧ v n ≠ 0 := by
  simp only [List.any_eq_true, List.mem_map, mem_tileLanes, decide_eq_true_eq]
  exact ⟨fun ⟨_, ⟨n, hn, rfl⟩, hv⟩ => ⟨n, hn, hv⟩, fun ⟨n, hn, hv⟩ => ⟨_, ⟨n, hn, rfl⟩, hv⟩⟩

theorem allTile_iff : ((tileLanes width en j).map v).all (· ≠ 0) = true ↔ ∀ n, InTile width en j n → v n ≠ 0 := by
  simp only [List.all_eq_true, List.mem_map, mem_tileLanes, decide_eq_true_eq]
  exact ⟨fun h n hn => h _ ⟨n, hn, rfl⟩, fun h _ ⟨n, hn, he⟩ => he ▸ h n hn⟩

/-- The least value of the tile by a key. -/
theorem leastTile (key : W32 → ℤ) (hne : tileLanes width en j ≠ []) : let x := leastBy key ((tileLanes width en j).map v)
    (∃ n, InTile width en j n ∧ x = v n) ∧ ∀ n, InTile width en j n → key x ≤ key (v n) := by
  obtain ⟨hmem, hle⟩ := leastBy_spec (key := key) (l := (tileLanes width en j).map v) (by simpa using hne)
  obtain ⟨n, hn, he⟩ := List.mem_map.mp hmem
  exact ⟨⟨n, mem_tileLanes.mp hn, he.symm⟩, fun m hm => hle _ (List.mem_map_of_mem (mem_tileLanes.mpr hm))⟩

/-- The lowest enabled lane of the tile. -/
theorem headTile (d : Nat) (hne : tileLanes width en j ≠ []) :
    InTile width en j ((tileLanes width en j).headD d) ∧ ∀ m, InTile width en j m → (tileLanes width en j).headD d ≤ m := by
  have hsorted := tileLanes_sorted width en j
  simp only [← mem_tileLanes]
  cases hl : tileLanes width en j with
  | nil => exact absurd hl hne
  | cons n l =>
    rw [hl] at hsorted
    refine ⟨.head _, fun m hm => ?_⟩
    rcases List.mem_cons.mp hm with rfl | hm
    · exact le_rfl
    · exact ((List.pairwise_cons.mp hsorted).1 m hm).le

/-- The map of the tile, whole, and counted from its first lane where the tiles have 16 lanes (R165, R178). -/
theorem getLsbD_tileMap {i : Nat} (hi : i < 32) :
    ((tileLanes width en j).foldl (fun m n => if v n ≠ 0 then m ||| laneBit n else m) (0 : LaneMask)).getLsbD i = true ↔
      InTile width en j i ∧ v i ≠ 0 := by
  rw [getLsbD_pollMap v _ _ hi]
  simp [mem_tileLanes]

theorem getLsbD_halfMap {i : Nat} (hj : j < 32) (hi : i < 32) :
    (BitVec.ofNat 32 (((tileLanes 16 en j).foldl (fun m n => if v n ≠ 0 then m ||| laneBit n else m) (0 : LaneMask)).toNat /
      2 ^ (j / 16 * 16))).getLsbD i = true ↔ i < 16 ∧ en (j / 16 * 16 + i) = true ∧ v (j / 16 * 16 + i) ≠ 0 := by
  generalize hm : (tileLanes 16 en j).foldl (fun m n => if v n ≠ 0 then m ||| laneBit n else m) (0 : LaneMask) = m
  have hshift : (BitVec.ofNat 32 (m.toNat / 2 ^ (j / 16 * 16))).getLsbD i = m.getLsbD (j / 16 * 16 + i) := by
    rw [BitVec.getLsbD_ofNat, decide_eq_true hi, Bool.true_and, Nat.testBit_div_two_pow, BitVec.testBit_toNat, Nat.add_comm]
  rw [hshift]
  by_cases hlow : i < 16
  · rw [← hm, getLsbD_tileMap (by omega)]
    simp [InTile, hlow]
  · have hout : m.getLsbD (j / 16 * 16 + i) = false := by
      by_cases h32 : j / 16 * 16 + i < 32
      · rw [← hm, Bool.eq_false_iff, ne_eq, getLsbD_tileMap h32]
        exact fun h => hlow (by have := h.1.2.1; omega)
      · exact BitVec.getLsbD_of_ge _ _ (by omega)
    simp [hout, hlow]

/-- The value that an enabled lane receives is that of its rule (R164 to R167, R178). -/
theorem receives_xValue (op : XOp) (compat : Bool) {coll : List (Bool × W32 × W32)} (hw : 0 < width)
    (hcompat : compat = true → width = 16) (hj : j < 32) (hon : (entryOf coll j).1 = true) :
    Receives op compat width (fun n => (entryOf coll n).1) (fun n => (entryOf coll n).2.1) (entryOf coll j).2.2.toNat j
      (xValue op compat width coll j) := by
  have hne : tileLanes width (fun n => (entryOf coll n).1) j ≠ [] := List.ne_nil_of_mem (mem_tileLanes.mpr (inTile_self hw hon))
  cases op with
  | pickAt => exact xValue_pick (by simp) ..
  | pickBack =>
    rw [xValue_pick (by simp)]
    cases compat with
    | false =>
      rw [pickSource, if_neg (by simp), back_mod hw]
      rfl
    | true => exact pickedWord_ite ..
  | pickFwd | pickXor =>
    rw [xValue_pick (by simp)]
    cases compat with
    | false => rfl
    | true => exact pickedWord_ite ..
  | pollAny q =>
    by_cases hany : ∃ n, InTile width (fun n => (entryOf coll n).1) j n ∧ (entryOf coll n).2.1 ≠ 0
    · exact .inl ⟨if_pos (anyTile_iff.mpr hany), hany⟩
    · exact .inr ⟨if_neg (mt anyTile_iff.mp hany), fun n hn => not_not.mp fun hv => hany ⟨n, hn, hv⟩⟩
  | pollAll q =>
    by_cases hall : ∀ n, InTile width (fun n => (entryOf coll n).1) j n → (entryOf coll n).2.1 ≠ 0
    · exact .inl ⟨if_pos (allTile_iff.mpr hall), hall⟩
    · refine .inr ⟨if_neg (mt allTile_iff.mp hall), ?_⟩
      push Not at hall
      exact hall
  | pollMap q =>
    intro i hi
    cases hc : compat with
    | false => exact getLsbD_tileMap hi
    | true =>
      obtain rfl := hcompat hc
      exact getLsbD_halfMap hj hi
  | redAdd =>
    refine (foldl_add_filter _ _ _ _).trans ?_
    rw [List.map_map]
    exact BitVec.zero_add _
  | redMin uns =>
    have hleast := leastTile (v := fun n => (entryOf coll n).2.1) (fun x => low 32 uns (word x)) hne
    rw [← redMin_eq] at hleast
    exact hleast
  | redMax uns =>
    obtain ⟨hmem, hle⟩ := leastTile (v := fun n => (entryOf coll n).2.1) (fun x => -low 32 uns (word x)) hne
    rw [← redMax_eq] at hmem hle
    exact ⟨hmem, fun n hn => neg_le_neg_iff.mp (hle n hn)⟩
  | first idx =>
    obtain ⟨hmem, hle⟩ := headTile j hne
    exact ⟨_, hmem, hle, rfl⟩

/-! ## Delivery (R163) -/

/-- When a result becomes ready, and what it writes. -/
def Result.landing (r : Result) : Nat × List Write := (r.ready, r.writes)

/-- What a lane of a collected instruction has to land. -/
def Flight.crossLanding (f : Flight) (compat : Bool) (op : XOp) (j : Nat) : Nat × List Write :=
  (f.cyc + j + f.form.lat, dstWrites f.form.dst j ((xValue op compat f.part f.coll j).zeroExtend 64))

/-- Results are recorded for the enabled lanes, in ascending order. -/
theorem LanesMove.deliverCross (h : LanesMove w w' c rs) (b : Block) (f : Flight) (op : XOp) :
    ∃ rs', LanesMove w (deliverCross w' c b f op) c (rs ++ rs') ∧
      rs'.map Result.landing = ((List.range 32).filter fun j => (entryOf f.coll j).1).map (f.crossLanding b.hdr.compat op) := by
  unfold Machine.deliverCross
  generalize List.range 32 = l
  induction l generalizing w' rs with
  | nil => exact ⟨[], by simpa using h, rfl⟩
  | cons j l ih =>
    rw [List.foldl_cons]
    cases hj : (entryOf f.coll j).1 with
    | false =>
      rw [← entryOf, if_neg (by simp [hj]), List.filter_cons_of_neg (by simp [hj])]
      exact ih h
    | true =>
      rw [← entryOf, if_pos hj, List.filter_cons_of_pos (by simp [hj])]
      obtain ⟨rs', hm, hrs⟩ := ih (h.pushResult f.owner f.cr f.seq (f.cyc + j + f.form.lat) f.from_
        (dstWrites f.form.dst j ((xValue op b.hdr.compat f.part f.coll j).zeroExtend 64)) 0)
      rw [List.append_assoc] at hm
      exact ⟨_, hm, by rw [List.singleton_append, List.map_cons, hrs, List.map_cons]; rfl⟩

/-- What a cross-lane instruction collects of a lane: a predicate bit, or the first operand (R163, R165). -/
def Course.collects (k : Course) (f : Flight) (op : XOp) (j : Nat) : W32 :=
  match op with
  | .pollAny q => if (k.pred q).getLsbD j then 1 else 0
  | .pollAll q => if (k.pred q).getLsbD j then 1 else 0
  | .pollMap q => if (k.pred q).getLsbD j then 1 else 0
  | _ => (k.src j f.form.a).truncate 32

/-- The flight with lane `j` collected. -/
def Flight.collected (f : Flight) (k : Course) (op : XOp) (j : Nat) : Flight :=
  { f with coll := f.coll ++ [(laneOn k f j, k.collects f op j, (k.src j f.form.b).truncate 32)], next := j + 1 }

/-- An enabled lane counts in the activity of its block. -/
theorem LanesMove.countIf (h : LanesMove w w' c rs) (on : Bool) (o : Nat) (f : Activity → Activity) :
    LanesMove w (if on then Machine.countAct w' c o f else w') c rs := by
  split
  · exact h.countAct o f
  · exact h

/-- LANE_EXECUTE of the last lane of a cross-lane instruction, where its operands are sound. -/
theorem laneExecute_cross {seq : Nat} {f : Flight} {b : Block} {k : Course} {op : XOp}
    (hf : ((w.core c).flights.find? fun f => decide (f.seq = seq) && decide (f.stride = 1) && decide (f.next = 31)) = some f)
    (hb : w.block? c f.owner = some b) (hk : w.course? c f.owner f.cr = some k) (hop : f.form.op = .xlane op) (hs : sound k f 31 = true) :
    ∃ rs, LanesMove w (laneExecute c seq 31 w) c rs ∧ rs.map Result.landing =
      ((List.range 32).filter fun j => (entryOf (f.collected k op 31).coll j).1).map ((f.collected k op 31).crossLanding b.hdr.compat op) := by
  have hpoison : srcPoisoned k 31 f.form.a = false ∧ srcPoisoned k 31 f.form.b = false := by
    simp only [sound, Bool.not_eq_true', Bool.or_eq_false_iff] at hs
    exact hs.1
  have hcount := ((LanesMove.start w c).touchSample f.seq fun x =>
    { x with read := vccOf w c - f.issue, exec := vccOf w c - f.issue }).countIf (laneOn k f 31) f.owner (·.lane f.form.col)
  obtain ⟨rs, hm, hrs⟩ := (hcount.setFlight (f.collected k op 31)).deliverCross b (f.collected k op 31) op
  refine ⟨rs, ?_, hrs⟩
  simp only [laneExecute, hf, hb, hk, hop, isMemOp, Bool.and_false, Bool.false_and, Bool.false_eq_true, if_false, if_true, hpoison.1, hpoison.2,
    Bool.or_false]
  exact hm

/-- In a state: no course or block changes, and the enabled lanes have their results pending. -/
theorem exec_laneExecute_cross {seq : Nat} {f : Flight} {b : Block} {k : Course} {op : XOp} (h : LaneDue s c seq 31 1 f b k)
    (hop : f.form.op = .xlane op) (hs : sound k f 31 = true) :
    ∃ s', exec (.laneExecute c seq 31) s = .next s' ∧ CoursesKept s s' ∧
      (((Say.core s' c).results.drop (Say.core s c).results.length).map Result.landing =
        ((List.range 32).filter fun j => (entryOf (f.collected k op 31).coll j).1).map ((f.collected k op 31).crossLanding b.hdr.compat op)) := by
  obtain ⟨hf, hb, hk⟩ := h
  obtain ⟨rs, hm, hrs⟩ := laneExecute_cross hf hb hk hop hs
  exact ⟨commit s (laneExecute c seq 31 (enter s)), rfl, hm.coursesKept, by rw [hm.results, List.drop_left, hrs]⟩

/-! ## Destinations in lanes (R59) -/

/-- Every cross-lane instruction has its destination in lanes. -/
theorem laneForm_perLane_xlane {i : Instr} {f : Form} {op : XOp} (h : laneForm i = some f) (hop : f.op = .xlane op) :
    f.dst.perLane = true := by
  cases i
  case mfs _ _ uni | mts _ _ uni | tdesc _ _ uni =>
    cases uni <;> cases h
    cases hop
  all_goals cases h <;> simp [lane1, lane2, lane3, lanePred]

/-- So has every flight that an issue of one sends over the lanes. -/
theorem flies_perLane_xlane {t : Site} {i : Instr} {f : Form} {x : Flight} {op : XOp} (hi : laneForm i = some f) (hx : Flies s t f x)
    (hop : x.form.op = .xlane op) : x.form.dst.perLane = true := by
  rw [hx.form] at hop ⊢
  exact (perLane_resolve f.dst t.k.wb).trans (laneForm_perLane_xlane hi hop)

/-- With such a destination every enabled lane receives the value of its rule at I + j + L, as the words of R59. -/
theorem exec_laneExecute_cross_perLane {seq : Nat} {f : Flight} {b : Block} {k : Course} {op : XOp} (h : LaneDue s c seq 31 1 f b k)
    (hop : f.form.op = .xlane op) (hs : sound k f 31 = true) (hd : f.form.dst.perLane = true) :
    ∃ s' coll, exec (.laneExecute c seq 31) s = .next s' ∧ CoursesKept s s' ∧
      coll = f.coll ++ [(lives k f 31, k.collects f op 31, (k.src 31 f.form.b).truncate 32)] ∧
      ((Say.core s' c).results.drop (Say.core s c).results.length).map (fun r => (r.ready, r.writes)) =
        ((List.range 32).filter fun j => (entryOf coll j).1).map (fun j =>
          (f.cyc + j + f.form.lat, laneWrites f.form.dst j ((xValue op b.hdr.compat f.part coll j).zeroExtend 64))) ∧
      (0 < f.part → (b.hdr.compat = true → f.part = 16) → ∀ j, j < 32 → (entryOf coll j).1 = true →
        Receives op b.hdr.compat f.part (fun n => (entryOf coll n).1) (fun n => (entryOf coll n).2.1) (entryOf coll j).2.2.toNat j
          (xValue op b.hdr.compat f.part coll j)) := by
  obtain ⟨s', he, hk, hr⟩ := exec_laneExecute_cross h hop hs
  have hland : (f.collected k op 31).crossLanding b.hdr.compat op = fun j => (f.cyc + j + f.form.lat,
      laneWrites f.form.dst j ((xValue op b.hdr.compat f.part (f.collected k op 31).coll j).zeroExtend 64)) :=
    funext fun j => by rw [← dstWrites_eq_laneWrites hd]; rfl
  rw [hland] at hr
  exact ⟨s', _, he, hk, by rw [Flight.collected, laneOn_eq_lives k f (by decide)], hr, fun hw hc j hj hon => receives_xValue op _ hw hc hj hon⟩

end Sys2Proof.Machine

namespace Sys2Proof.Proofs

open Sys2Proof.Machine Sys2Proof.Say

/-- A `red.add` of 31 collected lanes whose destination is the uniform register k0, which no issue over the lanes sends. -/
def uniformSum : Flight :=
  { uniformFlight with form := { op := .xlane .redAdd, dst := .uni 0, a := .imm 9, lat := 36 }, next := 31, coll := List.replicate 31 (true, 9, 0) }

/-- The machine after reset, with that flight on core 0. -/
def uniformSumState : State :=
  { mach := { cores := [(0, { blocks := [(0, uniformBlock)], courses := [(0, uniformCourse)], flights := [uniformSum] })] } }

/-- Lane 31 of that flight is due. -/
theorem uniformSum_due : LaneDue uniformSumState 0 0 31 1 uniformSum uniformBlock uniformCourse := ⟨rfl, rfl, rfl⟩

/-- Refutes O20: the statement lets the flight have a destination that is not in lanes. Lane 0 of `uniformSum` leaves a write of k0
pending, where `laneWrites` has none. With a destination in lanes, as every issue sends it (`flies_perLane_xlane`), each lane receives
what the statement says (`exec_laneExecute_cross_perLane`). -/
theorem not_crossLaneDelivers : ¬ Obligations.CrossLaneDelivers := by
  intro h
  have hsound : sound uniformCourse uniformSum 31 = true := by decide
  obtain ⟨s₁, he₁, -, hr₁⟩ := exec_laneExecute_cross uniformSum_due rfl hsound
  obtain ⟨s₂, coll, he₂, -, -, -, -, hr₂, -⟩ := h _ _ _ _ _ _ _ uniformSum_due rfl hsound rfl
  obtain rfl : s₁ = s₂ := Host.Outcome.next.inj (he₁.symm.trans he₂)
  have hlane : (36, [Write.uni 0 279]) ∈
      ((Say.core s₁ 0).results.drop (Say.core uniformSumState 0).results.length).map Result.landing := by
    rw [hr₁]
    exact List.mem_map.mpr ⟨0, by decide, by decide⟩
  change _ ∈ List.map (fun (r : Result) => (r.ready, r.writes)) _ at hlane
  rw [hr₂] at hlane
  obtain ⟨j, -, he⟩ := List.mem_map.mp hlane
  have hwrites : ([] : List Write) = [Write.uni 0 279] := congrArg Prod.snd he
  cases hwrites

end Sys2Proof.Proofs

/-! SUPPORT. What a step makes of memory: a list of writes, each of which keeps the canonical form. -/

namespace Sys2Proof.Machine

/-- The bytes of `s'` are those of `s` after a list of writes. -/
def Wrote (s s' : State) : Prop := ∃ l : List MemWrite, s'.mem = s.mem.applyAll l

theorem applyAll_append (m : Memory) (l r : List MemWrite) : m.applyAll (l ++ r) = (m.applyAll l).applyAll r := by
  induction l generalizing m with
  | nil => rfl
  | cons x l ih => exact ih (m.apply x)

variable {s s' s'' : State}

/-- The rest of the machine does not matter. -/
theorem Wrote.of_mem (h : s'.mem = s.mem) : Wrote s s' := ⟨[], h⟩

theorem Wrote.trans (h : Wrote s s') (h' : Wrote s' s'') : Wrote s s'' := by
  obtain ⟨l, hl⟩ := h
  obtain ⟨r, hr⟩ := h'
  exact ⟨l ++ r, by rw [applyAll_append, ← hl, hr]⟩

theorem wrote_commit (s : State) (w : World) : Wrote s (commit s w) := ⟨w.out, rfl⟩

theorem Wrote.wf (h : Wrote s s') (hs : s.mem.wf = true) : s'.mem.wf = true := by
  obtain ⟨l, hl⟩ := h
  rw [hl]
  exact wf_applyAll hs l

/-- An instruction that answers a next state writes. -/
theorem exec_wrote {i : Instr} (h : exec i s = .next s') : Wrote s s' := by
  obtain ⟨w, hw⟩ | hfault := exec_closed i s
  · obtain rfl := Host.Outcome.next.inj (hw.symm.trans h)
    exact wrote_commit s w
  · rw [hfault] at h
    cases h

/-- So does an event. -/
theorem perform_wrote {e : Event} (h : perform e s = .next s') : Wrote s s' := by
  obtain ⟨w, hw⟩ := perform_closed e s
  obtain rfl := Host.Outcome.next.inj (hw.symm.trans h)
  exact wrote_commit s w

/-- So does the act of a string on its turn. -/
theorem runTurn_wrote {a : TurnAct} (h : runTurn a s = .next s') : Wrote s s' := by
  cases a with
  | none =>
    cases h
    exact .of_mem rfl
  | event e => exact perform_wrote h
  | pass t =>
    cases h
    exact wrote_commit s _
  | issue t =>
    simp only [runTurn] at h
    split at h
    · cases h
      exact wrote_commit s _
    · have hexec := exec_wrote h
      exact hexec

/-- The stop of a debugger is the event that it is, or nothing. -/
theorem cutStop_wrote (e : Option Event) (s : State) : Wrote s (cutStop e s) := by
  unfold cutStop
  split
  · next c o r n =>
    obtain ⟨w, hw⟩ := perform_closed (.breakpointMatch c o r n) s
    simp only [hw]
    exact wrote_commit s w
  · next c o r n =>
    obtain ⟨w, hw⟩ := perform_closed (.debugHoldTake c o r n) s
    simp only [hw]
    exact wrote_commit s w
  · exact .of_mem rfl

/-- The trial of a cycle is thrown away: the cut writes no more than its records and stops do (R17, R324). -/
theorem scan_wrote (i : Nat) (s : State) : Wrote s (scan i s) := by
  unfold scan
  dsimp only
  split
  · exact .of_mem rfl
  · have hcut := fun e w => (wrote_commit s w).trans (cutStop_wrote e (commit s w))
    split
    · split
      · exact hcut _ _
      · exact (hcut _ _).trans (.of_mem rfl)
    · exact hcut _ _

/-- Whatever a step does, to memory it is a list of writes. -/
theorem step_wrote (h : step s = .next s') : Wrote s s' := by
  unfold step at h
  dsimp only at h
  split at h
  · next x hinput =>
    split at h
    · have hperform := perform_wrote h
      exact hperform
    · cases h
      exact .of_mem rfl
  · split at h
    · exact perform_wrote h
    · split at h
      · cases h
        exact scan_wrote _ s
      · split at h
        · exact perform_wrote h
        · split at h
          · split at h
            · exact perform_wrote h
            · cases h
              exact wrote_commit s _
          · exact runTurn_wrote h

end Sys2Proof.Machine

namespace Sys2Proof.Proofs

open Sys2Proof.Machine

/-- Settles O7: a step writes, and each write keeps the canonical form. -/
theorem stepKeepsMemoryForm : Obligations.StepKeepsMemoryForm := fun _ _ hs hstep => (step_wrote hstep).wf hs

end Sys2Proof.Proofs

/-! SUPPORT. The issue of memory instructions (R182 to R204): the marks that a path's accesses take, and what a load, store or atomic,
a host access and a fence leave. -/

namespace Sys2Proof.Tab

/-- Of two entries put at one key the second stays. -/
theorem put_put {α : Type} (t : Tab α) (k : Nat) (v w : α) : (t.put k v).put k w = t.put k w := by
  induction t with
  | nil => simp [put]
  | cons x r ih =>
    obtain ⟨a, u⟩ := x
    simp only [put]
    split
    · simp [put]
    · next hne =>
      split
      · simp [put]
      · next hge => simp [put, hne, hge, ih]

end Sys2Proof.Tab

namespace Sys2Proof.Machine

open Sys2Proof.Say

variable {s : State} {w w' : World} {t : Site} {k : Course} {rs : List Result} {fs : List Flight}

/-! ## The marks that still hold something back -/

/-- The marks of the issuing path that are not met, or that a staged write of the block still keeps from being performed (R258). -/
def keptMarks (s : State) (t : Site) : List Mark := liveMarks (enter s) t.i.core t.i.owner t.p.marks

/-- An issue leaves the marks that are met as they were. -/
theorem liveMarks_beginIssue (s : State) (t : Site) (l : List Mark) :
    liveMarks (beginIssue t (enter s)) t.i.core t.i.owner l = liveMarks (enter s) t.i.core t.i.owner l := by
  have hvcc : vccOf (beginIssue t (enter s)) t.i.core = vccOf (enter s) t.i.core := (passes_beginIssue t (enter s)).vcc
  unfold liveMarks markStaged stagedOpen
  simp only [markMet_beginIssue, hvcc, beginIssue_block]

/-- With nothing staged in its block these are the marks that the statements say. -/
theorem keptMarks_eq_holding (h : At s t) (hstaged : t.b.staged = []) : keptMarks s t = holding s t := by
  have hopen : ∀ m, markStaged (enter s) t.i.core t.i.owner m = false := fun m => by
    cases m with
    | applied seq => rfl
    | performed seq sc ids => simp [markStaged, stagedOpen, (siteOf_some h.1).2.1, hstaged]
  simp only [keptMarks, liveMarks, hopen, Bool.or_false]
  rfl

/-! ## Loads, stores, multicast and atomics (R182, R183, R187, R198, R201) -/

theorem ldForm_eq (sp : Space) (d : Reg) (a : Src) (off : BitVec 7) (ord : Bool) (sz : Size) :
    ldForm (.load sp sz (immOff off sz)) sz d a ord = loadForm sp d a off ord sz := by
  cases sz <;> rfl

theorem stForm_eq (sp : Space) (d : Reg) (a : Src) (off : BitVec 7) (ord : Bool) (sz : Size) :
    stForm (.store sp sz (immOff off sz)) sz d a ord = storeForm sp d a off ord sz := by
  cases sz <;> rfl

/-- Each is an issue of its form at the scope of its space. -/
theorem exec_of_memForm {i : Instr} {sc : Scope} {f : Form} (h : memForm i = some (sc, f)) (s : State) :
    exec i s = issue false f.top (fun _ => none) (startMem sc f) s := by
  cases i
  case ldLn | ldDie | ldFab =>
    cases h
    rw [← ldForm_eq]
    rfl
  case stLn | stDie | stFab =>
    cases h
    rw [← stForm_eq]
    rfl
  case stMc _ _ _ _ sz | ldTs sz | stTs sz | ldAcc sz | stAcc sz => cases sz <;> cases h <;> rfl
  all_goals cases h <;> rfl

/-- What such an issue leaves, where the accesses take the marks `ms` of their path: what the statement says of it. -/
def MemIssued (s s' : State) (t : Site) (sc : Scope) (f : Form) (ms : List Mark) (x : Flight) : Prop :=
  let acq := f.acq && !t.b.hdr.timed
  let rel := f.rel && !t.b.hdr.timed
  Issued s s' t ∧ (Say.core s' t.i.core).flights = (Say.core s t.i.core).flights ++ [x] ∧
    Flies s t { f with acq := acq, rel := rel } x ∧ x.stride = 1 ∧
    x.marks = ms ++ (if rel then [.performed t.seq sc t.ids] else []) ∧
    (acq = false → SendsLanes s s' t { f with acq := acq, rel := rel } 1) ∧
    (acq = true → ∃ l, course s' t.i.core t.i.owner t.i.cr =
      some ((issuedCourse t).setPath t.i.slot { passed t with marks := l ++ [.applied t.seq] }))

/-- An issue that sends one flight and changes its own course at most. -/
theorem sendsLanes_of_moves {s' : State} {f : Form} {x : Flight} {stride : Nat}
    (h : MovesWith s s' t (issuedCourse t) [] ((Say.core s t.i.core).flights ++ [x])) (hx : Flies s t f x) (hstride : x.stride = stride) :
    SendsLanes s s' t f stride := by
  have hresults := h.results
  rw [List.append_nil] at hresults
  exact ⟨h.issued, ⟨h.own, h.others, h.blocks, h.tiles, h.tags, h.cmds, h.arms, h.watches, h.trap⟩, hresults, h.accs, x, h.flights, hx, hstride⟩

/-- A form whose ORD acts: in a timed launch it has no effect (R182). -/
def Form.ordered (f : Form) (t : Site) : Form := { f with acq := f.acq && !t.timed, rel := f.rel && !t.timed }

/-- The flight of such an issue. -/
def Site.memFlight (s : State) (t : Site) (sc : Scope) (f : Form) : Flight :=
  { t.flight (f.ordered t) (firstCycle s t f.col) 1 with
    marks := keptMarks s t ++ (if f.rel && !t.timed then [.performed t.seq sc t.ids] else []) }

/-- It is in flight as the issue sends it. -/
theorem flies_memFlight (s : State) (t : Site) (sc : Scope) (f : Form) : Flies s t (f.ordered t) (t.memFlight s sc f) :=
  ⟨rfl, ⟨rfl, rfl, rfl, rfl⟩, ⟨rfl, rfl, rfl, rfl⟩, ⟨rfl, rfl⟩, rfl, rfl, rfl, rfl⟩

/-- The world with its lanes set out. -/
def memLanes (s : State) (t : Site) (sc : Scope) (f : Form) : World :=
  startLanes (f.ordered t) 1 (fun x => { x with marks := (t.memFlight s sc f).marks }) t (beginIssue t (enter s))

theorem startMem_beginIssue (s : State) (t : Site) (sc : Scope) (f : Form) : startMem sc f t (beginIssue t (enter s)) =
    if f.acq && !t.timed then addMark t (.applied t.seq) (memLanes s t sc f) else memLanes s t sc f := by
  unfold startMem
  rw [liveMarks_beginIssue]
  rfl

theorem goesOn_memLanes (s : State) (t : Site) (sc : Scope) (f : Form) :
    GoesOn (enter s) (memLanes s t sc f) t (issuedCourse t) [] ((Say.core s t.i.core).flights ++ [t.memFlight s sc f]) :=
  goesOn_startLanes (f.ordered t) 1 _ s t

/-- A mark that an instruction sets on its path. -/
theorem GoesOn.addMark (h : GoesOn w w' t k rs fs) {p : Path} (hp : k.path? t.i.slot = some p) (m : Mark) :
    GoesOn w (addMark t m w') t (k.setPath t.i.slot { p with marks := liveMarks w' t.i.core t.i.owner p.marks ++ [m] }) rs fs :=
  h.modPath hp fun p => { p with marks := liveMarks w' t.i.core t.i.owner p.marks ++ [m] }

/-- The accesses take the marks that are kept, with the release's own; an acquire leaves its mark on the path. -/
theorem exec_memForm {i : Instr} {sc : Scope} {f : Form} (hi : memForm i = some (sc, f)) (h : At s t) (hfits : Fits t f.top) :
    ∃ s' x, exec i s = .next s' ∧ MemIssued s s' t sc f (keptMarks s t) x := by
  refine ⟨_, t.memFlight s sc f, (exec_of_memForm hi s).trans (issue_run h hfits rfl), ?_⟩
  rw [startMem_beginIssue]
  have hlanes := goesOn_memLanes s t sc f
  have hflies := flies_memFlight s t sc f
  cases hacq : f.acq && !t.timed with
  | false =>
    have hm := hlanes.movesWith
    exact ⟨hm.issued, hm.flights, hflies, rfl, rfl, fun _ => sendsLanes_of_moves hm hflies rfl, fun h => absurd (hacq.symm.trans h) (by decide)⟩
  | true =>
    have hm := (hlanes.addMark (path_issuedCourse h) (.applied t.seq)).movesWith
    exact ⟨hm.issued, hm.flights, hflies, rfl, rfl, fun h => absurd (hacq.symm.trans h) (by decide), fun _ => ⟨_, hm.own⟩⟩

/-! ## A fault of the enabled lanes at the issue (R115, R181) -/

/-- An issue whose own record, in whatever lanes, is of its instruction: what the statements say of it. -/
theorem onceFaults_of_record (h : At s t) (f : FaultRec)
    (hsite : f.owner = t.i.owner ∧ f.cr = t.i.cr ∧ f.path = t.i.slot ∧ f.pc = pcWord t.i.pc ∧ f.word = t.i.word)
    (hmask : ∀ j, j < 32 → f.mask.getLsbD j = if f.src = 0 then on t j else t.p.mask.getLsbD j)
    (hblock : f.bk = t.b.bind.bk ∧ f.lid = t.b.bind.lid) :
    OnceFaults s (commit s (takeFault (beginIssue t (enter s)) t.i.core f)) t f.code f.sub f.src f.info := by
  have hp := passes_beginIssue t (enter s)
  have hs := hp.stops f
  have hcore : Say.core (commit s (takeFault (beginIssue t (enter s)) t.i.core f)) t.i.core = _ := takeFault_kept (beginIssue t (enter s)) t.i.core f
  have hids : ∀ c, (Say.core (commit s (takeFault (beginIssue t (enter s)) t.i.core f)) c).msgs = (Say.core s c).msgs ∧
      (Say.core (commit s (takeFault (beginIssue t (enter s)) t.i.core f)) c).nextId = (Say.core s c).nextId := fun c => by
    by_cases hc : c = t.i.core
    · subst hc; rw [hcore, hp.own]; exact ⟨rfl, rfl⟩
    · rw [hs.cores c hc]; exact ⟨rfl, rfl⟩
  obtain ⟨howner, hcr, hpath, hpc, hword⟩ := hsite
  exact {
    bytes := hs.bytes, port := hs.port, own := hs.own, others := hs.others, mach := hs.mach, sashes := hs.sashes
    msgs := fun _ => hids
    kept := by
      rw [← (hids t.i.core).1, ← (hids t.i.core).2]
      exact hs.kept
    seq := by rw [hcore]; exact (beginIssue_seq t (enter s)).trans (congrArg (· + 1) (siteOf_some h.1).2.2.2.2)
    cores := fun c hc => by rw [← hs.cores c hc]
    record := ⟨_, hs.record, rfl, rfl, rfl, rfl, howner, hcr, hpath, hpc, hword, hmask, hblock.1, hblock.2⟩ }

/-- A fault that names the enabled lanes, with SRC 0. -/
theorem lanesFault (h : At s t) (code sub : Nat) (info : W64) (lat : Nat) (zero : List Write) :
    OnceFaults s (commit s (siteFault { t with p := { t.p with mask := t.enabled } } code sub 0 info lat zero (beginIssue t (enter s)))) t
      code sub 0 info :=
  onceFaults_of_record h (FaultRec.ofBlock _ t.b) ⟨rfl, rfl, rfl, rfl, rfl⟩ (fun _ hj => getLsbD_enabled hj) ⟨rfl, rfl⟩

/-! ## Host accesses (R186) -/

/-- Two changes of one core are one. -/
theorem modCore_modCore (w : World) (c : Nat) (f g : Core → Core) : (w.modCore c f).modCore c g = w.modCore c fun k => g (f k) := by
  rw [World.modCore, core_modCore_same, World.modCore, World.modCore, World.setCore, World.setCore, World.setCore, Tab.put_put]

/-- A change of the core of an issue that leaves what no issue changes. -/
theorem issued_modCore (s : State) (t : Site) {f : Core → Core} (hkept : ∀ k, CoreKept k (f k)) (hseq : ∀ k, (f k).seq = k.seq) :
    Issued s (commit s ((beginIssue t (enter s)).modCore t.i.core f)) t := by
  have h := passes_beginIssue t (enter s)
  have hown : Say.core (commit s ((beginIssue t (enter s)).modCore t.i.core f)) t.i.core = f ((beginIssue t (enter s)).core t.i.core) :=
    core_modCore_same ..
  exact {
    bytes := ⟨fun _ _ => rfl, rfl⟩
    mach := by rw [commit_mach, World.modCore, World.setCore, h.mach]; rfl
    seq := by rw [hown, hseq, beginIssue_seq]
    kept := by rw [CoreKept, hown, hkept, h.own]; rfl
    cores := fun c hne => (core_modCore_other _ f hne).trans (h.cores c hne) }

/-- A core whose tag `tag` of the issuing block clears and is noted as a host tag. -/
def Core.clearHostTag (t : Site) (tag : Nat) (k : Core) : Core :=
  { k with
    tags := k.tags &&& ~~~BitVec.ofNat 64 (2 ^ (t.b.bind.tagb + tag))
    hostTags := k.hostTags ||| BitVec.ofNat 64 (2 ^ (t.b.bind.tagb + tag)) }

/-- What a host access of a tag makes of its core: the tag clears, and its lanes set out. -/
def Core.hostIssue (t : Site) (tag : Nat) (x : Flight) (k : Core) : Core :=
  { k.clearHostTag t tag with flights := k.flights ++ [x], strs := k.strs.put t.k.str (k.str t.k.str) }

theorem clearTag_beginIssue (h : At s t) (tag : Nat) : clearTag (beginIssue t (enter s)) t.i.core t.i.owner tag true =
    (beginIssue t (enter s)).modCore t.i.core (Core.clearHostTag t tag) := by
  have hb : (beginIssue t (enter s)).block? t.i.core t.i.owner = some t.b := by
    rw [beginIssue_block]
    exact (siteOf_some h.1).2.1
  unfold clearTag
  simp only [hb]
  rfl

/-- What clears a tag leaves the marks of its core. -/
theorem liveMarks_modCore (w : World) (c o : Nat) (l : List Mark) {f : Core → Core} (hflights : ∀ k, (f k).flights = k.flights)
    (haccs : ∀ k, (f k).accs = k.accs) (hsash : ∀ k, (f k).sash = k.sash) (hblocks : ∀ k, (f k).blocks = k.blocks) :
    liveMarks (w.modCore c f) c o l = liveMarks w c o l := by
  have hvcc : vccOf (w.modCore c f) c = vccOf w c := by
    unfold vccOf sashOf
    rw [core_modCore_same, hsash]
    rfl
  have hblock : (w.modCore c f).block? c o = w.block? c o := by rw [World.block?, core_modCore_same, hblocks]; rfl
  unfold liveMarks markMet markStaged stagedOpen
  simp only [hvcc, hblock, core_modCore_same, hflights, haccs]

/-- A host access has no column and no ORD. -/
theorem startMem_clearTag (h : At s t) {f : Form} (hcol : f.col = .none) (hacq : f.acq = false) (tag : Nat) :
    startMem .blk f t (clearTag (beginIssue t (enter s)) t.i.core t.i.owner tag true) =
      (beginIssue t (enter s)).modCore t.i.core (Core.hostIssue t tag (t.memFlight s .blk f)) := by
  rw [clearTag_beginIssue h]
  unfold startMem
  simp only [hacq, Bool.false_and, Bool.false_eq_true, if_false]
  rw [liveMarks_modCore (f := Core.clearHostTag t tag) _ _ _ _ (fun _ => rfl) (fun _ => rfl) (fun _ => rfl) (fun _ => rfl), liveMarks_beginIssue]
  unfold startLanes
  rw [modCore_modCore, hcol]
  unfold Site.memFlight Form.ordered
  rw [hcol, hacq]
  rfl

/-- The forms of a host load and a host store (R186). -/
def hostForm (tag : BitVec 6) (sz : Size) (d a : Reg) (i : Instr) (f : Form) : Prop :=
  i = .ldHost d a tag sz ∧ f = { op := .host true tag.toNat sz, dst := laneDst (decide (sz = .b64)) d, a := .pair a.toNat } ∨
  i = .stHost d a tag sz ∧ f = { op := .host false tag.toNat sz, a := .pair a.toNat, b := laneSrc (decide (sz = .b64)) d }

variable {i : Instr} {d a : Reg} {tag : BitVec 6} {sz : Size} {f : Form}

/-- Each is an issue of its form, which has no column and no ORD. -/
theorem exec_of_hostForm (hi : hostForm tag sz d a i f) (s : State) : exec i s = issueHost tag.toNat f s := by
  obtain ⟨rfl, rfl⟩ | ⟨rfl, rfl⟩ := hi <;> cases sz <;> rfl

theorem hostForm_plain (hi : hostForm tag sz d a i f) : f.col = .none ∧ f.acq = false ∧ f.rel = false := by
  obtain ⟨-, rfl⟩ | ⟨-, rfl⟩ := hi <;> exact ⟨rfl, rfl, rfl⟩

/-- A form without ORD goes over the lanes as it is, with no mark of its own. -/
theorem ordered_plain (t : Site) (hacq : f.acq = false) (hrel : f.rel = false) : f.ordered t = f := by
  obtain ⟨op, dst, a, b, c, lat, col, acq, rel⟩ := f
  cases hacq
  cases hrel
  rfl

theorem marks_memFlight_plain (s : State) (t : Site) (sc : Scope) (hrel : f.rel = false) : (t.memFlight s sc f).marks = keptMarks s t := by
  unfold Site.memFlight
  simp only [hrel, Bool.false_and, Bool.false_eq_true, if_false, List.append_nil]

/-- A tag beyond the block's raises BOUND in the enabled lanes; with one of the block's the tag clears, and the accesses of the lanes
take the marks that are kept. -/
theorem exec_hostForm (hi : hostForm tag sz d a i f) (h : At s t) (hfits : Fits t f.top) :
    ∃ s', exec i s = .next s' ∧ (t.b.hdr.tags ≤ tag.toNat → OnceFaults s s' t 0x0B 0 0 0) ∧
      (tag.toNat < t.b.hdr.tags → ∃ x, Issued s s' t ∧ course s' t.i.core t.i.owner t.i.cr = some (issuedCourse t) ∧
        (Say.core s' t.i.core).flights = (Say.core s t.i.core).flights ++ [x] ∧ Flies s t f x ∧ x.stride = 1 ∧ x.marks = keptMarks s t ∧
        (Say.core s' t.i.core).tags = (Say.core s t.i.core).tags &&& ~~~BitVec.ofNat 64 (2 ^ (t.b.bind.tagb + tag.toNat)) ∧
        (Say.core s' t.i.core).hostTags = (Say.core s t.i.core).hostTags ||| BitVec.ofNat 64 (2 ^ (t.b.bind.tagb + tag.toNat)) ∧
        (Say.core s' t.i.core).accs = (Say.core s t.i.core).accs ∧ (Say.core s' t.i.core).results = (Say.core s t.i.core).results) := by
  obtain ⟨hcol, hacq, hrel⟩ := hostForm_plain hi
  refine ⟨_, (exec_of_hostForm hi s).trans (issue_run h hfits rfl), fun hbeyond => ?_, fun htag => ⟨t.memFlight s .blk f, ?_⟩⟩
  · rw [if_pos hbeyond]
    exact lanesFault h 0x0B 0 0 0 _
  · rw [if_neg (Nat.not_le.mpr htag), startMem_clearTag h hcol hacq]
    have hown : Say.core (commit s ((beginIssue t (enter s)).modCore t.i.core (Core.hostIssue t tag.toNat (t.memFlight s .blk f)))) t.i.core =
        Core.hostIssue t tag.toNat (t.memFlight s .blk f) ((beginIssue t (enter s)).core t.i.core) := core_modCore_same ..
    have hflies := flies_memFlight s t .blk f
    rw [ordered_plain t hacq hrel] at hflies
    refine ⟨issued_modCore s t (fun _ => rfl) (fun _ => rfl), ?_, ?_, hflies, rfl, marks_memFlight_plain s t .blk hrel, ?_⟩
    · rw [← (passes_beginIssue t (enter s)).course]
      exact (congrArg (fun k : Core => k.courses.find (32 * t.i.owner + t.i.cr)) hown).trans rfl
    · rw [hown, (passes_beginIssue t (enter s)).own]
      rfl
    · rw [hown, (passes_beginIssue t (enter s)).own]
      exact ⟨rfl, rfl, rfl, rfl⟩

/-! ## `fence` (R204) -/

/-- A fence in a free launch adds its mark to those that are kept. -/
theorem exec_fence (h : At s t) (sc : Scope) (hon : once t = true) (hfree : t.b.hdr.timed = false)
    (hplain : (Say.die s (dieOf t.i.core)).recMode = 0) :
    ∃ s', exec (.fence sc) s = .next s' ∧ Moves s s' t ((issuedCourse t).setPath t.i.slot
      { passed t with marks := keptMarks s t ++ [.performed t.seq sc t.ids] }) [] := by
  refine ⟨_, issuePlain_run h, ?_⟩
  have hgo := (goesOn_beginIssue t (enter s)).addMark (path_issuedCourse h) (.performed t.seq sc t.ids)
  rw [liveMarks_beginIssue] at hgo
  have hnorec : (addMark t (.performed t.seq sc t.ids) (beginIssue t (enter s))).die (dieOf t.i.core) = Say.die s (dieOf t.i.core) := by
    rw [World.die, hgo.mach]; rfl
  have htimed : t.timed = false := hfree
  simp only [site_once, hon, htimed, hnorec, hplain, Bool.not_false, Bool.and_true, if_true, Nat.zero_ne_one, decide_false, Bool.and_false,
    Bool.false_eq_true, if_false]
  exact hgo.movesWith

end Sys2Proof.Machine

namespace Sys2Proof.Proofs

open Sys2Proof.Machine Sys2Proof.Say

/-! A block that is not the head of its launch has staged a write, and its path has a fence of scope `.die` behind it. No access and no
lane is on its way, so the mark of the fence is met on the core; the write that waits for its release keeps it all the same (R258). -/

def fencedMark : Mark := .performed 1 .die [0]
def fencedPath : Path := { id := 0, mask := 1, pc := 0, marks := [fencedMark] }
def fencedCourse : Course := { uniformCourse with slot0 := some fencedPath }
def stagingBlock : Block :=
  { uniformBlock with
    hdr := { bareHdr with determ := true }
    staged := [{ cyc := 0, str := 0, lane := 0, seq := 0, home := 0, st := .dram, key := 0, data := [1] }] }
def fencedIssuer : Issuer := { core := 0, owner := 0, cr := 0, slot := 0, pc := 0, word := 0, pred := 7, neg := false, cyc := 0 }
def fencedSite : Site := { i := fencedIssuer, b := stagingBlock, k := fencedCourse, p := fencedPath, seq := 2 }

/-- The machine after reset, with that block on core 0 and that path at the issue port. -/
def fencedState : State :=
  { mach := { cur := some fencedIssuer
              cores := [(0, { blocks := [(0, stagingBlock)], courses := [(0, fencedCourse)], seq := 2 })] } }

theorem fencedState_at : At fencedState fencedSite := ⟨rfl, rfl⟩

/-- The model keeps the mark where the statements drop it. -/
theorem keptMarks_fencedState : keptMarks fencedState fencedSite = [fencedMark] := by decide
theorem holding_fencedState : holding fencedState fencedSite = [] := by decide

/-- Refutes O45: the statement drops a mark that only a staged write keeps. In `fencedState` an `ld.die` takes the mark of the fence with
it, where the statement has none. With the marks that are kept it holds (`exec_memForm`), and so it does as it is said with nothing staged
(`keptMarks_eq_holding`). -/
theorem not_memoryIssue : ¬ Obligations.MemoryIssue := by
  intro h
  have hfits : Fits fencedSite (loadForm .die 2 (.pair 4) 0 false .b32).top := .inr (by decide)
  obtain ⟨s₁, x₁, he₁, -, hf₁, -, -, hm₁, -⟩ := h (.ldDie 2 4 0 false .b32) _ _ fencedState fencedSite rfl fencedState_at hfits
  obtain ⟨s₂, x₂, he₂, -, hf₂, -, -, hm₂, -⟩ := exec_memForm (i := .ldDie 2 4 0 false .b32) rfl fencedState_at hfits
  obtain rfl : s₁ = s₂ := Host.Outcome.next.inj (he₁.symm.trans he₂)
  obtain rfl : x₁ = x₂ := List.singleton_inj.mp (List.append_cancel_left (hf₁.symm.trans hf₂))
  rw [keptMarks_fencedState] at hm₂
  rw [holding_fencedState] at hm₁
  exact absurd (hm₁.symm.trans hm₂) (by decide)

/-- Refutes O46 in the same way, by an `ld.host`. With the marks that are kept it holds (`exec_hostForm`). -/
theorem not_hostIssue : ¬ Obligations.HostIssue := by
  intro h
  obtain ⟨s₁, he₁, -, hok₁⟩ := h (.ldHost 2 4 0 .b32) 2 4 0 .b32 _ fencedState fencedSite (.inl ⟨rfl, rfl⟩) fencedState_at (.inr (by decide))
  obtain ⟨s₂, he₂, -, hok₂⟩ := exec_hostForm (i := .ldHost 2 4 0 .b32) (.inl ⟨rfl, rfl⟩) fencedState_at (.inr (by decide))
  obtain rfl : s₁ = s₂ := Host.Outcome.next.inj (he₁.symm.trans he₂)
  obtain ⟨x₁, -, -, hf₁, -, -, hm₁, -⟩ := hok₁ (by decide)
  obtain ⟨x₂, -, -, hf₂, -, -, hm₂, -⟩ := hok₂ (by decide)
  obtain rfl : x₁ = x₂ := List.singleton_inj.mp (List.append_cancel_left (hf₁.symm.trans hf₂))
  rw [keptMarks_fencedState] at hm₂
  rw [holding_fencedState] at hm₁
  exact absurd (hm₁.symm.trans hm₂) (by decide)

/-- Refutes O47 in the same way, by a second `fence`. With the marks that are kept it does what the statement says (`exec_fence`). -/
theorem not_fenceAndMonitors : ¬ Obligations.FenceAndMonitors := by
  rintro ⟨hfence, -⟩
  have hon : once fencedSite = true := by decide
  obtain ⟨s₁, he₁, -, hk₁⟩ := hfence .die fencedState fencedSite fencedState_at
  obtain ⟨s₂, he₂, hm₂⟩ := exec_fence fencedState_at .die hon rfl rfl
  obtain rfl : s₁ = s₂ := Host.Outcome.next.inj (he₁.symm.trans he₂)
  obtain ⟨-, hown₁, -⟩ := hk₁ hon rfl
  have hcourse := Option.some.inj (hown₁.symm.trans hm₂.own)
  rw [keptMarks_fencedState, holding_fencedState] at hcourse
  exact absurd (congrArg (fun k : Course => k.slot0.map Path.marks) hcourse) (by decide)

end Sys2Proof.Proofs

/-! SUPPORT. The row walker (R196, R197): the poison of a stretch byte by byte, and what an issue leaves of the walker. -/

namespace Sys2Proof.Machine

open Sys2Proof.Say

variable {s : State} {t : Site}

/-! ## Poison of a stretch (R332) -/

/-- One byte is poisoned as its granule is. -/
theorem poisoned_one (m : Memory) (st : Store) (a : Nat) : m.poisoned st a 1 = Tab.get false m.poison (poisonKey st (a / 8)) := by
  have hone : (a + 1 + 7) / 8 - a / 8 = 1 := by omega
  simp [Memory.poisoned, hone]

/-- A stretch is poisoned where one of its bytes is. -/
theorem poisoned_iff (m : Memory) (st : Store) (a n : Nat) (hn : 0 < n) : m.poisoned st a n = true ↔ ∃ i < n, m.poisoned st (a + i) 1 = true := by
  simp only [poisoned_one]
  simp only [Memory.poisoned, List.any_eq_true, List.mem_range]
  constructor
  · rintro ⟨g, hg, hbad⟩
    refine ⟨8 * (a / 8 + g) - a, by omega, ?_⟩
    have hgran : (a + (8 * (a / 8 + g) - a)) / 8 = a / 8 + g := by omega
    rw [hgran]
    exact hbad
  · rintro ⟨i, hi, hbad⟩
    refine ⟨(a + i) / 8 - a / 8, by omega, ?_⟩
    have hgran : a / 8 + ((a + i) / 8 - a / 8) = (a + i) / 8 := by omega
    rw [hgran]
    exact hbad

theorem poisoned_eq_false_iff (m : Memory) (st : Store) (a n : Nat) (hn : 0 < n) :
    m.poisoned st a n = false ↔ ∀ i < n, m.poisoned st (a + i) 1 = false := by
  rw [← Bool.not_eq_true, poisoned_iff m st a n hn]
  simp

/-- The key of a byte of the tile store, counted from that of another. -/
theorem levelKey_zero_add (c a i : Nat) : levelKey 0 c (a + i) = levelKey 0 c a + i := (Nat.add_assoc ..).symm

/-- The first poisoned byte of a stretch of the tile store. -/
theorem firstBad_eq (w : World) (c a n x : Nat) (hlo : a ≤ x) (hhi : x < a + n) (hbad : w.mem.poisoned .ts (levelKey 0 c x) 1 = true)
    (hfirst : ∀ y, a ≤ y → y < x → w.mem.poisoned .ts (levelKey 0 c y) 1 = false) : firstBad w c a n = x := by
  have hfind : (((List.range n).map (a + ·)).find? fun y => w.mem.poisoned .ts (levelKey 0 c y) 1) = some x := by
    rw [List.find?_eq_some_iff_getElem]
    refine ⟨hbad, x - a, by simp; omega, by simp; omega, fun j hj => ?_⟩
    simp only [List.getElem_map, List.getElem_range, Bool.not_eq_true']
    exact hfirst _ (by omega) (by omega)
  rw [firstBad, hfind, Option.getD_some]

/-! ## The walker of the issuing string -/

/-- An issue leaves the walker of its string. -/
theorem walker_beginIssue (s : State) (t : Site) :
    (((beginIssue t (enter s)).core t.i.core).str t.k.str).walker = ((Say.core s t.i.core).str t.k.str).walker := by
  obtain ⟨l, d, g, h⟩ := beginIssue_str t (enter s)
  rw [h]
  rfl

/-- A core with another row walker in a string. -/
def Core.setWalker (k : Core) (n : Nat) (x : Walker) : Core := k.setStr n { k.str n with walker := x }

@[simp] theorem Core.str_setWalker (k : Core) (n : Nat) (x : Walker) : (k.setWalker n x).str n = { k.str n with walker := x } := by
  simp [Core.setWalker, Core.str, Core.setStr]

/-- An issue that sets the walker of its string goes on. -/
theorem goesOn_setWalker (s : State) (t : Site) (x : Walker) :
    GoesOn (enter s) ((beginIssue t (enter s)).modCore t.i.core fun k => k.setWalker t.k.str x) t (issuedCourse t) []
      (Say.core s t.i.core).flights := by
  have h := goesOn_beginIssue t (enter s)
  refine h.modCore ?_
  change _ = { Core.setWalker _ t.k.str x with flights := ((enter s).core t.i.core).flights }
  rw [← h.flights]
  rfl

/-- The table of a walker that R196 refuses. -/
abbrev badTable (s : State) (t : Site) (n : Nat) : Prop :=
  let d := descOf (Say.core s t.i.core) t.b n
  t.b.hdr.handles ≤ n ∨ d.valid = false ∨ d.level ≠ 0 ∨ ¬ (d.fmt = 0 ∨ d.fmt = 1 ∨ d.fmt = 10 ∨ d.fmt = 11)

/-- The walker that `rlw.set` leaves. -/
def newWalker (s : State) (t : Site) (n nr pos : Nat) : Walker where
  valid := true
  owner := t.i.owner
  cr := t.i.cr
  t := n
  nr := nr
  pos := pos
  ready := t.i.cyc + 2 + (nr + 3) / 4
  lens := lengthsOf (enter s) t.i.core (descOf (Say.core s t.i.core) t.b n) nr

/-- The answer of `rlw.set` in an issue that does something (R196). -/
theorem exec_rlwSet {a b : Reg} (hat : At s t) (honce : once t = true) :
    let n := (t.k.uni a.toNat).toNat % 256
    let nr := (t.k.uni (a.toNat + 1)).toNat
    let d := descOf (Say.core s t.i.core) t.b n
    exec (.rlwSet a b) s = .next (commit s (
      if badTable s t n then siteFault t 0x05 0 1 (BitVec.ofNat 64 n) 0 [] (beginIssue t (enter s))
      else if nr = 0 ∨ d.rows * d.cols < nr then siteFault t 0x0B 0 1 0 0 [] (beginIssue t (enter s))
      else if s.mem.poisoned .ts (levelKey 0 t.i.core (256 * d.base)) (nr * (fmtBits d.fmt / 8)) then
        siteFault t 0x09 0 1 (BitVec.ofNat 64 (firstBad (enter s) t.i.core (256 * d.base) (nr * (fmtBits d.fmt / 8)))) 0 [] (beginIssue t (enter s))
      else (beginIssue t (enter s)).modCore t.i.core fun k => k.setWalker t.k.str (newWalker s t n nr (t.k.uni b.toNat).toNat))) := by
  intro n nr d
  change execRlwSet a b s = _
  rw [execRlwSet, issuePlain_run hat]
  simp only [site_once, honce, Bool.not_true, Bool.false_eq_true, if_false, descOf_beginIssue, beginIssue_mem]
  have hbad : (decide (t.b.hdr.handles ≤ n) || !d.valid || decide (d.level ≠ 0) ||
      !(d.fmt == 0 || d.fmt == 1 || d.fmt == 10 || d.fmt == 11)) = true ↔ badTable s t n := by
    simp only [badTable, Bool.or_eq_true, decide_eq_true_eq, Bool.not_eq_true', ← Bool.not_eq_true, beq_iff_eq, or_assoc, d, n]
  simp only [← hbad]
  rfl

/-- Bytes of a length of a format that R196 admits. -/
theorem lengthBytes {f : Nat} (h : f = 0 ∨ f = 1 ∨ f = 10 ∨ f = 11) : fmtBits f / 8 = if f = 0 ∨ f = 1 then 4 else 2 := by
  rcases h with rfl | rfl | rfl | rfl <;> rfl

/-- What `rlw.next` sends over the lanes. -/
def nextForm (x : Walker) (d : Reg) (p : BitVec 3) : Form where
  op := .rlwNext x.pos (rowStarts x.lens).2 (rowStarts x.lens).1 p
  dst := .pair d.toNat
  lat := 2

/-- The flight of an `rlw.next` waits for the walker's ready cycle. -/
def shiftTo (x : Walker) (y : Flight) : Flight := { y with cyc := max y.cyc x.ready }

/-- The walker after an `rlw.next`. -/
def Walker.moved (x : Walker) : Walker := { x with pos := (x.pos + 32) % 2 ^ 32 }

/-- The answer of `rlw.next` (R197). -/
theorem exec_rlwNext {d : Reg} {p : BitVec 3} (hat : At s t) (hfits : Fits t (d.toNat + 2)) :
    let x := ((Say.core s t.i.core).str t.k.str).walker
    exec (.rlwNext d p) s = .next (commit s (
      if x.valid = false ∨ x.owner ≠ t.i.owner then
        siteFault { t with p := { t.p with mask := t.enabled } } 0x05 0 0 0 2 (rlwZero t d p) (beginIssue t (enter s))
      else startLanes (nextForm x d p) 1 (shiftTo x) t ((beginIssue t (enter s)).modCore t.i.core fun k => k.setWalker t.k.str x.moved))) := by
  intro x
  change execRlwNext d p s = _
  rw [execRlwNext, issue_run hat hfits rfl]
  simp only [walker_beginIssue, Bool.or_eq_true, Bool.not_eq_true', decide_eq_true_eq]
  rfl

/-- Sending a form over the lanes leaves the walker. -/
theorem walker_startLanes (f : Form) (stride : Nat) (set : Flight → Flight) (t : Site) (w : World) :
    (((startLanes f stride set t w).core t.i.core).str t.k.str).walker = ((w.core t.i.core).str t.k.str).walker := by
  rw [startLanes, core_modCore_same]
  simp only [Core.str, Core.setStr, Tab.find_put_same, Option.getD_some]
  cases f.col <;> rfl

/-- A walker that was set is read. -/
theorem walker_setWalker (s : State) (t : Site) (x : Walker) :
    ((((beginIssue t (enter s)).modCore t.i.core fun k => k.setWalker t.k.str x).core t.i.core).str t.k.str).walker = x := by
  rw [core_modCore_same, Core.str_setWalker]

/-- The lanes of a form that needs no column go out in the cycle of the issue. -/
theorem goesOn_startLanes_walker (s : State) (t : Site) (x : Walker) (f : Form) (stride : Nat) (set : Flight → Flight) (hcol : f.col = .none) :
    GoesOn (enter s) (startLanes f stride set t ((beginIssue t (enter s)).modCore t.i.core fun k => k.setWalker t.k.str x)) t (issuedCourse t) []
      ((Say.core s t.i.core).flights ++ [set (t.flight f t.i.cyc stride)]) := by
  have h := goesOn_setWalker s t x
  refine h.modCore ?_
  rw [h.flights, hcol]
  rfl

end Sys2Proof.Machine

namespace Sys2Proof.Proofs

open Sys2Proof.Machine Sys2Proof.Say

/-- Settles O50: the clauses of `rlw.set` are the branches of its meaning, a stretch being poisoned where one of its bytes is. -/
theorem rowWalker : Obligations.RowWalker := by
  refine ⟨fun a b s t hat => ?set, fun d p s t hat hfits => ?next⟩
  case set =>
    intro n nr d bad range m soft
    have hm (hgood : ¬ bad) : fmtBits d.fmt / 8 = m := lengthBytes (by tauto)
    have hpos (hgood : ¬ bad) (hin : ¬ range) : 0 < nr * m := by
      have : 0 < m := by dsimp only [m]; split <;> decide
      exact Nat.mul_pos (by omega) this
    have hsoft (i : Nat) : soft (256 * d.base + i) = s.mem.poisoned .ts (levelKey 0 t.i.core (256 * d.base) + i) 1 :=
      congrArg (s.mem.poisoned .ts · 1) (levelKey_zero_add ..)
    refine ⟨fun honce => ⟨_, issuePlain_run hat, ?off⟩, fun honce hbad => ⟨_, exec_rlwSet hat honce, ?table⟩,
      fun honce hgood hrange => ⟨_, exec_rlwSet hat honce, ?count⟩,
      fun x honce hgood hin hlo hhi hx hfirst => ⟨_, exec_rlwSet hat honce, ?poison⟩,
      fun honce hgood hin hclean => ⟨_, exec_rlwSet hat honce, ?walks⟩⟩
    case off =>
      simp only [site_once, honce, Bool.not_false, if_true]
      exact moves_beginIssue s t
    case table =>
      rw [if_pos hbad]
      exact onceFaults hat 0x05 0 1 _ 0 _ (by decide)
    case count =>
      rw [if_neg hgood, if_pos hrange]
      exact onceFaults hat 0x0B 0 1 _ 0 _ (by decide)
    case poison =>
      have hstretch : s.mem.poisoned .ts (levelKey 0 t.i.core (256 * d.base)) (nr * m) = true :=
        (poisoned_iff _ _ _ _ (hpos hgood hin)).mpr ⟨x - 256 * d.base, by omega, by rw [← hsoft, Nat.add_sub_cancel' hlo]; exact hx⟩
      rw [if_neg hgood, if_neg hin, hm hgood, if_pos hstretch, firstBad_eq _ _ _ _ x hlo hhi hx hfirst]
      exact onceFaults hat 0x09 0 1 _ 0 _ (by decide)
    case walks =>
      have hstretch : s.mem.poisoned .ts (levelKey 0 t.i.core (256 * d.base)) (nr * m) = false :=
        (poisoned_eq_false_iff _ _ _ _ (hpos hgood hin)).mpr fun i hi => by
          rw [← hsoft]; exact hclean _ (Nat.le_add_right ..) (Nat.add_lt_add_left hi _)
      rw [if_neg hgood, if_neg hin, hm hgood, hstretch, if_neg Bool.false_ne_true]
      refine ⟨(goesOn_setWalker s t _).movesWith, ?_⟩
      have hwalker := walker_setWalker s t (newWalker s t n nr (t.k.uni b.toNat).toNat)
      have hlens : lengthsOf (enter s) t.i.core d nr =
          (List.range nr).map fun i => leNat (s.mem.bytes .ts (levelKey 0 t.i.core (256 * d.base + i * m)) m) := by
        rw [lengthsOf, hm hgood]; rfl
      exact ⟨congrArg Walker.valid hwalker, congrArg Walker.owner hwalker, congrArg Walker.cr hwalker, congrArg Walker.nr hwalker,
        congrArg Walker.pos hwalker, congrArg Walker.ready hwalker, (congrArg Walker.lens hwalker).trans hlens⟩
  case next =>
    intro x
    refine ⟨fun hnone => ⟨_, exec_rlwNext hat hfits, ?fault⟩, fun hvalid howner => ?goes⟩
    case fault =>
      rw [if_pos hnone]
      exact lanesFault hat 0x05 0 0 2 _
    case goes =>
      have hsome : ¬ (x.valid = false ∨ x.owner ≠ t.i.owner) := by
        rw [hvalid, howner]; simp
      have hrun := (exec_rlwNext (p := p) hat hfits).trans (congrArg (fun w => Host.Outcome.next (commit s w)) (if_neg hsome))
      have hm := (goesOn_startLanes_walker s t x.moved (nextForm x d p) 1 (shiftTo x) rfl).movesWith
      have hwalker := (walker_startLanes (nextForm x d p) 1 (shiftTo x) t _).trans (walker_setWalker s t x.moved)
      refine ⟨_, hrun, hm.issued, ⟨hm.own, hm.others, hm.blocks, hm.tiles, hm.tags, hm.cmds, hm.arms, hm.watches, hm.trap⟩, hwalker,
        hm.results.trans (List.append_nil _), hm.accs, _, hm.flights, rfl, rfl, rfl, rfl, rfl, rfl, rfl, rfl⟩

end Sys2Proof.Proofs

/-! SUPPORT. An access at its memory cycle (R179, R180, R198 to R202): what its bookkeeping leaves of the cores, the bytes that a number
stands for, and the new value of an atomic. -/

namespace Sys2Proof.Machine

open Sys2Proof.Say

variable {w w' : World} {s : State} {c : Nat} {a : Access} {ms : List MemWrite} {rs : List Result}

/-! ## Bytes of a number (R5, R179) -/

/-- A list of bytes stands for a number below the power that its length gives. -/
theorem leNat_lt (bs : List Byte) : leNat bs < 2 ^ (8 * bs.length) := by
  induction bs with
  | nil => decide
  | cons v r ih =>
    have hpow : 2 ^ (8 * (v :: r).length) = 256 * 2 ^ (8 * r.length) := by
      rw [List.length_cons, Nat.mul_add, Nat.pow_add, Nat.mul_comm]
    rw [hpow, leNat]
    have := v.isLt
    omega

/-- And its bytes are the bytes of that number. -/
theorem leNat_byte (bs : List Byte) (i : Nat) (hi : i < bs.length) : leNat bs / 2 ^ (8 * i) % 2 ^ 8 = bs[i].toNat := by
  induction bs generalizing i with
  | nil => cases hi
  | cons v r ih =>
    have hv := v.isLt
    cases i with
    | zero => simp only [leNat, Nat.mul_zero, Nat.pow_zero, Nat.div_one, List.getElem_cons_zero]; omega
    | succ i =>
      have hpow : 2 ^ (8 * (i + 1)) = 256 * 2 ^ (8 * i) := by rw [Nat.mul_add, Nat.pow_add, Nat.mul_comm]
      have htail : (v.toNat + 256 * leNat r) / 256 = leNat r := by omega
      rw [leNat, hpow, ← Nat.div_div_eq_div_mul, htail, List.getElem_cons_succ]
      exact ih i (by simpa using hi)

@[simp] theorem length_leBytes (n v : Nat) : (leBytes n v).length = n := by simp [leBytes]
@[simp] theorem length_memoryBytes (m : Memory) (st : Store) (k n : Nat) : (m.bytes st k n).length = n := by simp [Memory.bytes]

theorem getElem_leBytes (n v i : Nat) (hi : i < (leBytes n v).length) : ((leBytes n v)[i]).toNat = v / 2 ^ (8 * i) % 2 ^ 8 := by
  simp [leBytes]

/-- The number that a stretch of a store stands for. -/
theorem little_bytes (s : State) (st : Store) (k n : Nat) : Little s st k n (leNat (s.mem.bytes st k n)) := by
  refine ⟨by simpa using leNat_lt (s.mem.bytes st k n), fun i hi => ?_⟩
  rw [leNat_byte _ i (by simpa using hi)]
  simp [Memory.bytes]

/-! ## Writes of a stretch -/

/-- Writes that put `bs` at a key; none where there is no byte to put. -/
def Puts (ms : List MemWrite) (st : Store) (k : Nat) (bs : List Byte) : Prop := ms = [.bytes st k bs] ∨ bs = [] ∧ ms = []

theorem Puts.byte_same {st : Store} {k i : Nat} {bs : List Byte} (h : Puts ms st k bs) (m : Memory) (hi : i < bs.length) :
    (m.applyAll ms).byte st (k + i) = bs[i] := by
  obtain rfl | ⟨rfl, -⟩ := h
  · exact byte_apply_bytes_same m st k i bs hi
  · cases hi

theorem Puts.byte_other {st t : Store} {k x : Nat} {bs : List Byte} (h : Puts ms st k bs) (m : Memory)
    (hx : ¬ (t = st ∧ k ≤ x ∧ x < k + bs.length)) : (m.applyAll ms).byte t x = m.byte t x := by
  obtain rfl | ⟨-, rfl⟩ := h
  · refine byte_apply_bytes_other m bs ?_
    by_cases ht : t = st
    · by_cases hlo : k ≤ x
      · exact .inr (.inr (Nat.le_of_not_lt fun hhi => hx ⟨ht, hlo, hhi⟩))
      · exact .inr (.inl (Nat.lt_of_not_le hlo))
    · exact .inl ht
  · rfl

/-! ## What the bookkeeping of an access leaves -/

/-- A core whose courses and blocks stand, with the results `rs` more; its accesses are the same ones, whatever became of them. -/
structure CoreActs (k k' : Core) (rs : List Result) : Prop where
  courses : k'.courses = k.courses
  blocks : k'.blocks = k.blocks
  watches : k'.watches = k.watches
  results : k'.results = k.results ++ rs
  ids : k'.accs.map Access.id = k.accs.map Access.id

/-- `w'` is `w` after acting for an access of core `c` that made the writes `ms` and left the results `rs`. -/
structure Acted (w w' : World) (c : Nat) (ms : List MemWrite) (rs : List Result) : Prop where
  out : w'.out = w.out ++ ms
  cores : ∀ n, CoreActs (w.core n) (w'.core n) (if n = c then rs else [])

theorem Acted.start (w : World) (c : Nat) : Acted w w c [] [] :=
  ⟨(List.append_nil _).symm, fun n => ⟨rfl, rfl, rfl, by simp, rfl⟩⟩

/-- A change of what is not the bookkeeping of a core. -/
theorem Acted.ofCores {w'' : World} (h : Acted w w' c ms rs) (hout : w''.out = w'.out) (hcores : w''.mach.cores = w'.mach.cores) :
    Acted w w'' c ms rs where
  out := hout.trans h.out
  cores n := by
    have hn : w''.core n = w'.core n := by rw [World.core, hcores]; rfl
    rw [hn]
    exact h.cores n

/-- A change of a core that leaves its courses, blocks, watches and results, and replaces accesses by accesses of their number. -/
theorem Acted.modCore (h : Acted w w' c ms rs) (d : Nat) {f : Core → Core} (hf : CoreActs (w'.core d) (f (w'.core d)) []) :
    Acted w (w'.modCore d f) c ms rs where
  out := h.out
  cores n := by
    by_cases hn : n = d
    · subst hn
      have hk := h.cores n
      rw [core_modCore_same]
      exact ⟨hf.courses.trans hk.courses, hf.blocks.trans hk.blocks, hf.watches.trans hk.watches,
        by rw [hf.results, hk.results, List.append_nil], hf.ids.trans hk.ids⟩
    · rw [core_modCore_other _ _ hn]; exact h.cores n

/-- A change of a core that leaves all five. -/
theorem Acted.modCoreKept (h : Acted w w' c ms rs) (d : Nat) {f : Core → Core}
    (hf : ∀ k, (f k).courses = k.courses ∧ (f k).blocks = k.blocks ∧ (f k).watches = k.watches ∧ (f k).results = k.results ∧ (f k).accs = k.accs) :
    Acted w (w'.modCore d f) c ms rs := by
  obtain ⟨hcourses, hblocks, hwatches, hresults, haccs⟩ := hf (w'.core d)
  exact h.modCore d ⟨hcourses, hblocks, hwatches, by rw [hresults, List.append_nil], by rw [haccs]⟩

theorem Acted.write (h : Acted w w' c ms rs) (st : Store) (k : Nat) (bs : List Byte) :
    Acted w (w'.write st k bs) c (ms ++ [.bytes st k bs]) rs where
  out := by rw [World.write, h.out, List.append_assoc]
  cores := h.cores

theorem map_id_replace (l : List Access) (p : Access → Bool) (f : Access → Access) (hf : ∀ x, p x = true → (f x).id = x.id) :
    (l.map fun x => if p x then f x else x).map Access.id = l.map Access.id := by
  rw [List.map_map]
  refine List.map_congr_left fun x _ => ?_
  by_cases hp : p x = true
  · simp [hp, hf x hp]
  · simp [hp]

theorem Acted.setAcc (h : Acted w w' c ms rs) (x : Access) : Acted w (setAcc w' c x) c ms rs := by
  refine h.modCore c ⟨rfl, rfl, rfl, (List.append_nil _).symm, ?_⟩
  have := map_id_replace (w'.core c).accs (fun y => decide (y.id = x.id)) (fun _ => x) (fun y hy => (of_decide_eq_true hy).symm)
  simpa only [decide_eq_true_eq] using this

/-- A record that replaces one of the core's is there. -/
theorem Acted.mem_setAcc (h : Acted w w' c ms rs) {x : Access} (hx : x.id ∈ (w.core c).accs.map Access.id) :
    x ∈ ((Machine.setAcc w' c x).core c).accs := by
  rw [← (h.cores c).ids] at hx
  obtain ⟨y, hy, he⟩ := List.mem_map.mp hx
  rw [Machine.setAcc, core_modCore_same]
  exact List.mem_map.mpr ⟨y, hy, if_pos he⟩

theorem Acted.touchSample (h : Acted w w' c ms rs) (seq : Nat) (f : Sample → Sample) : Acted w (touchSample w' c seq f) c ms rs := by
  simp only [Machine.touchSample]
  split
  · exact h.modCoreKept c (f := fun k => { k with samples := k.samples.map fun x => if x.seq = seq then f x else x })
      fun _ => ⟨rfl, rfl, rfl, rfl, rfl⟩
  · exact h

theorem Acted.countAct (h : Acted w w' c ms rs) (o : Nat) (f : Activity → Activity) : Acted w (countAct w' c o f) c ms rs :=
  h.modCoreKept c fun _ => ⟨rfl, rfl, rfl, rfl, rfl⟩

theorem Acted.modSashOf (h : Acted w w' c ms rs) (d : Nat) (f : Sash → Sash) : Acted w (modSashOf w' d f) c ms rs :=
  h.ofCores (modSashOf_out ..) (modSashOf_cores ..)

theorem Acted.clearCause (h : Acted w w' c ms rs) (src : CauseBy) : Acted w (clearCause w' c src) c ms rs := h.modSashOf c _

theorem Acted.reserve (h : Acted w w' c ms rs) (r : Reserve) : Acted w (w'.modCore c fun k => { k with resv := k.resv ++ [r] }) c ms rs :=
  h.modCoreKept c fun _ => ⟨rfl, rfl, rfl, rfl, rfl⟩

theorem logFree_kept (k : Core) (beat : Bool) (id : Nat) : (k.logFree beat id).courses = k.courses ∧ (k.logFree beat id).blocks = k.blocks ∧
    (k.logFree beat id).watches = k.watches ∧ (k.logFree beat id).results = k.results ∧ (k.logFree beat id).accs = k.accs := by
  unfold Core.logFree
  split <;> exact ⟨rfl, rfl, rfl, rfl, rfl⟩

theorem Acted.doneAcc (h : Acted w w' c ms rs) (a : Access) (vcc extra : Nat) : Acted w (doneAcc w' c a vcc extra) c ms rs :=
  (((h.touchSample ..).setAcc _).modCoreKept c fun k => logFree_kept k false a.id).clearCause _

/-- The result of an access, with the next number of its core. -/
def landed (k : Core) (a : Access) (v : W64) (fl : FpFlags) : Result :=
  { id := k.nextId, seq := a.seq, owner := a.owner, cr := a.cr, ready := a.due, writes := dstWrites a.dst a.lane v, flags := fl
    pc := a.pc, word := a.word }

theorem Acted.landResult (h : Acted w w' c ms rs) (a : Access) (v : W64) (fl : FpFlags) :
    ∃ n, Acted w (landResult w' c a v fl) c ms (rs ++ [{ landed {} a v fl with id := n }]) := by
  have ht := h.touchSample a.seq fun x => { x with level := levelOf a c }
  refine ⟨((Machine.touchSample w' c a.seq fun x => { x with level := levelOf a c }).core c).nextId, ht.out, fun n => ?_⟩
  by_cases hn : n = c
  · subst hn
    have hk := ht.cores n
    rw [if_pos rfl] at hk ⊢
    rw [Machine.landResult, pushResult, core_modCore_same]
    exact ⟨hk.courses, hk.blocks, hk.watches, by rw [hk.results, List.append_assoc]; rfl, hk.ids⟩
  · have hk := ht.cores n
    rw [if_neg hn] at hk ⊢
    rw [Machine.landResult, pushResult, core_modCore_other _ _ hn]
    exact hk

/-- Loads that wait keep the bytes that a write replaces, and nothing else changes. -/
theorem Acted.keepOld (h : Acted w w' c ms rs) (d cyc : Nat) (st : Store) (k n : Nat) : Acted w (keepOld w' d cyc st k n) c ms rs := by
  unfold Machine.keepOld keepBytes
  generalize ((List.range n).map fun i => (st, k + i, w'.mem.byte st (k + i))) = old
  split
  · exact h
  · next x hx =>
    clear hx
    generalize x.cores = l
    induction l generalizing w' with
    | nil => exact h
    | cons y r ih =>
      rw [List.foldl_cons]
      refine ih ?_
      dsimp only
      split
      · refine h.modCore y (f := fun k => { k with accs := k.accs.map fun a => if a.stale cyc then { a with shadow := a.shadow ++ old } else a })
          ⟨rfl, rfl, rfl, (List.append_nil _).symm, ?_⟩
        exact map_id_replace _ (·.stale cyc) _ fun _ _ => rfl
      · exact h

/-- A write at a home. -/
theorem Acted.homeWrite (h : Acted w w' c ms rs) (d cyc : Nat) (st : Store) (k : Nat) (bs : List Byte) :
    ∃ l, Puts l st k bs ∧ Acted w (homeWrite w' d cyc st k bs) c (ms ++ l) rs := by
  unfold Machine.homeWrite
  split
  · next hbs => exact ⟨[], .inr ⟨List.isEmpty_iff.mp hbs, rfl⟩, by rwa [List.append_nil]⟩
  · exact ⟨_, .inl rfl, ((h.keepOld ..).write ..).ofCores rfl rfl⟩

/-- A write of a tile store. -/
theorem Acted.tileWrite (h : Acted w w' c ms rs) (st : Store) (k : Nat) (bs : List Byte) :
    Acted w (tileWrite w' st k bs) c (ms ++ [.bytes st k bs]) rs := by
  unfold Machine.tileWrite
  refine Acted.write (h.modCoreKept _ ?_) ..
  exact fun _ => ⟨rfl, rfl, rfl, rfl, rfl⟩

/-- A core that watches nothing reports nothing. -/
theorem watchLane_none (h : (w.core c).watches = []) (a : Access) (wr : Bool) (off bits : Nat) : watchLane w c a wr off bits = w := by
  simp [watchLane, watchAccess, h]

theorem Acted.unwatched (h : Acted w w' c ms rs) (hw : (w.core c).watches = []) : (w'.core c).watches = [] := (h.cores c).watches.trans hw

/-! ## Back in a state -/

theorem Acted.courses (h : Acted (enter s) w c ms rs) : CoursesStand s (commit s w) :=
  ⟨fun n o r => congrArg (Tab.find · (32 * o + r)) (h.cores n).courses, fun n o => congrArg (Tab.find · o) (h.cores n).blocks⟩

theorem Acted.mem (h : Acted (enter s) w c ms rs) : (commit s w).mem = s.mem.applyAll ms := by
  rw [commit_mem, h.out]; rfl

theorem Acted.sameBytes (h : Acted (enter s) w c [] rs) : SameBytes s (commit s w) := sameBytes_commit h.out

/-- The value is on its way to the destination of an access that its core has. -/
theorem Acted.delivers {v n : Nat} {fl : FpFlags} (h : Acted (enter s) w c ms [{ landed {} a (BitVec.ofNat 64 v) fl with id := n }])
    (ha : a ∈ (Say.core s c).accs) : Delivers s (commit s w) c a v fl := by
  have hk := h.cores c
  rw [if_pos rfl] at hk
  refine ⟨⟨_, hk.results, rfl, rfl, rfl, rfl, rfl⟩, ?_⟩
  have hid : a.id ∈ (w.core c).accs.map Access.id := by rw [hk.ids]; exact List.mem_map_of_mem ha
  obtain ⟨y, hy, he⟩ := List.mem_map.mp hid
  exact ⟨y, hy, he⟩

/-- After writes of the bytes of a number the stretch stands for it. -/
theorem Acted.little {l : List MemWrite} {st : Store} {k n v : Nat} (h : Acted (enter s) w c l rs) (hl : Puts l st k (leBytes n v))
    (hv : v < 2 ^ (8 * n)) : Little (commit s w) st k n v := by
  refine ⟨hv, fun i hi => ?_⟩
  rw [h.mem, hl.byte_same s.mem (by simpa using hi), getElem_leBytes]

/-- And its bytes are there, if the number is longer. -/
theorem Acted.byte_same {l : List MemWrite} {st : Store} {k n v i : Nat} (h : Acted (enter s) w c l rs) (hl : Puts l st k (leBytes n v))
    (hi : i < n) : ((commit s w).mem.byte st (k + i)).toNat = v / 2 ^ (8 * i) % 2 ^ 8 := by
  rw [h.mem, hl.byte_same s.mem (by simpa using hi), getElem_leBytes]

theorem Acted.byte_other {l : List MemWrite} {st t : Store} {k n v x : Nat} (h : Acted (enter s) w c l rs) (hl : Puts l st k (leBytes n v))
    (hx : ¬ (t = st ∧ k ≤ x ∧ x < k + n)) : (commit s w).mem.byte t x = s.mem.byte t x := by
  rw [h.mem, hl.byte_other s.mem (by simpa using hx)]

end Sys2Proof.Machine

/-! SUPPORT. Accesses at their homes and in the tile store (R180, R190, R198 to R202): which branch of the model an access takes that nothing
holds back. -/

namespace Sys2Proof.Machine

open Sys2Proof.Say

variable {s : State} {w w' : World} {c aid : Nat} {a : Access} {b : Block} {l : Leaf}

/-! ## The new value of an atomic (R198, R201) -/

/-- The model's new value is the statements', on operands of the width. -/
theorem rmwEval_eq_newValue (op : RmwOp) {n old v : Nat} (new : Nat) (hn : 0 < n) (hn' : n ≤ 64) (hold : old < 2 ^ n) (hv : v < 2 ^ n) :
    rmwEval op n old v new = newValue op n old v new := by
  have hwide : 2 ^ n ≤ 2 ^ 64 := Nat.pow_le_pow_right (by decide) hn'
  have hword : ∀ x, x < 2 ^ n → (BitVec.ofNat 64 x).toNat = x := fun x hx => by
    rw [BitVec.toNat_ofNat, Nat.mod_eq_of_lt (hx.trans_le hwide)]
  have hunsigned : ∀ x, x < 2 ^ n → low n true (BitVec.ofNat 64 x) = x := fun x hx => by
    rw [low_unsigned, hword x hx, Nat.mod_eq_of_lt hx]
  have hsigned : ∀ x, x < 2 ^ n → toSigned n x = low n false (BitVec.ofNat 64 x) := fun x hx => by
    rw [← toSigned_eq_low n _ hn, hword x hx]
  cases op with
  | min u | max u =>
    cases u
    · simp only [rmwEval, newValue, Bool.false_eq_true, if_false, hsigned _ hold, hsigned _ hv]
    · simp only [rmwEval, newValue, if_true, hunsigned _ hold, hunsigned _ hv, Nat.cast_le, min_def, max_def]
  | add | and | or | xor | exch | cas => rfl

/-- And it is of the width. -/
theorem newValue_lt (op : RmwOp) {n old v new : Nat} (hold : old < 2 ^ n) (hv : v < 2 ^ n) (hnew : new < 2 ^ n) :
    newValue op n old v new < 2 ^ n := by
  cases op with
  | add => exact Nat.mod_lt _ (Nat.two_pow_pos n)
  | min u | max u => simp only [newValue]; split <;> assumption
  | and => exact Nat.and_lt_two_pow old hv
  | or => exact Nat.or_lt_two_pow hold hv
  | xor => exact Nat.xor_lt_two_pow hold hv
  | exch => exact hv
  | cas => simp only [newValue]; split <;> assumption

/-- The model's new element of a tile atomic is the statements', on words. -/
theorem tatomEval_value (op : RmwOp) (fmt : Nat) {old v : Nat} (new : Nat) (hold : old < 2 ^ 32) (hv : v < 2 ^ 32) :
    TileValue op fmt old v new (tatomEval op fmt old v new) := by
  have heq := fun op => rmwEval_eq_newValue op new (by decide : 0 < 32) (by decide) hold hv
  by_cases hf : fmt = 4
  · cases op with
    | add => simp only [TileValue, tatomEval, if_pos hf]; exact addF_sum ..
    | min u | max u => simp only [TileValue, tatomEval, if_pos hf]; exact minmaxF_lesser ..
    | and | or | xor | exch | cas => simp only [TileValue, tatomEval, if_pos hf, heq]
  · cases op with
    | add | min u | max u => simp only [TileValue, tatomEval, if_neg hf, heq]
    | and | or | xor | exch | cas => simp only [TileValue, tatomEval, if_neg hf, heq]

/-! ## The home of an access (R184, R311) -/

/-- Key of an access's first byte in the memory of its home. -/
def homeKey (a : Access) (l : Leaf) : Nat := dramKey a.home (l.frame + a.addr.toNat % pageBytes l.large)

/-- A page lies within a die's part of fabric space, so its offset is that of the address. -/
theorem off_mod_pageBytes (b : Block) (large : Bool) (hspace : a.space = .die ∨ a.space = .fab) :
    a.off b % pageBytes large = a.addr.toNat % pageBytes large := by
  obtain h | h := hspace <;> simp only [Access.off, h]
  exact Nat.mod_mod_of_dvd _ (by cases large <;> decide)

/-- An access to die or fabric space that nothing holds back, in a free launch of a die that neither records nor replays; its core has
no watch. -/
structure Reaches (s : State) (c aid : Nat) (a : Access) (b : Block) (l : Leaf) : Prop where
  acc : (Say.core s c).accs.find? (fun a => decide (a.id = aid)) = some a
  block : Say.block s c a.owner = some b
  undone : a.done = none
  space : a.space = .die ∨ a.space = .fab
  near : a.cross = false
  early : a.late = false
  xl : a.xl = .ok l
  marks : ∀ m ∈ a.marks, markMet (enter s) c (vcc s c) m = true ∧ markStaged (enter s) c a.owner m = false
  page : l.refuses a.kind.use a.pv false = false
  dram : l.host = false
  free : b.hdr.timed = false
  loose : b.hdr.determ = false
  plain : (Say.die s (dieOf c)).recMode = 0
  unwatched : (Say.core s c).watches = []

theorem Reaches.ofUnheld {use : AccessUse} (h : Unheld s c aid a b l use) (huse : a.kind.use = use) : Reaches s c aid a b l := by
  obtain ⟨hacc, hblock, ⟨hdone, hspace, hcross, hlate, hxl⟩, hmarks, ⟨hpage, hhost⟩, hfree, hloose, -, hplain, hwatch, -⟩ := h
  exact ⟨hacc, hblock, hdone, hspace, hcross, hlate, hxl, hmarks, by rwa [huse], hhost, hfree, hloose, hplain, hwatch⟩

/-- A core of a die that neither records nor replays makes no chunks. -/
theorem recording_plain (h : (w.die (dieOf c)).recMode = 0) (timed : Bool) : Machine.recording w c timed = false := by
  simp [Machine.recording, replayEntry, h]

/-- A read of a block with nothing staged meets the poison at its home alone. -/
theorem poisonedRead_unstaged (w : World) {st : Store} {k n : Nat} (cyc : Nat) (hb : b.staged = []) (h : w.mem.poisoned st k n = false) :
    poisonedRead w b st k n cyc = false := by
  simp only [poisonedRead, stagedAt, hb, List.foldl_nil, List.any_eq_false, List.mem_range, Bool.not_eq_true]
  exact fun i hi => (poisoned_eq_false_iff w.mem st k n (Nat.zero_lt_of_lt hi)).mp h i hi

/-- A translated access that no mark holds, whose page is open and in the DRAM of its home, and which meets no poison, acts. -/
theorem applyDie_open {st : Store} {k : Nat} (hxl : a.xl = .ok l) (hmarks : a.marks.find? (fun m => !markMet w c (vccOf w c) m) = none)
    (hlate : a.late = false) (hpage : l.refuses a.kind.use a.pv (decide (a.space = .lane)) = false) (hhost : l.host = false)
    (hplace : l.place a.home (a.off b) = (st, k)) (hpoison : a.kind = .store ∨ poisonedRead w b st k a.size a.cyc = false) :
    applyDie w c b a = actAccess w c b a st k (a.off b) (vccOf w c) := by
  have hneed : ¬ a.xl = .need := by rw [hxl]; exact Xlate.noConfusion
  unfold applyDie
  rw [if_neg hneed]
  dsimp only
  rw [hmarks]
  dsimp only
  rw [hlate, if_neg Bool.false_ne_true, hxl]
  dsimp only
  rw [hplace, hpage, hhost, Bool.and_false, Bool.false_and, if_neg Bool.false_ne_true, if_neg Bool.false_ne_true]
  obtain hk | hp := hpoison
  · rw [decide_eq_false (not_not.mpr hk), Bool.false_and, Bool.false_and, if_neg Bool.false_ne_true]
  · rw [hp, Bool.and_false, if_neg Bool.false_ne_true]

/-- In a free launch without determinism, on a die that neither records nor replays, an access that does not cross acts at its home. -/
theorem actAccess_free {st : Store} {k off vcc : Nat} (hloose : b.hdr.determ = false) (hplain : (w.die (dieOf c)).recMode = 0)
    (hnear : a.cross = false) :
    actAccess w c b a st k off vcc = actHome w c b a st k off vcc := by
  simp only [actAccess, hloose, Bool.and_false, Bool.false_and, Bool.false_eq_true, if_false, actRecorded, recording_plain hplain, Bool.not_false,
    Bool.true_or, if_true, actNow, hnear]

/-- Such an access acts at its home in this cycle. -/
theorem Reaches.acts (h : Reaches s c aid a b l)
    (hsound : a.kind = .store ∨ b.staged = [] ∧ s.mem.poisoned .dram (homeKey a l) a.size = false) :
    exec (.memoryAccessApply c aid) s = .next (commit s (actHome (enter s) c b a .dram (homeKey a l) (a.off b) (vcc s c))) := by
  have hacc : ((enter s).core c).accs.find? (fun a => decide (a.id = aid)) = some a := h.acc
  have hblock : (enter s).block? c a.owner = some b := h.block
  have happly : applyAccess c aid (enter s) = applyDie (enter s) c b a := by
    obtain hs | hs := h.space <;> simp [applyAccess, hacc, hblock, h.undone, hs]
  have hplace : l.place a.home (a.off b) = (.dram, homeKey a l) := by
    simp only [Leaf.place, h.dram, Bool.false_eq_true, if_false, off_mod_pageBytes b l.large h.space]; rfl
  have hmarks : a.marks.find? (fun m => !markMet (enter s) c (vccOf (enter s) c) m) = none := List.find?_eq_none.mpr fun m hm => by
    have hmet : markMet (enter s) c (vccOf (enter s) c) m = true := (h.marks m hm).1
    simp [hmet]
  have hlane : decide (a.space = .lane) = false := by obtain hs | hs := h.space <;> simp [hs]
  have hpage : l.refuses a.kind.use a.pv (decide (a.space = .lane)) = false := by rw [hlane]; exact h.page
  have hpoison := hsound.imp_right fun ⟨hb, hp⟩ => poisonedRead_unstaged (enter s) a.cyc hb hp
  change Host.Outcome.next (commit s (applyAccess c aid (enter s))) = _
  rw [happly, applyDie_open h.xl hmarks h.early hpage h.dram hplace hpoison, actAccess_free h.loose h.plain h.near]
  rfl

/-- It is one of its core's. -/
theorem Reaches.mem (h : Reaches s c aid a b l) : a ∈ (Say.core s c).accs := List.mem_of_find?_eq_some h.acc

/-- A store writes its bytes (R180). -/
theorem Reaches.store (h : Reaches s c aid a b l) (hkind : a.kind = .store) : ∃ w ms, exec (.memoryAccessApply c aid) s = .next (commit s w) ∧
    Puts ms .dram (homeKey a l) (leBytes a.size a.data.toNat) ∧ Acted (enter s) w c ms [] := by
  have he := h.acts (.inl hkind)
  obtain ⟨ms, hputs, hw⟩ := (Acted.start (enter s) c).homeWrite c a.cyc .dram (homeKey a l) (leBytes a.size a.data.toNat)
  refine ⟨_, ms, he, hputs, ?_⟩
  simp only [actHome, hkind, writeHome, h.free, Bool.false_and, Bool.false_eq_true, if_false, watchLane_none (hw.unwatched h.unwatched)]
  exact hw.doneAcc ..

/-- A load of a block with nothing staged reads the bytes of its home (R179). -/
theorem readHome_plain (hplain : (w.die (dieOf c)).recMode = 0) (hshadow : a.shadow = []) (hstaged : b.staged = []) (st : Store) (k n : Nat) :
    readHome w c b a st k n = (w, w.mem.bytes st k n) := by
  simp [readHome, recording_plain hplain, hshadow, stagedAt, hstaged, List.mapIdx_eq_zipIdx_map]

/-- A load delivers the number that its bytes stand for. -/
theorem Reaches.load (h : Reaches s c aid a b l) (hkind : a.kind = .load) (hshadow : a.shadow = []) (hstaged : b.staged = [])
    (hsound : s.mem.poisoned .dram (homeKey a l) a.size = false) : ∃ w n, exec (.memoryAccessApply c aid) s = .next (commit s w) ∧
    Acted (enter s) w c [] [{ landed {} a (BitVec.ofNat 64 (leNat (s.mem.bytes .dram (homeKey a l) a.size))) 0 with id := n }] := by
  have he := h.acts (.inr ⟨hstaged, hsound⟩)
  obtain ⟨n, hw⟩ := (Acted.start (enter s) c).landResult a (BitVec.ofNat 64 (leNat (s.mem.bytes .dram (homeKey a l) a.size))) 0
  refine ⟨_, n, he, ?_⟩
  have hread := readHome_plain (w := enter s) (a := a) h.plain hshadow hstaged .dram (homeKey a l) a.size
  simp only [actHome, hkind, hread, watchLane_none (w := enter s) h.unwatched, reduceCtorEq, if_false, h.near, Bool.false_eq_true]
  exact hw.doneAcc ..

/-- An atomic writes the new value and delivers the old one (R202). -/
theorem Reaches.rmw {op : RmwOp} {w64 : Bool} (h : Reaches s c aid a b l) (hkind : a.kind = .rmw op w64) (hstaged : b.staged = [])
    (hsound : s.mem.poisoned .dram (homeKey a l) a.size = false) :
    let old := leNat (s.mem.bytes .dram (homeKey a l) a.size)
    ∃ w ms n, exec (.memoryAccessApply c aid) s = .next (commit s w) ∧
      Puts ms .dram (homeKey a l) (leBytes a.size (rmwEval op (8 * a.size) old a.data.toNat a.data2.toNat)) ∧
      Acted (enter s) w c ms [{ landed {} a (BitVec.ofNat 64 old) 0 with id := n }] := by
  intro old
  have he := h.acts (.inr ⟨hstaged, hsound⟩)
  obtain ⟨ms, hputs, hw⟩ := (Acted.start (enter s) c).homeWrite c a.cyc .dram (homeKey a l)
    (leBytes a.size (rmwEval op (8 * a.size) old a.data.toNat a.data2.toNat))
  obtain ⟨n, hw'⟩ := hw.landResult a (BitVec.ofNat 64 old) 0
  refine ⟨_, ms, n, he, hputs, ?_⟩
  simp only [actHome, hkind, actAtomic, h.free, Bool.false_eq_true, if_false]
  have hwatch := watchLane_none (hw.unwatched h.unwatched) a true (a.off b) 0
  simp only [enter_mem]
  rw [hwatch]
  exact hw'.doneAcc ..

/-! ## The tile store and the accumulator (R190, R198 to R200) -/

/-- A tile access that nothing holds back; its core has no watch. -/
structure ReachesTile (s : State) (c aid : Nat) (a : Access) (b : Block) : Prop where
  acc : (Say.core s c).accs.find? (fun a => decide (a.id = aid)) = some a
  block : Say.block s c a.owner = some b
  undone : a.done = none
  space : a.space = .ts ∨ a.space = .acc
  xl : a.xl = .bad 0
  unwatched : (Say.core s c).watches = []
  marks : ∀ m ∈ a.marks, markMet (enter s) c (vcc s c) m = true ∧ markStaged (enter s) c a.owner m = false
  alone : a.space = .ts → collides (enter s) c a (vcc s c) = false

theorem ReachesTile.mem (h : ReachesTile s c aid a b) : a ∈ (Say.core s c).accs := List.mem_of_find?_eq_some h.acc
theorem ReachesTile.id (h : ReachesTile s c aid a b) : a.id = aid :=
  of_decide_eq_true (List.find?_some (p := fun a : Access => decide (a.id = aid)) h.acc)

/-- It acts in this cycle as its kind says. -/
theorem ReachesTile.acts (h : ReachesTile s c aid a b) : exec (.memoryAccessApply c aid) s = .next (commit s (applyTile (enter s) c b a)) := by
  have hacc : ((enter s).core c).accs.find? (fun a => decide (a.id = aid)) = some a := h.acc
  have hblock : (enter s).block? c a.owner = some b := h.block
  change Host.Outcome.next (commit s (applyAccess c aid (enter s))) = _
  obtain hs | hs := h.space <;> simp [applyAccess, hacc, hblock, h.undone, hs]

theorem ReachesTile.markless (h : ReachesTile s c aid a b) :
    a.marks.find? (fun m => !markMet (enter s) c (vccOf (enter s) c) m || markStaged (enter s) c a.owner m) = none :=
  List.find?_eq_none.mpr fun m hm => by
    obtain ⟨hmet, hstaged⟩ := h.marks m hm
    have hmet : markMet (enter s) c (vccOf (enter s) c) m = true := hmet
    simp [hmet, hstaged]

theorem ReachesTile.clear (h : ReachesTile s c aid a b) : (decide (a.space = .ts) && collides (enter s) c a (vccOf (enter s) c)) = false := by
  by_cases hs : a.space = .ts
  · have := h.alone hs
    rw [show collides (enter s) c a (vccOf (enter s) c) = false from this, Bool.and_false]
  · rw [decide_eq_false hs, Bool.false_and]

/-- A tile load delivers the number that its bytes stand for. -/
theorem ReachesTile.load (h : ReachesTile s c aid a b) (hkind : a.kind = .load) (hsound : s.mem.poisoned (tileStore a) (tileKey c a) a.size = false) :
    ∃ w n, exec (.memoryAccessApply c aid) s = .next (commit s w) ∧
      Acted (enter s) w c [] [{ landed {} a (BitVec.ofNat 64 (leNat (s.mem.bytes (tileStore a) (tileKey c a) a.size))) 0 with id := n }] := by
  obtain ⟨n, hw⟩ := (Acted.start (enter s) c).landResult a (BitVec.ofNat 64 (leNat (s.mem.bytes (tileStore a) (tileKey c a) a.size))) 0
  refine ⟨_, n, h.acts, ?_⟩
  have hbad : ¬ a.xl = .bad 0x09 := by rw [h.xl]; decide
  have hsound : (enter s).mem.poisoned (tileStore a) (tileKey c a) a.size = false := hsound
  simp only [applyTile, h.markless, if_neg hbad, h.clear, Bool.false_eq_true, if_false, hkind, hsound,
    watchLane_none (w := enter s) h.unwatched]
  exact (hw.countAct ..).doneAcc ..

/-- A tile store writes its bytes. -/
theorem ReachesTile.store (h : ReachesTile s c aid a b) (hkind : a.kind = .store) :
    ∃ w ms, exec (.memoryAccessApply c aid) s = .next (commit s w) ∧ Puts ms (tileStore a) (tileKey c a) (leBytes a.size a.data.toNat) ∧
      Acted (enter s) w c ms [] := by
  have hw := (Acted.start (enter s) c).tileWrite (tileStore a) (tileKey c a) (leBytes a.size a.data.toNat)
  refine ⟨_, _, h.acts, .inl rfl, ?_⟩
  have hbad : ¬ a.xl = .bad 0x09 := by rw [h.xl]; decide
  simp only [applyTile, h.markless, if_neg hbad, h.clear, Bool.false_eq_true, if_false, hkind, watchLane_none (hw.unwatched h.unwatched)]
  exact (hw.countAct ..).doneAcc ..

/-- With no other tile atomic of the core between its halves, none has been read at the same address. -/
theorem noneBefore {l : List Access} (p : Access → Bool) (h : ∀ x ∈ l, x.id ≠ aid → x.logged = false) (hid : a.id = aid) :
    (sortBy accBefore (l.filter fun x => p x && x.logged && x.done.isNone && decide (x.id ≠ a.id))).getLast? = none := by
  have hnil : (l.filter fun x => p x && x.logged && x.done.isNone && decide (x.id ≠ a.id)) = [] :=
    List.filter_eq_nil_iff.mpr fun x hx => by
      by_cases hne : x.id = a.id
      · simp [hne]
      · simp [h x hx (hid ▸ hne)]
  rw [hnil]; rfl

/-- The access between its halves: it keeps the new element for the write half. -/
def halfDone (a : Access) (new vcc : Nat) : Access := { a with logged := true, data := BitVec.ofNat 64 new, cyc := vcc + 2 }

/-- The read half of a tile atomic delivers the old element and keeps the new one (R198, R199). -/
theorem ReachesTile.tread {op : RmwOp} {fmt : Nat} (h : ReachesTile s c aid a b) (hkind : a.kind = .tread op fmt)
    (hsound : s.mem.poisoned (tileStore a) (tileKey c a) 4 = false) (hfirst : ∀ x ∈ (Say.core s c).accs, x.id ≠ aid → x.logged = false) :
    let old := leNat (s.mem.bytes (tileStore a) (tileKey c a) 4)
    let r := tatomEval op fmt old a.data.toNat (a.data2.toNat % 2 ^ 32)
    ∃ w n, exec (.memoryAccessApply c aid) s = .next (commit s w) ∧
      Acted (enter s) w c [] [{ landed {} a (BitVec.ofNat 64 old) r.2 with id := n }] ∧ halfDone a r.1 (vcc s c) ∈ (w.core c).accs := by
  intro old r
  obtain ⟨n, hw⟩ := ((Acted.start (enter s) c).countAct a.owner (·.bytes 8)).landResult a (BitVec.ofNat 64 old) r.2
  have hw := hw.reserve { bank := bankOf a.addr.toNat, cyc := vcc s c, str := a.str, lane := a.lane, seq := a.seq }
  refine ⟨_, n, h.acts, ?_⟩
  have hbad : ¬ a.xl = .bad 0x09 := by rw [h.xl]; decide
  have hsound : (enter s).mem.poisoned (tileStore a) (tileKey c a) 4 = false := hsound
  have hprev := noneBefore (a := a) (fun x => decide (x.space = .ts) && decide (x.addr = a.addr) && decide (x.str = a.str)) hfirst h.id
  have hprev : (sortBy accBefore (((enter s).core c).accs.filter fun x => decide (x.space = .ts) && decide (x.addr = a.addr) &&
    decide (x.str = a.str) && x.logged && x.done.isNone && decide (x.id ≠ a.id))).getLast? = none := hprev
  simp only [applyTile, h.markless, if_neg hbad, h.clear, Bool.false_eq_true, if_false, hkind, hsound, hprev,
    watchLane_none (w := enter s) h.unwatched]
  rw [← hkind]
  refine ⟨hw.setAcc _, ?_⟩
  exact hw.mem_setAcc (x := halfDone a r.1 (vcc s c)) (List.mem_map.mpr ⟨a, h.mem, rfl⟩)

end Sys2Proof.Machine

/-! SUPPORT. A lane of a multicast (R187): the accesses that it puts into its core. -/

namespace Sys2Proof.Machine

open Sys2Proof.Say

variable {s : State} {w w' : World} {c : Nat} {l : List Access}

/-! ## Accesses that join a core -/

/-- `w'` is `w` with the accesses `l` in core `c`; no byte, no course, no block and no result has changed. -/
structure Joins (w w' : World) (c : Nat) (l : List Access) : Prop where
  out : w'.out = w.out
  others : ∀ n, n ≠ c → w'.core n = w.core n
  courses : (w'.core c).courses = (w.core c).courses
  blocks : (w'.core c).blocks = (w.core c).blocks
  results : (w'.core c).results = (w.core c).results
  accs : (w'.core c).accs = (w.core c).accs ++ l

theorem LanesMove.joins (h : LanesMove w w' c []) : Joins w w' c [] := by
  refine ⟨h.out, h.cores, ?_, ?_, ?_, ?_⟩ <;> rw [h.own]
  · exact List.append_nil _
  · exact (List.append_nil _).symm

/-- One access more. -/
theorem Joins.append (h : Joins w w' c l) (a : Access) (n : Nat) :
    Joins w (w'.modCore c fun k => { k with accs := k.accs ++ [a], nextId := n }) c (l ++ [a]) where
  out := h.out
  others m hm := by rw [core_modCore_other _ _ hm, h.others m hm]
  courses := by rw [core_modCore_same]; exact h.courses
  blocks := by rw [core_modCore_same]; exact h.blocks
  results := by rw [core_modCore_same]; exact h.results
  accs := by rw [core_modCore_same, ← List.append_assoc, ← h.accs]

/-- A fabric access joins as it is; its translation begins on its arrival (R315). -/
theorem Joins.addAccess (h : Joins w w' c l) (a : Access) (off : Nat) (use : AccessUse) (l1 : Bool) (hspace : a.space = .fab) :
    Joins w (addAccess w' c a off use l1) c (l ++ [a]) := by
  have hcharge (u : Charge) : Joins w (charge w' u) c l := ⟨h.out, h.others, h.courses, h.blocks, h.results, h.accs⟩
  unfold Machine.addAccess
  split
  · next hxl =>
    have hsame : { a with xl := Xlate.need } = a := by rw [← hxl]
    simp only [if_pos hspace, hsame]
    exact (hcharge _).append a _
  · exact h.append a _

/-- Accesses that join one by one, for the numbers of a list that are chosen. -/
theorem Joins.foldl {σ : Type} {step : World → Nat → World} {p : Nat → Bool} {shape : Access → σ} {g : Nat → σ}
    (hstep : ∀ w' l d, Joins w w' c l → p d = true → ∃ x, Joins w (step w' d) c (l ++ [x]) ∧ shape x = g d)
    (hskip : ∀ w' d, p d = false → step w' d = w') (ds : List Nat) (h : Joins w w' c l) :
    ∃ l', Joins w (ds.foldl step w') c (l ++ l') ∧ l'.map shape = (ds.filter p).map g := by
  induction ds generalizing w' l with
  | nil => exact ⟨[], by rwa [List.append_nil], rfl⟩
  | cons d r ih =>
    rw [List.foldl_cons]
    cases hp : p d with
    | false =>
      rw [hskip w' d hp, List.filter_cons_of_neg (by simp [hp])]
      exact ih h
    | true =>
      obtain ⟨x, hx, hshape⟩ := hstep w' l d h hp
      obtain ⟨l', hl', hmap⟩ := ih hx
      refine ⟨x :: l', by simpa using hl', ?_⟩
      rw [List.filter_cons_of_pos hp, List.map_cons, List.map_cons, hshape, hmap]

/-- Back in a state. -/
theorem Joins.stands (h : Joins (enter s) w c l) : SameBytes s (commit s w) ∧ CoursesStand s (commit s w) := by
  have hcore : ∀ n, (w.core n).courses = ((enter s).core n).courses ∧ (w.core n).blocks = ((enter s).core n).blocks := fun n => by
    by_cases hn : n = c
    · subst hn; exact ⟨h.courses, h.blocks⟩
    · rw [h.others n hn]; exact ⟨rfl, rfl⟩
  exact ⟨sameBytes_commit h.out, fun n o r => congrArg (Tab.find · (32 * o + r)) (hcore n).1, fun n o => congrArg (Tab.find · o) (hcore n).2⟩

/-! ## A multicast (R187) -/

/-- What the statement says of an access that a lane formed. -/
def accShape (a : Access) : AccKind × Space × Int × Nat × Nat × Nat := (a.kind, a.space, a.addr, a.size, a.data.toNat, a.lane)

/-- Address of the replica for a die. -/
def replicaAddr (x d : Nat) : Int := ((if x < 2 ^ 57 then x / 2 ^ 48 * 2 ^ 48 + d * 2 ^ 46 + x % 2 ^ 46 else x : Nat) : Int)

@[simp] theorem sizeBytes_eq_bytes (sz : Size) : sizeBytes sz = bytes sz := by cases sz <;> rfl

/-- The data of an access is cut to its size. -/
theorem sizeData_toNat (n : Nat) (v : W64) : (sizeData n v).toNat = v.toNat % 2 ^ (8 * n) := by
  rw [sizeData, BitVec.toNat_ofNat, Nat.mod_eq_of_lt ((Nat.mod_le _ _).trans_lt v.isLt)]

/-- A lane of a multicast to an aligned address forms one fabric store for each die of its mask. -/
theorem joins_formMcast (h : Joins w w' c l) (e : Nat) (b : Block) (k : Course) (f : Flight) (lane : Nat) (mask : BitVec 4) (n : Nat) (data : W64)
    (halign : (k.src lane f.form.a).toNat % n = 0) : ∃ l', Joins w (formMcast w' c e b k f lane mask n data) c (l ++ l') ∧
      l'.map accShape = ((List.range 4).filter fun d => mask.getLsbD d).map fun d =>
        (.store, .fab, replicaAddr (k.src lane f.form.a).toNat d, n, data.toNat % 2 ^ (8 * n), lane) := by
  simp only [formMcast, halign, ne_eq, not_true_eq_false, if_false]
  refine Joins.foldl (fun w' l d h hp => ?step) (fun w' d hp => ?skip) (List.range 4) h
  case step =>
    rw [if_pos hp]
    exact ⟨_, h.addAccess _ _ _ _ rfl, by rw [accShape, sizeData_toNat]; rfl⟩
  case skip => rw [hp, if_neg Bool.false_ne_true]

/-- The dies that a mask of four bits names are no more than four. -/
theorem width_le (mask : BitVec 4) (sz : Size) : (LaneOp.mcast mask sz).width ≤ 4 := List.length_filter_le ..

/-- LANE_EXECUTE of an enabled lane of a multicast whose sources are sound and whose accesses have a place in the operand log. -/
theorem laneExecute_mcast {seq j : Nat} {f : Flight} {b : Block} {k : Course} {mask : BitVec 4} {sz : Size}
    (hf : ((w.core c).flights.find? fun f => decide (f.seq = seq) && decide (f.stride = 1) && decide (f.next = j)) = some f)
    (hb : w.block? c f.owner = some b) (hk : w.course? c f.owner f.cr = some k) (hop : f.form.op = .mcast mask sz)
    (hon : laneOn k f j = true) (hp : laneReadsPoison k f j = false) (hroom : outstanding (w.core c) + 4 ≤ Config.operandLog) :
    ∃ w', Joins w w' c [] ∧ laneExecute c seq j w = formMcast w' c (vccOf w' c) b k f j mask (sizeBytes sz) (k.src j f.form.b) := by
  have h := (((LanesMove.start w c).touchSample f.seq fun x => { x with read := vccOf w c - f.issue, exec := vccOf w c - f.issue }).countAct
    f.owner (·.lane f.form.col)).setFlight { f with next := j + 1 }
  have hfull : ¬ Config.operandLog < outstanding (w.core c) + (LaneOp.mcast mask sz).width := by
    have := width_le mask sz; omega
  refine ⟨_, h.joins, ?_⟩
  simp only [laneExecute, hf, hb, hk, hop, hon, hp, isMemOp, hostTagEnd, laneAct, decide_eq_false hfull, Bool.and_false, Bool.not_true,
    Bool.false_eq_true, if_false, if_true]

end Sys2Proof.Machine

namespace Sys2Proof.Proofs

open Sys2Proof.Machine Sys2Proof.Say

/-- Settles O48: nothing holds the access back, so it takes its own branch of the model, whose writes are the bytes of its number and
whose other work leaves courses and blocks. -/
theorem storeApplies : Obligations.StoreApplies := by
  refine ⟨?store, ?home, ?tile, ?mcast⟩
  case store =>
    intro s c aid a b l hacc hblock hdone hkind hspace hcross hlate hxl hmarks hpage hhost hfree hloose hplain hwatch _ k
    have hr : Reaches s c aid a b l :=
      ⟨hacc, hblock, hdone, hspace, hcross, hlate, hxl, hmarks, by rwa [hkind], hhost, hfree, hloose, hplain, hwatch⟩
    obtain ⟨w, ms, he, hputs, hw⟩ := hr.store hkind
    exact ⟨_, he, fun i hi => hw.byte_same hputs hi, fun st x hx => hw.byte_other hputs hx, hw.courses.1 c, hw.courses.2 c⟩
  case home =>
    intro s c aid a b l hshadow k hsound
    have hlittle := little_bytes s .dram (homeKey a l) a.size
    refine ⟨fun hun hkind => ?load, fun op w64 hun hkind hdata hdata2 hpos => ?atomic⟩
    case load =>
      obtain ⟨-, -, hstaged, -⟩ := hun.plain
      have hr := Reaches.ofUnheld hun (by rw [hkind]; rfl)
      obtain ⟨w, n, he, hw⟩ := hr.load hkind hshadow hstaged hsound
      exact ⟨_, _, he, hw.sameBytes, hw.courses, hlittle, hw.delivers hr.mem⟩
    case atomic =>
      obtain ⟨-, -, hstaged, -, -, hsize⟩ := hun.plain
      have hr := Reaches.ofUnheld hun (by rw [hkind]; rfl)
      obtain ⟨w, ms, n, he, hputs, hw⟩ := hr.rmw hkind hstaged hsound
      rw [rmwEval_eq_newValue op _ (by omega) (by omega) hlittle.1 hdata] at hputs
      exact ⟨_, _, _, he, hw.courses, hlittle, rfl, hw.little hputs (newValue_lt op hlittle.1 hdata hdata2),
        fun st x hx => hw.byte_other hputs hx, hw.delivers hr.mem⟩
  case tile =>
    intro s c aid a b hacc hblock hdone hspace hxl hwatch _ hmarks halone st k
    have hr : ReachesTile s c aid a b := ⟨hacc, hblock, hdone, hspace, hxl, hwatch, hmarks, halone⟩
    refine ⟨fun hkind hsound => ?load, fun hkind => ?store, fun op fmt hkind _ hts hsound hfirst hdata => ?tread⟩
    case load =>
      obtain ⟨w, n, he, hw⟩ := hr.load hkind hsound
      exact ⟨_, _, he, hw.sameBytes, hw.courses, little_bytes s st k a.size, hw.delivers hr.mem⟩
    case store =>
      obtain ⟨w, ms, he, hputs, hw⟩ := hr.store hkind
      exact ⟨_, he, hw.courses, fun i hi => hw.byte_same hputs hi, fun t x hx => hw.byte_other hputs hx⟩
    case tread =>
      have hst : tileStore a = .ts := if_pos hts
      have hlittle := little_bytes s .ts k 4
      obtain ⟨w, n, he, hw, hhalf⟩ := hr.tread hkind (hst ▸ hsound) hfirst
      rw [hst] at hw hhalf
      exact ⟨_, _, _, he, hw.sameBytes, hw.courses, hlittle, tatomEval_value op fmt _ hlittle.1 hdata, hw.delivers hr.mem,
        _, hhalf, hr.id, rfl, hdone, rfl, rfl⟩
  case mcast =>
    intro s c seq j f b k mask sz hdue hj hop hlives hsound halign hroom
    obtain ⟨hf, hb, hk⟩ := hdue
    obtain ⟨w, hw, he⟩ := laneExecute_mcast hf hb hk hop (by rwa [laneOn_eq_lives k f hj]) (laneReadsPoison_of_sound hsound) hroom
    obtain ⟨l, hl, hshape⟩ := joins_formMcast hw (vccOf w c) b k f j mask (sizeBytes sz) (k.src j f.form.b)
      (by rwa [sizeBytes_eq_bytes])
    rw [← he, List.nil_append] at hl
    rw [sizeBytes_eq_bytes] at hshape
    exact ⟨commit s (laneExecute c seq j (enter s)), l, rfl, hl.stands.1, hl.stands.2, hl.results, hl.accs, hshape⟩

end Sys2Proof.Proofs

/-! SUPPORT. The checks of an engine command at its issue (R213 to R216): the first of a list of checks that holds, and which check of the
statement each check of the model is. -/

namespace Sys2Proof.Machine

open Sys2Proof.Say

/-! ## The first check that holds -/

/-- Checks in their order, each with what it says of the fault it raises. -/
abbrev Checks := List (Prop × (Nat × Nat × W64 → Prop))

/-- The first check of the list that holds raises `r`. -/
def FirstRaises (l : Checks) (r : Nat × Nat × W64) : Prop :=
  ∃ (n : Nat) (x : Prop × (Nat × Nat × W64 → Prop)), l[n]? = some x ∧ x.1 ∧ x.2 r ∧
    ∀ (m : Nat) (y : Prop × (Nat × Nat × W64 → Prop)), m < n → l[m]? = some y → ¬ y.1

variable {x : Prop × (Nat × Nat × W64 → Prop)} {l : Checks} {r : Nat × Nat × W64} {o : Option (Nat × Nat × W64)}

theorem FirstRaises.head (hx : x.1) (hr : x.2 r) : FirstRaises (x :: l) r :=
  ⟨0, x, rfl, hx, hr, fun _ _ hm => absurd hm (Nat.not_lt_zero _)⟩

theorem firstRaises_cons_of_not (hx : ¬ x.1) : FirstRaises (x :: l) r ↔ FirstRaises l r := by
  constructor
  · rintro ⟨n, y, hy, hholds, hr, hbefore⟩
    cases n with
    | zero =>
      cases hy
      exact absurd hholds hx
    | succ n => exact ⟨n, y, hy, hholds, hr, fun m z hm hz => hbefore (m + 1) z (Nat.succ_lt_succ hm) hz⟩
  · rintro ⟨n, y, hy, hholds, hr, hbefore⟩
    refine ⟨n + 1, y, hy, hholds, hr, fun m z hm hz => ?_⟩
    cases m with
    | zero =>
      cases hz
      exact hx
    | succ m => exact hbefore m z (Nat.lt_of_succ_lt_succ hm) hz

/-- `o` is what the checks of the list raise: the fault of the first that holds, or nothing where none does. -/
structure Decides (l : Checks) (o : Option (Nat × Nat × W64)) : Prop where
  raises : ∀ r, o = some r → FirstRaises l r
  passes : o = none → ∀ r, ¬ FirstRaises l r

theorem Decides.nil : Decides [] none where
  raises _ h := nomatch h
  passes _ _ h := by obtain ⟨n, x, hx, -⟩ := h; cases hx

theorem Decides.head (hx : x.1) (hr : x.2 r) : Decides (x :: l) (some r) where
  raises _ h := by cases h; exact .head hx hr
  passes h := nomatch h

theorem Decides.skip (hx : ¬ x.1) (h : Decides l o) : Decides (x :: l) o where
  raises r hr := (firstRaises_cons_of_not hx).mpr (h.raises r hr)
  passes ho r := fun hr => h.passes ho r ((firstRaises_cons_of_not hx).mp hr)

/-- A check that the model makes in its turn. -/
theorem Decides.check {p : Prop} [Decidable p] (hp : p ↔ x.1) (hr : x.2 r) (h : ¬ x.1 → Decides l o) :
    Decides (x :: l) (if p then some r else o) := by
  by_cases hx : x.1
  · rw [if_pos (hp.mpr hx)]
    exact .head hx hr
  · rw [if_neg (mt hp.mp hx)]
    exact .skip hx (h hx)

/-! ## Undefined values and the names of a descriptor (R213, R214, R216) -/

variable {k : Core} {b : Block} {c : Cmd} {scope sender n : Nat}

/-- The commands whose rows of R214 allow a follow-on. -/
theorem follows_eq (op : CmdOp) : op.follows = decide (op = .fill ∨ op = .fab false ∨ op = .trn false) := by
  cases op with
  | fab out => cases out <;> rfl
  | trn ts => cases ts <;> rfl
  | _ => rfl

/-- The copies between a handle and memory, which have a pitch (R220). -/
theorem pitched_iff {op : CmdOp} : op.pitched = true ↔
    op = .fill ∨ op = .drain ∨ (∃ out, op = .host out) ∨ (∃ out, op = .fab out) ∨ op = .trn false := by
  cases op with
  | trn ts => cases ts <;> simp [CmdOp.pitched]
  | _ => simp [CmdOp.pitched]

theorem cmdUndef_iff : cmdUndef k b c scope = true ↔ unlisted k b c scope := by
  have hthree : c.xp = 3 → c.xp ≠ 0 := by omega
  unfold cmdUndef unlisted
  cases hop : c.op
  case launch => simp
  all_goals
    simp [CmdOp.plain, CmdOp.copies, follows_eq]
    tauto

theorem cmdHandles_eq_named (c : Cmd) : cmdHandles c = named c := by
  unfold cmdHandles named
  cases c.op with
  | mx p => cases p <;> rfl
  | trn ts => cases ts <;> rfl
  | _ => rfl

/-- A tag that the command names is beyond the block's. -/
theorem tagBeyond_iff :
    ((c.tgv && decide (b.hdr.tags ≤ c.tag)) || (decide (c.op ≠ .launch) && c.in0v && decide (b.hdr.tags ≤ c.in0))) = true ↔
    c.tgv = true ∧ b.hdr.tags ≤ c.tag ∨ c.op ≠ .launch ∧ c.in0v = true ∧ b.hdr.tags ≤ c.in0 := by
  simp only [Bool.or_eq_true, Bool.and_eq_true, decide_eq_true_eq, and_assoc]

/-- So is the phaser. -/
theorem phaserBeyond_iff : (decide (c.op ≠ .launch) && c.phv && decide (b.hdr.phasers ≤ c.ph)) = true ↔
    c.op ≠ .launch ∧ c.phv = true ∧ b.hdr.phasers ≤ c.ph := by
  simp only [Bool.and_eq_true, decide_eq_true_eq, and_assoc]

/-! ## Handles (R214, R216, R225 to R230, R233) -/

/-- A handle that R214 does not allow at one of the levels `l`, whatever its format and shape. -/
def disallowed (k : Core) (b : Block) (n : Nat) (l : List Nat) : Prop :=
  b.hdr.handles ≤ n ∨ (descOf k b n).valid = false ∨ (descOf k b n).level ∉ l

/-- A handle that the third check of R216 finds bad. -/
def badHandle (k : Core) (b : Block) (c : Cmd) (sender n : Nat) : Prop :=
  (∃ h ∈ named c, h.1 = n ∧ disallowed k b n h.2) ∨ misfit k b c sender n

/-- A format of a matrix command's handle `n` that its pairing does not take (R230). -/
def unpaired (k : Core) (b : Block) (c : Cmd) (p : MxPair) (n : Nat) : Prop :=
  n = c.hx ∧ (descOf k b c.hx).fmt ≠ (mxFormats p).2.2 ∨ n = c.hy ∧ (descOf k b c.hy).fmt ∉ (mxFormats p).1 ∨
    n = c.hz ∧ (descOf k b c.hz).fmt ∉ (mxFormats p).2.1

theorem misfit_mx {p : MxPair} (hop : c.op = .mx p) : misfit k b c sender n ↔ unpaired k b c p n := by
  unfold misfit unpaired
  rw [hop]
  cases p <;> rfl

/-- Handle HX of a `tland` is awaited already, or another arm waits for its message (R233). -/
theorem misfit_tland (hop : c.op = .tland) :
    misfit k b c sender n ↔ cmdShape k b c = some n ∨ armTwin k sender c.hx c.w1 = true ∧ n = c.hx := by
  unfold misfit cmdShape armTwin
  rw [hop]
  simp only [List.any_eq_true, Bool.and_eq_true, decide_eq_true_eq, and_assoc, Option.ite_none_right_eq_some, Option.some.injEq, eq_comm (a := n)]
  tauto

/-- Bits of the unit that XP exchanges, as the rule says it (R225). -/
theorem eight_mul_xp (c : Cmd) : 8 * c.xp = xpBits c := rfl

/-- A copy between two handles: the second shape that R224 and R225 ask of the first. -/
theorem misfit_tt (hop : c.op = .tt) : misfit k b c sender n ↔ cmdShape k b c = some n := by
  unfold misfit cmdShape
  rw [hop]
  by_cases hxp : c.xp = 0
  · simp only [hxp, if_true, Option.ite_none_left_eq_some, Option.some.injEq, eq_comm (a := n)]
    tauto
  · by_cases hqn : (descOf k b c.hy).fmt = 14
    · simp only [hxp, hqn, if_true, if_false, Option.ite_none_left_eq_some, Option.some.injEq, Bool.and_eq_true, decide_eq_true_eq,
        eq_comm (a := n)]
      tauto
    · simp only [hxp, hqn, if_false, Option.ite_none_left_eq_some, Option.some.injEq, Bool.and_eq_true, Bool.or_eq_true, decide_eq_true_eq,
        beq_iff_eq, Bool.not_eq_true', ← Bool.not_eq_true (Desc.scv _), eight_mul_xp, eq_comm (a := n)]
      tauto

/-- `cp.acc` takes f32 accumulators to one of five formats, without scales (R228). -/
theorem misfit_acc {rm : CvtRound} (hop : c.op = .acc rm) : misfit k b c sender n ↔ cmdShape k b c = some n := by
  unfold misfit cmdShape
  rw [hop]
  by_cases hy : (descOf k b c.hy).fmt = 4
  · simp only [hy, ne_eq, not_true_eq_false, if_false, Option.ite_none_left_eq_some, Option.some.injEq, Bool.and_eq_true, Bool.or_eq_true,
      decide_eq_true_eq, beq_iff_eq, Bool.not_eq_true', ← Bool.not_eq_true (Desc.scv _), List.mem_cons, List.not_mem_nil, eq_comm (a := n)]
    tauto
  · simp only [hy, ne_eq, not_false_eq_true, if_true, Option.some.injEq, eq_comm (a := n)]
    tauto

/-- A copy over memory exchanges units of the width of its handle's elements, and none of QN4 (R225). -/
theorem misfit_pitched (hpitch : c.op.pitched = true) : misfit k b c sender n ↔ cmdShape k b c = some n := by
  unfold misfit cmdShape
  rcases pitched_iff.mp hpitch with hop | hop | ⟨_, hop⟩ | ⟨_, hop⟩ | hop
  all_goals
    rw [hop]
    simp only [CmdOp.pitched, Bool.true_and, Bool.and_eq_true, Bool.or_eq_true, decide_eq_true_eq, Option.ite_none_right_eq_some,
      Option.some.injEq, eight_mul_xp, eq_comm (a := n)]
    tauto

theorem misfit_iff (hmx : ∀ p, c.op ≠ .mx p) (hland : c.op ≠ .tland) : misfit k b c sender n ↔ cmdShape k b c = some n := by
  by_cases hpitch : c.op.pitched = true
  · exact misfit_pitched hpitch
  cases hop : c.op
  case mx p => exact absurd hop (hmx p)
  case tland => exact absurd hop hland
  case fill | drain | host | fab => exact absurd (by rw [hop]; rfl) hpitch
  case tt => exact misfit_tt hop
  case acc rm => exact misfit_acc hop
  case tsend | launch =>
    unfold misfit cmdShape
    rw [hop]
    exact ⟨False.elim, nofun⟩
  case gth fab =>
    unfold misfit cmdShape
    rw [hop]
    simp only [Option.ite_none_left_eq_some, Option.some.injEq, eq_comm (a := n)]
    tauto
  case trn ts =>
    cases ts
    case false => exact absurd (by rw [hop]; rfl) hpitch
    case true =>
      unfold misfit cmdShape
      rw [hop]
      simp only [Option.ite_none_left_eq_some, Option.some.injEq, eq_comm (a := n)]
      tauto

/-- A format or shape that the model refuses is one that the statement does. -/
theorem misfit_of_cmdShape (h : cmdShape k b c = some n) : misfit k b c sender n := by
  cases hop : c.op with
  | mx p =>
    unfold cmdShape at h
    rw [hop] at h
    cases h
  | tland => exact (misfit_tland hop).mpr (.inl h)
  | _ => exact (misfit_iff (by simp [hop]) (by simp [hop])).mpr h

/-- A handle with its levels that the model finds within the block's, VALID and of one of the levels is none that is disallowed. -/
theorem not_disallowed {l : List (Nat × List Nat)} {h : Nat × List Nat}
    (hrange : l.find? (fun h => decide (b.hdr.handles ≤ h.1)) = none)
    (hstate : l.find? (fun h => !(descOf k b h.1).valid || !h.2.contains (descOf k b h.1).level) = none) (hmem : h ∈ l) :
    ¬ disallowed k b h.1 h.2 := by
  have hin := List.find?_eq_none.mp hrange h hmem
  have hvalid := List.find?_eq_none.mp hstate h hmem
  simp only [decide_eq_true_eq] at hin
  simp only [Bool.or_eq_true, Bool.not_eq_true', List.contains_eq_mem, decide_eq_false_iff_not] at hvalid
  exact fun hbad => hbad.elim hin hvalid

/-! ## The operands of a matrix command (R230) -/

/-- With handles that R214 allows, the operands of a matrix command are checked for their formats, then for their shapes. -/
theorem mxCheck_eq {p : MxPair} (hop : c.op = .mx p) (hallowed : ∀ h ∈ named c, ¬ disallowed k b h.1 h.2) : mxCheck k b c =
    let x := descOf k b c.hx
    let y := descOf k b c.hy
    let z := descOf k b c.hz
    if x.fmt ≠ (mxFormats p).2.2 then some (0x05, c.hx)
    else if y.fmt ∉ (mxFormats p).1 then some (0x05, c.hy)
    else if z.fmt ∉ (mxFormats p).2.1 then some (0x05, c.hz)
    else if y.cols ≠ z.rows ∨ 128 < z.cols ∨ x.rows ≠ y.rows ∨ x.cols ≠ z.cols then some (0x0B, 0)
    else none := by
  have hnamed : named c = [(c.hx, [1]), (c.hy, [0]), (c.hz, if p = .f64 ∨ p = .f32 then [0] else [0, 2])] := by
    rw [← cmdHandles_eq_named, cmdHandles, hop]
  simp only [hnamed, List.forall_mem_cons, disallowed, not_or, Bool.not_eq_false, not_not] at hallowed
  obtain ⟨⟨-, hxv, hxl⟩, ⟨-, hyv, hyl⟩, ⟨-, hzv, hzl⟩, -⟩ := hallowed
  rw [List.mem_singleton] at hxl hyl
  have hz : ((descOf k b c.hz).level == 0 || !(decide (p = .f64) || decide (p = .f32)) && (descOf k b c.hz).level == 2) = true := by
    cases p <;> simpa using hzl
  simp only [mxCheck, mxOf, hop, hxv, hxl, hyv, hyl, hzv, hz]
  simp

/-- What the operands of a matrix command make of the third and the fourth check of R216. -/
theorem mxCheck_outcome {p : MxPair} (hop : c.op = .mx p) (hallowed : ∀ h ∈ named c, ¬ disallowed k b h.1 h.2) :
    (∀ r, mxCheck k b c = some r → r.1 = 0x05 ∧ unpaired k b c p r.2 ∨ r = (0x0B, 0) ∧ (∀ n, ¬ unpaired k b c p n) ∧ beyond k b c) ∧
    (mxCheck k b c = none → (∀ n, ¬ unpaired k b c p n) ∧ ¬ beyond k b c) := by
  rw [mxCheck_eq hop hallowed]
  have hbeyond : beyond k b c ↔ (descOf k b c.hy).cols ≠ (descOf k b c.hz).rows ∨ 128 < (descOf k b c.hz).cols ∨
      (descOf k b c.hx).rows ≠ (descOf k b c.hy).rows ∨ (descOf k b c.hx).cols ≠ (descOf k b c.hz).cols := by
    unfold beyond
    rw [hop]
  dsimp only
  split
  case isTrue hx => exact ⟨fun r hr => .inl (by cases hr; exact ⟨rfl, .inl ⟨rfl, hx⟩⟩), nofun⟩
  case isFalse hx =>
  split
  case isTrue hy => exact ⟨fun r hr => .inl (by cases hr; exact ⟨rfl, .inr (.inl ⟨rfl, hy⟩)⟩), nofun⟩
  case isFalse hy =>
  split
  case isTrue hz => exact ⟨fun r hr => .inl (by cases hr; exact ⟨rfl, .inr (.inr ⟨rfl, hz⟩)⟩), nofun⟩
  case isFalse hz =>
  have hpaired : ∀ n, ¬ unpaired k b c p n := fun n hn => hn.elim (fun h => hx h.2) fun hn => hn.elim (fun h => hy h.2) fun h => hz h.2
  split
  case isTrue hshape => exact ⟨fun r hr => .inr (by cases hr; exact ⟨rfl, hpaired, hbeyond.mpr hshape⟩), nofun⟩
  case isFalse hshape => exact ⟨nofun, fun _ => ⟨hpaired, mt hbeyond.mp hshape⟩⟩

/-! ## Rows, pitches and addresses (R220, R225, R226, R232) -/

/-- Rows from `row0` on that end behind the last. -/
theorem rowsPast_iff (rows row0 n : Nat) : rows < row0 ∨ rows < row0 + (if n = 0 then rows - row0 else n) ↔
    rows < row0 + (if n = 0 then rows - row0 else n) := by
  split <;> omega

/-- Bytes of a memory row under XP, as the rule says it (R225). -/
theorem xpRowBytes_eq (d : Desc) (c : Cmd) : xpRowBytes d c = d.rows * c.xp := by
  rw [xpRowBytes, xpBits, Nat.mul_div_cancel_left _ (by decide)]

/-- The rows and the pitch of a copy over memory (R220, R225). -/
theorem cmdBound_pitched (hpitch : c.op.pitched = true) : cmdBound k b c = true ↔ beyond k b c := by
  unfold cmdBound beyond rowCount rowHandle memRowBytes
  rcases pitched_iff.mp hpitch with hop | hop | ⟨_, hop⟩ | ⟨_, hop⟩ | hop
  all_goals by_cases hxp : c.xp = 0 <;> simp [hop, hxp, CmdOp.pitched, rowsPast_iff, xpRowBytes_eq]

theorem cmdBound_iff (hmx : ∀ p, c.op ≠ .mx p) (hlisted : ¬ unlisted k b c scope) (hfits : ∀ n, ¬ misfit k b c sender n) :
    cmdBound k b c = true ↔ beyond k b c := by
  by_cases hpitch : c.op.pitched = true
  · exact cmdBound_pitched hpitch
  cases hop : c.op
  case mx p => exact absurd hop (hmx p)
  case fill | drain | host | fab => exact absurd (by rw [hop]; rfl) hpitch
  case tsend | tland | launch =>
    unfold cmdBound beyond
    simp [hop]
  case gth fab =>
    unfold cmdBound beyond
    simp [hop, or_assoc]
  case tt =>
    unfold cmdBound beyond rowCount rowHandle
    by_cases hxp : c.xp = 0 <;> simp [hop, hxp, CmdOp.pitched, rowsPast_iff]
  case acc rm =>
    have hxp : c.xp = 0 := by
      by_contra h
      exact hlisted (by unfold unlisted; rw [hop]; exact .inr (.inl h))
    unfold cmdBound beyond rowCount rowHandle
    simp [hop, hxp, CmdOp.pitched, rowsPast_iff]
  case trn ts =>
    cases ts
    case false => exact absurd (by rw [hop]; rfl) hpitch
    case true =>
      have hxp : c.xp = 0 := by
        by_contra h
        exact hfits c.hy (by unfold misfit; rw [hop]; exact ⟨rfl, .inl h⟩)
      unfold cmdBound beyond rowCount rowHandle
      simp [hop, hxp, CmdOp.pitched, rowsPast_iff]

theorem cmdAlign_iff : cmdAlign k b c = true ↔ misplaced k b c := by
  unfold cmdAlign misplaced elemBytes
  cases hop : c.op with
  | trn ts => cases ts <;> simp [CmdOp.pitched]
  | _ => simp [CmdOp.pitched]

/-- The formats, shapes and ranges of the operands of a matrix command hold where its own check finds nothing. -/
theorem fits_of_mxCheck {p : MxPair} (hop : c.op = .mx p) (hallowed : ∀ h ∈ named c, ¬ disallowed k b h.1 h.2) (hpass : mxCheck k b c = none) :
    (∀ n, ¬ misfit k b c sender n) ∧ (cmdBound k b c = true ↔ beyond k b c) := by
  obtain ⟨hpaired, hwithin⟩ := (mxCheck_outcome hop hallowed).2 hpass
  have hbound : cmdBound k b c = false := by unfold cmdBound; rw [hop]
  exact ⟨fun n => (misfit_mx hop).not.mpr (hpaired n), by simp [hbound, hwithin]⟩

/-- Those of another command hold where its shape does, and no other arm waits for the message of a `tland`. -/
theorem fits_of_cmdShape (hmx : ∀ p, c.op ≠ .mx p) (hlisted : ¬ unlisted k b c scope) (hshape : cmdShape k b c = none)
    (htwin : ¬ (c.op = .tland ∧ armTwin k sender c.hx c.w1 = true)) :
    (∀ n, ¬ misfit k b c sender n) ∧ (cmdBound k b c = true ↔ beyond k b c) := by
  have hfits : ∀ n, ¬ misfit k b c sender n := fun n hn => by
    by_cases hland : c.op = .tland
    · exact ((misfit_tland hland).mp hn).elim (by simp [hshape]) fun h => htwin ⟨hland, h.1⟩
    · simp [(misfit_iff hmx hland).mp hn] at hshape
  exact ⟨hfits, cmdBound_iff hmx hlisted hfits⟩

/-- Handles that are allowed and fit are not bad. -/
theorem no_badHandle (hallowed : ∀ h ∈ named c, ¬ disallowed k b h.1 h.2) (hfits : ∀ n, ¬ misfit k b c sender n) :
    ¬ ∃ n, badHandle k b c sender n :=
  fun ⟨n, hbad⟩ => hbad.elim (fun ⟨h, hmem, he, hno⟩ => hallowed h hmem (he ▸ hno)) (hfits n)

/-! ## All checks (R216) -/

/-- The core that DCORE names, as an arm knows it (R215, R233). -/
def senderOf (s : State) (c : Cmd) : Nat := (groupCore s.mach c.addr).getD (2 ^ 40 + c.addr % 2 ^ 32)

/-- The checks of the statement after those of handles and ranges. -/
def lateChecks (s : State) (t : Site) (c : Cmd) : Checks :=
  [ (misplaced (Say.core s t.i.core) t.b c, fun r => r = (0x04, 0, BitVec.ofNat 64 c.addr)),
    ((c.op = .gth false ∨ c.op = .gth true) ∧ t.b.bind.gchan = none, fun r => r = (0x07, 0, 0)),
    ((∃ p, c.op = .mx p) ∧ t.b.key ≠ c.cr, fun r => r = (0x06, 0, 0)),
    (t.b.hdr.timed = true ∧ if c.op = .tland then t.b.v0 + c.w1 < t.i.cyc + 32 else t.b.v0 + c.w1 < t.i.cyc,
      fun r => r = (0x02, 1, 0)) ]

/-- Those of handles and ranges, and the later ones. -/
def handleChecks (s : State) (t : Site) (c : Cmd) : Checks :=
  (∃ n, badHandle (Say.core s t.i.core) t.b c (senderOf s c) n,
    fun r => ∃ n, badHandle (Say.core s t.i.core) t.b c (senderOf s c) n ∧ r = (0x05, 0, BitVec.ofNat 64 n)) ::
  (beyond (Say.core s t.i.core) t.b c, fun r => r = (0x0B, 0, 0)) :: lateChecks s t c

/-- The checks of R216 in their order. -/
def orderedChecks (s : State) (t : Site) (c : Cmd) : Checks :=
  (c.tgv = true ∧ t.b.hdr.tags ≤ c.tag ∨ c.op ≠ .launch ∧ c.in0v = true ∧ t.b.hdr.tags ≤ c.in0, fun r => r = (0x0B, 0, 0)) ::
  (c.op ≠ .launch ∧ c.phv = true ∧ t.b.hdr.phasers ≤ c.ph, fun r => r = (0x0B, 0, 0)) :: handleChecks s t c

/-- The checks that the statement lists are these, after that of undefined values. -/
theorem refuses_iff {s : State} {t : Site} {r : Nat × Nat × W64} : Refuses s t c scope r ↔
    FirstRaises ((unlisted (Say.core s t.i.core) t.b c scope, fun r => r = (0x01, 4, 0)) :: orderedChecks s t c) r := by
  unfold Refuses FirstRaises orderedChecks handleChecks lateChecks badHandle disallowed senderOf
  exact Iff.rfl

/-- A bad handle raises HANDLE with its number. -/
theorem decides_badHandle {s : State} {t : Site} (hbad : badHandle (Say.core s t.i.core) t.b c (senderOf s c) n) :
    Decides (handleChecks s t c) (some (0x05, 0, BitVec.ofNat 64 n)) :=
  .head ⟨n, hbad⟩ ⟨n, hbad, rfl⟩

/-- The model makes the checks of the statement in their order, of a command whose start its own descriptor names. -/
theorem cmdFault_decides {s : State} {t : Site} (hstart : t.timed = true → c.start = t.b.v0 + c.w1)
    (hlisted : ¬ unlisted (Say.core s t.i.core) t.b c scope) :
    Decides (orderedChecks s t c) (cmdFault (enter s) t c (senderOf s c) c.w1) := by
  have hcore : (enter s).core t.i.core = Say.core s t.i.core := rfl
  unfold cmdFault
  rw [hcore, cmdHandles_eq_named]
  change Decides _ (if _ then _ else if _ then _ else _)
  refine .check tagBeyond_iff rfl fun _ => .check phaserBeyond_iff rfl fun _ => ?_
  split
  case h_1 h hfound =>
    exact decides_badHandle (.inl ⟨h, List.mem_of_find?_eq_some hfound, rfl, .inl (by simpa using List.find?_some hfound)⟩)
  case h_2 hrange =>
  split
  case h_1 h hfound =>
    exact decides_badHandle (.inl ⟨h, List.mem_of_find?_eq_some hfound, rfl, .inr (by simpa using List.find?_some hfound)⟩)
  case h_2 hstate =>
  have hallowed : ∀ h ∈ named c, ¬ disallowed (Say.core s t.i.core) t.b h.1 h.2 := fun h hmem => not_disallowed hrange hstate hmem
  split
  case h_1 n hshape => exact decides_badHandle (.inr (misfit_of_cmdShape hshape))
  case h_2 hshape =>
  split
  case h_1 r hmx =>
    split at hmx
    case h_1 p hop =>
      rcases (mxCheck_outcome hop hallowed).1 r hmx with ⟨hcode, hn⟩ | ⟨rfl, hn, hbeyond⟩
      · rw [hcode]
        exact decides_badHandle (.inr ((misfit_mx hop).mpr hn))
      · exact .skip (no_badHandle hallowed fun n => (misfit_mx hop).not.mpr (hn n)) (.head hbeyond rfl)
    case h_2 => cases hmx
  case h_2 hmx =>
  split
  case isTrue htwin => exact decides_badHandle (.inr ((misfit_tland htwin.1).mpr (.inr ⟨htwin.2, rfl⟩)))
  case isFalse htwin =>
  have hrest : (∀ n, ¬ misfit (Say.core s t.i.core) t.b c (senderOf s c) n) ∧
      (cmdBound (Say.core s t.i.core) t.b c = true ↔ beyond (Say.core s t.i.core) t.b c) := by
    split at hmx
    case h_1 p hop => exact fits_of_mxCheck hop hallowed hmx
    case h_2 hop => exact fits_of_cmdShape hop hlisted hshape htwin
  refine .skip (no_badHandle hallowed hrest.1) <| .check hrest.2 rfl fun _ => .check cmdAlign_iff rfl fun _ => .check ?gather rfl fun _ =>
    .check ?key rfl fun _ => .check ?late rfl fun _ => .nil
  case gather =>
    cases c.op with
    | gth fab => cases fab <;> simp
    | _ => simp
  case key => cases c.op <;> simp
  case late =>
    rw [Bool.and_eq_true]
    refine and_congr_right fun htimed => ?_
    rw [hstart htimed]
    split <;> simp

/-- What the checks of R213 and R216 decide of an issue is its refusal. -/
theorem refusal_decides (s : State) (t : Site) (op : CmdOp) (d a b : Reg) :
    Decides ((unlisted (Say.core s t.i.core) t.b (command s t op d a b) ((t.k.uni d.toNat).toNat / 2 ^ 20 % 8), fun r => r = (0x01, 4, 0)) ::
      orderedChecks s t (command s t op d a b)) (refusal s t op d a b) := by
  refine .check cmdUndef_iff rfl fun hlisted => cmdFault_decides (fun htimed => ?_) hlisted
  exact if_pos htimed

/-- The fields of a command are the bits of its words. -/
theorem describes_command (s : State) (t : Site) (op : CmdOp) (d a b : Reg) : Describes t d a b (command s t op d a b) := by
  have haddr : (t.k.uniPair a.toNat).toNat = (t.k.uni a.toNat).toNat + 2 ^ 32 * (t.k.uni (a.toNat + 1)).toNat := by
    rw [Course.uniPair, BitVec.toNat_ofNat]
    omega
  exact ⟨rfl, rfl, rfl, rfl, rfl, rfl, rfl, rfl, rfl, rfl, rfl, rfl, rfl, rfl, rfl, rfl, rfl, rfl, rfl, rfl, haddr, rfl, rfl⟩

end Sys2Proof.Machine

/-! SUPPORT. What an engine command at its issue makes of the machine (R216, R232, R233): it joins its core's commands, a `tland` arms its
landing, and a `tsend` without effect sends a cancel (R53). -/

namespace Sys2Proof.Machine

open Sys2Proof.Say

variable {s : State} {t : Site} {w w' : World} {c : Nat}

/-! ## What an accepted command leaves -/

/-- What the issue of an accepted command is stated of: the courses, blocks, tiles, tags, commands and arms of a core. -/
structure Engines where
  courses : Tab Course
  blocks : Tab Block
  tiles : Tab Desc
  tags : W64
  cmds : List Cmd
  arms : List Arm

/-- Those of a core. -/
def Core.engines (k : Core) : Engines where
  courses := k.courses
  blocks := k.blocks
  tiles := k.tiles
  tags := k.tags
  cmds := k.cmds
  arms := k.arms

variable {e : Engines}

/-- A world with an empty port, in which nothing was written, and whose core `c` has the engines `e`. -/
structure Holds (w : World) (c : Nat) (e : Engines) : Prop where
  out : w.out = []
  port : w.mach.cur = none
  core : (w.core c).engines = e

/-- The engines of the issuing core when an instruction begins: its course has passed on. -/
def Site.engines (s : State) (t : Site) : Engines :=
  { (Say.core s t.i.core).engines with courses := ((beginIssue t (enter s)).core t.i.core).courses }

theorem holds_beginIssue (s : State) (t : Site) : Holds (beginIssue t (enter s)) t.i.core (t.engines s) := by
  refine ⟨rfl, rfl, ?_⟩
  rw [(passes_beginIssue t (enter s)).own]
  rfl

/-- A change of what is no core, nor the port. -/
theorem Holds.ofCores (h : Holds w c e) (hout : w'.out = w.out) (hport : w'.mach.cur = w.mach.cur) (hcores : w'.mach.cores = w.mach.cores) :
    Holds w' c e where
  out := hout.trans h.out
  port := hport.trans h.port
  core := by
    have hcore : w'.core c = w.core c := by rw [World.core, hcores]; rfl
    rw [hcore]
    exact h.core

/-- A change of the core, as it changes its engines. -/
theorem Holds.modCore (h : Holds w c e) {f : Core → Core} {g : Engines → Engines} (hf : ∀ k, (f k).engines = g k.engines) :
    Holds (w.modCore c f) c (g e) where
  out := h.out
  port := h.port
  core := by rw [core_modCore_same, hf, h.core]

/-- A change of any core that leaves its engines. -/
theorem Holds.modCoreKept (h : Holds w c e) (d : Nat) {f : Core → Core} (hf : ∀ k, (f k).engines = k.engines) : Holds (w.modCore d f) c e := by
  by_cases hd : d = c
  · subst hd
    exact h.modCore (g := id) hf
  · exact ⟨h.out, h.port, by rw [core_modCore_other _ _ (Ne.symm hd)]; exact h.core⟩

theorem Holds.foldl {α : Type} {step : World → α → World} (hstep : ∀ w x, Holds w c e → Holds (step w x) c e) (l : List α)
    (h : Holds w c e) : Holds (l.foldl step w) c e := by
  induction l generalizing w with
  | nil => exact h
  | cons x l ih => exact ih (hstep w x h)

/-! ## Rails (R91, R351) -/

theorem Holds.modQuad (h : Holds w c e) (d q : Nat) (f : Quadrant → Quadrant) : Holds (modQuad w d q f) c e := h.ofCores rfl rfl rfl

theorem Holds.noteLevel (h : Holds w c e) (d q l : Nat) (now : Bool) : Holds (noteLevel w d q l now) c e := by
  refine h.foldl (fun w i hw => ?_) _
  dsimp only
  split
  · exact hw.modCoreKept _ (f := fun x => { x with arr := _ }) fun _ => rfl
  · exact hw

theorem Holds.steerRails (h : Holds w c e) (d q : Nat) : Holds (steerRails w d q) c e := by
  unfold Machine.steerRails
  dsimp only
  split
  · exact h.modQuad ..
  split
  · exact (h.modQuad ..).noteLevel ..
  split
  · split
    · exact h
    · exact h.modQuad ..
  · exact (h.ofCores (w' := w.step) rfl rfl rfl).modQuad ..

/-! ## A command joins its core (R216) -/

/-- A tag that a command names is cleared. -/
def Engines.clearTag (e : Engines) (b : Block) (n : Nat) : Engines := { e with tags := e.tags &&& ~~~BitVec.ofNat 64 (2 ^ (b.bind.tagb + n)) }

/-- A command joins, and its tag is cleared. -/
def Engines.addCmd (e : Engines) (b : Block) (x : Cmd) : Engines :=
  { e with tags := if x.tgv then (e.clearTag b x.tag).tags else e.tags, cmds := e.cmds ++ [x] }

theorem Holds.clearTag {b : Block} {o : Nat} (h : Holds w c e) (hb : e.blocks.find o = some b) (n : Nat) (host : Bool) :
    Holds (clearTag w c o n host) c (e.clearTag b n) := by
  have hblock : w.block? c o = some b := by rw [← hb, ← h.core]; rfl
  simp only [Machine.clearTag, hblock]
  exact h.modCore (g := fun e => e.clearTag b n) fun _ => rfl

theorem Holds.addCmd (h : Holds w t.i.core e) (hb : e.blocks.find t.i.owner = some t.b) (x : Cmd) :
    Holds (addCmd t x w) t.i.core (e.addCmd t.b x) := by
  have hjoins (host : Bool) : Holds ((if x.tgv then Machine.clearTag w t.i.core t.i.owner x.tag host else w).modCore t.i.core fun k =>
      { k with cmds := k.cmds ++ [x], nextId := k.nextId + 1 }) t.i.core (e.addCmd t.b x) := by
    unfold Engines.addCmd
    split
    · exact (h.clearTag hb _ _).modCore (g := fun e => { e with cmds := e.cmds ++ [x] }) fun _ => rfl
    · exact h.modCore (g := fun e => { e with cmds := e.cmds ++ [x] }) fun _ => rfl
  unfold Machine.addCmd
  dsimp only
  split
  · split
    · exact (hjoins _).steerRails ..
    · exact hjoins _
  · exact hjoins _

/-! ## Messages (R50, R53, R233) -/

/-- `w'` is `w` with messages on their way, and with free values taken for them. -/
structure Posts (w w' : World) : Prop where
  out : w'.out = w.out
  mach : w'.mach = { w.mach with cores := w'.mach.cores, freeCtr := w'.mach.freeCtr }
  cores : ∀ c, w'.core c = { w.core c with msgs := (w'.core c).msgs, nextId := (w'.core c).nextId }

theorem Posts.refl (w : World) : Posts w w := ⟨rfl, rfl, fun _ => rfl⟩

theorem posts_postMsg (w : World) (r : Nat) (m : Msg) : Posts w (postMsg w r m) where
  out := rfl
  mach := rfl
  cores c := by
    unfold postMsg
    by_cases hc : c = r
    · subst hc; rw [core_modCore_same]; rfl
    · rw [core_modCore_other _ _ hc]; rfl

theorem posts_sendCancel (w : World) (core : Nat) (x : Cmd) : Posts w (sendCancel core x w) := by
  unfold sendCancel
  split
  · exact .refl w
  · exact posts_postMsg ..

theorem Holds.posts (h : Holds w c e) (hp : Posts w w') : Holds w' c e where
  out := hp.out.trans h.out
  port := by rw [hp.mach]; exact h.port
  core := by rw [hp.cores c]; exact h.core

theorem Holds.sendCredit (h : Holds w c e) (core : Nat) (a : Arm) : Holds (sendCredit w core a) c e := by
  unfold Machine.sendCredit
  split
  · exact h
  · exact h.modCoreKept _ fun _ => rfl

/-- An arm with room sends its credit. -/
theorem Holds.creditIf (h : Holds w c e) (room : Bool) (core : Nat) (a : Arm) :
    Holds (if room then Machine.sendCredit w core a else w) c e := by
  split
  · exact h.sendCredit core a
  · exact h

theorem Holds.releaseArms (h : Holds w c e) (core : Nat) : Holds (releaseArms core w) c e := by
  refine h.foldl (fun w a hw => ?_) _
  split
  · exact hw.posts (posts_postMsg ..)
  · exact hw

/-! ## A landing is armed (R48, R50, R233) -/

/-- The descriptor of a handle. -/
def Engines.desc (e : Engines) (b : Block) (n : Nat) : Desc := (e.tiles.find (b.bind.hb + n)).getD {}

/-- A `tland` joins, started as it arms its landing, and its handle has LAND set. -/
def Engines.land (e : Engines) (t : Site) (x : Cmd) (y : Arm) : Engines :=
  { e.addCmd t.b { x with st := .away, s := some t.i.cyc } with
    tiles := e.tiles.put (t.b.bind.hb + x.hx) { e.desc t.b x.hx with land := true, stamp := x.w1 }
    arms := e.arms ++ [y] }

theorem Holds.desc (h : Holds w c e) (b : Block) (n : Nat) : descOf (w.core c) b n = e.desc b n := by
  rw [← h.core]; rfl

theorem Holds.pushArm (h : Holds w c e) (a : Arm) (room : Bool) (size : Nat) :
    Holds (w.modCore c fun k => { k with
        arms := k.arms ++ [a], nextId := k.nextId + 1, landUsed := if room then k.landUsed + size else k.landUsed }) c
      { e with arms := e.arms ++ [a] } :=
  h.modCore (g := fun e => { e with arms := e.arms ++ [a] }) fun _ => rfl

theorem Holds.modDesc (h : Holds w c e) (b : Block) (n : Nat) (f : Desc → Desc) :
    Holds (modDesc w c b n f) c { e with tiles := e.tiles.put (b.bind.hb + n) (f (e.desc b n)) } :=
  h.modCore (g := fun e => { e with tiles := e.tiles.put (b.bind.hb + n) (f (e.desc b n)) }) fun _ => rfl

/-- A `tland` for which there is room, or which may wait for it in a free launch, arms its landing and sets LAND. -/
theorem Holds.armLanding (h : Holds w t.i.core e) (hb : e.blocks.find t.i.owner = some t.b) (x : Cmd)
    (hmay : t.timed = false ∨ (w.core t.i.core).landUsed + (e.desc t.b x.hx).bytes ≤ 65536) :
    ∃ y : Arm, Holds (armLanding t x w) t.i.core (e.land t x y) ∧
      y.owner = t.i.owner ∧ y.hnum = x.hx ∧ y.stamp = x.w1 ∧ y.size = (e.desc t.b x.hx).bytes ∧
      (y.room = true ↔ (w.core t.i.core).landUsed + (e.desc t.b x.hx).bytes ≤ 65536) := by
  have hgo : (t.timed && !decide ((w.core t.i.core).landUsed + (e.desc t.b x.hx).bytes ≤ 65536)) = false := by
    rcases hmay with hfree | hroom
    · rw [hfree, Bool.false_and]
    · rw [decide_eq_true hroom, Bool.not_true, Bool.and_false]
  have hcmd := h.addCmd hb { x with st := .away, s := some t.i.cyc }
  unfold Machine.armLanding
  simp only [h.desc, Config.landingBytes, hgo, Bool.false_eq_true, if_false]
  have hland (a : Arm) (room : Bool) (size : Nat) :=
    ((hcmd.pushArm a room size).modDesc t.b x.hx fun d => { d with land := true, stamp := x.w1 }).creditIf room t.i.core a
  exact ⟨_, (hland _ _ _).releaseArms _, rfl, rfl, rfl, rfl, decide_eq_true_iff⟩

/-! ## The answer of an engine command -/

/-- What follows a fault of a command at its issue: a `tsend` sends a cancel (R53). -/
def afterFault (op : CmdOp) (t : Site) (x : Cmd) (w : World) : World := if op = .tsend then sendCancel t.i.core x w else w

/-- What an accepted command does: a `tland` arms its landing (R233). -/
def accept (op : CmdOp) : Site → Cmd → World → World := if op = .tland then armLanding else addCmd

variable {i : Instr} {op : CmdOp} {d a b : Reg}

theorem exec_of_engineForm (hi : engineForm i = some (op, d, a, b)) (s : State) : exec i s = issueCmd op d a b (afterFault op) (accept op) s := by
  cases i <;> cases hi <;> rfl

/-- The record of a command that faults at its issue. -/
def issueRecord (t : Site) (x : Cmd) (r : Nat × Nat × W64) : FaultRec :=
  cmdRecord t.b x r.1 r.2.1 2 r.2.2 (.once t.i.cr t.i.slot true t.i.cyc [])

/-- Where it executes, a command that is refused faults, and another is accepted. -/
theorem exec_engine (hi : engineForm i = some (op, d, a, b)) (h : At s t) : exec i s = .next (commit s (if once t = true then
      (refusal s t op d a b).elim (accept op t (command s t op d a b) (beginIssue t (enter s))) fun r =>
        afterFault op t (command s t op d a b) (takeFault (beginIssue t (enter s)) t.i.core (issueRecord t (command s t op d a b) r))
    else beginIssue t (enter s))) := by
  have hp := passes_beginIssue t (enter s)
  have hid : ((beginIssue t (enter s)).core t.i.core).nextId = (Say.core s t.i.core).nextId := by rw [hp.own]; rfl
  have hundef (x : Cmd) (n : Nat) : cmdUndef ((beginIssue t (enter s)).core t.i.core) t.b x n = cmdUndef (Say.core s t.i.core) t.b x n := by
    rw [hp.own]; rfl
  have hfault (x : Cmd) (n m : Nat) : cmdFault (beginIssue t (enter s)) t x n m = cmdFault (enter s) t x n m := by
    unfold cmdFault
    rw [hp.own]; rfl
  have hgroup (n : Nat) : groupCore (beginIssue t (enter s)).mach n = groupCore s.mach n := by rw [hp.mach]; rfl
  rw [exec_of_engineForm hi, issueCmd, issuePlain_run h]
  simp only [site_once, hid, hundef, hfault, hgroup]
  cases hon : once t with
  | false => rfl
  | true =>
    unfold refusal command
    dsimp only
    simp only [Bool.not_true, Bool.false_eq_true, if_false, if_true]
    split
    · rfl
    · split
      · next hr => rw [hr]; rfl
      · next hr => rw [hr]; rfl

/-! ## A command that faults (R53, R216) -/

/-- A command faults with its own record (R325). -/
theorem onceFaults_command (h : At s t) (r : Nat × Nat × W64) : OnceFaults s
    (commit s (takeFault (beginIssue t (enter s)) t.i.core (issueRecord t (command s t op d a b) r))) t r.1 r.2.1 2 r.2.2 :=
  onceFaults_of_record h (issueRecord t (command s t op d a b) r) ⟨rfl, rfl, rfl, rfl, rfl⟩ (fun _ _ => rfl) ⟨rfl, rfl⟩

/-- A message is no part of the record of a fault. -/
theorem recorded_posts {x : FaultRec} (h : Recorded s (commit s w) c x) (hp : Posts w w') : Recorded s (commit s w') c x := by
  have hcore : Say.core (commit s w') c = 
      { Say.core (commit s w) c with msgs := (Say.core (commit s w') c).msgs, nextId := (Say.core (commit s w') c).nextId } := hp.cores c
  have hfaults : (Say.core (commit s w') c).faults = (Say.core (commit s w) c).faults := by rw [hcore]
  have hwaiting : (Say.core (commit s w') c).waiting = (Say.core (commit s w) c).waiting := by rw [hcore]
  have hsash (i : Nat) : Say.sash (commit s w') i = Say.sash (commit s w) i := by
    change w'.mach.sashes.find i = w.mach.sashes.find i
    rw [hp.mach]
  refine ⟨?_, ?_, ?_, ?_, h.stamp⟩
  · rw [hfaults, hwaiting]; exact h.again
  · rw [hfaults, hwaiting]; exact h.queued
  · rw [hfaults, hwaiting]; exact h.full
  · simp only [hsash]; exact h.paused

/-- An issue that faults may also send messages, where the instruction posts them. -/
theorem faultsOnce_posts {p : Prop} {code sub src : Nat} {info : W64} (h : OnceFaults s (commit s w) t code sub src info) (hp : Posts w w')
    (hsilent : ¬ p → w' = w) : FaultsOnce p s (commit s w') t code sub src info := by
  have hcore (n : Nat) : Say.core (commit s w') n =
      { Say.core (commit s w) n with msgs := (Say.core (commit s w') n).msgs, nextId := (Say.core (commit s w') n).nextId } := hp.cores n
  have hmach : (commit s w').mach = { (commit s w).mach with cores := (commit s w').mach.cores, freeCtr := (commit s w').mach.freeCtr } := hp.mach
  have hcourse (o r : Nat) : Say.course (commit s w') t.i.core o r = Say.course (commit s w) t.i.core o r := by
    change (Say.core (commit s w') t.i.core).courses.find _ = _
    rw [hcore]
    rfl
  obtain ⟨x, hx, hfields⟩ := h.record
  exact {
    bytes := by rw [SameBytes, commit_mem, hp.out]; exact h.bytes
    port := by rw [hmach]; exact h.port
    own := (hcourse _ _).trans h.own
    others := fun o r hne => (hcourse o r).trans (h.others o r hne)
    kept := by rw [hcore]; exact h.kept
    seq := by rw [hcore]; exact h.seq
    cores := fun n hn => by rw [hcore n, h.cores n hn]
    msgs := fun hno => by rw [hsilent hno]; exact h.msgs id
    mach := by rw [hmach, h.mach]
    sashes := fun i hi => by
      rw [← h.sashes i hi]
      change w'.mach.sashes.find i = w.mach.sashes.find i
      rw [hp.mach]
    record := ⟨x, recorded_posts hx hp, hfields⟩ }

/-- Of a fault of an engine command only a `tsend` sends messages. -/
theorem faultsOnce_afterFault (h : At s t) (r : Nat × Nat × W64) : FaultsOnce (op = .tsend) s (commit s (afterFault op t (command s t op d a b)
    (takeFault (beginIssue t (enter s)) t.i.core (issueRecord t (command s t op d a b) r)))) t r.1 r.2.1 2 r.2.2 := by
  unfold afterFault
  by_cases hop : op = .tsend
  · rw [if_pos hop]
    exact faultsOnce_posts (onceFaults_command h r) (posts_sendCancel ..) (absurd hop)
  · rw [if_neg hop]
    exact faultsOnce_posts (onceFaults_command h r) (.refl _) fun _ => rfl

/-! ## A command that is accepted (R216, R233) -/

theorem site_engines_block (h : At s t) : (t.engines s).blocks.find t.i.owner = some t.b := (siteOf_some h.1).2.1

/-- Back in a state: nothing was written, the port is empty, and the issuing course has passed on. -/
theorem Holds.issued (h : Holds w t.i.core e) (he : e.courses = (t.engines s).courses) : SameBytes s (commit s w) ∧ (commit s w).mach.cur = none ∧
    course (commit s w) t.i.core t.i.owner t.i.cr = some (issuedCourse t) := by
  refine ⟨sameBytes_commit h.out, h.port, ?_⟩
  rw [← (passes_beginIssue t (enter s)).course]
  change (w.core t.i.core).engines.courses.find _ = _
  rw [h.core, he]
  rfl

/-- A timed landing without room raises TIMING with subcode 2 (R50). -/
theorem armLanding_full {x : Cmd} (htimed : t.timed = true)
    (hfull : ¬ (w.core t.i.core).landUsed + (descOf (w.core t.i.core) t.b x.hx).bytes ≤ 65536) :
    armLanding t x w = takeFault w t.i.core (issueRecord t x (0x02, 5, 0)) := by
  have hstops : (t.timed && !decide ((w.core t.i.core).landUsed + (descOf (w.core t.i.core) t.b x.hx).bytes ≤ 65536)) = true := by
    rw [htimed, decide_eq_false hfull]
    rfl
  exact if_pos hstops

end Sys2Proof.Machine

namespace Sys2Proof.Proofs

open Sys2Proof.Machine Sys2Proof.Say

/-- Settles O54: the model makes the checks of R216 in the statement's order (`refusal_decides`), and an issue whose command passes them
leaves its core's engines with that command more (`Holds`). -/
theorem engineIssue : Obligations.EngineIssue := by
  refine ⟨fun i op d a b s t _ _ => ?checks, fun i op d a b s t hi hat => ⟨_, exec_engine hi hat, fun hoff => ?off, fun hon r hr => ?refused,
    fun hon hnone hop => ?joined, fun hon hnone hop => ?landing⟩⟩
  case checks =>
    have hdec := refusal_decides s t op d a b
    exact ⟨describes_command .., rfl, rfl, fun r hr => refuses_iff.mpr (hdec.raises r hr),
      fun hnone r hr => hdec.passes hnone r (refuses_iff.mp hr)⟩
  case off =>
    rw [hoff, if_neg Bool.false_ne_true]
    exact moves_beginIssue s t
  case refused =>
    rw [if_pos hon, hr]
    exact faultsOnce_afterFault hat r
  case joined =>
    rw [if_pos hon, hnone, Option.elim_none, accept, if_neg hop]
    have h := (holds_beginIssue s t).addCmd (site_engines_block hat) (command s t op d a b)
    obtain ⟨hbytes, hport, hcourse⟩ := h.issued (s := s) rfl
    exact ⟨hbytes, hport, hcourse, congrArg Engines.blocks h.core, congrArg Engines.tiles h.core, congrArg Engines.arms h.core,
      congrArg Engines.cmds h.core, congrArg Engines.tags h.core⟩
  case landing =>
    rw [if_pos hon, hnone, Option.elim_none, accept, if_pos hop]
    have hbegun := holds_beginIssue s t
    have hused : ((beginIssue t (enter s)).core t.i.core).landUsed = (Say.core s t.i.core).landUsed := by
      rw [(passes_beginIssue t (enter s)).own]; rfl
    refine ⟨fun htimed hfull => ?full, fun hmay => ?armed⟩
    case full =>
      rw [armLanding_full htimed (by rw [hused, descOf_beginIssue]; exact hfull)]
      exact onceFaults_command hat (0x02, 5, 0)
    case armed =>
      obtain ⟨y, h, howner, hnum, hstamp, hsize, hroom⟩ := hbegun.armLanding (site_engines_block hat) (command s t op d a b)
        (by rw [hused]; exact hmay)
      obtain ⟨hbytes, hport, hcourse⟩ := h.issued (s := s) rfl
      rw [hused] at hroom
      exact ⟨hbytes, hport, hcourse, congrArg Engines.cmds h.core, congrArg Engines.tags h.core, congrArg Engines.tiles h.core,
        y, congrArg Engines.arms h.core, howner, hnum, hstamp, hsize, hroom⟩

end Sys2Proof.Proofs
